-- ==== Sys2Proof/Word.lean ====
section
/-! DEFINITION. The word types of the ZV1 (R14, R15, R27): bytes, halves, words and 64-bit registers. -/

namespace Sys2Proof

abbrev Byte := BitVec 8
abbrev W16 := BitVec 16
abbrev W32 := BitVec 32
/-- A register, a bundle slot, a lane of the ledger (R15, R141). -/
abbrev W64 := BitVec 64
/-- A SHA-384 digest (R376). -/
abbrev Digest := BitVec 384

end Sys2Proof
end

