-- ==== Sys2Proof/Syntax.lean ====
section
/-! DEFINITION. The commands of the block: one constructor of Instr per row of spec/opcode_table.json, and the
messages some of them carry. Instructions of a core carry the core only: their operands are the slot word of the
bundle that BUNDLE_FETCH put into the core's issue buffer (R141, R145, R149 to R151). -/

namespace Sys2Proof

/-- Physical core p = 9 x cluster + slot (R30). -/
abbrev CoreId := Fin 288
/-- Cluster C0 to C31 (R22). -/
abbrev ClusterId := Fin 32
/-- Job 0 to 15 (R39). -/
abbrev JobId := Fin 16
/-- HBM3E stack (R32). -/
abbrev StackId := Fin 8
/-- Tether link T0 to T23 (R294). -/
abbrev LinkId := Fin 24
/-- Ring pair (R386). -/
abbrev PairId := Fin 64
/-- Hawser connection (R329). -/
abbrev ConnId := Fin 64
/-- Ports E0 to E7, and MGMT as 8 (R318, R378 PORT record). -/
abbrev PortId := Fin 9

/-- A 16-byte control message of a frame or of a CTRL packet (Table 10.5, Table 11.7, Table 15.3), by its bytes:
TYPE, bytes 1 to 7 little-endian, bytes 8 to 15 little-endian. -/
structure CtlMsg where
  type : Byte
  lo   : BitVec 56
  hi   : W64
  deriving DecidableEq, Repr

/-- A symbol of a tether lane: level -3, -1, +1 or +3 (R297). -/
inductive Pam4 where
  | m3 | m1 | p1 | p3
  deriving DecidableEq, Repr

/-- How a link's cable brings its lanes: their order reversed, and the lanes whose polarity is inverted (R297). -/
structure Wiring where
  reversed : Bool
  inverted : Byte
  deriving DecidableEq, Repr

/-- What an Ethernet frame carries to its protocol (R319, R320): of a RoCEv2 packet its QP and opcode. -/
inductive EthBody where
  | arp | nd | icmpEcho | udp (dport : W16) | roce (qp : BitVec 12) (opcode : Byte) | lldp | ptp | otherIp | fragment
  deriving DecidableEq, Repr

/-- An Ethernet frame as its port sees it (R319): FCS verdict, destination address, VLAN, length, class, body. -/
structure EthFrame where
  fcsOk   : Bool
  dst     : BitVec 48
  tagged  : Bool
  vlan    : BitVec 12
  len     : Nat
  tc      : Fin 4
  body    : EthBody
  deriving DecidableEq, Repr

/-- Where a control message came from: a tether link or a Hawser connection (R437). -/
inductive MsgSrc where
  | link (l : LinkId)
  | conn (k : ConnId)
  deriving DecidableEq, Repr

/-- A sender whose pace R322 governs: a QP or a connection. -/
inductive Flow where
  | qp (n : BitVec 12)
  | conn (k : ConnId)
  deriving DecidableEq, Repr

/-- Which of a port's sub-ports, and which of its traffic classes, a pause frame names (R321). -/
structure PortClass where
  sub : Fin 2
  tc  : Fin 4
  deriving DecidableEq, Repr

/-- Which sub-port an echo request reached, and who sent it (R320). -/
structure EchoFrom where
  sub  : Fin 2
  peer : BitVec 128
  deriving DecidableEq, Repr

/-- The QP that a request's packets name, and whether one of them was marked CE (R322, R323). -/
structure RoceHead where
  qp     : BitVec 12
  ceMark : Bool
  deriving DecidableEq, Repr

/-- The data of a Send, and whether it asks to invalidate a region (R323). -/
structure SendMsg where
  data       : List Byte
  invalidate : Bool
  deriving DecidableEq, Repr

/-- A Hawser packet as it arrives, by its bytes, and whether it was marked CE (R322, R330). -/
structure HwDatagram where
  bytes  : List Byte
  ceMark : Bool
  deriving DecidableEq, Repr

/-- Connection management messages of QP1 (Table 11.3). -/
inductive CmKind where
  /-- mtu: the path MTU that it asks for, 1,024 x 2^mtu bytes -/
  | req (mtu : Fin 3)
  | rep | rtu | rej | dreq | drep
  deriving DecidableEq, Repr

/-- A message of QP1 and its sender's address. -/
structure CmMsg where
  kind : CmKind
  peer : BitVec 128
  deriving DecidableEq, Repr

/-- What the traffic of ARP or Neighbor Discovery says (R320): an address (IPv4 as ::ffff:a.b.c.d) and its MAC, and
whether it asks for one of the port's own addresses. -/
structure NeighbourMsg where
  addr    : BitVec 128
  mac     : BitVec 48
  request : Bool
  deriving DecidableEq, Repr

/-- A PTP event message as it passes a port (R326): sent or received, of one step or two, the port's clock at that moment, and
of a received one the master's departure time, from the message itself or its follow-up, and the mean path delay, all in ns. -/
structure PtpMsg where
  sent    : Bool
  oneStep : Bool
  raw     : W64
  origin  : W64
  delay   : W64
  deriving DecidableEq, Repr

/-- The firmware cores (Table 14.1). -/
inductive FwCore where
  | sec | pwr | sch | ccc (c : ClusterId)
  deriving DecidableEq, Repr

/-- Why a firmware core crashed (R410, Contrail 0x60). -/
inductive CrashCause where
  | exception | memory | watchdog
  deriving DecidableEq, Repr

/-- The PLLs whose lock CLK.STATUS reports (Table 17.7, Table 17.11). -/
inductive Pll where
  | aon | ref | hub | core (d : Fin 4) | hbm
  deriving DecidableEq, Repr

/-- The PWRGOOD group pins (R505). -/
inductive PgGroup where
  | hub | cmp | hbm
  deriving DecidableEq, Repr

/-- The parts of the full test at chip reset (Table 16.3). -/
inductive TestPart where
  | cluster (c : ClusterId) | hub | stack (n : StackId)
  deriving DecidableEq, Repr

/-- One failure that a full test found (Table 16.1): the core, the unit in it and the row. -/
inductive TestFail where
  | bank (p : CoreId) (bank : Nat)
  | row (p : CoreId) (array : Fin 4) (row : Nat)
  | coreMemory (p : CoreId) (bundle : Bool)
  | coreLogic (p : CoreId) (column : Bool)
  | clusterMemory (c : ClusterId)
  | replayBuffer (l : LinkId)
  | hubMemory
  | granule (n : StackId) (offset : Nat)
  deriving DecidableEq, Repr

/-- The images of R400 to R408. -/
inductive ImageKind where
  | bundle | braid | key
  deriving DecidableEq, Repr

/-- A regulator transaction's answer (R511, R512): the value read, or no acknowledge (or PEC failure). -/
inductive PmbAnswer where
  | value (v : W16) | failed
  deriving DecidableEq, Repr

/-- The protocols of network boot (R342, Contrail 0x64). -/
inductive BootProto where
  | dhcp4 | dhcp6 | tftp
  deriving DecidableEq, Repr

/-- What a boot server answers (R342, R381): DHCPv4's address, options 66 and 67, and sub-option 1 of option 43; DHCPv6's
address, boot-file URL, and sub-option 1 of option 17; TFTP's accepted block size and transfer size. -/
inductive BootAnswer where
  | lease4 (addr : W32) (server file : List Byte) (braid : Option (List Byte))
  | lease6 (addr : BitVec 128) (url : List Byte) (braid : Option (List Byte))
  | file (blksize tsize : Option Nat)
  deriving DecidableEq, Repr

/-- The commands. Each names its row; operands are the units and values the row acts on. -/
inductive Instr where
  | bundleFetch (p : CoreId)
  | nop (p : CoreId) (slot : Fin 4)
  | ldi (p : CoreId)
  | scal (p : CoreId)
  | loop (p : CoreId)
  | endl (p : CoreId)
  | br (p : CoreId)
  | brz (p : CoreId)
  | call (p : CoreId)
  | ret (p : CoreId)
  | tsig (p : CoreId)
  | twait (p : CoreId)
  | qwait (p : CoreId)
  | splice (p : CoreId)
  | flags (p : CoreId)
  | halt (p : CoreId)
  | time (p : CoreId)
  | entropy (p : CoreId)
  | ldw (p : CoreId)
  | ldwT (p : CoreId)
  | swapw (p : CoreId)
  | mma (p : CoreId)
  | accld (p : CoreId)
  | accst (p : CoreId)
  | accclr (p : CoreId)
  | accsw (p : CoreId)
  | vld (p : CoreId)
  | vst (p : CoreId)
  | vadd (p : CoreId)
  | vmul (p : CoreId)
  | vfma (p : CoreId)
  | vmax (p : CoreId)
  | vmin (p : CoreId)
  | vcmp (p : CoreId)
  | vsel (p : CoreId)
  | vamax (p : CoreId)
  | vexp (p : CoreId)
  | vlog (p : CoreId)
  | vrcp (p : CoreId)
  | vrsq (p : CoreId)
  | vtanh (p : CoreId)
  | vcvt (p : CoreId)
  | vred (p : CoreId)
  | vscan (p : CoreId)
  | vhist (p : CoreId)
  | vkey (p : CoreId)
  | tmov (p : CoreId)
  | txp (p : CoreId)
  | tperm (p : CoreId)
  | stagingGrant (c : ClusterId)
  | spush (p : CoreId)
  | spop (p : CoreId)
  | mbx (p : CoreId)
  | digest (p : CoreId)
  | netq (p : CoreId)
  | netpeek (p : CoreId)
  | saddOrd (p : CoreId)
  | saddAny (p : CoreId)
  | saddIndexFault (p : CoreId)
  | instructionComplete (p : CoreId)
  | waitTimeout (p : CoreId)
  | foldMessage (c : ClusterId)
  | ledgerClearDone
  | spliceBegin (j : JobId)
  | quiesceDone (j : JobId)
  | gatesOpen (j : JobId)
  | chipModeApply
  | modeChangeDone (j : JobId) (bad : List CoreId)
  | reservedSlotDone (j : JobId)
  | swapDone (j : JobId)
  | loadPhase (j : JobId)
  | spanRelease (j : JobId)
  | roundBoundary (c : ClusterId)
  | streamDescriptorStart (c : ClusterId) (thread : Fin 64)
  | granuleRequest (c : ClusterId)
  | fifoJoin (n : StackId) (pch : Fin 32) (cls : Fin 32)
  | hbmSlotServe (n : StackId) (pch : Fin 32) (pos : Fin 192)
  | hbmRefresh (n : StackId) (pch : Fin 32) (pos : Fin 192)
  | granuleDelivered (c : ClusterId) (thread : Fin 64)
  | outboundEntryRead (c : ClusterId) (thread : Fin 64)
  | spillqWrite (q : Fin 128) (data : List Byte) (poison : Bool)
  | spillqRead (q : Fin 128)
  | plannedEntryRelease (c : ClusterId) (thread : Fin 64)
  | holdTimeout (c : ClusterId)
  | tetherFrameTx (l : LinkId)
  | tetherFrameRx (l : LinkId) (wiring : Wiring) (lanes : List (List Pam4))
  | slotsAvailable (l : LinkId)
  | linkFail (l : LinkId) (cause : Fin 4)
  | lockLostTimeout (l : LinkId)
  | holdoverTimeout
  | rootTakeover
  | linkTrainingDone (l : LinkId) (coord : BitVec 9) (dir : BitVec 3) (index : BitVec 2) (rtt oneway : W16)
  | echo (l : LinkId) (msg : CtlMsg)
  | echoReply (l : LinkId) (msg : CtlMsg)
  | gather (src : MsgSrc) (msg : CtlMsg)
  | release (src : MsgSrc) (msg : CtlMsg)
  | root (src : MsgSrc) (msg : CtlMsg)
  | pass (src : MsgSrc) (msg : CtlMsg)
  | seal (src : MsgSrc) (msg : CtlMsg)
  | fail (src : MsgSrc) (msg : CtlMsg)
  | retract (src : MsgSrc) (msg : CtlMsg)
  | quiesced (src : MsgSrc) (msg : CtlMsg)
  | restart (src : MsgSrc) (msg : CtlMsg)
  | mdown (src : MsgSrc) (msg : CtlMsg)
  | mgen (src : MsgSrc) (msg : CtlMsg)
  | peerSilenceTimeout (k : ConnId)
  | ethFrameRx (e : PortId) (sub : Fin 2) (f : EthFrame)
  | pauseFrameRx (e : PortId) (tc : PortClass) (quanta : W16)
  | cnpRx (e : PortId) (flow : Flow)
  | pacingRaise (flow : Flow)
  | icmpEcho (e : PortId) (sender : EchoFrom)
  | neighbourResolution (e : PortId) (sub : Fin 2) (msg : NeighbourMsg)
  | ptpEvent (e : PortId) (sub : Fin 2) (msg : PtpMsg)
  | lldpTx (e : PortId) (sub : Fin 2)
  | lldpRx (e : PortId) (sub : Fin 2) (chassis port : W64)
  | rdmaWrite (e : PortId) (qp : BitVec 12) (rkey : W32) (addr : W64) (data : List Byte) (ceMark : Bool)
  | rdmaWriteImmediate (e : PortId) (head : RoceHead) (rkey : W32) (addr : W64) (data : List Byte) (imm : W32)
  | rdmaRead (e : PortId) (head : RoceHead) (rkey : W32) (addr : W64) (len : Nat)
  | send (e : PortId) (head : RoceHead) (msg : SendMsg)
  | cmMessage (e : PortId) (qp : BitVec 12) (msg : CmMsg)
  | doorbellWrite (rkey : W32) (offset : BitVec 12) (value : W64)
  | hawserTransmit (k : ConnId)
  | hawserDataRx (e : PortId) (pkt : HwDatagram)
  | hawserCtrlRx (e : PortId) (pkt : HwDatagram)
  | hawserAckRx (e : PortId) (pkt : HwDatagram)
  | hawserHelloRx (e : PortId) (bytes : List Byte) (ceMark : Bool)
  | hawserAckTimer (k : ConnId)
  | hawserRto (k : ConnId)
  | reBeat (r : Fin 8)
  | cmdNop (pair : PairId)
  | hello (pair : PairId)
  | loadprog (pair : PairId)
  | strand (pair : PairId)
  | service (pair : PairId)
  | peerupd (pair : PairId)
  | loadbraid (pair : PairId)
  | unsplicedRingPass (j : JobId)
  | braidLoadApply
  | braidFetch (file : Option (List Byte))
  | imageCheck (kind : ImageKind) (image : List Byte)
  | fetchStart (svc : Nat)
  | checkpointStart (svc : Nat)
  | haloStream (svc : Nat)
  | serviceComplete (svc : Nat)
  | netbootAttempt (proto : BootProto) (answer : Option BootAnswer)
  | netbootTimeout (proto : BootProto)
  | bundleAccept (file : List Byte) (keys : Option (List Byte))
  | watchdogExpiry (core : FwCore)
  | firmwareCrash (core : FwCore) (cause : CrashCause)
  | firmwareRestart (core : FwCore)
  | reportPost
  | nonceWrite (value : W64)
  | shadowReplay (c : ClusterId)
  | shadowCompare (c : ClusterId)
  | stepPassLocal (j : JobId)
  | crossCheck (epoch : W64)
  | crossCheckCompare
  | katRun (p : CoreId) (failing : Option Byte)
  | functionReset (func : BitVec 10)
  | jobReset (j : JobId)
  | resetReady (durationNs : W64)
  | rowmapWrite (p : CoreId) (array : Fin 4) (value : W64)
  | hbmInject (n : StackId) (value : W64)
  | entryDataWrite (value : W64)
  | tetherInjectFail (l : LinkId)
  | tetherInjectFrame (l : LinkId)
  | ethInjectCrc (e : Fin 8)
  | ethInjectDrop (e : Fin 8)
  | ringrstGo (pair : PairId)
  | ringrstLogs
  | chkinjectFlip (c : ClusterId)
  | logInject (value : W64)
  | fusecmdGo
  | fuseProgramDone (ok : Bool)
  | statereqOn
  | statereqDeep
  | statereqStandby
  | csrWrite (func : BitVec 10) (offset : BitVec 12) (value : W64)
  | clusterSleep (c : ClusterId)
  | clusterWake (c : ClusterId)
  | logDrainIdle
  | supplyWarning (rail : Fin 13) (stack : StackId) (mv : W16)
  | stretchEnd (rail : Fin 13) (durationNs : W64)
  | warningEscalation (rail : Fin 13)
  | escalationTimeout (rail : Fin 13)
  | railResetLevel (rail : Fin 13) (stack : StackId) (mv : W16)
  | pwrgoodFall (g : PgGroup)
  | resetNRelease (mgmt10g refsel ssc : Bool)
  | resetNAssert
  | bistTestStart (part : TestPart) (tj : Int)
  | fullTestDone (part : TestPart) (fails : List TestFail) (us : W32)
  | thermalStep (readings : List Int)
  | thermalLimit (sensor : Fin 80) (tj : Int)
  | thermtrip (sensor : Fin 80) (tj : Int)
  | throttleWindow (d : Fin 4) (clkInWindow : Fin 64)
  | capLoopTick (watts : W16)
  | capRecalibrate (watts : W16)
  | limiterTripCheck (d : Fin 4) (amps : W16)
  | limiterReleaseCheck (d : Fin 4) (amps : W16)
  | referenceWindow (refclk : Bool) (count : Nat)
  | ioscRetrim (trim : W16) (err : W16)
  | pllLockLoss (pll : Pll)
  | railSequence (rail : Fin 13) (vout : PmbAnswer) (mode : PmbAnswer) (onoff : PmbAnswer)
  | railGoodTimeout (rail : Fin 13)
  | pmbusStatusPoll (rail : Fin 13) (answer : PmbAnswer)
  | pmbAlert (rail : Fin 13) (answer : PmbAnswer)
  | pmbusTelemetryPoll (rail : Fin 13) (answer : PmbAnswer)
  | extest
  | idcode
  | samplePreload (pins : BitVec 17)
  | extestPulse
  | extestTrain
  | bypass
  | tapReset
  | pcsLockChange (e : PortId) (sub : Fin 2) (locked : Bool)
  | roundSwapDone (c : ClusterId)
  | pllLocked (pll : Pll)
  | pwrgoodRise (g : PgGroup)
  | pwrgoodAonFall
  | qpErrorState (qp : BitVec 12)
  deriving DecidableEq, Repr

end Sys2Proof
end

