-- ==== Sys2Proof/Config.lean ====
section
/-! DEFINITION. What the spec leaves to the part or to published standards: opaque, so that no proof can see a value. -/

namespace Sys2Proof

/-- Values that no state determines (R183, R205, R429): the n-th draw of State.free. Log entry 2. -/
opaque Config.freeValue : Nat → W64

/-- Clk by which two operations that use one core's scratchpad, or one mailbox, in the same clk move each other (R161,
R233, R238), from what the two are and when they issued. Log entry 2. -/
opaque Config.bankClash : List Nat → Nat

/-- Ed25519 signature check (R401): public key, message, signature. -/
opaque Config.ed25519Verify : List Byte → List Byte → List Byte → Bool

/-- ML-DSA-65 signature check (R401): public key, message, signature. -/
opaque Config.mldsaVerify : List Byte → List Byte → List Byte → Bool

/-- Whether the boot ROM's known-answer tests fail, at the n-th draw of State.free (R409). Log entry 2. -/
opaque Config.bootKat : Nat → Bool

/-- SHA-384 of the boot ROM (R416) and the key-pair digests of vendor slots 0 to 7 that it holds (R402). -/
opaque Config.bootRom : Digest
opaque Config.vendorKey : Nat → Digest

/-- Of a device secret: DEVKEY (R415), the device key's Ed25519 signature, and its hedged ML-DSA-65 signature under a draw
(R417). -/
opaque Config.deviceKey : BitVec 256 → Digest
opaque Config.ed25519Sign : BitVec 256 → List Byte → List Byte
opaque Config.mldsaSign : BitVec 256 → W64 → List Byte → List Byte

end Sys2Proof
end

