-- ==== Sys2Proof/Machine/Tab.lean ====
section
/-! DEFINITION. Sparse tables: the one form in which the model holds a register file, a memory or any numbered
units. A table lists (key, value) pairs with rising keys; an unlisted key reads as the default that the reader names,
and no listed value equals it, so equal contents are equal lists. Memory is such a table of bytes (Host.Cell). -/

namespace Sys2Proof.Machine

abbrev Tab (α : Type) := List (Nat × α)

/-- The value at key k, d k when it is not listed. -/
def tget {α : Type} (d : Nat → α) : Tab α → Nat → α
  | [], k => d k
  | (j, v) :: r, k => if j = k then v else if k < j then d k else tget d r k

/-- The table with value v at key k. (A table in canonical form lists nothing for dropWhile to drop; with it, reading after
writing holds of every list.) -/
def tput {α : Type} [DecidableEq α] (d : Nat → α) (t : Tab α) (k : Nat) (v : α) : Tab α :=
  match t with
  | [] => if v = d k then [] else [(k, v)]
  | (j, w) :: r =>
    if k < j then (if v = d k then (j, w) :: r else (k, v) :: (j, w) :: r)
    else if k = j then (if v = d k then r.dropWhile (fun e => e.1 ≤ k) else (k, v) :: r)
    else (j, w) :: tput d r k v

/-- Every listed key lies above lo, keys rise, and no listed value is the default. -/
def twfFrom {α : Type} [DecidableEq α] (d : Nat → α) : Option Nat → Tab α → Bool
  | _, [] => true
  | lo, (k, v) :: r => (match lo with | none => true | some l => decide (l < k)) && decide (v ≠ d k) && twfFrom d (some k) r

/-- The canonical form. -/
def twf {α : Type} [DecidableEq α] (d : Nat → α) (t : Tab α) : Bool := twfFrom d none t

/-- Write values at the given keys, in order: a later one remains. -/
def tputAll {α : Type} [DecidableEq α] (d : Nat → α) (t : Tab α) : List (Nat × α) → Tab α
  | [] => t
  | (k, v) :: r => tputAll d (tput d t k v) r

/-- Drop every entry whose key lies in [lo, lo + n): those keys read as the default again. -/
def tclear {α : Type} (t : Tab α) (lo n : Nat) : Tab α := t.filter (fun e => e.1 < lo || lo + n ≤ e.1)

/-- The default of tables of numbers. -/
def z0 : Nat → Nat := fun _ => 0

/-! Memory of bytes. -/

/-- A byte memory: State's memories list (address, byte) in canonical form; an unlisted byte reads 0. -/
abbrev Mem := List Host.Cell

def zeroByte : Nat → Byte := fun _ => 0

def Mem.byte (m : Mem) (a : Nat) : Byte := tget zeroByte m a
def Mem.setByte (m : Mem) (a : Nat) (b : Byte) : Mem := tput zeroByte m a b
def Mem.wf (m : Mem) : Bool := twf zeroByte m

/-- n bytes from address a upward. -/
def Mem.bytes (m : Mem) (a : Nat) : Nat → List Byte
  | 0 => []
  | n + 1 => m.byte a :: Mem.bytes m (a + 1) n

/-- Store the bytes from address a upward. -/
def Mem.store (m : Mem) (a : Nat) : List Byte → Mem
  | [] => m
  | b :: r => Mem.store (m.setByte a b) (a + 1) r

/-- Little-endian value of bytes (R14). -/
def leNat : List Byte → Nat
  | [] => 0
  | b :: r => b.toNat + 256 * leNat r

/-- The n little-endian bytes of x (R14). -/
def leBytes (x : Nat) : Nat → List Byte
  | 0 => []
  | n + 1 => BitVec.ofNat 8 x :: leBytes (x / 256) n

/-- n little-endian bytes at offset o of a body; bytes past its end read 0. -/
def fieldLE (b : List Byte) (o n : Nat) : Nat := leNat ((b.drop o).take n)

/-- The n-byte little-endian number at a. -/
def Mem.le (m : Mem) (a n : Nat) : Nat := leNat (m.bytes a n)

/-! Sets of numbers, as rising lists. -/

/-- Insert k. -/
def sins (k : Nat) : List Nat → List Nat
  | [] => [k]
  | j :: r => if k < j then k :: j :: r else if k = j then j :: r else j :: sins k r

/-- Remove k. -/
def sdel (k : Nat) (l : List Nat) : List Nat := l.filter (· != k)

/-- Put k in or take it out. -/
def sset (k : Nat) (b : Bool) (l : List Nat) : List Nat := if b then sins k l else sdel k l

/-! Bit fields. -/

/-- x[hi:lo] as a number. -/
def bits (x : Nat) (hi lo : Nat) : Nat := (x >>> lo) % 2 ^ (hi + 1 - lo)

/-- Bit i of x. -/
def bitAt (x i : Nat) : Bool := x.testBit i

/-- w with v in bits [hi:lo]. -/
def setField (w : W64) (hi lo : Nat) (v : Nat) : W64 :=
  let m : W64 := BitVec.ofNat 64 (2 ^ (hi + 1 - lo) - 1) <<< lo
  (w &&& ~~~ m) ||| ((BitVec.ofNat 64 v <<< lo) &&& m)

/-- Field [hi:lo] of a register. -/
def getField (w : W64) (hi lo : Nat) : Nat := bits w.toNat hi lo

/-- Two's complement value of the low n bits of x. -/
def sext (x n : Nat) : Int :=
  let y := x % 2 ^ n
  if 2 * y < 2 ^ n then (y : Int) else (y : Int) - (2 ^ n : Nat)

/-- ceil (a / b). -/
def cdiv (a b : Nat) : Nat := (a + b - 1) / b

/-- a + b, at most m: the counters that saturate at their maximum (R138). -/
def satAdd (m a b : Nat) : Nat := min m (a + b)

/-- The first match of a function over 0 .. n-1 from the left. -/
def findIdx (n : Nat) (f : Nat → Bool) : Option Nat := (List.range n).find? f

end Sys2Proof.Machine
end

