-- ==== Sys2Proof/Machine/Num.lean ====
section
/-! DEFINITION. Number formats, rounding and special values: chapter 3 (R73 to R106), and the exact values that the
pseudocode of chapters 3, 4 and 6 calls `num` and `exact`. -/

namespace Sys2Proof.Machine

/-- Format tags (Table 3.1, Table 3.2); 0xD to 0xF are reserved (R76). -/
inductive Tag where
  | fp32 | bf16 | fp16 | e4m3 | e5m2 | e3m2 | e2m3 | e2m1 | int8 | int4 | uint8 | int32 | e8m0
  deriving DecidableEq, Repr

/-- The tag of a 4-bit code; none for a reserved one (R76). -/
def Tag.ofCode : Nat → Option Tag
  | 0 => some .fp32 | 1 => some .bf16 | 2 => some .fp16 | 3 => some .e4m3 | 4 => some .e5m2
  | 5 => some .e3m2 | 6 => some .e2m3 | 7 => some .e2m1 | 8 => some .int8 | 9 => some .int4
  | 10 => some .uint8 | 11 => some .int32 | 12 => some .e8m0 | _ => none

/-- The 4-bit code of a tag. -/
def Tag.code : Tag → Nat
  | .fp32 => 0 | .bf16 => 1 | .fp16 => 2 | .e4m3 => 3 | .e5m2 => 4 | .e3m2 => 5 | .e2m3 => 6
  | .e2m1 => 7 | .int8 => 8 | .int4 => 9 | .uint8 => 10 | .int32 => 11 | .e8m0 => 12

/-- Element width W in bits (R58). -/
def Tag.width : Tag → Nat
  | .fp32 | .int32 => 32
  | .bf16 | .fp16 => 16
  | .e4m3 | .e5m2 | .int8 | .uint8 | .e8m0 => 8
  | .e3m2 | .e2m3 => 6
  | .e2m1 | .int4 => 4

/-- Tags of Table 3.1. -/
def Tag.isFloat : Tag → Bool
  | .fp32 | .bf16 | .fp16 | .e4m3 | .e5m2 | .e3m2 | .e2m3 | .e2m1 => true
  | _ => false

/-- The integer tags of Table 3.2. -/
def Tag.isInt : Tag → Bool
  | .int8 | .int4 | .uint8 | .int32 => true
  | _ => false

/-- Tags that block scaling allows (R77). -/
def Tag.scalable : Tag → Bool
  | .e4m3 | .e5m2 | .e3m2 | .e2m3 | .e2m1 | .int8 => true
  | _ => false

/-- A row of Table 3.1. -/
structure Fmt where
  E      : Nat
  M      : Nat
  bias   : Nat
  maxM   : Nat
  maxE   : Int
  hasInf : Bool
  cnan   : Nat
  deriving DecidableEq, Repr

/-- fmt_param (R86): max finite is maxM x 2^maxE. Tags outside Table 3.1 have FP32's row and are not asked for it. -/
def Tag.fmt : Tag → Fmt
  | .bf16 => ⟨8, 7, 127, 255, 120, true, 0x7FC0⟩
  | .fp16 => ⟨5, 10, 15, 2047, 5, true, 0x7E00⟩
  | .e4m3 => ⟨4, 3, 7, 14, 5, false, 0x7F⟩
  | .e5m2 => ⟨5, 2, 15, 7, 13, true, 0x7E⟩
  | .e3m2 => ⟨3, 2, 3, 7, 2, false, 0⟩
  | .e2m3 => ⟨2, 3, 1, 15, -1, false, 0⟩
  | .e2m1 => ⟨2, 1, 1, 3, 1, false, 0⟩
  | _ => ⟨8, 23, 127, 16777215, 104, true, 0x7FC00000⟩

/-- Minimum normal exponent, 1 - bias (R73). -/
def Fmt.emin (f : Fmt) : Int := 1 - (f.bias : Int)

/-! Flags of Table 3.8, as masks of NFLAGS. -/
abbrev Flags := Byte
def flINV : Flags := 0x01
def flOVF : Flags := 0x02
def flUNF : Flags := 0x04
def flINX : Flags := 0x08
def flFLUSH : Flags := 0x10
def flNAN : Flags := 0x20
def flISAT : Flags := 0x40
def flPOISON : Flags := 0x80

/-- A value together with the flags that computing it raises. -/
structure Fl (α : Type) where
  val   : α
  flags : Flags
  deriving DecidableEq, Repr

/-- A decoded value (R86): a finite magnitude is m x 2^e with m > 0. -/
inductive Num where
  | zero (s : Bool)
  | fin (s : Bool) (m : Nat) (e : Int)
  | inf (s : Bool)
  | nan
  deriving DecidableEq, Repr

/-- The sign bit of a value; nan has none and reads 0. -/
def Num.sign : Num → Bool
  | .zero s | .fin s _ _ | .inf s => s
  | .nan => false

def Num.isNan : Num → Bool | .nan => true | _ => false
def Num.isInf : Num → Bool | .inf _ => true | _ => false
def Num.isZero : Num → Bool | .zero _ => true | _ => false
def Num.isFin : Num → Bool | .fin _ _ _ => true | _ => false

/-- The value with its sign flipped (R190: exact, a NaN stays a NaN). -/
def Num.neg : Num → Num
  | .zero s => .zero (!s) | .fin s m e => .fin (!s) m e | .inf s => .inf (!s) | .nan => .nan

/-- floor (log2 (m x 2^e)). -/
def log2d (m : Nat) (e : Int) : Int := (Nat.log2 m : Int) + e

/-- An exact binary fraction v x 2^e with a sign (the type `exact`). -/
structure Dy where
  v : Int
  e : Int
  deriving DecidableEq, Repr

/-- Exact sum. -/
def Dy.add (a b : Dy) : Dy :=
  let e := min a.e b.e
  ⟨a.v * 2 ^ (a.e - e).toNat + b.v * 2 ^ (b.e - e).toNat, e⟩

/-- Exact difference. -/
def Dy.sub (a b : Dy) : Dy := Dy.add a ⟨-b.v, b.e⟩

/-- val (R113): the signed exact value; 0 for zero, and for inf and nan, which no rule asks it of. -/
def Num.val : Num → Dy
  | .fin s m e => ⟨if s then -(m : Int) else (m : Int), e⟩
  | _ => ⟨0, 0⟩

/-- num_of (R113): zs is the sign of an exact zero. -/
def numOf (d : Dy) (zs : Bool) : Num :=
  if d.v = 0 then .zero zs else .fin (decide (d.v < 0)) d.v.natAbs d.e

/-- num_of an integer. -/
def numOfInt (k : Int) (zs : Bool) : Num := numOf ⟨k, 0⟩ zs

/-- Multiply exactly by 2^k. -/
def Num.scale (k : Int) : Num → Num
  | .fin s m e => .fin s m (e + k)
  | x => x

/-- Compare magnitudes of finite values m1 x 2^e1 and m2 x 2^e2. -/
def cmpMag (m1 : Nat) (e1 : Int) (m2 : Nat) (e2 : Int) : Ordering :=
  let e := min e1 e2
  compare (m1 * 2 ^ (e1 - e).toNat) (m2 * 2 ^ (e2 - e).toNat)

/-- decode (R87) for the tags of Table 3.1; an INT8 or other integer code is its integer value (R113, R173), and an
E8M0 code is 2^(code - 127), or NaN for 0xFF (R75). -/
def decode (b : Nat) (t : Tag) : Num :=
  match t with
  | .int8 => numOfInt (sext b 8) false
  | .int4 => numOfInt (sext b 4) false
  | .int32 => numOfInt (sext b 32) false
  | .uint8 => numOfInt ((b % 256 : Nat) : Int) false
  | .e8m0 => if b % 256 = 255 then .nan else .fin false 1 ((b % 256 : Nat) - 127)
  | _ =>
    let p := t.fmt
    let s := b.testBit (p.E + p.M)
    let ef := (b >>> p.M) % 2 ^ p.E
    let mf := b % 2 ^ p.M
    if t = .e4m3 ∧ b % 128 = 127 then .nan
    else if p.hasInf ∧ ef = 2 ^ p.E - 1 then (if mf = 0 then .inf s else .nan)
    else if ef = 0 then (if mf = 0 then .zero s else .fin s mf (p.emin - (p.M : Int)))
    else .fin s (2 ^ p.M + mf) ((ef : Int) - (p.bias : Int) - (p.M : Int))

/-- A signalling NaN (R74): FP32, BF16, FP16 or E5M2 with the top mantissa bit clear. -/
def isSignalling (b : Nat) (t : Tag) : Bool :=
  match t with
  | .fp32 | .bf16 | .fp16 | .e5m2 => (decode b t).isNan && !b.testBit (t.fmt.M - 1)
  | _ => false

/-- Flags of reading a NaN operand: NAN, and INV when it signals (R88, R113). -/
def nanReadFlags (b : Nat) (t : Tag) : Flags :=
  if (decode b t).isNan then (if isSignalling b t then flNAN ||| flINV else flNAN) else 0

/-- read_in (R88). -/
def readIn (b : Nat) (t : Tag) (ftz : Bool) : Fl Num :=
  match decode b t with
  | .fin s m e =>
    if ftz ∧ t.isFloat ∧ log2d m e < t.fmt.emin then ⟨.zero s, flFLUSH⟩ else ⟨.fin s m e, 0⟩
  | x => ⟨x, nanReadFlags b t⟩

/-! Rounding (R82, R89, R90). -/

/-- knot_mix (R58). -/
def knotMix (x : W64) : W64 :=
  let x := x ^^^ (x >>> 31)
  let x := x * 0xD6E8FEB86659FD93#64
  let x := x ^^^ (x >>> 29)
  let x := x * 0xA0761D6478BD642F#64
  x ^^^ (x >>> 32)

/-- sr_bits (R93): the random word of keyed stochastic rounding. -/
def srBits (key : W64) (tid lidx : Nat) : Nat :=
  let w := BitVec.ofNat 64 ((tid <<< 40) ||| lidx)
  let z := knotMix (w ^^^ key)
  let z := knotMix (z ^^^ 0x4F1BC7A295E30D68#64)
  (z >>> 32).toNat

/-- The rounding context of one element: RND, SAT, IOV (Table 3.4), FTZ, the four keys, and the logical identity. -/
structure Rnd where
  rnd  : Nat
  sat  : Bool
  iov  : Bool
  ftz  : Bool
  keys : List W64
  tid  : Nat
  lidx : Nat
  deriving DecidableEq, Repr

/-- RNE, SAT = 0, no flush (R91). -/
def rneCtx : Rnd := ⟨0, false, false, false, [], 0, 0⟩
/-- RNE with SAT = 1, no flush: the rounding inside the arrays and engines (R116, R336). -/
def rneSat : Rnd := ⟨0, true, false, false, [], 0, 0⟩

/-- A magnitude cut at a quantum: its floor i, floor (f x 2^32), how f compares with one half, and whether f > 0. -/
structure Cut where
  i    : Nat
  f32  : Nat
  half : Ordering
  inx  : Bool
  deriving DecidableEq, Repr

/-- Cut m x 2^e at the quantum 2^k. -/
def cutDy (m : Nat) (e k : Int) : Cut :=
  if k ≤ e then ⟨m * 2 ^ (e - k).toNat, 0, .lt, false⟩
  else
    let d := 2 ^ (k - e).toNat
    let r := m % d
    ⟨m / d, r * 2 ^ 32 / d, compare (2 * r) d, r != 0⟩

/-- Cut the rational n / d, scaled by 2^-k. -/
def cutRat (n d : Nat) (k : Int) : Cut :=
  let n := n * 2 ^ (-k).toNat
  let d := d * 2 ^ k.toNat
  let r := n % d
  ⟨n / d, r * 2 ^ 32 / d, compare (2 * r) d, r != 0⟩

/-- Whether RND rounds the magnitude up (R89). -/
def roundsUp (c : Rnd) (s : Bool) (q : Cut) : Bool :=
  if c.rnd = 0 then q.half == .gt || (q.half == .eq && q.i % 2 == 1)
  else if c.rnd = 1 then false
  else if c.rnd = 2 then q.inx && s
  else if c.rnd = 3 then q.inx && !s
  else decide (2 ^ 32 ≤ q.f32 + srBits (c.keys.getD (c.rnd - 4) 0) c.tid c.lidx)

/-- Code of sign s and the grid value n x 2^k, n > 0 (R89: exact encoding of a grid value). -/
def encodeGrid (t : Tag) (s : Bool) (n : Nat) (k : Int) : Nat :=
  let p := t.fmt
  let sb := if s then 2 ^ (p.E + p.M) else 0
  let l := log2d n k
  if l < p.emin then sb + n * 2 ^ (k - (p.emin - (p.M : Int))).toNat
  else
    let lg := Nat.log2 n
    let mant := if lg ≤ p.M then n * 2 ^ (p.M - lg) else n / 2 ^ (lg - p.M)
    sb + (l + (p.bias : Int)).toNat * 2 ^ p.M + (mant - 2 ^ p.M)

def encodeZero (t : Tag) (s : Bool) : Nat := if s then 2 ^ (t.fmt.E + t.fmt.M) else 0
def encodeInf (t : Tag) (s : Bool) : Nat := encodeZero t s + (2 ^ t.fmt.E - 1) * 2 ^ t.fmt.M
def encodeMax (t : Tag) (s : Bool) : Nat := encodeGrid t s t.fmt.maxM t.fmt.maxE

/-- overflow (R89). -/
def overflow (t : Tag) (s sat : Bool) : Fl Nat :=
  if sat ∧ t.fmt.hasInf then ⟨encodeInf t s, flOVF ||| flINX⟩
  else if sat ∧ t = .e4m3 then ⟨0x7F, flOVF ||| flINX ||| flNAN⟩
  else ⟨encodeMax t s, flOVF ||| flINX⟩

/-- The finite part of round_fp (R89) for a magnitude with floor (log2 m) = l whose cut at quantum 2^k is cut k. -/
def roundFin (t : Tag) (c : Rnd) (s : Bool) (l : Int) (cut : Int → Cut) : Fl Nat :=
  let p := t.fmt
  let k := max l p.emin - (p.M : Int)
  let q := cut k
  let n := q.i + (if roundsUp c s q then 1 else 0)
  let inx := if q.inx then flINX else 0
  if cmpMag n k p.maxM p.maxE = .gt then
    let o := overflow t s c.sat
    ⟨o.val, o.flags ||| inx⟩
  else
    let unf := if q.inx ∧ l < p.emin then inx ||| flUNF else inx
    if n = 0 then ⟨encodeZero t s, unf⟩
    else if c.ftz ∧ log2d n k < p.emin then ⟨encodeZero t s, unf ||| flFLUSH ||| flUNF⟩
    else ⟨encodeGrid t s n k, unf⟩

/-- The canonical NaN of a tag, or +0 in a format without NaN (R89). -/
def nanCode (t : Tag) : Nat := t.fmt.cnan

/-- round_fp (R89). -/
def roundFp (x : Num) (t : Tag) (c : Rnd) : Fl Nat :=
  match x with
  | .nan => ⟨nanCode t, flNAN⟩
  | .inf s => if t.fmt.hasInf then ⟨encodeInf t s, 0⟩ else overflow t s c.sat
  | .zero s => ⟨encodeZero t s, 0⟩
  | .fin s m e => roundFin t c s (log2d m e) (cutDy m e)

/-- The range of an integer tag (Table 3.2). -/
def Tag.lo : Tag → Int
  | .int8 => -128 | .int4 => -8 | .uint8 => 0 | _ => -2147483648
def Tag.hi : Tag → Int
  | .int8 => 127 | .int4 => 7 | .uint8 => 255 | _ => 2147483647

/-- The low W bits of an integer. -/
def Tag.wrap (t : Tag) (k : Int) : Nat := (k % (2 ^ t.width : Nat)).toNat

/-- The finite part of round_int (R90), given the cut of the magnitude at 1. -/
def roundIntFin (t : Tag) (c : Rnd) (s : Bool) (q : Cut) : Fl Nat :=
  let n : Int := q.i + (if roundsUp c s q then 1 else 0)
  let k : Int := if s then -n else n
  let inx := if q.inx then flINX else 0
  if k < t.lo ∨ t.hi < k then
    ⟨if c.iov then t.wrap k else t.wrap (max t.lo (min t.hi k)), inx ||| flISAT⟩
  else ⟨t.wrap k, inx⟩

/-- round_int (R90). -/
def roundInt (x : Num) (t : Tag) (c : Rnd) : Fl Nat :=
  match x with
  | .nan => ⟨0, flNAN⟩
  | .inf s => ⟨t.wrap (if s then t.lo else t.hi), flISAT⟩
  | .zero _ => ⟨0, 0⟩
  | .fin s m e => roundIntFin t c s (cutDy m e 0)

/-- Round into any element tag: round_int for the integer tags, round_fp for the others (R91, R189). -/
def roundTag (x : Num) (t : Tag) (c : Rnd) : Fl Nat := if t.isInt then roundInt x t c else roundFp x t c

/-! Arithmetic of the vector unit and the engines (R190). -/

/-- A finite product of this size rounds beyond FP32: at least 2^128 - 2^103 (R113, R190). -/
def beyondFp32 (m : Nat) (e : Int) : Bool := cmpMag m e (2 ^ 25 - 1) 103 != .lt

/-- fmul (R190). -/
def fmul (x y : Num) (inner : Bool) : Fl Num :=
  let s := x.sign != y.sign
  match x, y with
  | .nan, _ => ⟨.nan, 0⟩
  | _, .nan => ⟨.nan, 0⟩
  | .inf _, .zero _ => ⟨.nan, flNAN⟩
  | .zero _, .inf _ => ⟨.nan, flNAN⟩
  | .inf _, _ => ⟨.inf s, 0⟩
  | _, .inf _ => ⟨.inf s, 0⟩
  | .zero _, _ => ⟨.zero s, 0⟩
  | _, .zero _ => ⟨.zero s, 0⟩
  | .fin _ m1 e1, .fin _ m2 e2 =>
    if inner ∧ beyondFp32 (m1 * m2) (e1 + e2) then ⟨.inf s, flOVF⟩ else ⟨.fin s (m1 * m2) (e1 + e2), 0⟩

/-- The exact sum of the finite terms. -/
def sumVal : List Num → Dy
  | [] => ⟨0, 0⟩
  | x :: r => if x.isFin then Dy.add x.val (sumVal r) else sumVal r

/-- fsum (R190): one exact sum of any number of terms; rdn says RND = 2 (R98). -/
def fsum (xs : List Num) (rdn : Bool) : Fl Num :=
  if xs.any (·.isNan) then ⟨.nan, 0⟩
  else if xs.any (· == .inf false) && xs.any (· == .inf true) then ⟨.nan, flNAN ||| flINV⟩
  else if xs.any (· == .inf false) then ⟨.inf false, 0⟩
  else if xs.any (· == .inf true) then ⟨.inf true, 0⟩
  else
    let v := sumVal xs
    if v.v ≠ 0 then ⟨numOf v false, 0⟩
    else if xs.all (· == .zero true) && !xs.isEmpty then ⟨.zero true, 0⟩
    else ⟨.zero rdn, 0⟩

/-- fadd (R190): fsum of two terms, as its pseudocode gives it bit for bit (R19), the sum (+0) + (+0) under RDN
included (log entry 5). -/
def fadd (x y : Num) (rdn : Bool) : Fl Num := fsum [x, y] rdn

/-- rne32 (R349): one FP32 addition, RNE, SAT = 1, no flush. -/
def rne32 (a b : Num) : Fl Num :=
  let t := fsum [a, b] false
  let r := roundFp t.val .fp32 rneSat
  ⟨decode r.val .fp32, t.flags ||| r.flags⟩

/-- Order of two values, -0 below +0 (R99); neither is a NaN. -/
def numLt (x y : Num) : Bool :=
  match x, y with
  | .inf true, .inf true => false
  | .inf true, _ => true
  | _, .inf true => false
  | .inf false, _ => false
  | _, .inf false => true
  | .zero true, .zero false => true
  | .zero _, .zero _ => false
  | x, y => decide ((Dy.sub x.val y.val).v < 0)

/-- IEEE 754 equality, -0 = +0 (R99). -/
def numEq (x y : Num) : Bool :=
  match x, y with
  | .nan, _ => false
  | _, .nan => false
  | .inf a, .inf b => a == b
  | .inf _, _ => false
  | _, .inf _ => false
  | x, y => decide ((Dy.sub x.val y.val).v = 0)

/-! Block scaling (R77 to R81). -/

/-- emax_elem (R81). -/
def Tag.emaxElem : Tag → Int
  | .e4m3 => 8 | .e5m2 => 15 | .e3m2 => 4 | .e2m3 => 2 | .e2m1 => 2 | _ => 0

/-- max_finite (R81) as a value. -/
def Tag.maxFinite (s : Bool) : Tag → Num
  | .int8 => .fin s 127 (-6)
  | t => .fin s t.fmt.maxM t.fmt.maxE

/-- The larger of an optional floor(log2) and that of a finite value; amax decides only through floor (log2 amax). -/
def maxLog : Option Int → Num → Option Int
  | a, .fin _ m e => some (match a with | none => log2d m e | some l => max l (log2d m e))
  | a, _ => a

/-- mx_block (R81): scale byte and element codes, with flags; c.lidx is that of the block's first element. -/
def mxBlock (xs : List Num) (t : Tag) (c : Rnd) : Fl (Nat × List Nat) :=
  if xs.any (·.isNan) || (c.sat && xs.any (·.isInf)) then ⟨(255, xs.map fun _ => 0), flNAN⟩
  else
    let se : Int := match xs.foldl maxLog none with
      | none => -127
      | some l => max (-127) (min 127 (l - t.emaxElem))
    let one (i : Nat) (x : Num) : Fl Nat :=
      let ctx := { c with sat := false, iov := false, lidx := c.lidx + i }
      let (y, f) := match x with
        | .inf s => (t.maxFinite s, flOVF)
        | x => (x.scale (-se), (0 : Flags))
      let r := if t = .int8 then roundInt (y.scale 6) .int8 ctx else roundFp y t ctx
      ⟨r.val, f ||| r.flags⟩
    let rs := xs.mapIdx one
    ⟨((se + 127).toNat, rs.map (·.val)), rs.foldl (fun a r => a ||| r.flags) 0⟩

/-! The exponent histogram (R104). -/

/-- hist_bin (R104). -/
def histBin (x : Num) (hbase : Int) : Nat :=
  match x with
  | .zero _ => 0
  | .inf _ | .nan => 63
  | .fin _ m e => (max 1 (min 62 (log2d m e - hbase + 1))).toNat

/-! The Knot digest (R58). -/

/-- One element's contribution to the two lanes (R58). -/
def knotHash (e : Nat) (tag tid lidx : Nat) : W64 × W64 :=
  let w1 := BitVec.ofNat 64 ((tag <<< 60) ||| (tid <<< 40) ||| lidx)
  let w2 := BitVec.ofNat 64 e
  (knotMix (w1 ^^^ knotMix (w2 ^^^ 0x5C3A9E170B42D6F1#64)), knotMix (w2 + knotMix (w1 ^^^ 0x2B71C48E96D30A5F#64)))

end Sys2Proof.Machine
end

