-- ==== Sys2Proof/Machine/CoreState.lean ====
section
/-! DEFINITION. The state of a core: what bundles name (Table 5.8), the arrays (R111, R116, R122), the issue buffer and
the instructions in flight (R158 to R168), and the capture of shadow fills (R423 to R426). -/

namespace Sys2Proof.Machine

/-- A lane of a vector register: 32 data bits and the poison bit (R176). -/
structure Lane where
  val    : W32
  poison : Bool
  deriving DecidableEq, Repr

def lane0 : Nat → Lane := fun _ => ⟨0, false⟩

/-- An accumulator element: the pair of FP32 words (R116) and its poison mark (R134). -/
structure Pair where
  hi     : W32
  lo     : W32
  poison : Bool
  deriving DecidableEq, Repr

def pair0 : Nat → Pair := fun _ => ⟨0, 0, false⟩

/-- A stochastic-rounding key (R83) and its poison mark (R197). -/
structure Key where
  val    : W64
  poison : Bool
  deriving DecidableEq, Repr

def key0 : Nat → Key := fun _ => ⟨0, false⟩

/-- What an LDW loads into one weight register of an array (R111, R522): tag, block size (0: unscaled), the codes at
k x 64 + n, the scale bytes at block x 64 + n, and which weights are poisoned (R134). -/
structure WTile where
  tag    : Tag
  bs     : Nat
  code   : Tab Nat
  scale  : Tab Nat
  poison : List Nat
  deriving DecidableEq, Repr

/-- A queue entry: a scratchpad byte range, and whether a byte of it is poisoned is read from the scratchpad. -/
structure Span where
  addr : Nat
  len  : Nat
  deriving DecidableEq, Repr

/-- A stream queue (R243 to R246). Inbound: entries begun, visible and popped by their counts, credits left, and the entry whose
area the next SPOP returns; areas popped that wait for a read in flight (R202). Outbound: the entries pushed and not yet read,
with the bytes of the head entry already read. -/
structure SQueue where
  depth   : Nat
  entry   : Nat
  area    : Nat
  begun   : Nat
  visible : Nat
  popped  : Nat
  credits : Nat
  fill    : Nat
  held    : Bool
  /-- addresses of areas that go back as credits once no instruction in flight reads them -/
  back    : List Nat
  out     : List Span
  readOff : Nat
  deriving DecidableEq, Repr

/-- A queue not in use. -/
def sq0 : Nat → SQueue := fun _ => ⟨0, 32, 0, 0, 0, 0, 0, 0, false, [], [], 0⟩

/-- Where a virtual core stands in its program. -/
inductive Run where
  /-- no program, or between binding and the first release -/
  | idle
  | running
  /-- at SPLICE SIDX (R181) -/
  | arrived (sidx : Nat) (step : Bool)
  | halted
  /-- after a fault or a job stop (R166, R435) -/
  | stopped
  deriving DecidableEq, Repr

/-- One capture of the shadow tap (R424): an MMA with the activation rows it reads, an array's weights, a row's pairs. -/
inductive Capture where
  | mma (row0 : Nat) (klen : Nat) (tag : Tag) (bs : Nat) (rows : List (List (Nat × Nat)))
  | weights (w : Option WTile)
  | pairs (row : Nat) (p : List (W32 × W32))
  deriving DecidableEq, Repr

/-- A selected fill (R423). -/
structure Fill where
  k         : Nat
  f         : Nat
  job       : Nat
  vc        : Nat
  step      : Nat
  attempt   : Nat
  items     : List Capture
  /-- bytes of the capture area it takes -/
  size      : Nat
  /-- rows whose last write in the fill was an MMA update -/
  updated   : List Nat
  /-- rows whose pair is captured since the fill began or the row was last loaded -/
  captured  : List Nat
  wNeeded   : Bool
  hasMma    : Bool
  abandoned : Bool
  deriving DecidableEq, Repr

/-- A token signal that becomes visible in the core's next clk (R156): the token, its count, and the bundle, slot and PC
of the instruction that signals. -/
structure Sig where
  tok    : Nat
  n      : Nat
  bundle : Nat
  slot   : Nat
  pc     : Nat
  deriving DecidableEq, Repr

/-- Everything that belongs to a virtual core and moves with it (R101, R154, R273), its scratchpad bytes apart. -/
structure VCore where
  run     : Run
  pc      : BitVec 13
  /-- execution fell through past bundle 8,191 (R155) -/
  overrun    : Bool
  /-- the last bundle that issued (R524) -/
  lastPc  : BitVec 13
  codeLen : Nat
  g       : Tab W64
  a       : Tab (BitVec 48)
  lc      : Tab W32
  rs      : List (BitVec 13)
  tok     : Tab Nat
  /-- signals of the running clk, not yet in the counts (R157) -/
  pend    : List Sig
  sq      : Tab SQueue
  td      : Tab (BitVec 512)
  v       : Tab Lane
  nflags  : Flags
  ftz     : Bool
  hbase   : Byte
  sk      : Tab Key
  hist    : Tab W32
  acc     : Tab Pair
  active  : BitVec 4
  wt      : Tab (Option WTile)
  curw    : BitVec 4
  /-- fills of tile k begun in the step (R423), and the selected ones that are open -/
  fillNo  : Tab Nat
  fills   : List Fill
  /-- number + 1 of the most recent ended fill of tile k while an ACCST can compare it (R426), else 0 -/
  ended   : Tab Nat
  deriving DecidableEq, Repr

def z64 : Nat → W64 := fun _ => 0
def z48 : Nat → BitVec 48 := fun _ => 0
def z32 : Nat → W32 := fun _ => 0
def td0 : Nat → BitVec 512 := fun _ => 0
def wt0 : Nat → Option WTile := fun _ => none

/-- The state at a job's first span before the load of descriptors and queue records (Table 5.8, R83, R84, R139). -/
def vcore0 : VCore :=
  { run := .idle, pc := 0, overrun := false, lastPc := 0, codeLen := 0, g := [], a := [], lc := [], rs := [], tok := [], pend := [], sq := [], td := [], v := [],
    nflags := 0, ftz := false, hbase := 0xE0, sk := [], hist := [], acc := [], active := 0, wt := [], curw := 0,
    fillNo := [], fills := [], ended := [] }

/-- What an instruction in flight will do when it completes (R168). -/
inductive Eff where
  /-- a g or a register -/
  | greg (d : Nat) (v : W64)
  | areg (d : Nat) (v : BitVec 48)
  /-- lanes 0 to 127 of vector register r -/
  | vreg (r : Nat) (lanes : List Lane)
  /-- w bits at a bit address of the scratchpad (mbx false) or the mailbox, with the poison of the element -/
  | put (mbx : Bool) (bitAddr w code : Nat) (poison : Bool)
  /-- a byte that clean elements of the instruction cover together -/
  | wash (mbx : Bool) (byteAddr : Nat)
  | flags (f : Flags)
  /-- one element of value x, written in the given clk, counted in the histogram (R104, R105) -/
  | hist (clk : Nat) (x : Num)
  /-- a fold message's part (R58 to R60): physical slot, lanes, count, POISON, FULL -/
  | fold (slot : Nat) (l0 l1 : W64) (count : Nat) (poison full : Bool)
  /-- a counter of the CORE block: offset, highest and lowest bit, increment -/
  | count (off hi lo n : Nat)
  /-- weight register r of array n -/
  | weights (n r : Nat) (t : WTile)
  /-- histogram counters set to zero (R105) -/
  | histClear
  /-- SADD index found out of range once the last index is read (R204) -/
  | badIndex
  deriving DecidableEq, Repr

/-- A register that an instruction reads or writes, for the holds of R159. -/
inductive Reg where
  | g (n : Nat) | a (n : Nat) | lc (n : Nat) | v (n : Nat) | nflags | key (n : Nat) | desc (n : Nat)
  deriving DecidableEq, Repr

/-- How an instruction touches accumulator rows: tile, first row, rows, clk per row (R126 to R129). -/
structure AccUse where
  tile : Nat
  row0 : Nat
  rows : Nat
  /-- clk between successive rows of its accesses -/
  pace : Nat
  deriving DecidableEq, Repr

/-- An instruction in flight. -/
structure Flight where
  /-- issue number of its bundle -/
  bundle  : Nat
  /-- 0 C, 1 A, 2 V, 3 M -/
  slot    : Nat
  op      : Nat
  pc      : BitVec 13
  issued  : Nat
  /-- completion clk (Table 5.10) -/
  due     : Nat
  /-- waits for the staging buffer (R223) -/
  waiting : Bool
  tok     : Option Nat
  writes  : List Reg
  rd      : List Span
  wr      : List Span
  /-- accumulator rows written, with the clk at which row 0 is available to a dependent bundle -/
  acc     : List AccUse
  accAt   : Nat
  /-- array resources: activation stream (MMA) until; arrays loading weights; weight registers bound by a pass
      (array, register) with the clk its last row leaves the chain -/
  stream  : Nat
  ldw     : List Nat
  bound   : List (Nat × Nat)
  chain   : Nat
  /-- M resource held (0 mover, 1 mailbox, 2 scatter) until busy -/
  res     : Nat
  busy    : Nat
  /-- an MBX into the mailbox: the clk of its first line, and its lowest byte (R200, R238) -/
  box     : Option (Nat × Nat)
  eff     : List Eff
  deriving DecidableEq, Repr

/-- The bundle that BUNDLE_FETCH put forward (R155, R158): its slots, which are done, the
operands of its issue clk, and by how many clk each slot's writes wait for the other slots (R523). -/
structure Bundle where
  pc     : BitVec 13
  slots  : List W64
  issued : Bool
  num    : Nat
  done   : List Nat
  snap   : VCore
  late   : List Nat
  deriving DecidableEq, Repr

/-- A physical core. -/
structure Core where
  /-- (job, virtual core of the job's program) -/
  bound  : Option (Nat × Nat)
  v      : VCore
  ib     : Option Bundle
  fly    : List Flight
  /-- the core's clk of the span, the clk its bundle has been held, bundles issued -/
  now    : Nat
  heldN  : Nat
  issues : Nat
  /-- bit errors waiting in accumulator elements, tile x 8192 + row x 64 + column: 1 single, 2 double (R135) -/
  upset   : Tab Nat
  deriving DecidableEq, Repr

def core0 : Core := ⟨none, vcore0, none, [], 0, 0, 0, []⟩

end Sys2Proof.Machine
end

