-- ==== Sys2Proof/Machine/UnitState.lean ====
section
/-! DEFINITION. The state of clusters (R29), the ledger (R54 to R63), the HBM controllers and the page map (R251 to
R260), the Contrail log (R448) and the rings (R386 to R392). -/

namespace Sys2Proof.Machine

/-- A piece of a thread's stream inside one granule (R247): where it lies in the stream and in HBM. A write carries its
bytes, and whether one of them was poisoned. -/
structure Request where
  cluster : Nat
  thread  : Nat
  job     : Nat
  /-- 0 streams, 1 overlap spill, 2 service (R253) -/
  use     : Nat
  addr    : Nat
  len     : Nat
  write   : Bool
  data    : List Byte
  poison  : Bool
  /-- clk of issue, counted in the cluster's request clk, and place in that clk; the merge's read slot is done (R254) -/
  issued  : Nat
  seq     : Nat
  merged  : Bool
  /-- stream bytes before this piece -/
  pos     : Nat
  deriving DecidableEq, Repr

/-- A stream thread (R239 to R247). -/
structure Thread where
  /-- stream records still to run, the running one first when started -/
  list    : List (BitVec 512)
  started : Bool
  /-- bytes of the running descriptor requested and completed -/
  asked   : Nat
  done    : Nat
  /-- bytes read and not yet placed in an entry or a row: an exchange group in the making (R241), with poison -/
  buf     : List (Byte × Bool)
  /-- bytes ready for the queue that wait for room in it (R244) -/
  pour    : List (Byte × Bool)
  /-- outbound queues the thread has read in the span: core and queue (R245) -/
  outQ    : List (Nat × Nat)
  /-- requests waiting at the cluster, and served reads in stream order -/
  waiting : List Request
  served  : List Request
  flight  : Nat
  stopped : Bool
  /-- receive plan records FIRST, PERIOD of its KIND = 1 streams, and the next planned entry (R280) -/
  plan    : List (Nat × Nat)
  planned : Nat
  deriving DecidableEq, Repr

def thread0 : Nat → Thread := fun _ => ⟨[], false, 0, 0, [], [], [], [], [], 0, false, [], 0⟩

/-- A fold message (R60). -/
structure FoldMsg where
  job    : Nat
  slot   : Nat
  l0     : W64
  l1     : W64
  count  : Nat
  poison : Bool
  full   : Bool
  deriving DecidableEq, Repr

/-- A write of one byte of a mailbox in the span: when, by which virtual core, and the byte and mark it found. -/
structure BoxWrite where
  byte   : Nat
  clk    : Nat
  vc     : Nat
  old    : Byte
  poison : Bool
  deriving DecidableEq, Repr

/-- Why a cluster is held (R281): an entry that a thread misses, from a tether or a plane, or a throttle. -/
inductive HoldWhy where
  | tether (thread : Nat) | plane (thread : Nat) | throttle
  deriving DecidableEq, Repr

/-- A network entry in the receive buffer (R280, R282): its thread and receive queue, its bytes, and which of them are poisoned. -/
structure RxEntry where
  thread : Nat
  rq     : Nat
  data   : List Byte
  poison : List Bool
  deriving DecidableEq, Repr

/-- An ended fill at the check core (R425, R426): the captures, the replay's result by row, the pairs that ACCSTs sent
by row, what is left to compare. -/
structure Check where
  core     : Nat
  fill     : Fill
  replayed : Bool
  result   : Tab (List (W32 × W32))
  sent     : List (Nat × List Pair)
  compared : Bool
  mismatch : Bool
  deriving DecidableEq, Repr

/-- A core that waits for the staging buffer or uses it (R223). -/
structure StageReq where
  core   : Nat
  bundle : Nat
  slot   : Nat
  vc     : Nat
  clk    : Nat
  added  : Nat
  spill  : Bool
  deriving DecidableEq, Repr

structure Cluster where
  threads : Tab Thread
  /-- thread after the one last served (R247) -/
  robin   : Nat
  /-- request clk since the splice -/
  ticks   : Nat
  folds   : List FoldMsg
  /-- writes of mailbox bytes in the span (R200): the byte, the core's clk, the virtual core, and what stood there before,
      newest first -/
  boxLog  : List BoxWrite
  rx      : List RxEntry
  rxBytes : Nat
  /-- causes of the present hold, µs it has lasted in clk, granules that completed meanwhile (R281 to R284) -/
  hold    : List HoldWhy
  holdClk : Nat
  /-- the cluster's clk of the span (R280) -/
  spanClk : Nat
  round   : Nat
  rounds  : Nat
  swapping : Bool
  stage   : Option StageReq
  stageQ  : List StageReq
  asleep  : Bool
  /-- virtual cluster of the bound program and the enabled cores it uses, ascending (R272) -/
  vcl     : Option Nat
  lanes   : List Nat
  fenced  : Bool
  /-- check core: ended fills in order, the next slot it serves, an armed FLIP (R425, R455) -/
  checks  : List Check
  chkSlot : Nat
  flip    : Bool
  /-- clk + 1 from which no virtual core has been bound; 0: never (R475) -/
  idleAt  : Nat
  deriving DecidableEq, Repr

def cluster0 : Nat → Cluster := fun _ =>
  ⟨[], 0, 0, [], [], [], 0, [], 0, 0, 0, 1, false, none, [], false, none, [], false, [], 0, false, 0⟩

/-- A ledger slot (R54, R57, R59). -/
structure Slot where
  l0     : W64
  l1     : W64
  count  : W64
  poison : Bool
  full   : Bool
  deriving DecidableEq, Repr

def slot0 : Nat → Slot := fun _ => ⟨0, 0, 0, false, false⟩

/-- A pending shadow entry (R62, R63): whose, which, when it was taken, how many splices it has waited. -/
structure Shadow where
  job     : Nat
  pslot   : Nat
  rslot   : Nat
  val     : Slot
  vary    : Bool
  step    : Nat
  attempt : Nat
  splice  : Nat
  beat    : W64
  age     : Nat
  /-- a promoted drain forces it out before its splice goes on -/
  promo   : Bool
  deriving DecidableEq, Repr

structure Ledger where
  slots  : Tab Slot
  shadow : List Shadow
  deriving DecidableEq, Repr

/-- An armed injection (R528). -/
structure Inject where
  granule : Nat
  ue      : Bool
  deriving DecidableEq, Repr

/-- A spill queue (R249, R250): its pointers, its FULL counter, and the granule that the latest read returned. -/
structure SpillQ where
  p    : BitVec 40
  c    : BitVec 40
  q    : BitVec 40
  full : Nat
  last : List Byte
  lastPoison : Bool
  deriving DecidableEq, Repr

def spill0 : Nat → SpillQ := fun _ => ⟨0, 0, 0, 0, [], false⟩

/-- HBM stacks, their controllers, the page map. -/
structure Hbm where
  /-- page map entries (Table 8.5) -/
  pages   : Tab W64
  /-- FIFOs by stack x 1,024 + pseudo-channel x 32 + class (R254) -/
  fifo    : Tab (List Request)
  /-- clk in which the current frames began (R253) -/
  frameAt : Nat
  /-- refreshes postponed by re-phases and refreshes issued, by stack x 32 + pseudo-channel -/
  owed    : Tab Nat
  refreshes : Tab Nat
  armed   : Tab (Option Inject)
  /-- scrub: granules read by stack x 1,024 + pseudo-channel x 32 + class; write-backs waiting -/
  scrub   : Tab Nat
  writeBack : List Nat
  scrubbed : Tab Nat
  /-- pages whose UE reached the limit and wait for the next splice (R258) -/
  retire  : List Nat
  spillq  : Tab SpillQ
  /-- temperature readout of each stack at the latest splice (R251); clk + 1 in which its scrub pass began (R260) -/
  temps   : Tab Nat
  scrubAt : Tab Nat
  deriving DecidableEq, Repr

def noInject : Nat → Option Inject := fun _ => none
def noReq : Nat → List Request := fun _ => []

/-- A Contrail entry (Table 15.6, Table 15.7); lost and lostN as in FLAGS and LOSTN. -/
structure LogEntry where
  type    : Nat
  sev     : Nat
  func    : Nat
  job     : Nat
  report  : Bool
  lostN   : Nat
  beat    : W64
  code    : Nat
  action  : Nat
  attempt : Nat
  unit    : Nat
  step    : W64
  addr    : W64
  d0      : W64
  d1      : W64
  d2      : W64
  deriving DecidableEq, Repr

/-- What waits for the log-drain ring, in the order written (R448): Contrail entries. -/
structure LogBuf where
  entries : List LogEntry
  /-- entries dropped since the previous entry written -/
  lostRun : Nat
  /-- seal and retract records that wait for room in the ring (R64, R65) -/
  records : List (List Byte)
  deriving DecidableEq, Repr

/-- An event waiting in the chip's buffer (R392). -/
structure Event where
  type   : Nat
  job    : Nat
  func   : Nat
  beat   : W64
  detail : List Byte
  lost   : Bool
  deriving DecidableEq, Repr

/-- A command of a pair that awaits its completion (R388, R389). -/
structure Await where
  pair : Nat
  op   : Nat
  seq  : Nat
  id   : W64
  deriving DecidableEq, Repr

/-- The rings' indices (R386, R387): of pair p by its number. -/
structure Rings where
  cp      : Tab W32
  pc      : Tab W32
  cc      : Tab W32
  pp      : Tab W32
  evCons  : W32
  ldCons  : W32
  evProd  : W32
  ldProd  : W32
  events  : List Event
  evLost  : Bool
  hello   : List Nat
  faulted : List Nat
  evBad   : Bool
  ldBad   : Bool
  waiting : List Await
  /-- CP as the latest sample of each pair took it, and the entries still to process of it (R388) -/
  sampled : Tab W32
  budget  : Tab Nat
  /-- pairs whose HELLO named another firmware major (R391) -/
  majorDiff : List Nat
  deriving DecidableEq, Repr

def rings0 : Rings :=
  ⟨[], [], [], [], 0, 0, 0, 0, [], false, [], [], false, false, [], [], [], []⟩

/-- A network queue entry (R203, R301): the core, its bytes' span, the beat time from which it is eligible, bytes
already sent. -/
structure NetEntry where
  core : Nat
  span : Span
  beat : Nat
  sent : Nat
  deriving DecidableEq, Repr

def noNet : Nat → List NetEntry := fun _ => []

/-- A context image swapped out to the job's context area (R273), whose first part, the scratchpad's bytes, lies in HBM: the
virtual core, and the poisoned bytes of its scratchpad. -/
structure Context where
  v      : VCore
  poison : List Nat
  deriving DecidableEq, Repr

/-- The program bound to a job (R267, R268): its image as read, and its SHA-384. -/
structure Program where
  /-- device address of the image: swaps reload code from there (R389) -/
  addr   : Nat
  image  : List Byte
  digest : Digest
  deriving DecidableEq, Repr

/-- The phases of a splice (Table 9.4); gates, mode change and the reserved slot wait for their own commands. -/
inductive Phase where
  | span | quiesce | gates | modeChange | reserved | swap | load | align
  deriving DecidableEq, Repr

/-- A job (R39, R53, R278). Its record is the braid's. -/
structure Job where
  prog      : Option Program
  /-- a LOADPROG that passed its load checks and waits for the splice to bind (R268, R389) -/
  pending   : Option Program
  step      : Nat
  attempt   : Nat
  vary      : Bool
  phase     : Phase
  /-- entry of the splice under way, its STEP, and splices of the step so far -/
  sidx      : Nat
  aligned   : Bool
  stepMark  : Bool
  ordinal   : Nat
  /-- the first span of the program has been loaded -/
  started   : Bool
  waited    : Nat
  sampleDue : Bool
  /-- the splice under way binds a job that ran no program, under entry 0 of the pending one (R278) -/
  binding   : Bool
  /-- the UPDATE splice of the running step has begun (R45, R368) -/
  updating  : Bool
  /-- SCH.AGE in force (R290) -/
  age       : W64
  /-- entry with which the first virtual core arrived (R277, Table 9.9) -/
  firstSidx : Option Nat
  /-- clk that the gates have kept the splice waiting (R63, R45) -/
  gateClk   : Nat
  /-- INDEX of the last strand applied, and strands that STRAND commands staged, in order (R384, R385, R416) -/
  strand    : Nat
  staged    : List Nat
  /-- staged strands that the splice under way applies at its release -/
  applying  : Nat
  /-- step not yet sealed, with its local result: none open, some true passed (R45, R434) -/
  unsealed  : Option (Nat × Nat)
  unsealedVary : Bool
  passed    : Bool
  failed    : Bool
  /-- the running step has failed locally -/
  failing   : Bool
  /-- retract under way: the attempt (R439) -/
  retract   : Option Nat
  /-- release beat of an aligned splice or of a RESTART (R312, R439) -/
  release   : Option Nat
  /-- virtual cores at the step-boundary splice that began the running step, and at the one that began the step not
  yet sealed (R103, R439), with the splice-table entries of those splices -/
  saved     : Tab VCore
  savedOld  : Tab VCore
  stepSidx  : Nat
  stepOrd   : Nat
  oldSidx   : Nat
  oldOrd    : Nat
  /-- the steps sealed, newest first, with their sealed attempts -/
  sealed    : List (Nat × Nat)
  contexts  : Tab (Option Context)
  /-- ages of the background tasks, in the order of Table 9.6, and the task served last (R285, R286) -/
  ages      : Tab Nat
  lastTask  : Nat
  /-- promoted drains of the splice under way; BIST.SLICECFG.HOLD in force -/
  promote   : Nat
  hold      : Bool
  deriving DecidableEq, Repr

def vc0 : Nat → VCore := fun _ => vcore0
def noCtx : Nat → Option Context := fun _ => none

def job0 : Nat → Job := fun _ =>
  { prog := none, pending := none, step := 0, attempt := 0, vary := false, phase := .span, sidx := 0, aligned := false,
    stepMark := false, ordinal := 0, started := false, waited := 0, sampleDue := false, binding := false, updating := false, age := 0, firstSidx := none, gateClk := 0,
    strand := 0, staged := [], applying := 0, unsealed := none, unsealedVary := false, passed := false, failed := false, failing := false,
    retract := none, release := none, saved := [], savedOld := [], stepSidx := 0, stepOrd := 0, oldSidx := 0, oldOrd := 0, sealed := [], contexts := [], ages := [], lastTask := 0, promote := 0, hold := false }

/-- The braid in force (R376 to R378): its records, each TYPE with its body, and the image's SHA-384. -/
structure Braid where
  recs    : List (Nat × List Byte)
  serial  : W64
  digest  : Digest
  deriving DecidableEq, Repr

end Sys2Proof.Machine
end

