-- ==== Sys2Proof/Machine/Wire.lean ====
section
/-! DEFINITION. A tether frame on the wire (R297 to R299): the layouts of its header and slots, CRC-32, the RS(224,208) code,
lanes, PAM4 symbols and the scrambler; and a Hawser packet's layout (R330). The order of bits and bytes that R297 leaves to the standards it names is in log entry
64. -/

namespace Sys2Proof.Machine

/-! What a frame holds. -/

/-- One slot of a tether frame: the fields of Table 10.4 and its data bytes (8 x NW of them). -/
structure FrameSlot where
  v     : Bool
  last  : Bool
  re    : Bool
  job   : BitVec 4
  rq    : BitVec 6
  sseq  : Byte
  pmask : W32
  data  : List Byte
  deriving DecidableEq, Repr

/-- A tether frame as decoded (Table 10.2, Table 10.3). -/
structure Frame where
  fseq   : W16
  ack    : W16
  nak    : Bool
  replay : Bool
  carry  : Bool
  beat   : W64
  ctl    : List CtlMsg
  slots  : List FrameSlot
  deriving DecidableEq, Repr

/-- The header fields of a Hawser packet (Table 11.4) with its payload; ceMark is its ECN mark, crcOk says that the trailer
checks. -/
structure HwPacket where
  dconn   : BitVec 6
  sconn   : BitVec 6
  poison  : Bool
  last    : Bool
  ceEcho  : Bool
  retx    : Bool
  nak     : Bool
  gen     : W32
  psn     : W32
  ackpsn  : W32
  winadv  : W16
  stream  : BitVec 6
  job     : BitVec 4
  step    : W64
  attempt : Byte
  beat    : W64
  payload : List Byte
  ceMark  : Bool
  crcOk   : Bool
  deriving DecidableEq, Repr

/-! Lists cut into pieces. -/

/-- n pieces of len elements. -/
def pieces (len : Nat) : Nat → List α → List (List α)
  | 0, _ => []
  | n + 1, l => l.take len :: pieces len n (l.drop len)

/-- n rounds of one element from each list. -/
def weave (z : α) : Nat → List (List α) → List α
  | 0, _ => []
  | n + 1, ls => ls.map (·.headD z) ++ weave z n (ls.map (·.drop 1))

/-! CRC-32 with the IEEE 802.3 polynomial (R298), CRC-32C with Castagnoli's (R330): bits reflected, all ones at the start and
inverted at the end. -/

def crcBits (poly : Nat) : Nat → Nat → Nat
  | 0, c => c
  | n + 1, c => crcBits poly n (if c % 2 = 1 then (c / 2) ^^^ poly else c / 2)
def crcOf (poly : Nat) (l : List Byte) : Nat := (l.foldl (fun c b => crcBits poly 8 (c ^^^ b.toNat)) 0xFFFFFFFF) ^^^ 0xFFFFFFFF
def crc32 (l : List Byte) : Nat := crcOf 0xEDB88320 l
def crc32c (l : List Byte) : Nat := crcOf 0x82F63B78 l

/-! Layouts (Tables 10.2 to 10.5). -/

def flagBit (b : Bool) (k : Nat) : Nat := if b then 2 ^ k else 0

/-- A control message's 16 bytes. -/
def ctlBytes (m : CtlMsg) : List Byte := m.type :: (leBytes m.lo.toNat 7 ++ leBytes m.hi.toNat 8)
def emptyCtl : CtlMsg := ⟨0, 0, 0⟩

/-- Offsets 0x00 to 0x6B of the header: all but its CRC. -/
def headBytes (f : Frame) : List Byte :=
  leBytes f.fseq.toNat 2 ++ leBytes f.ack.toNat 2 ++ leBytes (flagBit f.nak 0 + flagBit f.replay 1 + flagBit f.carry 2) 4 ++
    leBytes f.beat.toNat 8 ++ ((List.range 5).map (fun i => ctlBytes (f.ctl.getD i emptyCtl))).flatten ++ List.replicate 12 0

/-- A slot header; NW counts the words that the data fills. -/
def slotWord (q : FrameSlot) : Nat :=
  if !q.v then 0
  else q.pmask.toNat * 2 ^ 32 + q.sseq.toNat * 2 ^ 24 + (q.data.length + 7) / 8 * 2 ^ 16 + 2 ^ 15 + flagBit q.last 14 +
    flagBit q.re 13 + q.job.toNat * 2 ^ 6 + q.rq.toNat

def emptySlot : FrameSlot := ⟨false, false, false, 0, 0, 0, 0, []⟩

/-- Offsets 0x0070 on: slot headers, then slot data. -/
def slotBytes (l : List FrameSlot) : List Byte :=
  let q := (List.range 50).map (fun k => l.getD k emptySlot)
  q.flatMap (fun x => leBytes (slotWord x) 8) ++
    q.flatMap (fun x => if x.v then (x.data ++ List.replicate 256 0).take 256 else List.replicate 256 0)

/-- The CRC covers everything but itself. -/
def frameCrc (head slots : List Byte) : Nat := crc32 (head ++ slots)

/-- The 13,312 protected bytes of a frame; a corrupted one has a CRC that cannot check (R316). -/
def protectedBytes (f : Frame) (corrupt : Bool) : List Byte :=
  let h := headBytes f
  let q := slotBytes f.slots
  h ++ leBytes (frameCrc h q ^^^ (if corrupt then 1 else 0)) 4 ++ q

def parseCtl (b : List Byte) : CtlMsg := ⟨b.headD 0, BitVec.ofNat 56 (fieldLE b 1 7), BitVec.ofNat 64 (fieldLE b 8 8)⟩

def parseSlot (h : Nat) (data : List Byte) : FrameSlot :=
  if !h.testBit 15 then emptySlot
  else ⟨true, h.testBit 14, h.testBit 13, BitVec.ofNat 4 (bits h 9 6), BitVec.ofNat 6 h, BitVec.ofNat 8 (bits h 31 24),
    BitVec.ofNat 32 (h / 2 ^ 32), data.take (8 * bits h 23 16)⟩

/-- The frame that protected bytes hold, if their CRC checks. Empty control positions carry nothing. -/
def parseFrame (b : List Byte) : Option Frame :=
  let flags := fieldLE b 4 1
  let q := b.drop 0x70
  if frameCrc (b.take 0x6C) q ≠ fieldLE b 0x6C 4 then none
  else
    let heads := (pieces 8 50 q).map (fun h => fieldLE h 0 8)
    let slots := (heads.zip (pieces 256 50 (q.drop 400))).map (fun (h, d) => parseSlot h d)
    some ⟨BitVec.ofNat 16 (fieldLE b 0 2), BitVec.ofNat 16 (fieldLE b 2 2), flags.testBit 0, flags.testBit 1, flags.testBit 2,
      BitVec.ofNat 64 (fieldLE b 8 8), ((pieces 16 5 (b.drop 0x10)).map parseCtl).filter (· != emptyCtl), slots⟩

/-! Hawser packets (Table 11.4). -/

/-- Header bytes. -/
def hwHeader (type flags dconn sconn len gen psn ackpsn winadv stream job step attempt beat : Nat) : List Byte :=
  leBytes 1 1 ++ leBytes type 1 ++ leBytes flags 2 ++ leBytes dconn 1 ++ leBytes sconn 1 ++ leBytes len 2 ++ leBytes gen 4 ++
    leBytes psn 4 ++ leBytes ackpsn 4 ++ leBytes winadv 2 ++ leBytes stream 1 ++ leBytes job 1 ++ leBytes step 8 ++
    leBytes attempt 1 ++ List.replicate 7 0 ++ leBytes beat 8

def HwPacket.flags (p : HwPacket) : Nat :=
  flagBit p.poison 0 + flagBit p.last 1 + flagBit p.ceEcho 2 + flagBit p.retx 3 + flagBit p.nak 4

/-- The header of a packet of a TYPE. -/
def HwPacket.head (p : HwPacket) (type : Nat) : List Byte :=
  hwHeader type p.flags p.dconn.toNat p.sconn.toNat p.payload.length p.gen.toNat p.psn.toNat p.ackpsn.toNat p.winadv.toNat
    p.stream.toNat p.job.toNat p.step.toNat p.attempt.toNat p.beat.toNat

/-- The datagram: header, payload and trailer; a corrupted one's trailer does not check (R344). -/
def HwPacket.bytes (p : HwPacket) (type : Nat) : List Byte :=
  let b := p.head type ++ p.payload
  b ++ leBytes (crc32c b ^^^ (if p.crcOk then 0 else 1)) 4

/-- The packet of a TYPE that a datagram holds. Another VER is dropped, and so is a LEN that is no packet's. -/
def hwParse (type : Nat) (b : List Byte) (ceMark : Bool) : Option HwPacket :=
  let f (o n : Nat) : Nat := fieldLE b o n
  let len := f 6 2
  if f 0 1 ≠ 1 ∨ f 1 1 ≠ type ∨ 8192 < len ∨ len % 8 ≠ 0 ∨ b.length ≠ 52 + len then none
  else
    let bit (k : Nat) : Bool := (f 2 2).testBit k
    some { dconn := BitVec.ofNat 6 (f 4 1), sconn := BitVec.ofNat 6 (f 5 1), poison := bit 0, last := bit 1, ceEcho := bit 2
           retx := bit 3, nak := bit 4, gen := BitVec.ofNat 32 (f 8 4), psn := BitVec.ofNat 32 (f 12 4)
           ackpsn := BitVec.ofNat 32 (f 16 4), winadv := BitVec.ofNat 16 (f 20 2), stream := BitVec.ofNat 6 (f 22 1)
           job := BitVec.ofNat 4 (f 23 1), step := BitVec.ofNat 64 (f 24 8), attempt := BitVec.ofNat 8 (f 32 1)
           beat := BitVec.ofNat 64 (f 40 8), payload := (b.drop 48).take len, ceMark
           crcOk := crc32c (b.take (48 + len)) == fieldLE b (48 + len) 4 }

/-! GF(2^8) with field polynomial 0x11D and α = 2. -/

def xtimes (a : Nat) : Nat := if a < 128 then 2 * a else (2 * a) ^^^ 0x11D
def gmulN : Nat → Nat → Nat → Nat
  | 0, _, _ => 0
  | n + 1, a, b => (if b % 2 = 1 then a else 0) ^^^ gmulN n (xtimes a) (b / 2)
def gmul (a b : Nat) : Nat := if a = 0 then 0 else gmulN 8 a b
def gpow (a : Nat) : Nat → Nat
  | 0 => 1
  | n + 1 => gmul (gpow a n) a
def alpha (k : Nat) : Nat := gpow 2 (k % 255)
def ginv (a : Nat) : Nat := gpow a 254

/-- Value at x of a polynomial, lowest coefficient first. -/
def polyAt (p : List Nat) (x : Nat) : Nat := p.foldr (fun c a => gmul a x ^^^ c) 0
/-- p + k x^m q. -/
def polyAdd (p : List Nat) (k m : Nat) (q : List Nat) : List Nat :=
  (List.range (max p.length (q.length + m))).map (fun i => p.getD i 0 ^^^ (if m ≤ i then gmul k (q.getD (i - m) 0) else 0))
/-- p q mod x^n. -/
def polyMul (n : Nat) (p q : List Nat) : List Nat :=
  (List.range n).map (fun i => (List.range (i + 1)).foldl (fun a j => a ^^^ gmul (p.getD j 0) (q.getD (i - j) 0)) 0)

/-! RS(224,208). The first byte of a codeword is its highest coefficient. -/

/-- The product of (x - α^i) for i below n, highest coefficient first. -/
def rsGen : Nat → List Nat
  | 0 => [1]
  | n + 1 => let g := rsGen n; (List.zipWith (· ^^^ ·) (g ++ [0]) (0 :: g.map (gmul (alpha n))))

/-- The 16 parity bytes of 208 bytes: the remainder by the generator polynomial. -/
def rsParity (w : List Nat) : List Nat :=
  let g := (rsGen 16).drop 1
  w.foldl (fun r d =>
    let k := d ^^^ r.headD 0
    List.zipWith (· ^^^ ·) (r.drop 1 ++ [0]) (g.map (gmul · k))) (List.replicate 16 0)

def syndrome (w : List Nat) (j : Nat) : Nat := let a := alpha j; w.foldl (fun s d => gmul s a ^^^ d) 0
def syndromes (w : List Nat) : List Nat := (List.range 16).map (syndrome w)

/-- Step n of Berlekamp and Massey: locator, its last rival, its length, the rival's age and discrepancy. -/
def locStep (s : List Nat) (x : List Nat × List Nat × Nat × Nat × Nat) (n : Nat) : List Nat × List Nat × Nat × Nat × Nat :=
  let (c, b, l, m, k) := x
  let d := (List.range (l + 1)).foldl (fun a i => a ^^^ gmul (c.getD i 0) (s.getD (n - i) 0)) 0
  if d = 0 then (c, b, l, m + 1, k)
  else
    let t := polyAdd c (gmul d (ginv k)) m b
    if 2 * l ≤ n then (t, c, n + 1 - l, 1, d) else (t, b, l, m + 1, k)

/-- The codeword with at most 8 bytes corrected, and how many were; none if it is uncorrectable. -/
def rsDecode (w : List Nat) : Option (List Nat × Nat) :=
  let s := syndromes w
  if s.all (· == 0) then some (w, 0)
  else
    let (c, _, l, _, _) := (List.range 16).foldl (locStep s) ([1], [1], 0, 1, 1)
    let roots := (List.range 224).filter (fun k => polyAt c (alpha (255 - k)) == 0)
    if 8 < l ∨ roots.length ≠ l then none
    else
      let num := polyMul 16 s c
      let den := (List.range c.length).map (fun i => if i % 2 = 0 then c.getD (i + 1) 0 else 0)
      let fix (k : Nat) : Nat :=
        let x := alpha (255 - k)
        gmul (gmul (alpha k) (polyAt num x)) (ginv (polyAt den x))
      let v := w.mapIdx (fun i d => if roots.contains (223 - i) then d ^^^ fix (223 - i) else d)
      if (syndromes v).all (· == 0) then some (v, l) else none

/-- The 14,336 coded bytes of the protected ones. -/
def codedBytes (b : List Byte) : List Byte :=
  (pieces 208 64 b).flatMap (fun w => w ++ (rsParity (w.map (·.toNat))).map (BitVec.ofNat 8))

/-- The protected bytes of coded ones, and how many bytes decoding corrected; none with an uncorrectable codeword. -/
def uncode (b : List Byte) : Option (List Byte × Nat) :=
  (pieces 224 64 b).foldr (fun w r =>
    match r, rsDecode (w.map (·.toNat)) with
    | some (l, n), some (v, k) => some ((v.take 208).map (BitVec.ofNat 8) ++ l, n + k)
    | _, _ => none) (some ([], 0))

/-! Lanes: byte n on lane n mod 8, its bits [7:6] first, scrambled by 1 + x^39 + x^58, as Gray-coded PAM4. -/

def byteBits (b : Byte) : List Bool := (List.range 8).map (fun i => b.toNat.testBit (7 - i))
def bitsByte (l : List Bool) : Byte := BitVec.ofNat 8 (l.foldl (fun n b => 2 * n + if b then 1 else 0) 0)

/-- The last 58 bits on the lane, the latest lowest, with one bit more. -/
def shiftIn (st : Nat) (b : Bool) : Nat := (2 * st + if b then 1 else 0) % 2 ^ 58
/-- What the scrambler adds to a bit. -/
def scramBit (st : Nat) : Bool := st.testBit 38 ^^ st.testBit 57

def scramble : Nat → List Bool → List Bool
  | _, [] => []
  | st, b :: l => let x := b ^^ scramBit st; x :: scramble (shiftIn st x) l
def descramble : Nat → List Bool → List Bool
  | _, [] => []
  | st, x :: l => (x ^^ scramBit st) :: descramble (shiftIn st x) l

def symOf (hi lo : Bool) : Pam4 := match hi, lo with
  | false, false => .m3 | false, true => .m1 | true, true => .p1 | true, false => .p3
def symBits : Pam4 → List Bool
  | .m3 => [false, false] | .m1 => [false, true] | .p1 => [true, true] | .p3 => [true, false]
/-- Polarity inverted. -/
def pamFlip : Pam4 → Pam4
  | .m3 => .p3 | .m1 => .p1 | .p1 => .m1 | .p3 => .m3

def toSyms : List Bool → List Pam4
  | hi :: lo :: l => symOf hi lo :: toSyms l
  | _ => []

/-- Symbols of one lane, from its bytes and scrambler state. -/
def laneSyms (st : Nat) (l : List Byte) : List Pam4 := toSyms (scramble st (l.flatMap byteBits))
/-- Bytes of one lane, from its symbols and descrambler state. -/
def laneBytes (st : Nat) (l : List Pam4) : List Byte :=
  (pieces 8 (l.length / 4) (descramble st (l.flatMap symBits))).map bitsByte

/-- The scrambler or descrambler state after symbols have passed. -/
def laneNext (st : Nat) (l : List Pam4) : Nat := (l.flatMap symBits).foldl shiftIn st

/-- The eight lanes of a frame's coded bytes. -/
def toLanes (st : Tab Nat) (coded : List Byte) : List (List Pam4) :=
  (List.range 8).map (fun k => laneSyms (tget z0 st k) ((pieces 8 1792 coded).map (·.getD k 0)))

/-- Coded bytes of lanes in their order. -/
def ofLanes (st : Tab Nat) (ls : List (List Pam4)) : List Byte :=
  weave 0 1792 (ls.mapIdx (fun k l => laneBytes (tget z0 st k) l))

/-- The state of all lanes after symbols have passed. -/
def lanesNext (st : Tab Nat) (ls : List (List Pam4)) : Tab Nat :=
  (ls.zipIdx.take 8).foldl (fun st (l, k) => tput z0 st k (laneNext (tget z0 st k) l)) st

/-- Lane order and polarity as training found them. -/
def straighten (w : Wiring) (ls : List (List Pam4)) : List (List Pam4) :=
  (if w.reversed then ls.reverse else ls).mapIdx (fun k l => if w.inverted.getLsbD k then l.map pamFlip else l)

/-- A frame from its lanes, with the bytes that decoding corrected; none for a failed one. -/
def deframe (st : Tab Nat) (ls : List (List Pam4)) : Option (Nat × Frame) :=
  if ls.length ≠ 8 ∨ !ls.all (fun l => l.length == 7168) then none
  else match uncode (ofLanes st ls) with
    | none => none
    | some (b, n) => (parseFrame b).map (fun f => (n, f))

end Sys2Proof.Machine
end

