-- ==== Sys2Proof/Machine/NetState.lean ====
section
/-! DEFINITION. The state of the tether links and the pod's groups (R297 to R314, R438, R439), of the reduction engines
(R335 to R337), the ports, QPs and Hawser connections (R319 to R333), the services (R366 to R369) and the commands
that wait for a splice (R382, R385, R340). -/

namespace Sys2Proof.Machine

/-- Bytes with their poison marks, as they travel (R299, R261). -/
abbrev Marked := List (Byte × Bool)

/-! Tether links. -/

/-- A frame in the replay buffer, how often it has been resent, and the beat time of its last transmission (R303,
R304). -/
structure SentFrame where
  frame   : Frame
  resends : Nat
  at_     : Nat
  deriving DecidableEq, Repr

/-- A decoded frame whose slots become available at a beat time (R302). -/
structure Arrived where
  avail : Nat
  late  : Bool
  frame : Frame
  deriving DecidableEq, Repr

structure Link where
  /-- FSEQ of the next new frame, and of the last frame received in order -/
  txSeq   : W16
  rxSeq   : W16
  /-- a frame failed: NAK in every frame sent until its REPLAY arrives (R303) -/
  nak     : Bool
  /-- replay buffer, oldest first, and FSEQs to resend -/
  sent    : List SentFrame
  resend  : List W16
  frameTime : Nat
  /-- control messages waiting (R311) -/
  ctl     : List CtlMsg
  /-- SSEQ by owner code (R299) -/
  sseq    : Tab Byte
  /-- consecutive frames good and failing, FSEQ of the last good one, and beat time + 1 at which lock was lost (R297) -/
  good    : Nat
  bad     : Nat
  lockSeq : W16
  lostAt  : Nat
  arrived : List Arrived
  /-- INJECT.FRAME armed (R316) -/
  corrupt : Bool
  /-- a carrying link's next frame is the failed link's (R306) -/
  turn    : Bool
  /-- frames since the last comparison of beat times (R309) -/
  compared : Nat
  /-- echo round trips measured (R311) -/
  echoes  : List Nat
  /-- the 64 echoes of training are done (R314) -/
  measured : Bool
  /-- the frame last put on the lanes, whether intact (R316), its symbols, and the time + 1 at which it started -/
  out     : Option Frame
  outOk   : Bool
  lanes   : List (List Pam4)
  sentAt  : Nat
  /-- scrambler and descrambler of each lane, and the lanes' wiring as training found it (R297) -/
  scrTx   : Tab Nat
  scrRx   : Tab Nat
  wiring  : Wiring
  /-- FSEQ that the peer last acknowledged, and frame time + 1 of the last frame accepted, by which frames that the
  partner sends again are told from new ones (R306) -/
  acked   : W16
  lastTime : Nat
  /-- the link has failed with this cause and awaits its fencing (R304) -/
  failing : Option Nat
  deriving DecidableEq, Repr

def link0 : Nat → Link := fun _ =>
  { txSeq := 0, rxSeq := 0xFFFF, nak := false, sent := [], resend := [], frameTime := 0, ctl := [], sseq := [], good := 0, bad := 0
    lockSeq := 0, lostAt := 0, arrived := [], corrupt := false, turn := false, compared := 0, echoes := [], measured := false
    out := none, outOk := true, lanes := [], sentAt := 0, scrTx := [], scrRx := [], wiring := ⟨false, 0⟩, acked := 0xFFFF
    lastTime := 0, failing := none }

/-- An alignment group on this chip (R312, R438, R439). Sources are numbered: directions 0 to 5, connections 64 + k. -/
structure Group where
  seq      : W16
  gathered : List Nat
  ready    : Nat
  sentG    : Bool
  /-- step and attempt whose PASS is collected, and its sources -/
  step     : Nat
  attempt  : Nat
  passed   : List Nat
  sentP    : Bool
  /-- last attempt for which FAIL was forwarded, retracted, sealed: step x 256 + attempt + 1 -/
  failed   : Nat
  retracted : Nat
  sealed   : Nat
  quiesced : List Nat
  sentQ    : Bool
  /-- originator as in FAIL bytes 3 to 5 -/
  origin   : Nat
  /-- at the seal root: the last attempt for which RETRACT was sent, and RESTART -/
  answered : Nat
  restarted : Nat
  /-- at the seal root: connections from which pod roots have sent messages of the group -/
  roots    : List Nat
  deriving DecidableEq, Repr

def group0 : Nat → Group := fun _ => ⟨0, [], 0, false, 0, 0, [], false, 0, 0, 0, [], false, 0, 0, 0, []⟩

/-! Reduction engines. -/

/-- A stream: entries waiting by input, beats of the running entry already combined, its output so far, and output
entries not yet sent, by tether link, and by 64 toward its Hawser connection (R336, R337). -/
structure RStream where
  ins     : Tab (List Marked)
  beat    : Nat
  acc     : Marked
  stopped : Bool
  outs    : Tab (List (Marked × Nat))
  deriving DecidableEq, Repr

def rstream0 : Nat → RStream := fun _ => ⟨[], 0, [], false, []⟩
def noIns : Nat → List Marked := fun _ => []
def noOuts : Nat → List (Marked × Nat) := fun _ => []

/-! Ethernet. -/

/-- A pacing rate of num / 4^k bit/s (R322), with the beat times + 1 of its last cut and last raise. -/
structure Pace where
  num  : Nat
  k    : Nat
  cut  : Nat
  tick : Nat
  deriving DecidableEq, Repr

/-- A packet in a connection's send queue (R331): where it starts there, its fields, its payload bytes' poison. -/
structure HwSent where
  psn    : W32
  at_    : BitVec 40
  len    : Nat
  ctrl   : Bool
  poison : Bool
  last   : Bool
  stream : Nat
  job    : Nat
  step   : W64
  attempt : Nat
  times  : Nat
  deriving DecidableEq, Repr

/-- A Hawser connection (R329 to R333). Times are beat times. -/
structure Conn where
  /-- 0 closed, 1 open, 2 SUSPECT, 3 DOWN (Table 11.9) -/
  state   : Nat
  port    : Nat
  /-- the peer's number of the connection, as its packets give it -/
  far     : BitVec 6
  /-- PSN of the next packet built, and of the next to transmit -/
  built   : W32
  next    : W32
  acked   : W32
  winadv  : Nat
  packets : List HwSent
  /-- when Q last advanced, or a transmission began with nothing outstanding -/
  qAt     : Nat
  expect  : W32
  /-- entries in the making, delivered packet by packet, by destination stream -/
  part    : Tab Marked
  commits : Nat
  /-- when the next ACK is due -/
  ackAt   : Nat
  nakDue  : Bool
  ceEcho  : Bool
  /-- time + 1 at which the last HELLO left (R333) -/
  helloAt : Nat
  hellos  : Nat
  rttSum  : Nat
  srtt    : W32
  timeouts : Nat
  heard   : Nat
  pace    : Pace
  /-- from when pacing lets the next DATA go -/
  paceAt  : Nat
  ctl     : List CtlMsg
  /-- the packet last put on the wire, with its TYPE -/
  out     : Option (Nat × HwPacket)
  deriving DecidableEq, Repr

def pace0 : Pace := ⟨200000000000, 0, 0, 0⟩

def conn0 : Nat → Conn := fun _ =>
  { state := 0, port := 0, far := 0, built := 0, next := 0, acked := 0, winadv := 0, packets := [], qAt := 0, expect := 0
    part := [], commits := 0, ackAt := 0, nakDue := false, ceEcho := false, helloAt := 0, hellos := 0, rttSum := 0, srtt := 0, timeouts := 0, heard := 0
    pace := pace0, paceAt := 0, ctl := [], out := none }

/-- An RC QP (R323): 0 idle, 1 connecting, 2 connected, 3 error; the port it was connected on, the peer's address, the path
MTU as 1,024 x 2^mtu, its pace, time from which that lets data go, and time + 1 of the last CNP sent for it. -/
structure Qp where
  state : Nat
  port  : Nat
  peer  : BitVec 128
  mtu   : Nat
  pace  : Pace
  paceAt : Nat
  cnpAt : Nat
  deriving DecidableEq, Repr

def qp0 : Nat → Qp := fun _ => ⟨0, 0, 0, 0, pace0, 0, 0⟩

/-- What an RDMA request or a message was answered (R323, R324). -/
inductive Reply where
  | none | ok | accessError | invalid | discarded
  | data (bs : List Byte)
  deriving DecidableEq, Repr

/-- What a frame sent carries (R320 to R328, R330): an echo answer; an answer or request of address resolution; an LLDPDU; a
CNP of a QP; a PTP event message with its timestamp; a pause; an answer on a QP, whole or the last part of one; a message of
connection management; an RDMA request of a service; a Hawser datagram with its UDP source port. -/
inductive TxBody where
  | echo
  | neighbour (addr : BitVec 128)
  | lldp (bytes : List Byte)
  | cnp (qp : Nat)
  | ptp (oneStep : Bool) (stamp : W64)
  | pause (tc quanta : Nat)
  | roce (qp : Nat) (r : Reply) (last : Bool)
  | cm (qp : Nat)
  | hawser (sport : Nat) (bytes : List Byte)
  deriving DecidableEq, Repr

/-- The IP header of a frame sent (R320, R322). IPv4 addresses stand as ::ffff:a.b.c.d. -/
structure TxIp where
  src  : BitVec 128
  dst  : BitVec 128
  dscp : Nat
  ecn  : Bool
  df   : Bool
  hops : Nat
  deriving DecidableEq, Repr

/-- A frame sent, or waiting to be (R318 to R322): its class, source and, once resolved, destination MAC, VLAN and PCP, IP
header, next hop, the time from which its pace lets it go, and what it carries. -/
structure TxFrame where
  tc    : Nat
  src   : BitVec 48
  dst   : Option (BitVec 48)
  vlan  : Nat
  pcp   : Nat
  ip    : Option TxIp
  hop   : BitVec 128
  after : Nat
  body  : TxBody
  deriving DecidableEq, Repr

def noTx : Nat → List TxFrame := fun _ => []
def noSent : Nat → Option TxFrame := fun _ => none
def noStamp : Nat → W64 × Bool := fun _ => (0, false)

structure Net where
  links   : Tab Link
  groups  : Tab Group
  streams : Tab RStream
  conns   : Tab Conn
  qps     : Tab Qp
  /-- bytes of a tether entry received so far, by link x 4,096 + RE x 2,048 + job x 64 + RQ -/
  asm     : Tab Marked
  /-- neighbour caches of hub dies A and B (R320) -/
  cacheA  : List (BitVec 128 × BitVec 48)
  cacheB  : List (BitVec 128 × BitVec 48)
  /-- classes paused by the peer, by port x 8 + sub-port x 4 + class: until which time (R321); those that this port
  pauses, by the same key -/
  paused  : Tab Nat
  pausing : List Nat
  /-- frames that wait for a pause, a pace or a neighbour's address, by the same key -/
  txq     : Tab (List TxFrame)
  /-- by port x 2 + sub-port: the last timestamp of a PTP event message, corrected, and whether of one step (R326) -/
  stamps  : Tab (W64 × Bool)
  /-- LLDP neighbours, by port x 2 + sub-port: Chassis ID and Port ID (R328) -/
  lldp    : Tab (W64 × W64)
  /-- armed injections of port n: bit 0 DROP, bit 1 CRC (R344) -/
  inject  : Tab Nat
  reply   : Reply
  /-- the frame that a port or sub-port sent last, by port x 2 + sub-port -/
  sent    : Tab (Option TxFrame)
  /-- beat time + 1 at which holdover began (R310) -/
  holdover : Nat
  /-- PTP: the offset exceeded 1 ms (R327) -/
  ptpBad  : Bool
  /-- clk + 1 at which the wait for PTP was last logged -/
  ptpLog  : Nat
  /-- MDOWN messages already forwarded (R339), and generations announced by MGEN with their effective steps (R340) -/
  mdowns  : List CtlMsg
  mgens   : List (Nat × Nat)
  /-- coordinates + 1 of the root that the last ROOT message named (R310) -/
  newRoot : Nat
  /-- what is left of a beat-time difference to slew out, in ns (R309) -/
  slew    : Int
  deriving DecidableEq, Repr

def noMarked : Nat → Marked := fun _ => []
def noLldp : Nat → W64 × W64 := fun _ => (0, 0)

def net0 : Net :=
  { links := [], groups := [], streams := [], conns := [], qps := [], asm := [], cacheA := [], cacheB := [], paused := []
    pausing := [], txq := [], stamps := [], lldp := [], inject := [], reply := .none, sent := [], holdover := 0, ptpBad := false
    ptpLog := 0, mdowns := [], mgens := [], newRoot := 0, slew := 0 }

/-! Services (R366 to R369). -/

/-- An RDMA request that a service puts out on TC1 (R367 to R369): remote address, and what it carries. -/
inductive RdmaOut where
  /-- Read of n bytes into device address a -/
  | read (raddr : W64) (n a : Nat)
  | write (raddr : W64) (data : List Byte)
  | writeImm (raddr : W64) (data : List Byte) (imm : W32)
  deriving DecidableEq, Repr

/-- 1 accepted, 2 copying (Halo), 3 moving, 4 a fetch failed by its QP; any other finished service is no longer listed. -/
structure Svc where
  type    : Nat
  job     : Nat
  qp      : Nat
  step    : Nat
  regions : List (Nat × Nat × Nat)
  raddr   : W64
  rkey    : W32
  imm     : W32
  moff    : W64
  snap    : Nat
  desc    : W64
  pair    : Nat
  seq     : Nat
  id      : W64
  phase   : Nat
  /-- bytes copied into the snapshot buffer, bytes moved, granules sent as zeros -/
  copied  : Nat
  moved   : Nat
  zeros   : Nat
  /-- the manifest that followed (Table 12.5), and beat time at which the stream of a snapshot began -/
  manifest : List Byte
  began   : Nat
  /-- its requests, in order, under RKEY; its pair has restarted since (R393) -/
  out     : List RdmaOut
  orphan  : Bool
  deriving DecidableEq, Repr

def noSvc : Nat → Option Svc := fun _ => none

/-! Commands that wait. -/

/-- A STRAND not yet complete (R385): jobs whose CHECK has still to apply, and its chip-scoped part. -/
structure PendStrand where
  pair  : Nat
  seq   : Nat
  id    : W64
  index : Nat
  jobs  : List Nat
  chip  : Bool
  deriving DecidableEq, Repr

/-- A staged peer-table update (R340). -/
structure PendPeer where
  seq   : Nat
  id    : W64
  gen   : W32
  job   : Nat
  step  : Nat
  entries : List (Nat × List Byte)
  deriving DecidableEq, Repr

/-- A LOADBRAID accepted, or waiting for SEC's check (R382, R404). -/
structure PendBraid where
  seq   : Nat
  id    : W64
  image : List Byte
  checked : Bool
  /-- it came by a LOADBRAID, and not by the fetch of the first braid -/
  cmd : Bool
  deriving DecidableEq, Repr

/-- Commands under way beyond the rings' own state. -/
structure Cmds where
  strands : List PendStrand
  /-- pending chip mode: strand index (R385) -/
  chip    : Option Nat
  peer    : Option PendPeer
  braid   : Option PendBraid
  /-- LOADPROG of a job whose binding splice is to come: pair, SEQ, ID by job -/
  loads   : Tab (Nat × Nat × W64)
  deriving DecidableEq, Repr

def noLoad : Nat → Nat × Nat × W64 := fun _ => (0, 0, 0)

end Sys2Proof.Machine
end

