-- ==== Sys2Proof/Machine/ChipState.lean ====
section
/-! DEFINITION. The state of the firmware cores and secure boot (R396 to R418), containment (R429, R442 to R444),
self-test and repair (R458 to R469), power, clocks and rails (R472 to R512), the pins and the test access port. -/

namespace Sys2Proof.Machine

/-- The fuses: the security fuses (Table 14.4), and what else the spec has fuses give. -/
structure Fuses where
  revoke   : W16
  /-- key-pair digests of owner slots 8 to 15; 0 is unprogrammed -/
  owner    : Tab Digest
  rollback : Nat
  uid      : W64
  devSecret : BitVec 256
  /-- role of each core as shipped (R6, R453): 0 enabled, 1 check core, 2 disabled by grade; unlisted, slot 8 is the check core
  and the others are enabled -/
  roles    : Tab Nat
  /-- base of the block of 32 MAC addresses (R318); IOSC trim code (R488) -/
  mac      : BitVec 48
  trim     : W16
  deriving DecidableEq, Repr

def roleShip : Nat → Nat := fun p => if p % 9 = 8 then 1 else 0

/-- The grade: cores enabled at shipment (R9). -/
def Fuses.grade (f : Fuses) : Nat := ((List.range 288).filter (fun p => tget roleShip f.roles p == 0)).length

def z384 : Nat → Digest := fun _ => 0
def noTimes : Nat → List Nat := fun _ => []

/-- What a DHCP server gave (R342, R381): address (IPv4 as ::ffff:a.b.c.d), TFTP server and boot file (DHCPv6: the URL), and the
name of the first braid where it gave one. -/
structure Lease where
  addr   : BitVec 128
  server : List Byte
  file   : List Byte
  braid  : Option (List Byte)
  deriving DecidableEq, Repr

/-- A request of network boot: protocol, vendor class of DHCP, server and file of TFTP with the block size asked for. -/
structure BootAsk where
  proto  : Nat
  vendor : List Byte
  server : List Byte
  file   : List Byte
  blksize : Nat
  deriving DecidableEq, Repr

/-- Firmware cores by number: 0 SEC, 1 PWR, 2 SCH, 3 + c CCC of cluster c. -/
structure Boot where
  /-- boot buffer with the accepted bundle (R399) -/
  buffer  : List Byte
  fuses   : Fuses
  mrom    : Digest
  mfw     : Digest
  mbraid  : Digest
  mowner  : Digest
  nonce   : List W64
  report  : List Byte
  /-- DEVSECRET can still be read: until stage 1 (R409); the device secret as the device key holds it -/
  secretOpen : Bool
  devKey  : BitVec 256
  /-- clk + 1 at which a known-answer test of the boot ROM failed, and how often that has been logged on MGMT (R409) -/
  katAt   : Nat
  katLogs : Nat
  restarted : Bool
  /-- clk of each core's crashes; crashed cores that wait for a restart, with cause and time; cores left down -/
  crashes : Tab (List Nat)
  waiting : List (Nat × Nat × Nat)
  dead    : List Nat
  /-- XSEED (R429) -/
  xseed   : W64
  /-- pause in s after the next failed attempt of DHCPv4 (0), DHCPv6 (1) and TFTP (2), unlisted 1; clk + 1 at which the
  attempt under way began; clk from which the next may (R342) -/
  backoff : Tab Nat
  tries   : Tab Nat
  nextTry : Tab Nat
  /-- what DHCPv4 and DHCPv6 gave; the request last put on MGMT; block size of the transfer, and its size where the server
  told it -/
  lease4  : Option Lease
  lease6  : Option Lease
  ask     : Option BootAsk
  blksize : Nat
  tsize   : Option Nat
  /-- the boot file has arrived; the bundle is fetched again because the boot buffer failed its check (R411) -/
  fetched : Bool
  refetch : Bool
  /-- a nonce has been taken and its report not yet posted (R418) -/
  asked   : Bool
  /-- images waiting while SEC is not running (R404): kind and bytes -/
  images  : List (ImageKind × List Byte)
  /-- clk from which the first braid is fetched again (R381) -/
  retryAt : Nat
  deriving DecidableEq, Repr

/-- A per-function reset under way (R444): function or job, whether a job. -/
structure Frst where
  target : Nat
  job    : Bool
  deriving DecidableEq, Repr

/-- Containment: cross-checks, kernels, fencing. -/
structure Contain where
  frst    : Option Frst
  /-- epoch under comparison and its participants' digests, by core; number + 1 of the last epoch whose cross-check has begun
  (R429) -/
  epoch   : Nat
  crossed : Nat
  digests : List (Nat × BitVec 128)
  /-- fills compared by a check core since its last passing cross-check (R430): its cluster, job, step, attempt -/
  compared : List (Nat × Nat × Nat × Nat)
  /-- clk of uncorrectable errors of a core (Table 15.4) -/
  ueTimes : Tab (List Nat)
  /-- main core and check core of a mismatch that failed a step, and how far their kernels are (R439): 0 neither has
  passed, 1 the main core has, 2 the check core has. 3 to 5: the same for a check core and the other participant of a
  cross-check of two whose digests differed, 6 to 8: the same for two without a check core (R429) -/
  suspects : List (Nat × Nat × Nat)
  /-- cores cleared by a reset whose kernels have still to run before service (R431, R447, R479) -/
  kats    : List Nat
  deriving DecidableEq, Repr

/-- A record of the repair table (R467): 0 row-map entry, 1 pinned hole, 2 fence. -/
structure Repair where
  core  : Nat
  kind  : Nat
  array : Nat
  row   : Nat
  fused : Bool
  deriving DecidableEq, Repr

/-- Self-test: the repair table, repair fuses, each core's place in its slice cycle (R464), full-test parts started and
done, clk + 1 of the last entry about a part that waits for its start condition (R460). -/
structure Bist where
  table  : List Repair
  fuses  : List Repair
  cycle  : Tab Nat
  started : List Nat
  done   : List Nat
  waitAt : Nat
  deriving DecidableEq, Repr

/-- A supply warning in force (R445, R446): times are clk, escAt that of the escalation. -/
structure Warn where
  rail    : Nat
  stack   : Nat
  low     : Nat
  since   : Nat
  stretch : Bool
  escalated : Bool
  escAt   : Nat
  /-- its entry of the log has been written with the effect of the reset level -/
  done    : Bool
  deriving DecidableEq, Repr

/-- A rail's regulator as PWR knows it (R510 to R512): switched on, commanded no further, clk + 1 of the OPERATION command
that waits for its effect, failures in a row, the last STATUS_WORD and telemetry. -/
structure Rail where
  on      : Bool
  dead    : Bool
  since   : Nat
  fails   : Nat
  status  : W16
  tele    : W16
  deriving DecidableEq, Repr

def rail0 : Nat → Rail := fun _ => ⟨false, false, 0, 0, 0, 0⟩

/-- An entry to DEEP or STANDBY under way (R477): its target, the steps of Table 17.5 done, an abort trigger present, and
what an abandoned entry restores: clusters that slept before, READY bits of the stacks, CLK.STATUS. -/
structure StateEntry where
  standby : Bool
  step    : Nat
  trigger : Bool
  slept   : List Nat
  wasReady  : List Nat
  clocks  : W64
  deriving DecidableEq, Repr

structure Power where
  warns   : List Warn
  rails   : Tab Rail
  /-- rails still to switch off, and on, of the bring-up under way (R510) -/
  offs    : List Nat
  ons     : List Nat
  /-- sensors' last readings in thousandths of a degree (R483), by sensor -/
  temps   : Tab Int
  /-- qualifying windows in a row: 0 crystal, 1 REFCLK (R486) -/
  windows : Tab Nat
  /-- THERMTRIP: nothing further happens until RESET_N (R483) -/
  tripped : Bool
  /-- groups HUB, CMP, HBM that are on, and that have once been good (R505, R506) -/
  groupOn : List Nat
  onceGood : List Nat
  /-- stacks in self-refresh, and whether patrol scrub is paused (Table 17.5) -/
  refresh : Bool
  paused  : Bool
  /-- transition under way (R477, R479) -/
  entry   : Option StateEntry
  waking  : Bool
  /-- a sensor has reached 105 °C and not every one is below 103 °C again (R483); the sensor and Tj of a THERMTRIP not yet
  logged (R484) -/
  hot     : Bool
  trip    : Option (Nat × Int)
  /-- the latest estimates of input power, newest first, and the last recalibration's reading, in W (R481) -/
  watts   : List Nat
  measured : W16
  deriving DecidableEq, Repr

/-- Locked TAP instructions (Table 18.11). -/
inductive TapInstr where
  | extest | idcode | samplePreload | extestPulse | extestTrain | bypass
  deriving DecidableEq, Repr

/-- Pins and the TAP (R502 to R507, R519, R520). -/
structure Pins where
  resetN  : Bool
  pgAon   : Bool
  pgHub   : Bool
  pgCmp   : Bool
  pgHbm   : Bool
  thermtripN : Bool
  mgmt10g : Bool
  refsel  : Bool
  ssc     : Bool
  tap     : TapInstr
  /-- RESET_N rose while a test instruction was in force: the chip stays in reset (R520) -/
  tapHold : Bool
  /-- boundary-scan register, and whether its cells drive the pins -/
  scan    : BitVec 17
  drive   : Bool
  deriving DecidableEq, Repr

/-- The lease whose boot file is taken: DHCPv4's before DHCPv6's (R342). -/
def Boot.lease (b : Boot) : Option Lease := b.lease4.orElse (fun _ => b.lease6)
/-- MGMT's address. -/
def Boot.bound (b : Boot) : BitVec 128 := (b.lease.map (·.addr)).getD 0

def boot0 : Boot :=
  { buffer := [], fuses := ⟨0, [], 0, 1, 0, [], 0x02005E000000, 0⟩, mrom := 0, mfw := 0, mbraid := 0, mowner := 0, nonce := [0, 0, 0, 0], report := []
    secretOpen := true, devKey := 0, katAt := 0, katLogs := 0
    restarted := false, crashes := [], waiting := [], dead := [], xseed := 0, backoff := [], tries := [], nextTry := [], lease4 := none, lease6 := none
    ask := none, blksize := 512, tsize := none
    fetched := false, refetch := false, asked := false, images := []
    retryAt := 0 }
def contain0 : Contain := ⟨none, 0, 0, [], [], [], [], []⟩
def bist0 : Bist := ⟨[], [], [], [], [], 0⟩
def power0 : Power := ⟨[], [], [], [], [], [], false, [], [], false, false, none, false, false, none, [], 0⟩
def pins0 : Pins := ⟨false, true, false, false, false, true, false, false, false, .idcode, false, 0, false⟩

end Sys2Proof.Machine
end

