-- ==== Sys2Proof/Machine/Csr.lean ====
section
/-! DEFINITION. The CSR blocks: function numbers (R374), what a write does to each register's bits (R16, Table 0.3,
with the access codes of every register table) and what each register reads at reset. Every register is addressed by
one number, function number x 4096 + offset. -/

namespace Sys2Proof.Machine

/-- The kinds of block of Table 13.18. -/
inductive Blk where
  | chip | pwr | clk | sec | sch | log | ledger | pagemap | bist | hbm | eth | mgmt | tether | re | cluster | core
  deriving DecidableEq, Repr

/-- Table 13.18: the block of a function number. -/
def blkOf (f : Nat) : Option Blk :=
  if f = 0 then some .chip else if f = 1 then some .pwr else if f = 2 then some .clk else if f = 3 then some .sec
  else if f = 4 then some .sch else if f = 5 then some .log else if f = 6 then some .ledger
  else if f = 7 then some .pagemap else if f = 8 then some .bist
  else if 0x010 ≤ f ∧ f < 0x018 then some .hbm
  else if 0x020 ≤ f ∧ f < 0x028 then some .eth
  else if f = 0x028 then some .mgmt
  else if 0x030 ≤ f ∧ f < 0x048 then some .tether
  else if 0x050 ≤ f ∧ f < 0x058 then some .re
  else if 0x100 ≤ f ∧ f < 0x120 then some .cluster
  else if 0x200 ≤ f ∧ f < 0x320 then some .core
  else none

/-! Function numbers (R30, R33, R294, R318, R374). -/
def fnChip : Nat := 0
def fnPwr : Nat := 1
def fnClk : Nat := 2
def fnSec : Nat := 3
def fnSch : Nat := 4
def fnLog : Nat := 5
def fnLedger : Nat := 6
def fnPagemap : Nat := 7
def fnBist : Nat := 8
def fnHbm (n : Nat) : Nat := 0x010 + n
def fnEth (n : Nat) : Nat := 0x020 + n
def fnMgmt : Nat := 0x028
def fnTether (n : Nat) : Nat := 0x030 + n
def fnRe (n : Nat) : Nat := 0x050 + n
def fnCluster (c : Nat) : Nat := 0x100 + c
def fnCore (p : Nat) : Nat := 0x200 + p

/-- The number of the register at offset off of function f. -/
def rg (f off : Nat) : Nat := f * 4096 + off

/-- Bits of a register by access code: those that take the written value (RW), those a 1 clears (W1C), and those
that act and read zero (WO). Every other bit keeps its value. -/
structure Acc where
  rw  : Nat
  w1c : Nat
  wo  : Nat
  deriving DecidableEq, Repr

/-- The access codes of the register tables. -/
def accOf (b : Blk) (o : Nat) : Acc :=
  match b with
  | .ledger =>
    if o = 0x000 then ⟨0x0, 0x2, 0x0⟩ else -- STATUS, R66
    if o = 0x020 then ⟨0x1, 0x0, 0x0⟩ else -- CTRL, R66
    if o = 0x100 then ⟨0xFF, 0x0, 0x0⟩ else -- AGE_LIMIT, R67
    if o = 0x108 then ⟨0x1FF, 0x0, 0x0⟩ else -- PEEK_SEL, R67
    ⟨0, 0, 0⟩
  | .core =>
    if o = 0x020 then ⟨0x1, 0x0, 0x0⟩ else -- CTRL, R138
    if o = 0x040 then ⟨0x0, 0xF0000, 0x0⟩ else -- ARRSTAT, R138
    if 0x400 ≤ o ∧ o < 0x420 then ⟨0xFFFF, 0x0, 0x0⟩ else -- ROWMAPn, R140
    if o = 0x0A0 then ⟨0x0, 0x10000000000, 0x0⟩ else -- FAULT, R170
    if o = 0x108 then ⟨0xFFFFFFFF, 0x0, 0x0⟩ else -- WAITLIMIT, R171
    if o = 0x110 then ⟨0x3, 0x0, 0x0⟩ else -- XCHCTL, R231
    ⟨0, 0, 0⟩
  | .cluster =>
    if o = 0x020 then ⟨0x1, 0x0, 0x0⟩ else -- CTRL, R263
    if o = 0x040 then ⟨0x0, 0x10000000000, 0x0⟩ else -- SFAULT, R263
    if o = 0x100 then ⟨0xFFFFFFFF, 0x0, 0x0⟩ else -- HOLDLIMIT, R292
    if o = 0x108 then ⟨0x0, 0x0, 0x1⟩ else -- CHKINJECT, R455
    ⟨0, 0, 0⟩
  | .hbm =>
    if o = 0x020 then ⟨0x1, 0x0, 0x0⟩ else -- CTRL, R264
    if o = 0x100 then ⟨0xFFFF, 0x0, 0x0⟩ else -- SCRUB, R265
    if o = 0x108 then ⟨0x3F, 0x0, 0x0⟩ else -- HOTCFG, R265
    if o = 0x110 then ⟨0x0, 0x0, 0x3FFFFFFFFF⟩ else -- INJECT, R265
    ⟨0, 0, 0⟩
  | .pagemap =>
    if o = 0x020 then ⟨0x1, 0x0, 0x0⟩ else -- CTRL, R266
    if o = 0x100 then ⟨0xFFFF, 0x0, 0x0⟩ else -- RETIRE, R266
    if o = 0x108 then ⟨0x1FFFFF, 0x0, 0x0⟩ else -- ENTRY_SEL, R266
    if o = 0x110 then ⟨0xFFFFFFFFFFFFFFFF, 0x0, 0x0⟩ else -- ENTRY_DATA, R266
    ⟨0, 0, 0⟩
  | .sch =>
    if o = 0x018 then ⟨0x0, 0x10000000000, 0x0⟩ else -- BINDFAULT, R289
    if o = 0x020 then ⟨0x1, 0x0, 0x0⟩ else -- CTRL, R289
    if o = 0x100 then ⟨0xFFFFFFFF, 0x0, 0x0⟩ else -- AGE, R290
    if o = 0x108 then ⟨0xFFF, 0x0, 0x0⟩ else -- HALORATE, R371
    if o = 0x058 then ⟨0x0, 0x10000000000, 0x0⟩ else -- RINGFAULT, R394
    if o = 0x110 then ⟨0x0, 0x0, 0xFF⟩ else -- RINGRST, R395
    ⟨0, 0, 0⟩
  | .tether =>
    if o = 0x020 then ⟨0x1, 0x0, 0x0⟩ else -- CTRL, R315
    if o = 0x100 then ⟨0xFF, 0x0, 0x0⟩ else -- RETRYCFG, R316
    if o = 0x108 then ⟨0x0, 0x0, 0x3⟩ else -- INJECT, R316
    ⟨0, 0, 0⟩
  | .eth =>
    if o = 0x020 then ⟨0x1, 0x0, 0x0⟩ else -- CTRL, R343
    if o = 0x100 then ⟨0x3F, 0x0, 0x0⟩ else -- CONNSEL, R344
    if o = 0x118 then ⟨0x0, 0x0, 0x3⟩ else -- INJECT, R344
    ⟨0, 0, 0⟩
  | .mgmt =>
    if o = 0x020 then ⟨0x1, 0x0, 0x0⟩ else -- CTRL, R345
    ⟨0, 0, 0⟩
  | .re =>
    if o = 0x020 then ⟨0x1, 0x0, 0x0⟩ else -- CTRL, R346
    if o = 0x058 then ⟨0x0, 0x10000000000, 0x0⟩ else -- FAULTREC, R346
    if o = 0x100 then ⟨0x7, 0x0, 0x0⟩ else -- STREAMSEL, R346
    ⟨0, 0, 0⟩
  | .chip =>
    if o = 0x020 then ⟨0x1, 0x0, 0x0⟩ else -- CTRL, R375
    if o = 0x040 then ⟨0x43FF, 0x0, 0x2000⟩ else -- FRST, R452
    ⟨0, 0, 0⟩
  | .sec =>
    if o = 0x020 then ⟨0x1, 0x0, 0x0⟩ else -- CTRL, R419
    if 0x040 ≤ o ∧ o < 0x060 then ⟨0xFFFFFFFFFFFFFFFF, 0x0, 0x0⟩ else -- NONCEi, R419
    ⟨0, 0, 0⟩
  | .log =>
    if o = 0x020 then ⟨0x1, 0x0, 0x0⟩ else -- CTRL, R457
    if o = 0x100 then ⟨0x3, 0x0, 0x0⟩ else -- LEVEL, R457
    if o = 0x108 then ⟨0x0, 0x0, 0xFFFFFFFFFFFFFFFF⟩ else -- INJECT, R457
    ⟨0, 0, 0⟩
  | .bist =>
    if o = 0x020 then ⟨0x1, 0x0, 0x0⟩ else -- CTRL, R470
    if o = 0x028 then ⟨0x0, 0x10000000000, 0x0⟩ else -- LASTFAIL, R470
    if o = 0x100 then ⟨0x0, 0x0, 0x1⟩ else -- FUSECMD, R471
    if o = 0x108 then ⟨0x1, 0x0, 0x0⟩ else -- SLICECFG, R471
    ⟨0, 0, 0⟩
  | .pwr =>
    if o = 0x008 then ⟨0x0, 0x0, 0x3⟩ else -- STATEREQ, R493
    if o = 0x020 then ⟨0x1, 0x0, 0x0⟩ else -- CTRL, R493
    if o = 0x030 then ⟨0x0, 0x8000000000000000, 0x0⟩ else -- THERM, R493
    if o = 0x100 then ⟨0x3FF03FF, 0x0, 0x0⟩ else -- LIMITER, R494
    if o = 0x108 then ⟨0x7F, 0x0, 0x0⟩ else -- THROTFORCE, R494
    ⟨0, 0, 0⟩
  | .clk =>
    if o = 0x020 then ⟨0x1, 0x0, 0x0⟩ else -- CTRL, R495
    if o = 0x100 then ⟨0x1, 0x0, 0x0⟩ else -- IOSCCFG, R496
    ⟨0, 0, 0⟩

/-- The reset value of a register: of the tables, and for the fields the tables call 'fuse' those of the part this
model's reset names, a ZV1-T256-L whose slots 0 to 7 are enabled and whose check core is slot 8 in every cluster, with
physical bank 32 as the hole (DESIGN CHOICE, log entry 4). -/
def csrResetVal (b : Blk) (f o : Nat) : W64 :=
  match b with
  | .ledger => if o = 0x100 then 16 else 0
  | .core =>
    if o = 0x108 then 0x1000000 else if o = 0x0D8 then 32
    else if o = 0x0E8 then (if (f - 0x200) % 9 = 8 then 1 else 0) else 0
  | .hbm => if o = 0x100 then 24 else if o = 0x108 then 16 else 0
  | .pagemap => if o = 0x100 then 1 else 0
  | .sch => if o = 0x100 then 0x40804020 else if o = 0x108 then 100 else 0
  | .cluster => if o = 0x100 then 10000 else if o = 0x0A0 then BitVec.ofNat 64 (f - 0x100) else 0
  | .tether => if o = 0x100 then 8 else 0
  | .chip =>
    if o = 0x000 then 0x2E5A0001 else if o = 0x008 then 0x01001010 else if o = 0x030 then 0xFFFFFFFF
    else if o = 0x050 then 256 else 0
  | .pwr => if o = 0x010 then 0x64000000000 else if o = 0x100 then 0x2A8026C else 0
  | _ => 0

def csrReset (k : Nat) : W64 :=
  match blkOf (k / 4096) with
  | none => 0
  | some b => csrResetVal b (k / 4096) (k % 4096)

/-- What a register holds after a write of w over the held value v (Table 0.3): WO bits hold nothing. -/
def accWrite (a : Acc) (v w : W64) : W64 :=
  let rw := BitVec.ofNat 64 a.rw
  ((v &&& ~~~ rw) ||| (w &&& rw)) &&& ~~~ (BitVec.ofNat 64 a.w1c &&& w)

end Sys2Proof.Machine
end

