-- ==== Sys2Proof/Machine/State.lean ====
section
/-! DEFINITION. State: the block's registers, memories, queues, modes and pins, and the queue of waiting commands. -/

namespace Sys2Proof.Machine

/-- What ends a run. -/
inductive Fault where
  /-- R391: a controller of another firmware major gives undefined behaviour; raised by the commands of Table 13.11, HELLO and
  NOP apart, of a pair whose last HELLO named one. Safe: the machine stops where the spec gives no effect. -/
  | controllerMajor
  deriving DecidableEq, Repr

inductive Refusal where
  /-- Raised by the arms of Dispatch whose meaning is not written. Safe. -/
  | notModelled (mnemonic : String)
  deriving DecidableEq, Repr

structure State where
  pending   : List Instr
  /-- draws taken of Config.freeValue -/
  free      : Nat
  clk       : Nat
  beat      : W64
  csr       : Tab W64
  /-- values in force of the registers whose writes wait for a splice (R140, R171, R231, R290, R292) -/
  inForce   : Tab W64
  /-- HBM, scratchpads, bundle memories, by device address (R372, R373) -/
  mem       : Mem
  /-- poisoned scratchpad bytes and HBM granules, by device address (R235, R259) -/
  poison    : List Nat
  /-- bit errors waiting in 8-byte words and granules, by device address: 1 corrected, 2 not (R235, R259) -/
  upset     : Tab Nat
  /-- mailboxes, by cluster x 65,536 + byte, with their poison -/
  mbx       : Mem
  mbxPoison : List Nat
  cores     : Tab Core
  clusters  : Tab Cluster
  jobs      : Tab Job
  ledger    : Ledger
  hbm       : Hbm
  log       : LogBuf
  /-- corrected errors since the last entry 0x31 of function x 16 + memory, and its clk + 1 (Table 15.8) -/
  ceLog     : Tab (Nat × Nat)
  rings     : Rings
  netq      : Tab (List NetEntry)
  braid     : Braid
  net       : Net
  svc       : Tab (Option Svc)
  cmds      : Cmds
  boot      : Boot
  contain   : Contain
  bist      : Bist
  power     : Power
  pins      : Pins
  deriving DecidableEq, Repr

def State.reset : State :=
  { pending := [], free := 0, clk := 0, beat := 0, csr := [], inForce := [], mem := [], poison := [], upset := [],
    mbx := [], mbxPoison := [], cores := [], clusters := [], jobs := [], ledger := ⟨[], []⟩,
    hbm := ⟨[], [], 0, [], [], [], [], [], [], [], [], [], []⟩, log := ⟨[], 0, []⟩, ceLog := [], rings := rings0, netq := [], braid := ⟨[], 0, 0⟩,
    net := net0, svc := [], cmds := ⟨[], none, none, none, []⟩, boot := boot0, contain := contain0, bist := bist0,
    power := power0, pins := pins0 }

end Sys2Proof.Machine
end

