-- ==== Sys2Proof/Machine/Ops.lean ====
section
/-! DEFINITION. The operations every meaning shares: registers and counters, units by number, the braid's records,
device memory with its marks and the Contrail log (R448 to R450, R421). -/

namespace Sys2Proof.Machine

/-- What a command answers (Host/Core.lean). -/
abbrev Out := Host.Outcome State Fault Refusal

/-! Registers. -/

def State.rd (s : State) (k : Nat) : W64 := tget csrReset s.csr k
def State.wr (s : State) (k : Nat) (v : W64) : State := { s with csr := tput csrReset s.csr k v }

/-- Field [hi:lo] of a register. -/
def State.fld (s : State) (k hi lo : Nat) : Nat := getField (s.rd k) hi lo
def State.setFld (s : State) (k hi lo v : Nat) : State := s.wr k (setField (s.rd k) hi lo v)
def State.flag (s : State) (k i : Nat) : Bool := (s.rd k).toNat.testBit i
def State.setFlag (s : State) (k i : Nat) (b : Bool) : State := s.setFld k i i (if b then 1 else 0)

/-- A counter field grows by n and saturates at its maximum (R138, R264, R289, R291, R454). -/
def State.bump (s : State) (k hi lo n : Nat) : State :=
  s.setFld k hi lo (satAdd (2 ^ (hi + 1 - lo) - 1) (s.fld k hi lo) n)

/-- The value in force of a register whose writes wait (R140, R171, R231, R290, R292). -/
def State.force (s : State) (k : Nat) : W64 := tget csrReset s.inForce k

/-- A draw of a value that nothing of the spec determines (log entry 2). -/
def State.draw (s : State) : W64 × State := (Config.freeValue s.free, { s with free := s.free + 1 })

/-- CORE.BANKHOLD counts the clk by which accesses of core p move (R161, R162). -/
def State.countBank (s : State) (p n : Nat) : State := if n = 0 then s else s.bump (rg (fnCore p) 0x088) 47 0 n

/-! Domains (R472). -/

/-- The chip is out of reset and has not stopped for heat. -/
def State.running (s : State) : Bool := s.pins.resetN && s.pins.pgAon && !s.pins.tapHold && !s.power.tripped

/-- The hub dies' domain, and that of compute die d, is powered, clocked and unclamped (R473). -/
def State.hubOn (s : State) : Bool := s.flag (rg fnClk 0) 11
def State.dieOn (s : State) (d : Nat) : Bool := s.flag (rg fnClk 0) (13 + d)

/-! Units. -/

def State.core (s : State) (p : Nat) : Core := tget (fun _ => core0) s.cores p
def State.setCore (s : State) (p : Nat) (c : Core) : State :=
  { s with cores := tput (fun _ => core0) s.cores p c }
def State.cluster (s : State) (c : Nat) : Cluster := tget cluster0 s.clusters c
def State.setCluster (s : State) (c : Nat) (x : Cluster) : State :=
  { s with clusters := tput cluster0 s.clusters c x }
def State.job (s : State) (j : Nat) : Job := tget job0 s.jobs j
def State.setJob (s : State) (j : Nat) (x : Job) : State := { s with jobs := tput job0 s.jobs j x }
def State.nq (s : State) (q : Nat) : List NetEntry := tget noNet s.netq q
def State.setNq (s : State) (q : Nat) (l : List NetEntry) : State := { s with netq := tput noNet s.netq q l }

def State.setV (s : State) (p : Nat) (v : VCore) : State := s.setCore p { s.core p with v := v }

/-- Cluster of physical core p (R30). -/
def clusterOf (p : Nat) : Nat := p / 9

/-- Direction of link t (Table 10.1), and its partner. -/
def linkDir (t : Nat) : Nat := t % 12 / 2
/-- Bundle index. -/
def linkIndex (l : Nat) : Nat := l / 12 * 2 + l % 2
def partner (t : Nat) : Nat := if t % 2 = 0 then t + 1 else t - 1

/-! The braid's records (R377, R378). -/

/-- Bodies of the records of a TYPE, in image order. -/
def State.recs (s : State) (ty : Nat) : List (List Byte) :=
  (s.braid.recs.filter (fun r => r.1 == ty)).map (·.2)

def State.rec1 (s : State) (ty : Nat) : List Byte := (s.recs ty).headD []

/-- The JOB record of job j, if the braid defines it. -/
def State.jobRec (s : State) (j : Nat) : Option (List Byte) := (s.recs 2).find? (fun b => fieldLE b 0 1 == j)

def State.jobDefined (s : State) (j : Nat) : Bool := (s.jobRec j).isSome
def State.jobField (s : State) (j o n : Nat) : Nat := fieldLE ((s.jobRec j).getD []) o n
/-- Alignment group, ledger base and count, cluster mask, ring-pair mask of a job (Table 13.4). -/
def State.group (s : State) (j : Nat) : Nat := s.jobField j 1 1
def State.ledgerBase (s : State) (j : Nat) : Nat := s.jobField j 2 2
def State.ledgerCount (s : State) (j : Nat) : Nat := s.jobField j 4 2
def State.clusterMask (s : State) (j : Nat) : Nat := s.jobField j 8 4
def State.pairMask (s : State) (j : Nat) : Nat := s.jobField j 16 8

/-- Clusters of job j in ascending order. -/
def State.clustersOf (s : State) (j : Nat) : List Nat :=
  (List.range 32).filter (fun c => (s.clusterMask j).testBit c)

/-- The job that holds cluster c (R39: at most one). -/
def State.jobOf (s : State) (c : Nat) : Option Nat :=
  (List.range 16).find? (fun j => (s.clusterMask j).testBit c)

def State.definedJobs (s : State) : List Nat := (List.range 16).filter s.jobDefined

/-- The check level of job j: 0 Clear, 1 Haze, 2 Overcast, 3 undefined job (Table 13.2). -/
def State.level (s : State) (j : Nat) : Nat := s.fld (rg fnChip 0x030) (2 * j + 1) (2 * j)

/-- SCH firmware accepts rings and binds (R289). -/
def State.schReady (s : State) : Bool := s.flag (rg fnSch 0) 0

/-! Device memory. -/

/-- Start of the scratchpad window of core p, and of its bundle memory (R372, R373). -/
def window (p : Nat) : Nat := 0x010000000000 + p * 0x400000
def bundleMem (p : Nat) : Nat := window p + 0x200000

def granuleOf (a : Nat) : Nat := a / 64 * 64

/-- Mark or clear bytes [a, a + n) of the scratchpads. -/
def markBytes (l : List Nat) (a n : Nat) (b : Bool) : List Nat :=
  (List.range n).foldl (fun l i => sset (a + i) b l) l

/-- Some byte of [a, a + n) is marked. -/
def anyMarked (l : List Nat) (a n : Nat) : Bool := l.any (fun x => a ≤ x && x < a + n)

def State.setMem (s : State) (m : Mem) : State := { s with mem := m }

/-- A clean write of bytes: stores them and clears the poison of bytes covered (R235, R373). -/
def State.storeBytes (s : State) (a : Nat) (bs : List Byte) : State :=
  { s with mem := s.mem.store a bs, poison := s.poison.filter (fun x => !(a ≤ x && x < a + bs.length)) }

/-! Jobs in numbers a report carries. -/

/-- JOB byte of a report. -/
def jobByte : Option Nat → Nat
  | some j => j
  | none => 0xFF

/-- STEP and ATTEMPT of a report (Table 15.7). -/
def State.stepOf (s : State) : Option Nat → W64
  | some j => BitVec.ofNat 64 (s.job j).step
  | none => 0xFFFFFFFFFFFFFFFF
def State.attemptOf (s : State) : Option Nat → Nat
  | some j => (s.job j).attempt
  | none => 0

/-! The Contrail log (R448 to R450, R457). -/

/-- An entry reaches the buffer: appended, or in a full buffer replacing the oldest of SEV 0 or 1 if its own SEV is 3
or 4, or dropped (R448). -/
def State.logPut (s : State) (e : LogEntry) : State :=
  let put (l : List LogEntry) (n : Nat) : State :=
    { s with log := { s.log with entries := l ++ [{ e with lostN := min 65535 n }], lostRun := 0 } }.bump (rg fnLog 0x008) 63 0 1
  if s.log.entries.length < 4096 then put s.log.entries s.log.lostRun
  else if 3 ≤ e.sev ∧ s.log.entries.any (fun x => x.sev ≤ 1) then
    (put (s.log.entries.eraseP (fun x => x.sev ≤ 1)) (s.log.lostRun + 1)).bump (rg fnLog 0x010) 63 0 1
  else { s with log := { s.log with lostRun := s.log.lostRun + 1 } }.bump (rg fnLog 0x010) 63 0 1

/-- An entry is written unless its SEV is below LOG.LEVEL.MINSEV (values above 2 read as 2). -/
def State.logWrite (s : State) (e : LogEntry) : State :=
  if e.sev < min 2 (s.fld (rg fnLog 0x100) 1 0) then s else s.logPut e

/-- An entry without a report's body (Table 15.6). -/
def plainEntry (s : State) (type sev func : Nat) (job : Option Nat) : LogEntry :=
  { type, sev, func, job := jobByte job, report := false, lostN := 0, beat := s.beat, code := 0, action := 0,
    attempt := 0, unit := 0, step := 0, addr := 0, d0 := 0, d1 := 0, d2 := 0 }

/-- The fields of an error report that a caller gives besides TYPE, SEV, FUNC, JOB. -/
structure Body where
  code   : Nat := 0
  action : Nat := 0
  unit   : Nat := 0
  addr   : Nat := 0
  d0     : Nat := 0
  d1     : Nat := 0
  d2     : Nat := 0
  deriving DecidableEq, Repr

/-- An error report (R449). -/
def State.report (s : State) (type sev func : Nat) (job : Option Nat) (b : Body) : State :=
  s.logWrite { plainEntry s type sev func job with
    report := true, code := b.code, action := b.action, attempt := s.attemptOf job, unit := b.unit,
    step := s.stepOf job, addr := BitVec.ofNat 64 b.addr, d0 := BitVec.ofNat 64 b.d0, d1 := BitVec.ofNat 64 b.d1,
    d2 := BitVec.ofNat 64 b.d2 }

/-- An entry that is no error report: the named fields of its body, the others zero (R449). -/
def State.note (s : State) (type sev func : Nat) (job : Option Nat) (b : Body) : State :=
  s.logWrite { plainEntry s type sev func job with
    code := b.code, action := b.action, unit := b.unit, addr := BitVec.ofNat 64 b.addr,
    d0 := BitVec.ofNat 64 b.d0, d1 := BitVec.ofNat 64 b.d1, d2 := BitVec.ofNat 64 b.d2 }

/-! Memory errors in the log (Table 15.8). -/

/-- A corrected error: at most one entry 0x31 per function per second, with the count since the last (Table 15.8). -/
def State.corrected (s : State) (func memory : Nat) (job : Option Nat) : State :=
  let k := 16 * func + memory
  let (n, last) := tget (fun _ => (0, 0)) s.ceLog k
  let put (s : State) (x : Nat × Nat) : State := { s with ceLog := tput (fun _ => (0, 0)) s.ceLog k x }
  if last = 0 ∨ last - 1 + 1000000000 ≤ s.clk then
    (put s (0, s.clk + 1)).note 0x31 1 func job { code := memory, d0 := n + 1 }
  else put s (n + 1, last)

/-- An uncorrectable error that poisons (Table 15.8, 0x30). -/
def State.uncorrected (s : State) (func memory : Nat) (job : Option Nat) (unit addr : Nat) : State :=
  s.report 0x30 2 func job { code := memory, action := 1, unit, addr }

end Sys2Proof.Machine
end

