-- ==== Sys2Proof/Machine/HbmOps.lean ====
section
/-! DEFINITION. HBM granules and the page map: check bits and their errors (R259, R260), injection (R528), partial
writes (R254), page entries, their checks and refusals (R257, R258, R266). -/

namespace Sys2Proof.Machine

def pageOf (a : Nat) : Nat := a / 0x80000

/-- A page map entry (Table 8.5). -/
def State.page (s : State) (n : Nat) : W64 := tget z64 s.hbm.pages n
def State.setPage (s : State) (n : Nat) (e : W64) : State :=
  { s with hbm := { s.hbm with pages := tput z64 s.hbm.pages n e } }

def pageValid (e : W64) : Bool := e.toNat.testBit 63
def pageRetired (e : W64) : Bool := e.toNat.testBit 62
def pageJob (e : W64) : Nat := getField e 61 58

/-- A page serves an access of job j that needs right bit r of its entry: 57 SW, 56 SR, 55 DW, 54 DR, 53 SVC. -/
def pageAllows (e : W64) (j r : Nat) : Bool :=
  pageValid e && !pageRetired e && pageJob e == j && e.toNat.testBit r

/-- A counter of a page entry saturates (Table 8.5): CE at [47:32], UE at [31:16]. -/
def bumpPage (e : W64) (hi lo : Nat) : W64 := setField e hi lo (satAdd 65535 (getField e hi lo) 1)

/-- Pages of the byte range [a, a + n). -/
def pagesOf (a n : Nat) : List Nat := if n = 0 then [] else (List.range (pageOf (a + n - 1) - pageOf a + 1)).map (pageOf a + ·)

/-- An access refused by the page map is counted and named (R266): src 0 stream, 1 RDMA, 2 service, 3 ENTRY_DATA. -/
def State.pageFault (s : State) (src job page : Nat) : State :=
  let k := rg fnPagemap 0x010
  (((s.bump (rg fnPagemap 0x008) 31 0 1).setFld k 55 52 src).setFld k 51 48 job).setFld k 20 0 page

/-- Job that a page belongs to, for reports. -/
def State.pageOwner (s : State) (n : Nat) : Option Nat :=
  if pageValid (s.page n) then some (pageJob (s.page n)) else none

def stackBase (a : Nat) : Nat := a / 0x2000000000 * 0x2000000000

/-- The granule at device address g is read (R259): a corrected error counts, an uncorrectable one counts and is
reported, and poison is found. The answer says whether its bytes are poisoned for the reader. -/
def State.readGranule (s : State) (g : Nat) : State × Bool :=
  if s.poison.contains g then (s, true)
  else
    let st := g / 0x2000000000
    let n := pageOf g
    match tget z0 s.upset g with
    | 0 => (s, false)
    | 1 =>
      ((((s.bump (rg (fnHbm st) 0x040) 63 0 1).setPage n (bumpPage (s.page n) 47 32)).corrected (fnHbm st) 6
        (s.pageOwner n)), false)
    | _ =>
      let e := bumpPage (s.page n) 31 16
      let s := ((s.bump (rg (fnHbm st) 0x048) 63 0 1).setPage n e)
      let lim := max 1 (s.fld (rg fnPagemap 0x100) 15 0)
      let s := if lim ≤ getField e 31 16 && !pageRetired e then
          { s with hbm := { s.hbm with retire := sins n s.hbm.retire } } else s
      (s.uncorrected (fnHbm st) 6 (s.pageOwner n) (bits g 10 6) g, true)

/-- The granule is stored with fresh check bits: an armed injection for it applies unless it is stored poisoned
(R259, R528). -/
def State.sealGranule (s : State) (g : Nat) (poison : Bool) : State :=
  let st := g / 0x2000000000
  let s := { s with poison := sset g poison s.poison, upset := tput z0 s.upset g 0 }
  match tget noInject s.hbm.armed st with
  | none => s
  | some i =>
    if poison ∨ stackBase g + i.granule ≠ g then s
    else { s with upset := tput z0 s.upset g (if i.ue then 2 else 1)
                  hbm := { s.hbm with armed := tput noInject s.hbm.armed st none } }

/-- Bytes written inside one granule: a partial granule is read and merged, which PARTIAL counts, and is stored poisoned if it was found
poisoned or uncorrectable (R254). -/
def State.writeGranule (s : State) (a : Nat) (bs : List Byte) (poison : Bool) : State :=
  let g := a / 64 * 64
  let (s, bad) := if bs.length < 64 then (s.bump (rg (fnHbm (g / 0x2000000000)) 0x068) 63 0 1).readGranule g else (s, false)
  { s with mem := s.mem.store a bs }.sealGranule g (poison || bad)

/-- Split a byte range at granule boundaries: (address, length) pieces. -/
def granulePieces (a n : Nat) : List (Nat × Nat) :=
  if n = 0 then []
  else (List.range ((a + n - 1) / 64 - a / 64 + 1)).map (fun i =>
    let lo := max a ((a / 64 + i) * 64)
    (lo, min (a + n) ((a / 64 + i + 1) * 64) - lo))

/-- Bytes written to HBM, granule by granule. -/
def State.writeHbm (s : State) (a : Nat) (bs : List Byte) : State :=
  (granulePieces a bs.length).foldl (fun s (x, n) => s.writeGranule x ((bs.drop (x - a)).take n) false) s

/-- Bytes read from HBM, each with its granule's poison. -/
def State.readHbm (s : State) (a n : Nat) : State × List (Byte × Bool) :=
  (granulePieces a n).foldl (fun (s, l) (x, k) =>
    let (s, bad) := s.readGranule (x / 64 * 64)
    (s, l ++ (s.mem.bytes x k).map (fun b => (b, bad)))) (s, [])

end Sys2Proof.Machine
end

