-- ==== Sys2Proof/Machine/Special.lean ====
section
/-! DEFINITION. The correctly rounded special functions VEXP, VLOG, VRCP, VRSQ and VTANH (R193, Table 6.7). Reciprocal
and reciprocal square root are cut exactly. The transcendental ones are evaluated as integers scaled by 2^704, which
stands well above the precision any FP32, BF16 or FP16 argument asks for (UNVERIFIED, log entry 6). -/

namespace Sys2Proof.Machine

/-- Working precision in bits. -/
def spP : Nat := 704

/-- Fixed-point product. -/
def fxMul (a b : Int) : Int := (a * b) / (2 ^ spP : Nat)

/-- Sum of z^(2k+1) / (2k+1), fuel terms: atanh z = z + z^3/3 + ..., starting at term 2k+1 with power zp. -/
def atanhSum (z2 : Int) : Nat → Nat → Int → Int → Int
  | 0, _, _, acc => acc
  | n + 1, k, zp, acc => atanhSum z2 n (k + 2) (fxMul zp z2) (acc + zp / (k : Int))

/-- 2 atanh (n / d) for 0 ≤ n/d ≤ 1/3. -/
def atanh2 (n d : Int) : Int :=
  let z := n * (2 ^ spP : Nat) / d
  2 * atanhSum (fxMul z z) 232 1 z 0

/-- ln 2, scaled. -/
def ln2 : Int := atanh2 1 3

/-- Taylor terms of exp. -/
def expSum (r : Int) : Nat → Nat → Int → Int → Int
  | 0, _, _, acc => acc
  | n + 1, k, t, acc => expSum r n (k + 1) (fxMul t r / (k : Int)) (acc + t)

/-- exp of a scaled argument as (v, n): the value is v x 2^(n - 704), v near 2^704. -/
def expFx (a : Int) : Nat × Int :=
  let n := (2 * a + ln2) / (2 * ln2)
  ((expSum (a - n * ln2) 140 1 (2 ^ spP : Nat) 0).toNat, n)

/-- The value of a dyadic, scaled. -/
def fxOf (m : Nat) (e : Int) : Int := (m * 2 ^ (e + spP).toNat : Nat)

/-- A positive magnitude v x 2^e known to be irrational and cut as if inexact: floor log2, and its cut. -/
def irrational (v : Nat) (e : Int) : Int × (Int → Cut) :=
  (log2d v e, fun k =>
    let q := cutDy v e k
    { q with inx := true, half := if q.half == .eq then .gt else q.half })

/-- e^a for a finite a ≠ 0. -/
def expMag (s : Bool) (m : Nat) (e : Int) : Int × (Int → Cut) :=
  if 8 ≤ log2d m e then (if s then irrational 1 (-400) else irrational (2 ^ 10 + 1) 390)
  else
    let a := fxOf m e
    let (v, n) := expFx (if s then -a else a)
    irrational v (n - spP)

/-- |ln a| for a finite positive a ≠ 1, and its sign. -/
def logMag (m : Nat) (e : Int) : Bool × (Int × (Int → Cut)) :=
  let lg := Nat.log2 m
  let l : Int := log2d m e
  let f := (2 ^ lg : Nat)
  let v := l * ln2 + atanh2 ((m : Int) - (f : Int)) ((m : Int) + (f : Int))
  (decide (v < 0), irrational v.natAbs (-(spP : Int)))

/-- tanh |a| for a finite a ≠ 0. -/
def tanhMag (m : Nat) (e : Int) : Int × (Int → Cut) :=
  if 7 ≤ log2d m e then irrational (2 ^ spP - 1) (-(spP : Int))
  else
    let (v, n) := expFx (-2 * fxOf m e)
    let x : Int := if n ≤ 0 then (v : Int) / (2 ^ (-n).toNat : Nat) else (v : Int) * (2 ^ n.toNat : Nat)
    let one : Int := (2 ^ spP : Nat)
    irrational ((one - x) * (2 ^ spP : Nat) / (one + x)).toNat (-(spP : Int))

/-- floor log2 of 1 / (m x 2^e), and its cut. -/
def rcpMag (m : Nat) (e : Int) : Int × (Int → Cut) :=
  (if m = 2 ^ Nat.log2 m then -(log2d m e) else -(log2d m e) - 1, fun k => cutRat 1 m (k + e))

/-- floor of the square root, bit by bit from bit b downward. -/
def isqrtFrom (n : Nat) : Nat → Nat → Nat
  | 0, r => r
  | b + 1, r =>
    let c := r + 2 ^ b
    isqrtFrom n b (if c * c ≤ n then c else r)

/-- floor (sqrt n). -/
def isqrt (n : Nat) : Nat := isqrtFrom n (Nat.log2 n / 2 + 1) 0

/-- floor log2 of 1 / sqrt (m x 2^e), and its cut, exact: 2^64 (m 2^e)^(-1/2) 2^-k by integer square root. -/
def rsqMag (m : Nat) (e : Int) : Int × (Int → Cut) :=
  let la := log2d m e
  (if m = 2 ^ Nat.log2 m then (-la).fdiv 2 else (-(la + 1)).fdiv 2, fun k =>
    let x := -e - 2 * k + 128
    let n := 2 ^ x.toNat
    let r := isqrt (n / m)
    let exact := decide (r * r * m = n)
    let low := r % 2 ^ 64
    ⟨r / 2 ^ 64, low / 2 ^ 32,
      if low = 2 ^ 63 ∧ !exact then .gt else compare low (2 ^ 63), !(exact && low == 0)⟩)

/-- The special functions by name. -/
inductive Sp where
  | exp | log | rcp | rsq | tanh
  deriving DecidableEq, Repr

/-- An exact result (Table 6.7), rounded by no one: its code in the tag. -/
def spExact (x : Num) (t : Tag) : Nat := (roundFp x t rneSat).val

def oneNum (s : Bool) : Num := .fin s 1 0

/-- vround of a special function of x (R193, Table 6.7). -/
def special (f : Sp) (x : Num) (t : Tag) (c : Rnd) : Fl Nat :=
  let ex (y : Num) : Fl Nat := ⟨spExact y t, 0⟩
  let bad : Fl Nat := ⟨nanCode t, flNAN⟩
  let go (s : Bool) (q : Int × (Int → Cut)) : Fl Nat := roundFin t c s q.1 q.2
  match f, x with
  | _, .nan => ⟨nanCode t, 0⟩
  | .exp, .inf s => ex (if s then .zero false else .inf false)
  | .exp, .zero _ => ex (oneNum false)
  | .exp, .fin s m e => go false (expMag s m e)
  | .log, .inf s => if s then bad else ex (.inf false)
  | .log, .zero _ => ex (.inf true)
  | .log, .fin s m e =>
    if s then bad
    else if m = 2 ^ Nat.log2 m ∧ log2d m e = 0 then ⟨encodeZero t false, 0⟩
    else
      let (n, q) := logMag m e
      go n q
  | .rcp, .inf s => ex (.zero s)
  | .rcp, .zero s => ex (.inf s)
  | .rcp, .fin s m e => go s (rcpMag m e)
  | .rsq, .inf s => if s then bad else ex (.zero false)
  | .rsq, .zero s => ex (.inf s)
  | .rsq, .fin s m e => if s then bad else go false (rsqMag m e)
  | .tanh, .inf s => ex (oneNum s)
  | .tanh, .zero s => ex (.zero s)
  | .tanh, .fin s m e => go s (tanhMag m e)

end Sys2Proof.Machine
end

