-- ==== Sys2Proof/Machine/Sha.lean ====
section
/-! DEFINITION. SHA-384 (FIPS 180-4), the digest of images, programs, strands and regions (R69, R376, R383, R369,
R400). Its constants are written as the standard defines them: fractional bits of roots of the first primes. -/

namespace Sys2Proof.Machine

def isPrime (n : Nat) : Bool := 2 ≤ n && (List.range 20).all (fun d => d + 2 == n || n % (d + 2) != 0)

/-- The first 80 primes. -/
def primes80 : List Nat := ((List.range 410).filter isPrime).take 80

/-- floor of the cube root of n, bit by bit from 2^(b-1). -/
def icbrtFrom (n : Nat) : Nat → Nat → Nat
  | 0, r => r
  | b + 1, r =>
    let c := r + 2 ^ b
    icbrtFrom n b (if c * c * c ≤ n then c else r)

/-- K: 64 fractional bits of the cube roots. -/
def shaK : List W64 := primes80.map (fun p => BitVec.ofNat 64 (icbrtFrom (p * 2 ^ 192) 68 0))

/-- Initial hash value: 64 fractional bits of the square roots of the 9th to 16th primes. -/
def shaH0 : List W64 := ((primes80.drop 8).take 8).map (fun p => BitVec.ofNat 64 (isqrt (p * 2 ^ 128)))

/-- Big-endian value of bytes. -/
def beNat (l : List Byte) : Nat := l.foldl (fun a b => 256 * a + b.toNat) 0

/-- The n big-endian bytes of x. -/
def beBytes (x n : Nat) : List Byte := (leBytes x n).reverse

/-- The padded message. -/
def shaPad (m : List Byte) : List Byte :=
  m ++ [0x80] ++ List.replicate ((239 - m.length % 128) % 128) 0 ++ beBytes (8 * m.length) 16

def sig0 (x : W64) : W64 := x.rotateRight 1 ^^^ x.rotateRight 8 ^^^ (x >>> 7)
def sig1 (x : W64) : W64 := x.rotateRight 19 ^^^ x.rotateRight 61 ^^^ (x >>> 6)
def Sig0 (x : W64) : W64 := x.rotateRight 28 ^^^ x.rotateRight 34 ^^^ x.rotateRight 39
def Sig1 (x : W64) : W64 := x.rotateRight 14 ^^^ x.rotateRight 18 ^^^ x.rotateRight 41

/-- One round: the eight working words, the schedule's last 16 words (oldest first), a constant. -/
def shaRound (h w : List W64) (k : W64) : List W64 × List W64 :=
  let g (i : Nat) : W64 := h.getD i 0
  let x (i : Nat) : W64 := w.getD i 0
  let t1 := g 7 + Sig1 (g 4) + ((g 4 &&& g 5) ^^^ (~~~ g 4 &&& g 6)) + k + x 0
  let t2 := Sig0 (g 0) + ((g 0 &&& g 1) ^^^ (g 0 &&& g 2) ^^^ (g 1 &&& g 2))
  ([t1 + t2, g 0, g 1, g 2, g 3 + t1, g 4, g 5, g 6],
   w.drop 1 ++ [sig1 (x 14) + x 9 + sig0 (x 1) + x 0])

def shaBlock (h : List W64) (b : List Byte) : List W64 :=
  let w := (List.range 16).map (fun i => BitVec.ofNat 64 (beNat ((b.drop (8 * i)).take 8)))
  let r := (shaK.foldl (fun s k => shaRound s.1 s.2 k) (h, w)).1
  (h.zip r).map (fun (a, b) => a + b)

/-- Blocks of 128 bytes, n of them at most. -/
def shaBlocks : Nat → List Byte → List W64 → List W64
  | 0, _, h => h
  | n + 1, m, h => if m.isEmpty then h else shaBlocks n (m.drop 128) (shaBlock h (m.take 128))

/-- The 48 digest bytes, read as a little-endian number (R14), so that storing a digest stores its bytes in order. -/
def sha384 (m : List Byte) : Digest :=
  let p := shaPad m
  BitVec.ofNat 384 (leNat (((shaBlocks (p.length / 128) p shaH0).take 6).flatMap (fun x => beBytes x.toNat 8)))

def digestBytes (d : Digest) : List Byte := leBytes d.toNat 48

end Sys2Proof.Machine
end

