-- ==== Sys2Proof/Machine/Stop.lean ====
section
/-! DEFINITION. The event ring (R386, R387, R390, R392), completions (R390), strands as they apply (R383 to R385) and the
stop of a job (R435). -/

namespace Sys2Proof.Machine

/-! Rings: where they lie (RINGS record) and the event ring (R386, R387, R390, R392). -/

/-- The 16-byte ring row i of the RINGS record: base and log2 entries at byte o of the row. -/
def State.ringRow (s : State) (i o n : Nat) : Nat := fieldLE (s.rec1 0x000F) (8 + 16 * i + o) n
def State.indexPage (s : State) : Nat := fieldLE (s.rec1 0x000F) 0 8
def ringSize (lg : Nat) : Nat := if lg = 0 then 0 else 2 ^ lg
def State.evSize (s : State) : Nat := ringSize (s.ringRow 64 14 1)
def State.ldSize (s : State) : Nat := ringSize (s.ringRow 65 14 1)

/-- The PHASE bit of entry k of a ring of size n (R390). -/
def phaseBit (k n : Nat) : Nat := (k / n + 1) % 2

/-- 64 bytes of an event entry (Table 13.15). -/
def eventBytes (e : Event) (k n : Nat) : List Byte :=
  leBytes e.type 1 ++ leBytes (phaseBit k n + (if e.lost then 2 else 0)) 1 ++ leBytes e.job 1 ++ [0] ++
    leBytes e.func 2 ++ [0, 0] ++ leBytes e.beat.toNat 8 ++ (e.detail ++ List.replicate 48 0).take 48

/-- Write an index into the index page (R387). -/
def State.putIndex (s : State) (o : Nat) (v : W32) : State := s.writeHbm (s.indexPage + o) (leBytes v.toNat 8)

/-- Free entries of the event ring. -/
def State.evRoom (s : State) : Nat := s.evSize - (s.rings.evProd - s.rings.evCons).toNat

/-- The first n buffered events that fit reach the event ring (R392). -/
def State.drainEvents (s : State) : Nat → State
  | 0 => s
  | n + 1 =>
    match s.rings.events with
    | [] => s
    | e :: r =>
      if s.evSize = 0 ∨ s.evRoom = 0 ∨ s.rings.evBad ∨ !s.schReady then s
      else
        let k := s.rings.evProd
        let a := s.ringRow 64 0 8 + 64 * (k.toNat % s.evSize)
        let s := s.writeHbm a (eventBytes e k.toNat s.evSize)
        let s := { s with rings := { s.rings with events := r, evProd := k + 1 } }
        (s.putIndex 0x400 (k + 1)).drainEvents n

/-- An event is written: buffered, dropped when 256 wait, and passed to the ring while it has room (R392). -/
def State.event (s : State) (type func : Nat) (job : Option Nat) (detail : List Byte) : State :=
  if s.rings.events.length < 256 then
    let e : Event := ⟨type, jobByte job, func, s.beat, detail, s.rings.evLost⟩
    { s with rings := { s.rings with events := s.rings.events ++ [e], evLost := false } }.drainEvents 257
  else { s with rings := { s.rings with evLost := true } }.bump (rg fnSch 0x060) 31 0 1

/-! Where pair p lies. -/

def State.cmdBase (s : State) (p : Nat) : Nat := s.ringRow p 0 8
def State.cplBase (s : State) (p : Nat) : Nat := s.ringRow p 8 6
def State.cmdSize (s : State) (p : Nat) : Nat := ringSize (s.ringRow p 14 1)
def State.cplSize (s : State) (p : Nat) : Nat := ringSize (s.ringRow p 15 1)

/-- Job that pair p serves; none for pair 0 and for a pair of no job. -/
def State.jobOfPair (s : State) (p : Nat) : Option Nat :=
  (List.range 16).find? (fun j => s.jobDefined j && (s.pairMask j).testBit p)

/-- Pairs of job j. -/
def State.pairsOf (s : State) (j : Nat) : List Nat := (List.range 64).filter (fun p => p != 0 && (s.pairMask j).testBit p)

def State.cc (s : State) (p : Nat) : W32 := tget z32 s.rings.cc p
def State.cp (s : State) (p : Nat) : W32 := tget z32 s.rings.cp p
def State.pp (s : State) (p : Nat) : W32 := tget z32 s.rings.pp p
def State.pc (s : State) (p : Nat) : W32 := tget z32 s.rings.pc p

/-! Completions (R390). -/

/-- A completion entry is written, and then PP. -/
def State.complete (s : State) (p op status seq : Nat) (id : W64) (result : List Byte) : State :=
  if s.rings.faulted.contains p ∨ s.cplSize p = 0 then s
  else
    let k := s.pp p
    let e := leBytes op 1 ++ leBytes status 1 ++ leBytes (phaseBit k.toNat (s.cplSize p)) 1 ++ [0] ++ leBytes seq 4 ++
      leBytes id.toNat 8 ++ (result ++ List.replicate 48 0).take 48
    let s := s.writeHbm (s.cplBase p + 64 * (k.toNat % s.cplSize p)) e
    { s with rings := { s.rings with pp := tput z32 s.rings.pp p (k + 1) } }.putIndex (0x200 + 8 * p) (k + 1)

/-- Result of a refusal: DETAIL and the beat time. -/
def State.refusal (s : State) (detail : Nat) : List Byte := leBytes detail 8 ++ leBytes s.beat.toNat 8

/-- A command that has been accepted will complete later. -/
def State.await (s : State) (p op seq : Nat) (id : W64) : State :=
  { s with rings := { s.rings with waiting := s.rings.waiting ++ [⟨p, op, seq, id⟩] } }

/-- It finishes: a completion, or, after a restart of its pair, none (R393). -/
def State.finish (s : State) (p op status seq : Nat) (id : W64) (result : List Byte) : State :=
  if s.rings.waiting.contains ⟨p, op, seq, id⟩ then
    { s with rings := { s.rings with waiting := s.rings.waiting.erase ⟨p, op, seq, id⟩ } }.complete p op status seq id result
  else s

/-! Strands (R383 to R385). -/

/-- Strand record i. -/
def State.strandRec (s : State) (i : Nat) : List Byte := ((s.recs 0x10).find? (fun b => fieldLE b 0 1 == i)).getD []

/-- SHA-384 of strand i. -/
def State.strandDigest (s : State) (i : Nat) : List Byte := digestBytes (sha384 ((s.strandRec i).take 64))

/-- A STRAND command whose last field has applied completes (Table 13.14). -/
def State.settleStrand (s : State) (x : PendStrand) : State :=
  if x.jobs.isEmpty && !x.chip then
    { s with cmds := { s.cmds with strands := s.cmds.strands.erase x } }.finish x.pair 0x03 0 x.seq x.id (s.strandDigest x.index)
  else s

/-- CHECK of strand i applies to job j. -/
def State.applyCheck (s : State) (j i : Nat) : State :=
  let c := fieldLE (s.strandRec i) 1 1
  let s := if c = 0xFF then s else s.setFld (rg fnChip 0x030) (2 * j + 1) (2 * j) c
  s.setJob j { s.job j with strand := i }

/-- A staged strand of job j applies, and with it the job's part of the oldest STRAND command that waits for it. -/
def State.applyStaged (s : State) (j i : Nat) : State :=
  let s := s.applyCheck j i
  match s.cmds.strands.find? (fun x => x.index == i && x.jobs.contains j) with
  | none => s
  | some x =>
    let y := { x with jobs := x.jobs.erase j }
    { s with cmds := { s.cmds with strands := s.cmds.strands.map (fun z => if z = x then y else z) } }.settleStrand y

/-- The first n staged strands of job j apply, in order. -/
def State.applyStrands (s : State) (j n : Nat) : State :=
  let l := (s.job j).staged
  (l.take n).foldl (fun s i => s.applyStaged j i) (s.setJob j { s.job j with staged := l.drop n, applying := 0 })

/-! The stop of a job (R435). -/

/-- Step 1 on one core: it issues nothing further, its instructions in flight keep their writes and lose their token
signals, a bundle that has not issued is dropped, and its inbound queues are emptied (step 2). -/
def emptyQueues (t : Tab SQueue) : Tab SQueue :=
  t.filterMap (fun e =>
    if e.1 < 8 then
      let q := { e.2 with visible := e.2.popped, begun := e.2.popped, fill := 0, held := false, back := [], credits := e.2.depth }
      if q = sq0 e.1 then none else some (e.1, q)
    else some e)

def Core.stop (c : Core) : Core :=
  { c with
    v := { c.v with run := if c.v.run = .idle then .idle else .stopped, pend := [], sq := emptyQueues c.v.sq }
    ib := match c.ib with
      | some b => if b.issued then some b else none
      | none => none
    fly := c.fly.map (fun f => { f with tok := none }) }

/-- RXBUF follows the occupancy of the network part (R293). -/
def State.setRxBytes (s : State) (c n : Nat) : State :=
  let k := rg (fnCluster c) 0x0A8
  let s := s.setCluster c { s.cluster c with rxBytes := n }
  (s.setFld k 20 0 n).setFld k 52 32 (max n (s.fld k 52 32))

/-- Step 2 on one cluster: stream threads stop, requests not yet served are dropped, receive buffers are emptied. -/
def Cluster.stop (x : Cluster) : Cluster :=
  { x with
    threads := x.threads.map (fun e => (e.1, { e.2 with stopped := true, waiting := [], served := [], pour := [] }))
    rx := [], hold := x.hold.filter (· == .throttle) }

def coresOf (c : Nat) : List Nat := (List.range 9).map (fun i => 9 * c + i)

/-- The physical cores that run a virtual core of job j. -/
def State.coresOfJob (s : State) (j : Nat) : List Nat :=
  ((s.clustersOf j).flatMap coresOf).filter (fun p =>
    match (s.core p).bound with
    | some (k, _) => k == j
    | none => false)

/-- Network queue q belongs to job j (NETQ record). -/
def State.nqJob (s : State) (q : Nat) : Nat := if s.rec1 6 = [] then 0xFF else fieldLE (s.rec1 6) (4 * q) 1

/-- Steps 1 and 2 of R435 for every core, thread and queue of job j. -/
def State.quietJob (s : State) (j : Nat) : State :=
  let s := (s.coresOfJob j).foldl (fun s p => s.setCore p (s.core p).stop) s
  let s := (s.clustersOf j).foldl (fun s c => (s.setCluster c (s.cluster c).stop).setRxBytes c 0) s
  let fifo : Tab (List Request) := (s.hbm.fifo.map (fun e => (e.1, e.2.filter (fun r => r.job != j)))).filter (fun e => e.2 != [])
  let asm : Tab Marked := s.net.asm.filter (fun e => e.1 / 64 % 16 != j)
  let s := { s with hbm := { s.hbm with fifo }, net := { s.net with asm } }
  (List.range 64).foldl (fun s q => if s.nqJob q = j then s.setNq q [] else s) s

def State.stopped (s : State) (j : Nat) : Bool := s.flag (rg fnChip 0x048) j

/-- R435: the job stops, its bit of CHIP.JOBSTOP is set with the cause, and event 0x04 is written. A job that has
stopped does not stop again. Its staged strands apply, as for a job that runs no program (R529). -/
def State.stopJob (s : State) (j cause func : Nat) : State :=
  if s.stopped j then s
  else
    let s := s.quietJob j
    let s := s.setJob j { s.job j with phase := .span, retract := none, release := none }
    let s := ((s.setFlag (rg fnChip 0x048) j true).setFld (rg fnChip 0x048) 27 24 j).setFld (rg fnChip 0x048) 23 16 cause
    let s := s.event 0x04 func (some j)
      (leBytes cause 1 ++ leBytes (s.job j).attempt 1 ++ List.replicate 6 0 ++ leBytes (s.job j).step 8)
    s.applyStrands j (s.job j).staged.length

/-- A report of ACTION 4 and the stop of its job (Table 15.8). -/
def State.reportStop (s : State) (type func j : Nat) (b : Body) : State :=
  (s.report type 3 func (some j) { b with action := 4 }).stopJob j type func

end Sys2Proof.Machine
end

