-- ==== Sys2Proof/Machine/Operands.lean ====
section
/-! DEFINITION. Operands: the fields of the slot formats (R145 to R151), tile descriptors and the addresses of their
elements (R207 to R217), and the reading of elements with their poison (R173, R235). -/

namespace Sys2Proof.Machine

/-! Slot words (R141, R143): field [hi:lo] of a slot. -/

def sf (w : W64) (hi lo : Nat) : Nat := getField w hi lo
def opcode (w : W64) : Nat := sf w 7 0

/-- TOKC (R143): the token to signal at completion. -/
def tokc (w : W64) : Option Nat := if sf w 63 63 = 1 then some (sf w 61 56) else none

/-- Sign-extension of an n-bit field to a register. -/
def sextW (x n : Nat) : W64 := BitVec.ofInt 64 (sext x n)

/-! Registers of a virtual core (R146, R154). -/

def VCore.getG (v : VCore) (n : Nat) : W64 := if n = 0 then 0 else tget z64 v.g n
def VCore.getA (v : VCore) (n : Nat) : BitVec 48 := tget z48 v.a n
def VCore.getLc (v : VCore) (n : Nat) : W32 := tget z32 v.lc n
def VCore.getTok (v : VCore) (n : Nat) : Nat := tget z0 v.tok n
def VCore.lane (v : VCore) (r i : Nat) : Lane := tget lane0 v.v (128 * r + i)
def VCore.queue (v : VCore) (q : Nat) : SQueue := tget sq0 v.sq q
def VCore.key (v : VCore) (k : Nat) : Key := tget key0 v.sk k
def VCore.pair (v : VCore) (tile row col : Nat) : Pair := tget pair0 v.acc (8192 * tile + 64 * row + col)
/-- Weight register r (0 or 1) of array n. -/
def VCore.weight (v : VCore) (n r : Nat) : Option WTile := tget wt0 v.wt (2 * n + r)
/-- The weight register in use of array n (R111). -/
def VCore.current (v : VCore) (n : Nat) : Nat := if v.curw.toNat.testBit n then 1 else 0
/-- The active tile of array n (R108). -/
def VCore.activeTile (v : VCore) (n : Nat) : Nat := 2 * n + (if v.active.toNat.testBit n then 1 else 0)

/-- g0 discards what is written into it (R146). -/
def VCore.setG (v : VCore) (n : Nat) (x : W64) : VCore := if n = 0 then v else { v with g := tput z64 v.g n x }
def VCore.setA (v : VCore) (n : Nat) (x : BitVec 48) : VCore := { v with a := tput z48 v.a n x }
def VCore.setLc (v : VCore) (n : Nat) (x : W32) : VCore := { v with lc := tput z32 v.lc n x }
def VCore.setTok (v : VCore) (n x : Nat) : VCore := { v with tok := tput z0 v.tok n x }
def VCore.setQueue (v : VCore) (q : Nat) (x : SQueue) : VCore := { v with sq := tput sq0 v.sq q x }
def VCore.setLanes (v : VCore) (r : Nat) (l : List Lane) : VCore :=
  { v with v := tputAll lane0 v.v (l.mapIdx (fun i x => (128 * r + i, x))) }
def VCore.setPair (v : VCore) (tile row col : Nat) (p : Pair) : VCore :=
  { v with acc := tput pair0 v.acc (8192 * tile + 64 * row + col) p }
/-- Destination g[D] or a[D] (R145, R146): a[D] keeps the low 48 bits. -/
def VCore.setDest (v : VCore) (df : Bool) (d : Nat) (x : W64) : VCore :=
  if df then v.setA d (x.setWidth 48) else v.setG d x

/-! Tile descriptors (R207). -/

/-- A descriptor's fields with its effective base (R209). -/
structure Td where
  base   : Nat
  ndim   : Nat
  ext    : List Nat
  stride : List Int
  tag    : Nat
  /-- block size, 0 without block scaling -/
  bs     : Nat
  full   : Bool
  hist   : Bool
  slot   : Nat
  tid    : Nat
  lidx0  : Nat
  deriving DecidableEq, Repr

/-- Field [hi:lo] of a 64-byte record. -/
def recBits (d : BitVec 512) (hi lo : Nat) : Nat := bits d.toNat hi lo

/-- Table 7.1 and Table 7.2; off is the address register's value when ARV selects one (R209). -/
def tdOf (d : BitVec 512) (off : Nat) : Td :=
  let nd := recBits d (384 + 8) (384 + 6)
  let n := if nd = 0 then 1 else nd
  { base := (recBits d 47 0 + off) % 2 ^ 48
    ndim := n
    ext := (List.range 5).map (fun i => if i < n then recBits d (64 + 32 * i + 31) (64 + 32 * i) else 1)
    stride := (List.range 5).map (fun i => if i < n then sext (recBits d (224 + 32 * i + 31) (224 + 32 * i)) 32 else 0)
    tag := recBits d (384 + 3) 384
    bs := match recBits d (384 + 5) (384 + 4) with
      | 0 => 0 | 1 => 16 | 2 => 32 | _ => 64
    full := d.toNat.testBit (384 + 9)
    hist := d.toNat.testBit (384 + 10)
    slot := recBits d (384 + 19) (384 + 11)
    tid := recBits d (384 + 39) (384 + 20)
    lidx0 := recBits d (448 + 39) 448 }

def VCore.desc (v : VCore) (n : Nat) : BitVec 512 := tget td0 v.td n

/-- The descriptor a field names, offset by a[ar] when arv is set. -/
def VCore.tdArv (v : VCore) (n : Nat) (arv : Bool) (ar : Nat) : Td :=
  tdOf (v.desc n) (if arv then (v.getA ar).toNat else 0)

/-- count (R210): the product of the extents. -/
def Td.count (t : Td) : Nat := t.ext.foldl (· * ·) 1

def Td.tagOf (t : Td) : Option Tag := Tag.ofCode t.tag

/-- The tag of a descriptor that passed its checks. -/
def Td.tg (t : Td) : Tag := t.tagOf.getD .fp32

/-- coords (R211). -/
def coordsFrom : List Nat → Nat → List Nat
  | [], _ => []
  | x :: r, e => e % x :: coordsFrom r (e / x)

def Td.coords (t : Td) (e : Nat) : List Nat := coordsFrom t.ext e

/-- The element in logical order at given coordinates. -/
def Td.index (t : Td) (i : List Nat) : Nat :=
  (List.zip t.ext i).foldr (fun (x, k) acc => k + x * acc) 0

def dotStride : List Nat → List Int → Int
  | k :: r, s :: q => (k : Int) * s + dotStride r q
  | _, _ => 0

/-- Bytes of an interleaved scaled group (Table 3.3): four scales and four blocks. -/
def groupBytes (bs w : Nat) : Nat := 4 + 4 * bs * w / 8

/-- The block of an element of a block-scaled descriptor, counted as STRIDE counts blocks (R213). -/
def Td.block (t : Td) (i : List Nat) : Int :=
  ((i.headD 0 / t.bs : Nat) : Int) + dotStride i.tail t.stride.tail

/-- Byte of a block's scale, and bit of its first element (mx_addr, R213). -/
def Td.scaleAt (t : Td) (b : Int) : Int :=
  (t.base : Int) + b.fdiv 4 * groupBytes t.bs t.tg.width + b.fmod 4
def Td.blockBit (t : Td) (b : Int) : Int :=
  8 * ((t.base : Int) + b.fdiv 4 * groupBytes t.bs t.tg.width + 4) + b.fmod 4 * (t.bs * t.tg.width : Nat)

/-- Bit address of element e: elem_bit (R211) or mx_addr (R213). -/
def Td.bit (t : Td) (e : Nat) : Int :=
  let i := t.coords e
  if t.bs = 0 then 8 * (t.base : Int) + (t.tg.width : Int) * dotStride i t.stride
  else t.blockBit (t.block i) + ((i.headD 0 % t.bs) * t.tg.width : Nat)

/-- Byte of the scale of element e. -/
def Td.scaleByte (t : Td) (e : Nat) : Int := t.scaleAt (t.block (t.coords e))

/-- Least and greatest of a sum of coordinate x stride over every coordinate (R212). -/
def loSum : List Nat → List Int → Int
  | k :: r, s :: q => min 0 (((k : Int) - 1) * s) + loSum r q
  | _, _ => 0
def hiSum : List Nat → List Int → Int
  | k :: r, s :: q => max 0 (((k : Int) - 1) * s) + hiSum r q
  | _, _ => 0

/-- Lowest bit and the bit after the highest that any element or scale byte occupies (R212). -/
def Td.range (t : Td) : Int × Int :=
  if t.bs = 0 then
    let w : Int := t.tg.width
    (8 * (t.base : Int) + w * loSum t.ext t.stride, 8 * (t.base : Int) + w * hiSum t.ext t.stride + w)
  else
    let lo := loSum t.ext.tail t.stride.tail
    let hi := hiSum t.ext.tail t.stride.tail + ((t.ext.headD 0 / t.bs - 1 : Nat) : Int)
    (8 * t.scaleAt lo, t.blockBit hi + (t.bs * t.tg.width : Nat))

/-- The smallest byte span that holds all elements and scale bytes (R160); of an empty descriptor, no byte. -/
def Td.span (t : Td) : Span :=
  if t.count = 0 then ⟨t.base, 0⟩
  else
    let (lo, hi) := t.range
    ⟨(lo.fdiv 8).toNat, ((hi + 7).fdiv 8 - lo.fdiv 8).toNat⟩

def overlapBytes (a b : Span) : Nat := min (a.addr + a.len) (b.addr + b.len) - max a.addr b.addr
def Span.meets (a b : Span) : Bool := 0 < overlapBytes a b

/-! Checks of a descriptor at issue (R175, R210, R212, R213, R216). -/

/-- Codes of Table 5.11 that a check can raise. -/
def chk (b : Bool) (code : Nat) : List Nat := if b then [] else [code]

/-- The checks that every named descriptor passes, in the order of R175: shape, tag, block rules, bounds. -/
def Td.shapeFaults (t : Td) (limit : Nat) : List Nat :=
  chk (t.ndim ≤ 5 && t.count ≤ 2 ^ 32) 0x02 ++
  (match t.tagOf with
   | none => [0x03]
   | some g =>
     (if t.bs = 0 then []
      else chk (g.scalable && t.stride.headD 0 == 1 && t.ext.headD 0 % t.bs == 0 && t.lidx0 % t.bs == 0) 0x03) ++
     (if t.count = 0 then []
      else
        let r := t.range
        chk (0 ≤ r.1 && r.2 ≤ 8 * (limit : Int)) 0x02))

/-! Elements in memory. -/

/-- State.upset names mailbox words by this number and above, outside the device address space (Table 13.1). -/
def mbxUpset : Nat := 0x040000000000

/-- The same for the words of cluster c's staging buffer (R225). -/
def stageUpset (c : Nat) : Nat := 0x048000000000 + c * 0x100000

/-- A memory of bytes with its marks: a scratchpad window or a mailbox, from byte `at`. -/
structure View where
  mem    : Mem
  poison : List Nat
  at0    : Nat

/-- The scratchpad of core p. -/
def State.scratch (s : State) (p : Nat) : View := ⟨s.mem, s.poison, window p⟩
/-- The mailbox of cluster c. -/
def State.mailbox (s : State) (c : Nat) : View := ⟨s.mbx, s.mbxPoison, 65536 * c⟩

/-- w bits from a bit address. -/
def View.bits (v : View) (b w : Nat) : Nat :=
  (v.mem.le (v.at0 + b / 8) ((b % 8 + w + 7) / 8) >>> (b % 8)) % 2 ^ w

/-- Some byte that these bits touch is poisoned. -/
def View.marked (v : View) (b w : Nat) : Bool := anyMarked v.poison (v.at0 + b / 8) ((b % 8 + w + 7) / 8)

/-- An element as read: its code, its poison with its scale byte's, and its scale byte when it has one (R173). -/
structure Elem where
  code   : Nat
  poison : Bool
  scale  : Nat
  deriving DecidableEq, Repr

def View.elem (v : View) (t : Td) (e : Nat) : Elem :=
  let b := (t.bit e).toNat
  if t.bs = 0 then ⟨v.bits b t.tg.width, v.marked b t.tg.width, 127⟩
  else
    let sb := (t.scaleByte e).toNat
    ⟨v.bits b t.tg.width, v.marked b t.tg.width || v.marked (8 * sb) 8, v.bits (8 * sb) 8⟩

/-- rd_val (R173) of an element of tag g, block-scaled or not. -/
def elemVal (g : Tag) (scaled ftz : Bool) (x : Elem) : Fl Num :=
  if scaled then
    let r := readIn x.code g ftz
    if x.scale = 255 then ⟨.nan, r.flags ||| flNAN⟩
    else
      let y := if g = .int8 then r.val.scale (-6) else r.val
      ⟨y.scale ((x.scale : Int) - 127), r.flags⟩
  else readIn x.code g ftz

/-- lidx (R173), modulo 2^40. -/
def Td.lidx (t : Td) (e : Nat) : Nat := (t.lidx0 + e) % 2 ^ 40

/-! Rounding fields (R82): the context of an element. -/

/-- RND, SAT, IOV, with the mode and the keys of the issue clk (R158). -/
def rndCtx (v : VCore) (rnd : Nat) (sat iov : Bool) (tid lidx : Nat) : Rnd :=
  ⟨rnd, sat, iov, v.ftz, (List.range 4).map (fun k => (v.key k).val), tid, lidx⟩

/-- An SR rounding with a poisoned key yields a poisoned element (R197). -/
def badKey (v : VCore) (rnd : Nat) : Bool := 4 ≤ rnd && (v.key (rnd - 4)).poison

end Sys2Proof.Machine
end

