-- ==== Sys2Proof/Machine/Needs.lean ====
section
/-! DEFINITION. What each slot of a bundle asks for at issue: the faults of R166 and R175, the registers, ranges and
resources of R159 to R161, R126 to R130 and R169, and the clk of Table 5.10. -/

namespace Sys2Proof.Machine

/-- What one slot asks of the core in the clk its bundle would issue. -/
structure Needs where
  faults : List Nat := []
  tok    : Option (Nat × Nat) := none
  /-- QWAIT, SPOP, SPUSH or NETQ finds its queue as it needs it -/
  queue  : Bool := true
  reads  : List Reg := []
  writes : List Reg := []
  rd     : List Span := []
  wr     : List Span := []
  /-- the elements it reads of rd: descriptor, how many, which (R235) -/
  touch  : List (Td × Nat × (Nat → Nat)) := []
  /-- its ranges take scoreboard entries (R160, R202) -/
  enters : Bool := true
  /-- clk after issue of its last read of the scratchpad and of its first write (R129, R227, R523) -/
  rdEnd  : Nat := 0
  wrAt   : Nat := 0
  /-- clk by which its beats that start off an 8-byte boundary slip (R234) -/
  slip   : Nat := 0
  /-- completion clk -/
  lat    : Nat := 0
  res    : Option (Nat × Nat) := none
  /-- accumulator rows it reads or writes; those it writes are available to dependents accAt clk after issue -/
  acc    : List AccUse := []
  accAt  : Nat := 0
  mma    : Bool := false
  /-- clk of the activation stream -/
  stream : Nat := 0
  /-- arrays it loads weights into, arrays a SWAPW swaps -/
  ldw    : List Nat := []
  swap   : List Nat := []
  /-- weight registers a pass binds and the clk its last row leaves the chain -/
  bound  : List (Nat × Nat) := []
  chain  : Nat := 0
  drain  : Bool := false

/-- XL (R226). -/
def xl : Nat := 24

/-- Beats of a byte range. -/
def beats (n : Nat) : Nat := cdiv n 256

/-- Slips of a byte range read or written beat by beat (R234): a beat off an 8-byte boundary that covers 33 words moves
its last word one clk. -/
def beatSlips (lo len : Nat) : Nat :=
  if lo % 8 = 0 then 0 else len / 256 + (if 256 < len % 256 + lo % 8 then 1 else 0)

/-- The same for n consecutive elements from e of a descriptor; elements that lie apart make no beat. -/
def Td.rowSlip (t : Td) (e n : Nat) : Nat :=
  let lo := t.bit e
  let hi := t.bit (e + n - 1) + (t.tg.width : Int)
  if n = 0 ∨ hi - lo ≠ (n * t.tg.width : Nat) then 0
  else beatSlips (lo.fdiv 8).toNat (((hi + 7).fdiv 8 - lo.fdiv 8).toNat)

/-- Rows of n elements each. -/
def Td.rowSlips (t : Td) (rows n : Nat) : Nat := (List.range rows).foldl (fun a r => a + t.rowSlip (n * r) n) 0

/-- Arrays of a 4-bit mask. -/
def arraysOf (m : Nat) : List Nat := (List.range 4).filter (fun n => m.testBit n)

def regIf (b : Bool) (r : Reg) : List Reg := if b then [r] else []

/-- Faults of an opcode or SCAL FN that is unassigned (R144, R147, R167). -/
def badOpcode : Needs := { faults := [0x01] }

/-! C slot (R145, R147, R155, R156, R180, R181). -/

def crDest (w : W64) : Reg := if sf w 13 13 = 1 then .a (sf w 12 8) else .g (sf w 12 8)

/-- Registers SCAL reads, by FN (Table 5.3). -/
def scalReads (w : W64) : List Reg :=
  regIf (sf w 25 25 = 0) (.g (sf w 24 20)) ++
    (if sf w 31 26 < 0x10 then [if sf w 14 14 = 1 then .a (sf w 19 15) else .g (sf w 19 15)] else [])

def needC (v : VCore) (w : W64) : Needs :=
  match opcode w with
  | 0x00 => {}
  | 0x01 => { writes := [crDest w], lat := 1 }
  | 0x02 =>
    if 0x11 < sf w 31 26 then badOpcode
    else { reads := scalReads w, writes := [crDest w], lat := if sf w 31 26 = 0x08 then 3 else 1 }
  | 0x03 => { reads := [.g (sf w 28 24)], lat := 1 }
  | 0x04 => { lat := 1 }
  | 0x05 => { lat := 1 }
  | 0x06 => { reads := [.g (sf w 28 24)], lat := 1 }
  | 0x07 => { faults := chk (v.rs.length < 8) 0x07, lat := 1 }
  | 0x08 => { faults := chk (v.rs != []) 0x07, lat := 1 }
  | 0x09 => { lat := 1 }
  | 0x0A => { tok := some (sf w 13 8, sf w 21 16) }
  | 0x0B =>
    let q := v.queue (sf w 11 8)
    let n := sf w 21 16
    { queue := if sf w 11 8 < 8 then n ≤ q.visible - q.popped else n ≤ q.depth - q.out.length }
  | 0x0C => { drain := true }
  | 0x0D => { writes := [crDest w], lat := 1 }
  | 0x0E => {}
  | 0x0F => { writes := [crDest w], lat := 2 }
  | 0x10 => { writes := [crDest w], lat := 16 }
  | _ => badOpcode

/-! A slot (R149, R107 to R130). -/

/-- The ledger check of a descriptor written through (R55, R175): N is the job's slot count. -/
def Td.ledgerFault (t : Td) (n : Nat) : List Nat := chk (t.slot ≤ n) 0x04

/-- Operand classes of Table 4.1: the rate class of an activation tag, if it is one. -/
def rateClass : Tag → Option Nat
  | .e4m3 | .e5m2 | .e3m2 | .e2m3 => some 0
  | .e2m1 => some 1
  | .int8 => some 2
  | .bf16 | .fp16 => some 3
  | _ => none

/-- Clk per row of a pass, and per-row delay of the last stages (R127). -/
def paceOf (g : Tag) : Nat := if g = .bf16 ∨ g = .fp16 then 4 else 1
def mmaLat (g : Tag) : Nat := if g = .bf16 ∨ g = .fp16 then 83 else 80

/-- Weight K positions of a tile (Table 7.4). -/
def kMax (g : Tag) : Nat := if g = .e2m1 then 128 else 64

/-- The pairing of Table 4.1 and R110 for array n (R522 for empty weights). -/
def pairOk (v : VCore) (t : Td) (n : Nat) : Bool :=
  match v.weight n (v.current n) with
  | none => true
  | some w => rateClass w.tag == rateClass t.tg && w.bs == t.bs

def needMma (v : VCore) (w : W64) : Needs :=
  let t := v.tdArv (sf w 16 12) (sf w 44 44 = 1) (sf w 43 40)
  let as := arraysOf (sf w 11 8)
  let k := sf w 39 32
  let n := sf w 31 24
  let pace := paceOf t.tg
  { faults := t.shapeFaults 0x200000 ++
      chk ((rateClass t.tg).isSome && (rateClass t.tg != some 3 || t.bs == 0)) 0x03 ++
      chk (as.all (pairOk v t)) 0x03 ++ chk (k ≤ kMax t.tg) 0x03 ++
      chk (k ≤ t.ext.headD 0 && (k == 0 || n ≤ (t.ext.drop 1).headD 0)) 0x02 ++
      chk (k == 0 || n == 0 || (t.ext.drop 2).all (0 < ·)) 0x02
    reads := regIf (sf w 44 44 = 1) (.a (sf w 43 40))
    rd := [t.span]
    touch := [(t, k * n, fun e => t.index [e % k, e / k])]
    rdEnd := pace * (n - 1) + 3
    lat := 80 + pace * n
    acc := if k = 0 then [] else as.map (fun a => ⟨v.activeTile a, sf w 23 17, n, pace⟩)
    accAt := mmaLat t.tg
    mma := true
    stream := pace * n
    bound := as.map (fun a => (a, v.current a))
    chain := mmaLat t.tg - 11 + pace * (n - 1) }

/-- K positions that a weight load reads: those of the array that the descriptor has; the others load +0 (R215). -/
def ldwK (t : Td) (tr : Bool) : Nat := min (kMax t.tg) (if tr then t.ext.headD 0 else (t.ext.drop 1).headD 0)

/-- Coordinates of K position k and column n of a weight tile (Table 7.4). -/
def ldwAt (tr : Bool) (k n : Nat) : List Nat := if tr then [k, n] else [n, k]

/-- LDW and LDW.T (R112, R215, R216): tr is LDW.T. -/
def needLdw (v : VCore) (w : W64) (tr : Bool) : Needs :=
  let t := v.tdArv (sf w 14 10) (sf w 26 26 = 1) (sf w 25 22)
  let l := if tr then 68 + xl else 68
  { faults := t.shapeFaults 0x200000 ++ chk ((rateClass t.tg).isSome) 0x03 ++
      chk ((tr || t.bs == 0) && (rateClass t.tg != some 3 || t.bs == 0)) 0x03 ++
      chk (if tr then sf w 21 15 ≤ (t.ext.drop 1).headD 0 else sf w 21 15 ≤ t.ext.headD 0) 0x02 ++
      chk (sf w 21 15 == 0 || ldwK t tr == 0 || (t.ext.drop 2).all (0 < ·)) 0x02
    reads := regIf (sf w 26 26 = 1) (.a (sf w 25 22))
    rd := [t.span]
    touch := [(t, ldwK t tr * sf w 21 15, fun e => t.index (ldwAt tr (e / sf w 21 15) (e % sf w 21 15)))]
    rdEnd := 64
    lat := l
    ldw := [sf w 9 8] }

def accUseOf (w : W64) (pace : Nat) : AccUse := ⟨sf w 10 8, sf w 22 16, sf w 30 23, pace⟩

/-- Fields of the AA format. -/
def aaTd (v : VCore) (w : W64) : Td := v.tdArv (sf w 15 11) (sf w 55 55 = 1) (sf w 54 51)

def needAccld (v : VCore) (w : W64) : Needs :=
  let t := aaTd v w
  let raw := sf w 38 38 = 1
  let need := sf w 30 23 * sf w 37 31 * (if raw then 2 else 1)
  { faults := t.shapeFaults 0x200000 ++ chk (!raw || (t.tg == .fp32 && t.bs == 0)) 0x03 ++ chk (need ≤ t.count) 0x02
    reads := regIf (sf w 55 55 = 1) (.a (sf w 54 51))
    rd := [t.span]
    touch := [(t, need, id)]
    rdEnd := (if raw then 2 else 1) * sf w 30 23 + 2
    slip := t.rowSlips (sf w 30 23) (sf w 37 31 * (if raw then 2 else 1))
    lat := 6 + (if raw then 2 else 1) * sf w 30 23
    acc := [accUseOf w (if raw then 2 else 1)]
    accAt := if raw then 8 else 7 }

def needAccst (v : VCore) (slots : Nat) (w : W64) : Needs :=
  let t := aaTd v w
  let raw := sf w 38 38 = 1
  let need := sf w 30 23 * sf w 37 31 * (if raw then 2 else 1)
  { faults := t.shapeFaults 0x200000 ++ chk (t.tg != .e8m0) 0x03 ++
      chk (!raw || (t.tg == .fp32 && t.bs == 0)) 0x03 ++ chk (need ≤ t.count) 0x02 ++
      chk (t.bs == 0 || sf w 37 31 % t.bs == 0) 0x03 ++ t.ledgerFault slots
    reads := regIf (sf w 55 55 = 1) (.a (sf w 54 51))
    wr := [t.span]
    wrAt := 6
    slip := t.rowSlips (sf w 30 23) (sf w 37 31 * (if raw then 2 else 1))
    lat := 6 + (if raw then 2 else 1) * sf w 30 23
    acc := [accUseOf w (if raw then 2 else 1)] }

/-- The tiles ACCCLR names. -/
def clrTiles (w : W64) : List Nat := (List.range 8).filter (fun k => (sf w 15 8).testBit k)

def needA (v : VCore) (slots : Nat) (w : W64) : Needs :=
  match opcode w with
  | 0x00 => {}
  | 0x01 => needLdw v w false
  | 0x02 => needLdw v w true
  | 0x03 => { lat := 1, swap := arraysOf (sf w 11 8) }
  | 0x04 => needMma v w
  | 0x05 => needAccld v w
  | 0x06 => needAccst v slots w
  | 0x07 => { lat := 2, acc := (clrTiles w).map (fun k => ⟨k, 0, 128, 0⟩), accAt := 2 }
  | 0x08 => { lat := 1 }
  | _ => badOpcode

/-! V slot (R150, R190). -/

/-- Completion clk of the V-slot instructions (Table 5.10). -/
def vLat : Nat → Nat
  | 0x01 => 5 | 0x02 => 4
  | 0x16 | 0x34 => 1
  | 0x13 | 0x14 | 0x17 | 0x15 | 0x33 => 2
  | 0x30 => 3
  | 0x10 | 0x11 | 0x12 => 4
  | 0x22 | 0x23 => 8
  | 0x31 => 9
  | 0x32 => 11
  | _ => 12

/-- Which of VA, VB, VC a VR instruction reads. -/
def vReads (w : W64) : List Reg :=
  let a := Reg.v (sf w 17 13)
  let b := Reg.v (sf w 22 18)
  let c := Reg.v (sf w 27 23)
  match opcode w with
  | 0x12 | 0x16 => [a, b, c]
  | 0x10 | 0x11 | 0x13 | 0x14 | 0x15 | 0x17 => [a, b]
  | 0x31 => if sf w 40 37 = 4 then [a, b] else [a]
  | _ => [a]

/-- FMT and FN of Table 6.5, which the load checks refuse otherwise (R174); a bundle memory that differs from the
loaded program faults with the format-tag code. -/
def vFields (w : W64) : Bool :=
  let f := Tag.ofCode (sf w 31 28)
  let n := sf w 40 37
  let arith := f == some .fp32 || f == some .bf16 || f == some .fp16 || f == some .int32
  match opcode w with
  | 0x10 | 0x11 | 0x12 | 0x13 | 0x14 | 0x17 => arith
  | 0x15 => arith && n < 8
  | 0x16 => true
  | 0x20 | 0x21 | 0x22 | 0x23 | 0x24 => f == some .fp32 || f == some .bf16 || f == some .fp16
  | 0x30 => (match f with
    | some .e8m0 | none => false
    | some _ => true) && (Tag.ofCode n).isSome
  | 0x31 => arith && n < 5
  | 0x32 => arith && n < 3
  | _ => true

def vmTd (v : VCore) (w : W64) : Td := v.tdArv (sf w 17 13) (sf w 22 22 = 1) (sf w 21 18)

/-- Elements of a row that VLD reads or VST writes. -/
def vRow (t : Td) (w : W64) : Nat := min 128 (t.count - 128 * sf w 29 23)

/-- g[GS] is a source of what rounds with it (R159, Table 6.5): VSEL and VCMP leave the field RSV. -/
def vGs (w : W64) : List Reg := if opcode w = 0x15 ∨ opcode w = 0x16 then [] else [.g (sf w 45 41)]

def needV (v : VCore) (slots : Nat) (w : W64) : Needs :=
  match opcode w with
  | 0x00 => {}
  | 0x01 =>
    let t := vmTd v w
    { faults := t.shapeFaults 0x200000, reads := regIf (sf w 22 22 = 1) (.a (sf w 21 18))
      writes := [.v (sf w 12 8)], rd := [t.span], touch := [(t, vRow t w, fun i => 128 * sf w 29 23 + i)], rdEnd := 4
      slip := t.rowSlip (128 * sf w 29 23) (vRow t w), lat := 5 }
  | 0x02 =>
    let t := vmTd v w
    { faults := t.shapeFaults 0x200000 ++ chk (t.tg != .e8m0) 0x03 ++ t.ledgerFault slots
      reads := .v (sf w 12 8) :: regIf (sf w 22 22 = 1) (.a (sf w 21 18)), wr := [t.span], wrAt := 3
      slip := t.rowSlip (128 * sf w 29 23) (vRow t w), lat := 4 }
  | 0x33 => { writes := [.v (sf w 12 8)], lat := 2 }
  | 0x34 => { reads := [.v (sf w 17 13)], lat := 1 }
  | 0x10 | 0x11 | 0x12 | 0x13 | 0x14 | 0x15 | 0x16 | 0x17 | 0x20 | 0x21 | 0x22 | 0x23 | 0x24 | 0x30 | 0x31 | 0x32 =>
    { faults := chk (vFields w) 0x03, reads := vGs w ++ vReads w, writes := [.v (sf w 12 8)]
      lat := vLat (opcode w) }
  | _ => badOpcode

/-! M slot (R151, R175, R195, R202 to R205). -/

def mtSrc (v : VCore) (w : W64) : Td := v.tdArv (sf w 12 8) (sf w 22 22 = 1) (sf w 21 18)
def mtDst (v : VCore) (w : W64) : Td := v.tdArv (sf w 17 13) (sf w 27 27 = 1) (sf w 26 23)
def mtRegs (w : W64) : List Reg :=
  regIf (sf w 22 22 = 1) (.a (sf w 21 18)) ++ regIf (sf w 27 27 = 1) (.a (sf w 26 23))

/-- PERM[d] of TPERM (R195); TXP exchanges dimensions 0 and 1, TMOV keeps them. -/
def permOf (w : W64) : List Nat :=
  match opcode w with
  | 0x02 => [1, 0, 2, 3, 4]
  | 0x03 => (List.range 5).map (fun d => sf w (30 + 3 * d) (28 + 3 * d))
  | _ => [0, 1, 2, 3, 4]

/-- The extents of R195. -/
def extentsOk (a b : Td) (w : W64) : Bool :=
  if opcode w = 0x01 then a.count ≤ b.count
  else b.ext == (permOf w).map (fun d => a.ext.getD d 1)

/-- Dense strides (R220): blocks of a block-scaled descriptor count as its elements do. -/
def denseFrom (acc : Nat) : List Nat → List Int → Bool
  | x :: r, q :: l => q == (acc : Int) && denseFrom (acc * x) r l
  | _, _ => true

def Td.dense (t : Td) : Bool :=
  if t.bs = 0 then denseFrom 1 (t.ext.take t.ndim) (t.stride.take t.ndim)
  else t.stride.headD 0 == 1 && denseFrom (t.ext.headD 0 / t.bs) ((t.ext.take t.ndim).drop 1) ((t.stride.take t.ndim).drop 1)

def plainCopy (a b : Td) (w : W64) : Bool :=
  opcode w == 0x01 && a.tag == b.tag && a.bs == b.bs && a.dense && b.dense && a.count == b.count

/-- How an overlap is resolved (R220 to R222, R231): bytes V, and whether it is staged or spilled. -/
inductive Path where
  | direct | staged (v : Nat) | spilled (v : Nat)
  deriving DecidableEq, Repr

def pathOf (beyond : Nat) (plain forceStage forceSpill : Bool) : Path :=
  if beyond = 0 then .direct
  else if plain && !forceStage then .direct
  else if beyond > 1048576 || forceSpill then .spilled beyond
  else .staged beyond

/-- Clk that the path adds (Table 7.5); in open cadence at least these (R224). -/
def Path.added : Path → Nat
  | .direct => 0
  | .staged v => cdiv v 256 + 4
  | .spilled v => 2 * cdiv v 64 + 1200

def needMove (v : VCore) (slots : Nat) (w : W64) : Needs :=
  let a := mtSrc v w
  let b := mtDst v w
  let n := beats a.span.len
  { faults := a.shapeFaults 0x200000 ++ b.shapeFaults 0x200000 ++
      chk (b.tg != .e8m0 || a.tg == .e8m0) 0x03 ++ chk (extentsOk a b w) 0x02 ++ b.ledgerFault slots
    reads := mtRegs w, rd := [a.span], wr := [b.span]
    touch := [(a, a.count, id)], rdEnd := n + 1, wrAt := if opcode w = 0x01 then 4 else 4 + xl
    slip := beatSlips a.span.addr a.span.len + beatSlips b.span.addr b.span.len
    lat := 4 + n + (if opcode w = 0x01 then 0 else xl)
    res := some (0, n) }

def needMbx (v : VCore) (slots : Nat) (w : W64) : Needs :=
  let a := mtSrc v w
  let b := mtDst v w
  let out := sf w 43 43 = 1
  let n := cdiv a.span.len 64
  { faults := a.shapeFaults (if out then 0x200000 else 0x10000) ++ b.shapeFaults (if out then 0x10000 else 0x200000) ++
      chk (a.tag == b.tag && a.bs == b.bs) 0x03 ++ chk (a.count ≤ b.count) 0x02 ++ b.ledgerFault slots
    reads := mtRegs w
    rd := if out then [a.span] else []
    wr := if out then [] else [b.span]
    touch := if out then [(a, a.count, id)] else []
    rdEnd := n + 1, wrAt := 8
    lat := 8 + n
    res := some (1, n) }

/-- SADD.ORD and SADD.ANY: TDS and TDI take the address register, TDD does not (R151, R209). -/
def saddS (v : VCore) (w : W64) : Td := v.tdArv (sf w 12 8) (sf w 27 27 = 1) (sf w 26 23)
def saddI (v : VCore) (w : W64) : Td := v.tdArv (sf w 17 13) (sf w 27 27 = 1) (sf w 26 23)
def saddD (v : VCore) (w : W64) : Td := v.tdArv (sf w 22 18) false 0

def needSadd (v : VCore) (slots : Nat) (w : W64) : Needs :=
  let a := saddS v w
  let i := saddI v w
  let d := saddD v w
  let n := a.count
  let per := if opcode w = 0x0A then 16 else 64
  { faults := a.shapeFaults 0x200000 ++ i.shapeFaults 0x200000 ++ d.shapeFaults 0x200000 ++
      chk (i.tg == .int32 && i.bs == 0) 0x03 ++
      chk ((d.tg == .fp32 || d.tg == .bf16 || d.tg == .fp16 || d.tg == .int32) && d.bs == 0) 0x03 ++
      chk (a.tg != .e8m0) 0x03 ++ chk (n ≤ i.count) 0x02 ++ d.ledgerFault slots
    reads := regIf (sf w 27 27 = 1) (.a (sf w 26 23))
    rd := [a.span, i.span], wr := [d.span]
    touch := [(i, n, id), (a, n, id)]
    rdEnd := 2 + cdiv n per, wrAt := 3 + cdiv n per
    lat := (if opcode w = 0x0A then 12 else 8) + cdiv n per
    res := some (2, cdiv n per) }

/-- The area of an outbound queue as a span. -/
def SQueue.areaSpan (q : SQueue) : Span := ⟨q.area, q.entry * q.depth⟩

/-- A descriptor within an area (R175 for SPUSH). -/
def insideSpan (a b : Span) : Bool := a.len == 0 || (b.addr ≤ a.addr && a.addr + a.len ≤ b.addr + b.len)

def mqTd (v : VCore) (w : W64) : Td := v.tdArv (sf w 16 12) false 0

def needM (v : VCore) (slots : Nat) (nqFree : Nat → Bool) (w : W64) : Needs :=
  match opcode w with
  | 0x00 => {}
  | 0x01 | 0x02 | 0x03 => needMove v slots w
  | 0x04 =>
    let t := mqTd v w
    let q := v.queue (sf w 11 8)
    { faults := t.shapeFaults 0x200000 ++ chk (insideSpan t.span q.areaSpan) 0x02
      queue := q.out.length < q.depth, rd := [t.span], enters := false, lat := 1 }
  | 0x05 =>
    let q := v.queue (sf w 11 8)
    let d := mqTd v w
    { faults := chk (d.ndim ≤ 5 && d.count ≤ 2 ^ 32) 0x02, queue := q.popped < q.visible, lat := 1 }
  | 0x06 => needMbx v slots w
  | 0x07 =>
    let t := mtSrc v w
    { faults := t.shapeFaults 0x200000 ++ t.ledgerFault slots, reads := regIf (sf w 22 22 = 1) (.a (sf w 21 18))
      rd := [t.span], touch := [(t, t.count, id)], rdEnd := beats t.span.len + 1, slip := beatSlips t.span.addr t.span.len
      lat := 3 + beats t.span.len, res := some (0, beats t.span.len) }
  | 0x08 =>
    let t := mqTd v w
    { faults := t.shapeFaults 0x200000, queue := nqFree (sf w 27 22), rd := [t.span], enters := false, lat := 1 }
  | 0x09 => { writes := [.g (sf w 21 17)], lat := 4 }
  | 0x0A | 0x0B => needSadd v slots w
  | _ => badOpcode

end Sys2Proof.Machine
end

