-- ==== Sys2Proof/Machine/Store.lean ====
section
/-! DEFINITION. Element writes through a descriptor: rounding into its tag (R124, R186, R191, R199), block scaling
(R81), bit copies with their marks (R199, R235), folds (R57 to R60), histogram counts (R104) and WCOLLAPSE (R218). -/

namespace Sys2Proof.Machine

/-- One element write: the bytes it puts, where the element starts, what it folds and counts. -/
structure Write where
  puts   : List Eff
  /-- the element -/
  el     : Nat
  bit    : Nat
  code   : Nat
  tag    : Nat
  lidx   : Nat
  poison : Bool
  /-- a scale byte: a fold of its own (R58), no element for WCOLLAPSE -/
  scale  : Bool
  hist   : Option Num
  deriving DecidableEq

/-- A value rounded into a destination's tag, none for a poisoned element, with the flags. -/
abbrev Val := Option Num

/-- An element's counted value (R104): only of a floating-point tag, with its block's scale. -/
def histOf (t : Td) (code scale : Nat) : Option Num :=
  if t.hist ∧ t.tg.isFloat then
    some (if t.bs = 0 then decode code t.tg
      else if scale = 255 then .nan else (decode code t.tg).scale ((scale : Int) - 127))
  else none

/-- An element write of a rounded code. -/
def elemWrite (mbx : Bool) (t : Td) (e code scale : Nat) (p : Bool) : Write :=
  let b := (t.bit e).toNat
  { puts := [.put mbx b t.tg.width code p], el := e, bit := b, code, tag := t.tag, lidx := t.lidx e, poison := p
    scale := false, hist := if p then none else histOf t code scale }

/-- wr_scale (R173): the scale byte of the block of element e, folded at its block index (R213). -/
def scaleWrite (mbx : Bool) (t : Td) (e code : Nat) (p : Bool) : Write :=
  let b := 8 * (t.scaleByte e).toNat
  { puts := [.put mbx b 8 code p], el := e, bit := b, code, tag := 0xC, lidx := (t.lidx0 + e) / t.bs % 2 ^ 40, poison := p
    scale := true, hist := none }

/-- One unscaled element (R186, R191): poisoned, or rounded by its tag. -/
def storeOne (v : VCore) (rnd : Nat) (sat iov : Bool) (t : Td) (e : Nat) (x : Val) : Fl (List Write) :=
  match x with
  | none => ⟨[elemWrite false t e 0 127 true], 0⟩
  | some y =>
    let r := roundTag y t.tg (rndCtx v rnd sat iov t.tid (t.lidx e))
    if badKey v rnd then ⟨[elemWrite false t e 0 127 true], 0⟩
    else ⟨[elemWrite false t e r.val 127 false], r.flags⟩

/-- One block from element e0: n elements written, the block filled up with +0 (R186, R191). -/
def storeBlock (v : VCore) (rnd : Nat) (sat : Bool) (t : Td) (e0 : Nat) (xs : List Val) : Fl (List Write) :=
  let n := xs.length
  if xs.any (·.isNone) || badKey v rnd then
    ⟨scaleWrite false t e0 0 true :: (List.range n).map (fun i => elemWrite false t (e0 + i) 0 127 true), 0⟩
  else
    let ys := xs.map (fun x => x.getD (.zero false)) ++ List.replicate (t.bs - n) (.zero false)
    let r := mxBlock ys t.tg (rndCtx v rnd sat false t.tid (t.lidx e0))
    ⟨scaleWrite false t e0 r.val.1 false ::
      (r.val.2.take n).mapIdx (fun i c => elemWrite false t (e0 + i) c r.val.1 false), r.flags⟩

/-- Cut a list into pieces of n. -/
def chunks {α : Type} (n : Nat) : Nat → List α → List (List α)
  | 0, _ => []
  | _, [] => []
  | f + 1, l => l.take n :: chunks n f (l.drop n)

/-- Elements e0, e0 + 1, ... of a descriptor written with given values: element by element or block by block. -/
def storeVals (v : VCore) (rnd : Nat) (sat iov : Bool) (t : Td) (e0 : Nat) (xs : List Val) : Fl (List Write) :=
  let rs := if t.bs = 0 then xs.mapIdx (fun i x => storeOne v rnd sat iov t (e0 + i) x)
    else (chunks t.bs xs.length xs).mapIdx (fun i b => storeBlock v rnd sat t (e0 + i * t.bs) b)
  ⟨rs.flatMap (·.val), rs.foldl (fun f r => f ||| r.flags) 0⟩

/-! Bit copies. -/

/-- The puts of a bit copy of w bits: whole bytes keep each its own mark (R199, R235). -/
def copyPuts (mbx : Bool) (src : View) (from_ to_ w : Nat) : List Eff :=
  if w % 8 = 0 then
    (List.range (w / 8)).map (fun i =>
      .put mbx (to_ + 8 * i) 8 (src.bits (from_ + 8 * i) 8) (src.marked (from_ + 8 * i) 8))
  else [.put mbx to_ w (src.bits from_ w) (src.marked from_ w)]

/-- Element e of the destination takes element f of the source bit by bit; the scale byte goes with a block's first
element. -/
def copyElem (mbx : Bool) (src : View) (a b : Td) (f e : Nat) : List Write :=
  let x := src.elem a f
  let bb := (b.bit e).toNat
  let el : Write :=
    { puts := copyPuts mbx src (a.bit f).toNat bb b.tg.width, el := e, bit := bb, code := x.code, tag := b.tag, lidx := b.lidx e
      poison := x.poison, scale := false, hist := if x.poison then none else histOf b x.code x.scale }
  if b.bs ≠ 0 ∧ (b.coords e).headD 0 % b.bs = 0 then
    let sa := 8 * (a.scaleByte f).toNat
    let sc := scaleWrite mbx b e (src.bits sa 8) (src.marked sa 8)
    [sc, el]
  else [el]

/-! From writes to effects. -/

/-- Element writes that a later element of the instruction overwrites (R218): those beyond one for each address. -/
def collapsed (ws : List Write) : Nat :=
  let l := (ws.filter (fun w => !w.scale)).map (·.bit)
  l.length - (l.foldl (fun d x => sins x d) []).length

/-- The fold of the written elements through a descriptor of job j (R55, R57 to R59): none for slot 0 or for no
element; of the FULL class outside Clear, the status alone. -/
def State.foldOf (s : State) (j : Nat) (t : Td) (ws : List Write) : List Eff :=
  if t.slot = 0 ∨ ws = [] then []
  else
    let slot := s.ledgerBase j + t.slot - 1
    if t.full ∧ s.level j ≠ 0 then [.fold slot 0 0 0 false true]
    else
      let h := (ws.filter (fun w => !w.poison)).map (fun w => knotHash w.code w.tag t.tid w.lidx)
      [.fold slot (h.foldl (fun a x => a + x.1) 0) (h.foldl (fun a x => a + x.2) 0) ws.length
        (ws.any (·.poison)) t.full]

/-- Bytes that w bits at bit b touch, each with the bits of it that they are. -/
def touched (b w : Nat) : List (Nat × Nat) :=
  (List.range ((b % 8 + w + 7) / 8)).map (fun i =>
    (b / 8 + i, ((2 ^ w - 1) <<< (b % 8)) >>> (8 * i) % 256))

/-- Bytes that parts of the write cover together, none of them poisoned: the write covers them completely (R235). -/
def washed (ps : List Eff) : List Eff :=
  let parts := ps.flatMap (fun e => match e with
    | .put mbx b w _ q => if b % 8 = 0 ∧ w % 8 = 0 ∧ !q then [] else (touched b w).map (fun x => (mbx, x.1, x.2, q))
    | _ => [])
  let t : Tab (Nat × Bool) := parts.foldl (fun t (mbx, a, m, q) =>
    let k := 2 * a + (if mbx then 1 else 0)
    let o := tget (fun _ => (0, false)) t k
    tput (fun _ => (0, false)) t k (o.1 ||| m, o.2 || q)) []
  t.filterMap (fun (k, m, q) => if m = 255 ∧ !q then some (.wash (k % 2 == 1) (k / 2)) else none)

/-- All effects of a descriptor's writes but WCOLLAPSE: clk gives, counted from issue, when an element is written. -/
def State.writeEffs (s : State) (j : Nat) (t : Td) (clk : Nat → Nat) (ws : List Write) : List Eff :=
  ws.flatMap (·.puts) ++ washed (ws.flatMap (·.puts)) ++ ws.filterMap (fun w => w.hist.map (.hist (clk w.el))) ++ s.foldOf j t ws

/-- What WCOLLAPSE counts of an instruction's writes (R218); SADD.ORD and SADD.ANY count nothing there. -/
def collapseEff (ws : List Write) : List Eff := if collapsed ws = 0 then [] else [.count 0x0B8 47 0 (collapsed ws)]

/-- Flags as an effect. -/
def flagEff (f : Flags) : List Eff := if f = 0 then [] else [.flags f]

end Sys2Proof.Machine
end

