-- ==== Sys2Proof/Machine/Chain.lean ====
section
/-! DEFINITION. The arrays' arithmetic: the exact chain sum of a segment (R113, R114), the accumulator pair's rounding,
update and readout (R116 to R118), and RAW loads (R125). -/

namespace Sys2Proof.Machine

/-- One K position of a segment: activation and weight code, and their scale bytes (127 unscaled). -/
structure Cell where
  a  : Nat
  w  : Nat
  sa : Nat
  sw : Nat
  deriving DecidableEq, Repr

/-- decode as R113 uses it: a block-scaled INT8 code is its integer times 2^-6 (R75). -/
def cellVal (b : Nat) (t : Tag) (scaled : Bool) : Num :=
  if scaled ∧ t = .int8 then (decode b t).scale (-6) else decode b t

/-- cell_product with the read flags of chain_segment's first lines (R113). -/
def cellProduct (ta tw : Tag) (scaled : Bool) (x : Cell) : Fl Num :=
  let f := nanReadFlags x.a ta ||| nanReadFlags x.w tw
  if scaled ∧ (x.sa = 255 ∨ x.sw = 255) then ⟨.nan, f ||| flNAN⟩
  else
    let r := fmul (cellVal x.a ta scaled) (cellVal x.w tw scaled) false
    let c : Int := if scaled then (x.sa : Int) + x.sw - 254 else 0
    match r.val with
    | .fin s m e =>
      if !scaled ∧ beyondFp32 m e then ⟨.inf s, f ||| flOVF⟩ else ⟨.fin s m (e + c), f⟩
    | y => ⟨y, f ||| r.flags⟩

/-- floor (v x 2^e / 2^k). -/
def floorShift (d : Dy) (k : Int) : Int :=
  if k ≤ d.e then d.v * 2 ^ (d.e - k).toNat else d.v.fdiv (2 ^ (k - d.e).toNat : Nat)

/-- chain_segment (R113) of at least one K position. -/
def chainSegment (ta tw : Tag) (scaled : Bool) (xs : List Cell) : Fl Num :=
  let ps := xs.map (cellProduct ta tw scaled)
  let f := ps.foldl (fun f p => f ||| p.flags) 0
  let vs := ps.map (·.val)
  if vs.any (·.isNan) then ⟨.nan, f⟩
  else if vs.any (· == .inf false) && vs.any (· == .inf true) then ⟨.nan, f ||| flNAN ||| flINV⟩
  else if vs.any (· == .inf false) then ⟨.inf false, f⟩
  else if vs.any (· == .inf true) then ⟨.inf true, f⟩
  else match vs.foldl maxLog none with
    | none => ⟨.zero (vs.all (· == .zero true)), f⟩
    | some e =>
      let w := vs.foldl (fun acc p => if p.isFin then acc + floorShift p.val (e - 71) else acc) (0 : Int)
      ⟨numOf ⟨w, e - 71⟩ false, f⟩

/-- pair_round (R116): NAN and OVF are kept of the rounding's flags. -/
def pairRound (x : Num) : Fl (Nat × Nat) :=
  let h := roundFp x .fp32 rneSat
  let keep (f : Flags) : Flags := f &&& (flNAN ||| flOVF)
  match decode h.val .fp32 with
  | .fin s m e =>
    let l := roundFp (numOf (Dy.sub x.val (Num.fin s m e).val) false) .fp32 rneSat
    ⟨(h.val, l.val), keep h.flags ||| keep l.flags⟩
  | _ => ⟨(h.val, 0), keep h.flags⟩

def pairOf (x : Nat × Nat) : Pair := ⟨BitVec.ofNat 32 x.1, BitVec.ofNat 32 x.2, false⟩
def nanPair : Pair := ⟨0x7FC00000, 0, false⟩

/-- acc_update (R117) of an unpoisoned element. -/
def accUpdate (a : Pair) (s : Num) : Fl Pair :=
  let hi := decode a.hi.toNat .fp32
  let lo := decode a.lo.toNat .fp32
  let r := pairRound s
  let sh := decode r.val.1 .fp32
  let sl := decode r.val.2 .fp32
  if hi.isNan || sh.isNan then ⟨nanPair, r.flags ||| flNAN⟩
  else if hi.isInf && sh.isInf && hi.sign != sh.sign then ⟨nanPair, r.flags ||| flNAN ||| flINV⟩
  else if hi.isInf then ⟨a, r.flags⟩
  else if sh.isInf then ⟨pairOf (r.val.1, 0), r.flags⟩
  else
    let x := Dy.add (Dy.add hi.val lo.val) (Dy.add sh.val sl.val)
    let q := pairRound (numOf x (hi == .zero true && sh == .zero true))
    ⟨pairOf q.val, r.flags ||| q.flags⟩

/-- acc_value (R118). -/
def accValue (a : Pair) : Num :=
  let hi := decode a.hi.toNat .fp32
  if hi.isFin then numOf (Dy.add hi.val (decode a.lo.toNat .fp32).val) false else hi

/-- ACCLD RAW of a pair of words (R125). -/
def rawPair (h l : Nat) : Fl Pair :=
  let hv := decode h .fp32
  let lv := decode l .fp32
  if hv.isNan || lv.isNan then
    ⟨nanPair, flNAN ||| (if isSignalling h .fp32 || isSignalling l .fp32 then flINV else 0)⟩
  else if hv.isInf && lv.isInf && hv.sign != lv.sign then ⟨nanPair, flNAN ||| flINV⟩
  else if hv.isInf then ⟨pairOf (h, 0), 0⟩
  else if lv.isInf then ⟨pairOf (l, 0), 0⟩
  else ⟨pairOf (h, l), 0⟩

/-! One pass on one array (R107, R119, R134). -/

/-- An activation row: (code, scale byte, poisoned) for each K position that takes part. -/
abbrev ActRow := List (Nat × Nat × Bool)

/-- Weight (k, n) of a tile: code, scale byte, poison; an empty register's is +0 in the activation's tag (R522). -/
def weightAt (w : Option WTile) (k n : Nat) : Nat × Nat × Bool :=
  match w with
  | none => (0, 127, false)
  | some t =>
    (tget z0 t.code (64 * k + n), if t.bs = 0 then 127 else tget (fun _ => 127) t.scale (64 * (k / t.bs) + n),
      t.poison.contains (64 * k + n))

def weightTag (w : Option WTile) (ta : Tag) : Tag :=
  match w with
  | none => ta
  | some t => t.tag

/-- One element's update by a segment of at least one K position. -/
def updateElem (ta : Tag) (scaled : Bool) (w : Option WTile) (row : ActRow) (n : Nat) (a : Pair) : Fl Pair :=
  let ws := (List.range row.length).map (fun k => weightAt w k n)
  if a.poison || row.any (·.2.2) || ws.any (·.2.2) then ⟨{ a with poison := true }, flPOISON⟩
  else
    let cells := (row.zip ws).map (fun (x, y) => Cell.mk x.1 y.1 x.2.1 y.2.1)
    let s := chainSegment ta (weightTag w ta) scaled cells
    let r := accUpdate a s.val
    ⟨r.val, s.flags ||| r.flags⟩

/-- A pass over rows of a tile: the pairs of each row, 64 columns, before and after. -/
def passRow (ta : Tag) (scaled : Bool) (w : Option WTile) (row : ActRow) (ps : List Pair) : Fl (List Pair) :=
  let rs := ps.mapIdx (fun n a => updateElem ta scaled w row n a)
  ⟨rs.map (·.val), rs.foldl (fun f r => f ||| r.flags) 0⟩

end Sys2Proof.Machine
end

