-- ==== Sys2Proof/Machine/Prog.lean ====
section
/-! DEFINITION. The bound program: its header, splice table, stream and queue records (R239, R243, R267, R276), the
binding of its virtual clusters and cores (R272), and stream faults (R242, R263). -/

namespace Sys2Proof.Machine

/-! Fields of a program image. -/

structure Header where
  nvcl    : Nat
  vpc     : Nat
  nslot   : Nat
  lranks  : Nat
  nsplice : Nat
  spltab  : Nat
  codetab : Nat
  desctab : Nat
  ndesc   : Nat
  nstream : Nat
  strtab  : Nat
  qrtab   : Nat
  nqrec   : Nat
  scratch : Nat
  mbxuse  : Nat
  threads : Nat
  nqmask  : Nat
  deriving DecidableEq, Repr

/-- Table 9.1. -/
def headerOf (b : List Byte) : Header :=
  { nvcl := fieldLE b 0x0C 1, vpc := fieldLE b 0x0D 1, nslot := fieldLE b 0x0E 2, lranks := fieldLE b 0x10 4
    nsplice := fieldLE b 0x14 4, spltab := fieldLE b 0x18 8, codetab := fieldLE b 0x20 8, desctab := fieldLE b 0x28 8
    ndesc := fieldLE b 0x30 4, nstream := fieldLE b 0x34 4, strtab := fieldLE b 0x38 8, qrtab := fieldLE b 0x40 8
    nqrec := fieldLE b 0x48 4, scratch := fieldLE b 0x4C 4, mbxuse := fieldLE b 0x50 4, threads := fieldLE b 0x54 2
    nqmask := fieldLE b 0x58 8 }

/-- A splice-table entry (Table 9.3). -/
structure Splice where
  tied    : Bool
  align   : Bool
  update  : Bool
  dset    : Nat
  qset    : Nat
  ndrain  : Nat
  bglen   : Nat
  spanlen : Nat
  drain   : Nat
  strdir  : Nat
  rplan   : Nat
  deriving DecidableEq, Repr

def spliceOf (b : List Byte) (h : Header) (i : Nat) : Splice :=
  let o := h.spltab + 64 * i
  let f := fieldLE b o 2
  { tied := f.testBit 0, align := f.testBit 1, update := f.testBit 2, dset := fieldLE b (o + 2) 2
    qset := fieldLE b (o + 4) 2, ndrain := fieldLE b (o + 6) 2, bglen := fieldLE b (o + 8) 4
    spanlen := fieldLE b (o + 12) 4, drain := fieldLE b (o + 16) 8, strdir := fieldLE b (o + 24) 8
    rplan := fieldLE b (o + 32) 8 }

def State.image (s : State) (j : Nat) : List Byte := ((s.job j).prog.map (·.image)).getD []
def State.header (s : State) (j : Nat) : Header := headerOf (s.image j)
def State.spliceAt (s : State) (j i : Nat) : Splice := spliceOf (s.image j) (s.header j) i

/-- Relative slots that entry i drains, each once (R62). -/
def drainList (b : List Byte) (x : Splice) : List Nat :=
  ((List.range x.ndrain).map (fun k => fieldLE b (x.drain + 2 * k) 2)).foldl (fun l k => sins k l) []

/-- Length in bundles and image offset of virtual core v's code (R267). -/
def codeOf (b : List Byte) (h : Header) (v : Nat) : Nat × Nat :=
  (fieldLE b (h.codetab + 16 * v) 8, fieldLE b (h.codetab + 16 * v + 8) 4)

/-! Stream descriptors (Table 8.1, Table 8.2). -/

structure Sd where
  addr   : Nat
  rq     : Nat
  len    : Nat
  ext    : List Nat
  stride : List Int
  xch    : Bool
  net    : Bool
  out    : Bool
  vcore  : Nat
  sq     : Nat
  esize  : Nat
  deriving DecidableEq, Repr

def sdOf (d : BitVec 512) : Sd :=
  let e (k : Nat) : Nat := max 1 (recBits d (8 * (0x0C + 4 * k) + 31) (8 * (0x0C + 4 * k)))
  let st (k : Nat) : Int := sext (recBits d (8 * (0x18 + 8 * k) + 39) (8 * (0x18 + 8 * k))) 40
  let c (h l : Nat) : Nat := recBits d (8 * 0x30 + h) (8 * 0x30 + l)
  { addr := recBits d 47 0, rq := recBits d 5 0, len := recBits d 95 64, ext := [e 0, e 1, e 2], stride := [st 0, st 1, st 2]
    xch := c 12 12 == 1, net := c 11 11 == 1, out := c 10 10 == 1, vcore := c 9 6, sq := c 5 2
    esize := recBits d (8 * 0x34 + 5) (8 * 0x34) }

/-- Rows and bytes of the stream (R240). -/
def Sd.rows (d : Sd) : Nat := d.ext.foldl (· * ·) 1
def Sd.total (d : Sd) : Nat := d.len * d.rows

/-- First byte of row r. -/
def Sd.rowAt (d : Sd) (r : Nat) : Int := (d.addr : Int) + dotStride (coordsFrom d.ext r) d.stride

/-- Lowest byte of the span, and the byte after its highest (R257). -/
def Sd.span (d : Sd) : Int × Int :=
  ((d.addr : Int) + loSum d.ext d.stride, (d.addr : Int) + hiSum d.ext d.stride + d.len)

/-- The piece of the stream at byte pos: device address and length up to the end of the row, the granule, and max. -/
def Sd.piece (d : Sd) (pos : Nat) : Nat × Nat :=
  let a := (d.rowAt (pos / d.len) + (pos % d.len : Nat)).toNat
  (a, min (d.len - pos % d.len) (64 - a % 64))

/-! Queue records (Table 8.13). -/

def queueRec (b : List Byte) (h : Header) (i : Nat) : Nat := if h.nqrec ≤ i then 0 else fieldLE b (h.qrtab + 8 * i) 8
def recDepth (r : Nat) : Nat := bits r 54 48
def recEntry (r : Nat) : Nat := 32 * (bits r 46 32 + 1)
def recArea (r : Nat) : Nat := bits r 20 0

/-! Binding (R272). -/

/-- Clusters of job j that are not fenced, ascending: virtual cluster i is the i-th. -/
def State.openClusters (s : State) (j : Nat) : List Nat := (s.clustersOf j).filter (fun c => !(s.cluster c).fenced)

/-- Role of core p (R453): 0 enabled, 1 check core, 2 disabled by grade, 3 fenced. -/
def State.role (s : State) (p : Nat) : Nat := s.fld (rg (fnCore p) 0x0E8) 1 0

/-- Enabled cores of cluster c, in ascending slot order. -/
def State.enabledCores (s : State) (c : Nat) : List Nat := (coresOf c).filter (fun p => s.role p == 0)

/-- Clusters that the bound program of job j uses. -/
def State.boundClusters (s : State) (j : Nat) : List Nat :=
  (s.clustersOf j).filter (fun c => (s.cluster c).vcl.isSome)

/-- The core that runs local virtual core k of cluster c in the present round (R272, R526). -/
def State.coreFor (s : State) (j c k : Nat) : Option Nat :=
  match (s.cluster c).vcl with
  | none => none
  | some i =>
    if k / max 1 (s.cluster c).lanes.length ≠ (s.cluster c).round then none
    else (s.cluster c).lanes.find? (fun p => (s.core p).bound == some (j, (s.header j).vpc * i + k))

/-- The virtual core on core p belongs to the round that its cluster runs (R272): a halted virtual core is not swapped back
in, so that one of a later round can stand on its core before its round comes (R273). -/
def State.onRound (s : State) (p : Nat) : Bool :=
  match (s.core p).bound with
  | none => false
  | some (j, vc) =>
    let x := s.cluster (clusterOf p)
    vc % max 1 (s.header j).vpc / max 1 x.lanes.length == x.round

/-- Nothing bound on the chip. -/
def State.noProgram (s : State) : Bool := (List.range 16).all (fun j => (s.job j).prog.isNone)

/-! Stream faults. -/

/-- CLUSTER.SFAULT takes the fault unless one is recorded; report 0x21 and the job's stop follow (R242, R263). -/
def State.streamFault (s : State) (j c thread code page : Nat) : State :=
  let k := rg (fnCluster c) 0x040
  let s := if s.flag k 40 then s
    else (((s.setFlag k 40 true).setFld k 39 32 code).setFld k 31 26 thread).setFld k 25 0 page
  let x := s.cluster c
  let t := tget thread0 x.threads thread
  let s := s.setCluster c { x with threads := tput thread0 x.threads thread { t with stopped := true } }
  s.reportStop 0x21 (fnCluster c) j { code, unit := thread, addr := page }

end Sys2Proof.Machine
end

