-- ==== Sys2Proof/Machine/Fence.lean ====
section
/-! DEFINITION. Bind faults (R268, R277, R289, R312, R438), and fencing (R442, R443, R451). -/

namespace Sys2Proof.Machine

/-! Bind faults. -/

/-- SCH.BINDFAULT takes a fault unless one is recorded (R289). -/
def State.recordBind (s : State) (j code sidx : Nat) : State :=
  let k := rg fnSch 0x018
  if s.flag k 40 then s
  else (((s.setFlag k 40 true).setFld k 39 36 j).setFld k 31 24 code).setFld k 15 0 sidx

/-- A bind fault that stops the job (Table 15.8, 0x22). -/
def State.bindStop (s : State) (j code sidx : Nat) : State :=
  (s.recordBind j code sidx).reportStop 0x22 fnSch j { code, unit := sidx }

/-! Fencing. -/

/-- Report 0x50 and event 0x08 of a fenced unit: kind of Table 15.8, index, its job, the reason, a page's address, and
the enabled cores in the unit's cluster. -/
def State.fenceNote (s : State) (kind idx func : Nat) (job : Option Nat) (reason addr here : Nat) : State :=
  let s := s.report 0x50 2 func job { code := kind, action := 3, unit := idx % 65536, addr, d0 := reason }
  s.event 0x08 func job
    (leBytes kind 1 ++ [0] ++ leBytes idx 2 ++ leBytes (s.fld (rg fnChip 0x050) 8 0) 2 ++ leBytes here 1)

/-- A cluster is fenced: the job that holds it stops if its program needs more clusters than remain (Table 15.4). -/
def State.fenceCluster (s : State) (c reason : Nat) : State :=
  let x := s.cluster c
  if x.fenced then s
  else
    let job := s.jobOf c
    let s := (s.setCluster c { x with fenced := true }).fenceNote 3 c (fnCluster c) job reason 0 (s.enabledCores c).length
    match job with
    | none => s
    | some j =>
      if (s.job j).prog.isSome && decide ((s.openClusters j).length < (s.header j).nvcl) then
        s.bindStop j 0x10 (s.job j).sidx
      else s

/-- A core is fenced: its role and reason, the counts of CHIP.CORES, and its cluster with it if no enabled core is left. -/
def State.fenceCore (s : State) (p reason : Nat) : State :=
  let r := s.role p
  if 2 ≤ r then s
  else
    let k := rg (fnCore p) 0x0E8
    let c := clusterOf p
    let s := ((s.setFld k 1 0 3).setFld k 15 8 reason).setFlag k 2 false
    let s := s.bump (rg fnChip 0x050) 24 16 1
    let s := if r = 0 then s.setFld (rg fnChip 0x050) 8 0 (s.fld (rg fnChip 0x050) 8 0 - 1) else s
    let s := s.fenceNote (r + 1) p (fnCore p) (s.jobOf c) reason 0 (s.enabledCores c).length
    if r = 0 && (s.enabledCores c).isEmpty then s.fenceCluster c reason else s

/-- Four uncorrectable errors of a core's bundle memory, accumulators or scratchpad within 24 h fence it. -/
def State.countUe (s : State) (p : Nat) : State :=
  let now := s.clk
  let l := (tget noTimes s.contain.ueTimes p).filter (fun t => now < t + 86400000000000) ++ [now]
  let s := { s with contain := { s.contain with ueTimes := tput noTimes s.contain.ueTimes p l } }
  if l.length < 4 then s else s.fenceCore p 0x30

/-- Core p awaits kernels (R427, R453). -/
def State.suspect (s : State) (p : Nat) : Bool := s.flag (rg (fnCore p) 0x0E8) 2


end Sys2Proof.Machine
end

