-- ==== Sys2Proof/Machine/Flags.lean ====
section
/-! DEFINITION. Sticky flags (R100, R102), poison consumption (R176, R433), the histogram (R104), faults of a core
(R166, R524), and the corrected and uncorrectable errors of on-chip memories (R135, R142, R235, R238). -/

namespace Sys2Proof.Machine

/-! Faults of a core. -/

/-- CORE.FAULT takes a fault unless one is recorded; the report and the job's stop follow (R166, R170, R524). -/
def State.coreFault (s : State) (p : Nat) (pc : Nat) (code mask : Nat) : State :=
  let k := rg (fnCore p) 0x0A0
  let s := if s.flag k 40 then s
    else (((s.setFlag k 40 true).setFld k 39 36 mask).setFld k 31 24 code).setFld k 12 0 pc
  match (s.core p).bound with
  | none => s
  | some (j, vc) => s.reportStop 0x20 (fnCore p) j { code, unit := mask, addr := pc, d0 := vc }

/-! Flags. -/

/-- An instruction raises flags: NFLAGS keeps them, and POISON stops the job with cause 0x26 (R100, R433). -/
def State.raise (s : State) (p : Nat) (pc : Nat) (f : Flags) : State :=
  let c := s.core p
  let s := s.setV p { c.v with nflags := c.v.nflags ||| f }
  if f &&& flPOISON = 0 then s
  else
    match c.bound with
    | none => s
    | some (j, vc) => s.reportStop 0x26 (fnCore p) j { unit := vc, addr := pc, d0 := p }

/-- A core executes a varying operation: the step's VARY flag is set (R52). -/
def State.setVary (s : State) (p : Nat) : State :=
  match (s.core p).bound with
  | none => s
  | some (j, _) => s.setJob j { s.job j with vary := true }

/-! The histogram. -/

/-- A counted element reaches its bin (R104). -/
def VCore.countHist (v : VCore) (x : Num) : VCore :=
  let b := histBin x (sext v.hbase.toNat 8)
  { v with hist := tput z32 v.hist b (BitVec.ofNat 32 (satAdd (2 ^ 32 - 1) (tget z32 v.hist b).toNat 1)) }

/-! Errors of on-chip memories. -/

def State.clearUpset (s : State) (a : Nat) : State := { s with upset := tput z0 s.upset a 0 }

/-- Job that a core runs. -/
def State.jobOfCore (s : State) (p : Nat) : Option Nat := (s.core p).bound.map (·.1)

/-- Some of the n elements ix of a descriptor, or a scale byte of theirs, touches the 8-byte word at byte a. -/
def Td.touches (t : Td) (n : Nat) (ix : Nat → Nat) (a : Nat) : Bool :=
  let inWord (bit w : Int) : Bool := bit < 8 * ((a : Int) + 8) && 8 * (a : Int) < bit + w
  (List.range n).any (fun i =>
    inWord (t.bit (ix i)) (t.tg.width : Int) || (t.bs != 0 && inWord (8 * t.scaleByte (ix i)) 8))

/-- The errors waiting in scratchpad words of core p that are read are found (R235): corrected and counted, or the word
poisoned, counted and reported. read tells of a word, by its byte offset, whether it is read. -/
def State.findPad (s : State) (p : Nat) (read : Nat → Bool) : State :=
  let hits := s.upset.filter (fun e => window p ≤ e.1 && e.1 < window p + 0x200000 && read (e.1 - window p))
  hits.foldl (fun s e =>
    let s := s.clearUpset e.1
    let k := rg (fnCore p) 0x0E0
    if e.2 = 1 then (s.bump k 63 32 1).corrected (fnCore p) 1 (s.jobOfCore p)
    else
      (({ s with poison := markBytes s.poison e.1 8 true }.bump k 31 0 1).uncorrected (fnCore p) 1 (s.jobOfCore p)
        ((e.1 - window p) / 8 % 32) (e.1 - window p)).countUe p) s

/-- A byte range is read. -/
def State.readScratch (s : State) (p : Nat) (r : Span) : State :=
  s.findPad p (fun a => r.addr / 8 * 8 ≤ a && a < r.addr + r.len)

/-- The n elements ix of a descriptor are read. -/
def State.readElems (s : State) (p : Nat) (t : Td) (n : Nat) (ix : Nat → Nat) : State := s.findPad p (t.touches n ix)

/-- The same for accumulator elements (R135, R122): columns 0 to ncol - 1 of rows of a tile. -/
def State.readAcc (s : State) (p tile row0 rows ncol : Nat) : State :=
  let lo := 8192 * tile + 64 * row0
  let hits := (s.core p).upset.filter (fun e => lo ≤ e.1 && e.1 < lo + 64 * rows && e.1 % 64 < ncol)
  hits.foldl (fun s e =>
    let c := s.core p
    let c := { c with upset := tput z0 c.upset e.1 0 }
    let k := rg (fnCore p) 0x068
    if e.2 = 1 then ((s.setCore p c).bump k 63 32 1).corrected (fnCore p) 2 (s.jobOfCore p)
    else
      let q := tget pair0 c.v.acc e.1
      let c := { c with v := { c.v with acc := tput pair0 c.v.acc e.1 { q with poison := true } } }
      (((s.setCore p c).bump k 31 0 1).report 0x30 2 (fnCore p) (s.jobOfCore p)
        { code := 2, action := 1, unit := tile, d0 := (e.1 % 8192 / 64) * 2 ^ 32 + e.1 % 64 }).countUe p) s

/-- The same for mailbox words (R238): elements of cluster c's mailbox. -/
def State.readMbx (s : State) (c : Nat) (t : Td) : State :=
  let lo := mbxUpset + 65536 * c
  let hits := s.upset.filter (fun e => lo ≤ e.1 && e.1 < lo + 65536 && t.touches t.count id (e.1 - lo))
  hits.foldl (fun s e =>
    let s := s.clearUpset e.1
    let k := rg (fnCluster c) 0x050
    if e.2 = 1 then (s.bump k 63 32 1).corrected (fnCluster c) 4 (s.jobOf c)
    else
      ({ s with mbxPoison := markBytes s.mbxPoison (e.1 - mbxUpset) 8 true }.bump k 31 0 1).uncorrected
        (fnCluster c) 4 (s.jobOf c) ((e.1 - mbxUpset) % 65536 / 64 % 8) ((e.1 - mbxUpset) % 65536)) s

end Sys2Proof.Machine
end

