-- ==== Sys2Proof/Machine/Issue.lean ====
section
/-! DEFINITION. Issue (R155 to R169, R523): fetching a bundle, the holds and the faults of a bundle as a whole, and the
step of one slot of an issued bundle. Each of the commands of a core's slots is one slot of the bundle in its issue
buffer; the first that arrives issues the bundle, holds it for one clk, or faults it (log entry 1). -/

namespace Sys2Proof.Machine

def slotsN : List Nat := [0, 1, 2, 3]

/-- Fixed cadence is in force on the chip (R264, Table 13.2: OPEN clear). -/
def State.fixed (s : State) : Bool := !s.flag (rg fnChip 0x030) 32

/-! The slot plan (R253): what position n of stack st carries. -/

def State.planRec (s : State) (st : Nat) : List Byte := ((s.recs 4).find? (fun b => fieldLE b 0 1 == st)).getD []
/-- (kind, bank class, owner code). -/
def State.slotAt (s : State) (st n : Nat) : Nat × Nat × Nat :=
  let b := s.planRec st
  (fieldLE b (1 + 4 * n) 1, fieldLE b (2 + 4 * n) 1, fieldLE b (3 + 4 * n) 1)

/-- An owner code serves a request of this direction, use and job (R253). -/
def ownerServes (o : Nat) (write : Bool) (use job : Nat) : Bool :=
  o.testBit 7 && (o.testBit 6 == write) && bits o 5 4 == use && (use == 2 || o % 16 == job)

/-- Some data slot of the class serves it (R525). -/
def State.hasSlot (s : State) (st cls : Nat) (write : Bool) (use job : Nat) : Bool :=
  (List.range 192).any (fun n =>
    let (k, c, o) := s.slotAt st n
    k == 0 && c == cls && ownerServes o write use job)

def stackOf (a : Nat) : Nat := a / 0x2000000000
def pchOf (a : Nat) : Nat := bits a 10 6
def classOf (a : Nat) : Nat := bits a 15 11

/-- Index of cluster c among the clusters of job j, and its overlap spill area (R222). -/
def State.clusterIndex (s : State) (j c : Nat) : Nat := ((s.clustersOf j).filter (· < c)).length
def State.spillArea (s : State) (j c : Nat) : Nat := s.jobField j 32 8 + 0x200000 * s.clusterIndex j c

/-- R525 for spills: the stack of the spill area lacks a use-1 slot of the job in some class. -/
def State.spillBlocked (s : State) (j c : Nat) : Bool :=
  s.fixed && (List.range 32).any (fun k =>
    let st := stackOf (s.spillArea j c)
    !(s.hasSlot st k false 1 j && s.hasSlot st k true 1 j))

/-! Overlap within an instruction (R219 to R222). -/

/-- The path of a movement or scatter instruction of core p. -/
def State.pathM (s : State) (p : Nat) (v : VCore) (w : W64) : Path :=
  let f := (s.force (rg (fnCore p) 0x110)).toNat
  match opcode w with
  | 0x01 | 0x02 | 0x03 =>
    pathOf (overlapBytes (mtDst v w).span (mtSrc v w).span) (plainCopy (mtSrc v w) (mtDst v w) w) (f.testBit 0) (f.testBit 1)
  | 0x0A | 0x0B =>
    let d := (saddD v w).span
    let a := (saddS v w).span
    let i := (saddI v w).span
    let both : Span := ⟨max d.addr (max a.addr i.addr), 0⟩
    let all := min (d.addr + d.len) (min (a.addr + a.len) (i.addr + i.len)) - both.addr
    pathOf (overlapBytes d a + overlapBytes d i - all) false (f.testBit 0) (f.testBit 1)
  | _ => .direct

/-! Needs of a whole bundle. -/

/-- What slot n of a bundle asks for. -/
def State.slotNeeds (s : State) (p j : Nat) (v : VCore) (n : Nat) (w : W64) : Needs :=
  match n with
  | 0 => needC v w
  | 1 => needA v (s.ledgerCount j) w
  | 2 => needV v (s.ledgerCount j) w
  | _ =>
    let x := needM v (s.ledgerCount j) (fun q => (s.nq q).length < 32) w
    let path := s.pathM p v w
    let x := { x with rdEnd := x.rdEnd + path.added, wrAt := x.wrAt + path.added }
    match path with
    | .spilled _ => { x with faults := x.faults ++ chk (!s.spillBlocked j (clusterOf p)) 0x02 }
    | _ => x

/-- Row conflicts with an earlier operation's writes to accumulator rows (R126, R128). -/
def accConflict (now : Nat) (u : AccUse) (f : Flight) : Bool :=
  f.acc.any (fun q =>
    let lo := max u.row0 q.row0
    let hi := min (u.row0 + u.rows) (q.row0 + q.rows)
    let early (r : Nat) : Bool :=
      now + u.pace * (r - u.row0) < f.issued + f.accAt + q.pace * (r - q.row0)
    u.tile == q.tile && lo < hi && (early lo || early (hi - 1)))

/-- The bytes of outbound and network entries not yet read (R202, R203). -/
def State.unread (s : State) (p : Nat) (c : Core) : List Span :=
  c.v.sq.flatMap (fun e => match e.2.out with
    | [] => []
    | h :: r => ⟨h.addr + e.2.readOff, h.len - e.2.readOff⟩ :: r) ++
  s.netq.flatMap (fun e => (e.2.filter (fun x => x.core == p)).map (fun x => ⟨x.span.addr + x.sent, x.span.len - x.sent⟩))

/-! The order of completions (R60, R165, R523). -/

/-- A write that waits for another: of an earlier slot of its bundle to the same bytes (R523), or of an instruction
issued before to the same register (R159). -/
def Flight.behind (f : Flight) (l : List Flight) : Bool :=
  l.any (fun g => (g.bundle < f.bundle || (g.bundle == f.bundle && g.slot < f.slot)) &&
    ((g.bundle == f.bundle && g.wr.any (fun x => f.wr.any x.meets)) || g.writes.any f.writes.contains))

/-- The next instruction to complete: earliest, then first issued, then lowest slot. -/
def nextFlight (l : List Flight) : Option Flight :=
  (l.filter (fun f => !f.waiting && f.eff != [.badIndex] && !f.behind l)).foldl (fun b f =>
    match b with
    | none => some f
    | some g => if f.due < g.due ∨ (f.due = g.due ∧ (f.bundle < g.bundle ∨ (f.bundle = g.bundle ∧ f.slot < g.slot)))
        then some f else some g) none

/-- A completion, or the fault of a scatter-add, is due in the core's clk: it comes before the clk's fetch or issue, and
while a full fold queue keeps it the core stalls (R60, R204; log entry 1). -/
def Core.dueNow (c : Core) : Bool :=
  (nextFlight c.fly).any (fun f => f.due ≤ c.now) || c.fly.any (fun f => f.eff == [.badIndex] && !f.waiting && f.due ≤ c.now)

/-- WAITLIMIT in force (R171): 0 is read as its reset value. -/
def State.waitLimit (s : State) (p : Nat) : Nat :=
  let n := (s.force (rg (fnCore p) 0x108)).toNat % 2 ^ 32
  if n = 0 then 0x1000000 else n

/-! Tokens (R156, R157). -/

/-- Count of token k with the signals of the clk. -/
def VCore.visible (v : VCore) (k : Nat) : Nat := v.getTok k + ((v.pend.filter (fun g => g.tok == k)).map (·.n)).sum

/-- The counts take the signals of the clk. -/
def VCore.settle (v : VCore) : VCore :=
  { v.pend.foldl (fun u g => u.setTok g.tok (u.getTok g.tok + g.n)) v with pend := [] }

/-- The signal that a fault 0x05 names, if a count would go above 63 with `sub` what a TWAIT subtracts: that of the
instruction that issued first, then of the lowest slot (R157, R524). -/
def VCore.overflow (v : VCore) (sub : Option (Nat × Nat)) : Option Sig :=
  let left (k : Nat) : Nat := match sub with
    | some (t, n) => if t = k then v.visible k - n else v.visible k
    | none => v.visible k
  (v.pend.filter (fun g => 63 < left g.tok)).foldl (fun b g => match b with
    | none => some g
    | some h => if g.bundle < h.bundle ∨ (g.bundle = h.bundle ∧ g.slot < h.slot) then some g else some h) none

/-- The counter of the clk this bundle is held, by the first cause in the order of R162; none when nothing holds it. -/
def State.holdOf (s : State) (p : Nat) (c : Core) (ns : List (Nat × Needs)) : Option Nat :=
  let all := ns.map (·.2)
  let live := all.filter (fun n => n.faults.isEmpty)
  let busyReg (n : Needs) : Bool :=
    n.reads.any (fun r => c.fly.any (fun f => f.writes.contains r)) ||
    n.writes.any (fun r => c.fly.any (fun f => f.writes.contains r && c.now + n.lat ≤ f.due)) ||
    (match n.res with
     | none => false
     | some (r, _) => c.fly.any (fun f => f.slot == 3 && f.res == r && c.now < f.busy))
  let port := ns.any (fun (k, n) => k == 2 && n.writes != [] &&
    2 ≤ (c.fly.filter (fun f => f.slot == 2 && f.writes != [] && f.due == c.now + n.lat)).length)
  let clash (a b : List Span) : Bool := a.any (fun x => b.any x.meets)
  let spans (l : List Span) : List Span := l.filter (fun x => 0 < x.len)
  let enters := (live.filter (·.enters)).flatMap (fun n => n.rd ++ n.wr)
  let flyRd := c.fly.flatMap (·.rd)
  let flyWr := c.fly.flatMap (·.wr)
  let board := live.any (fun n => clash n.wr (flyRd ++ flyWr ++ s.unread p c) || clash n.rd flyWr) ||
    32 < (spans (flyRd ++ flyWr ++ enters)).length
  let conflict (n : Needs) : Bool := n.acc.any (fun u => c.fly.any (accConflict c.now u))
  let arr (n : Needs) : Option Nat :=
    if n.mma then
      (if c.fly.any (fun f => c.now < f.stream) || conflict n then some 0x050 else none)
    else if conflict n then some 0x058
    else if n.ldw.any (fun a => c.fly.any (fun f => f.ldw.contains a ||
        (f.bound.contains (a, 1 - c.v.current a) && c.now < f.chain))) then some 0x060
    else if n.swap.any (fun a => c.fly.any (fun f => f.ldw.contains a)) then some 0x060
    else none
  if all.any (fun n => match n.tok with
      | some (t, k) => c.v.getTok t < k
      | none => false) then some 0x098
  else if all.any (fun n => !n.queue) then some 0x090
  else if all.any busyReg || port then some 0x078
  else if board then some 0x080
  else match live.findSome? arr with
    | some o => some o
    | none => if all.any (·.drain) && c.fly != [] then some 0x078 else none

/-- The slots of a bundle that fault at issue, each with its code (R166). -/
def faultsOf (ns : List (Nat × Needs)) : List (Nat × Nat) :=
  ns.filterMap (fun (k, n) => match n.faults with
    | [] => none
    | f :: _ => some (k, f))

def maskOf (l : List Nat) : Nat := l.foldl (fun a k => a ||| 2 ^ k) 0

/-- The core takes part in the clk: its cluster is neither held nor asleep (R163, R475). -/
def State.ticking (s : State) (p : Nat) : Bool :=
  let x := s.cluster (clusterOf p)
  x.hold.isEmpty && !x.asleep

/-- Clk by which the writes of slot k wait (R523): until each other slot of the bundle has read the bytes that both
touch, and, for bytes that a lower slot writes, until that slot completes (log entry 14). -/
def lateOf (ns : List (Nat × Needs)) (k : Nat) : Nat :=
  match ns.find? (fun x => x.1 == k) with
  | none => 0
  | some (_, n) => ns.foldl (fun a (i, m) =>
      let a := if i ≠ k ∧ m.enters ∧ m.rd.any (fun x => n.wr.any x.meets) then max a (m.rdEnd + m.slip - n.wrAt) else a
      if i < k ∧ m.wr.any (fun x => n.wr.any x.meets) then max a (m.lat + m.slip - n.lat) else a) 0

/-- The errors waiting in what the bundle's slots read are found. -/
def State.readSlots (s : State) (p : Nat) (ns : List (Nat × Needs)) : State :=
  ns.foldl (fun s n => n.2.touch.foldl (fun s r => s.readElems p r.1 r.2.1 r.2.2) s) s

/-- The bundle issues (R155, R158): PC moves on, operands are those of this clk, the words that its slots read show
their errors, TWAIT lowers its count. -/
def State.issueBundle (s : State) (p : Nat) (b : Bundle) (ns : List (Nat × Needs)) : State :=
  let s := s.readSlots p ns
  let c := s.core p
  let v := match (ns.map (·.2)).findSome? (·.tok) with
    | some (t, k) => c.v.setTok t (c.v.getTok t - k)
    | none => c.v
  let v := { v with pc := b.pc + 1, overrun := b.pc == 8191, lastPc := b.pc }
  let b := { b with issued := true, num := c.issues, snap := c.v, late := slotsN.map (lateOf ns) }
  let c := { c with v := v, heldN := 0, issues := c.issues + 1, ib := some b }
  (s.setCore p c).bump (rg (fnCore p) 0x070) 47 0 1

/-- The clk of a bundle whose token counts are settled: held and counted, faulted, or issued. -/
def State.decideIssue (s : State) (p j : Nat) (b : Bundle) : State × Bool :=
  let c := s.core p
  let ns := slotsN.map (fun k => (k, s.slotNeeds p j c.v k (b.slots.getD k 0)))
  match s.holdOf p c ns with
  | some off => ((s.setCore p { c with now := c.now + 1, heldN := c.heldN + 1 }).bump (rg (fnCore p) off) 47 0 1, false)
  | none =>
    match faultsOf ns with
    | [] => (s.issueBundle p b ns, true)
    | fs =>
      let n := (fs.filter (fun f => f.2 == 0x04)).length
      let s := if n = 0 then s else s.bump (rg fnLedger 0x018) 31 0 n
      (s.coreFault p b.pc.toNat ((fs.map (·.2)).headD 0) (maskOf (fs.map (·.1))), false)

/-- What the TWAIT of a bundle would subtract in this clk (R157): nothing while the bundle is held or faults. -/
def State.twaitTakes (s : State) (p j : Nat) (b : Bundle) : Option (Nat × Nat) :=
  let c := s.core p
  let ns := slotsN.map (fun k => (k, s.slotNeeds p j c.v k (b.slots.getD k 0)))
  if (s.holdOf p c ns).isNone && (faultsOf ns).isEmpty then (ns.map (·.2)).findSome? (·.tok) else none

/-- What the clk does with a bundle that has not issued: nothing while a completion is due or past its limit of held clk;
else the clk's signals reach the counts, or overflow (R157, R165), and the bundle is held, faults or issues. -/
def State.tryIssue (s : State) (p : Nat) (b : Bundle) : State × Bool :=
  let c := s.core p
  match c.bound with
  | none => (s, false)
  | some (j, _) =>
    if c.dueNow || s.waitLimit p < c.heldN then (s, false)
    else
      let t := if c.v.pend = [] then s else s.setV p c.v.settle
      match c.v.overflow (t.twaitTakes p j b) with
      | some g => (s.coreFault p g.pc 0x05 (2 ^ g.slot), false)
      | none => t.decideIssue p j b

/-- A slot of the issued bundle is done. -/
def State.slotDone (s : State) (p n : Nat) : State :=
  let c := s.core p
  s.setCore p { c with ib := c.ib.map (fun b => { b with done := sins n b.done }) }

/-- Every slot of the bundle that holds an instruction is done. -/
def Bundle.complete (b : Bundle) : Bool :=
  b.issued && slotsN.all (fun n => opcode (b.slots.getD n 0) == 0 || b.done.contains n)

/-- The step of one slot: n the slot, ok says that the slot's opcode is the command's. The body runs once, on the
issued bundle; otherwise the command is one clk of the bundle's wait, or finds nothing to do. -/
def State.slotStep (s : State) (p n : Nat) (ok : Nat → Bool) (body : State → Bundle → W64 → State) : State :=
  match (s.core p).ib with
  | none => s
  | some b =>
    let w := b.slots.getD n 0
    if !ok (opcode w) || b.done.contains n || !s.ticking p then s
    else if b.issued then (body s b w).slotDone p n
    else if (s.core p).v.run ≠ .running then s
    else
      let (s, go) := s.tryIssue p b
      match go, (s.core p).ib with
      | true, some b => (body s b w).slotDone p n
      | _, _ => s

/-! Instructions in flight. -/

/-- An effect whose clk moves. -/
def Eff.move (n : Nat) : Eff → Eff
  | .hist at_ x => .hist (at_ + n) x
  | e => e

/-- An operation and its later steps move n clk (R161). -/
def Flight.move (n : Nat) (f : Flight) : Flight :=
  { f with due := f.due + n, accAt := f.accAt + n, stream := if f.stream = 0 then 0 else f.stream + n, chain := f.chain + n
           busy := if f.busy ≤ f.issued then f.busy else f.busy + n, box := f.box.map (fun x => (x.1 + n, x.2))
           eff := f.eff.map (Eff.move n) }

/-- It uses the scratchpad. -/
def Flight.onPad (f : Flight) : Bool := (f.rd ++ f.wr).any (0 < ·.len)

/-- Clk that f loses to g, both in the scratchpad of one core (R233): none once g is over. In which clk which word is
accessed the spec gives for some instructions only, so that the number is free, though fixed by the two operations and the
clk between their issues (log entry 2). -/
def Flight.loses (now : Nat) (f g : Flight) : Nat :=
  if f.onPad && g.onPad then
    let what (x : Flight) : List Nat :=
      [x.slot, x.op, now - x.issued, x.due - now] ++ (x.rd ++ x.wr).flatMap (fun r => [r.addr, r.len])
    Config.bankClash (what f ++ what g) % (g.due - now + 1)
  else 0

/-- The instruction that a slot of a bundle puts in flight (R168), before any slip. -/
def Core.flightOf (c : Core) (b : Bundle) (slot : Nat) (w : W64) (n : Needs) (eff : List Eff) (late : Nat)
    (waiting : Bool) : Flight :=
  { bundle := b.num, slot, op := opcode w, pc := b.pc, issued := c.now, due := c.now + n.lat + late, waiting
    tok := if slot = 0 ∨ c.v.run = .stopped then none else tokc w, writes := n.writes, rd := n.rd, wr := n.wr
    acc := if slot = 1 ∧ opcode w = 0x06 then [] else n.acc, accAt := n.accAt
    stream := if n.mma then c.now + n.stream else 0, ldw := n.ldw, bound := n.bound, chain := c.now + n.chain
    res := (n.res.map (·.1)).getD 0, busy := c.now + (n.res.map (·.2)).getD 0, box := none
    eff := eff.map (Eff.move (c.now + late)) }

/-- Clk by which an instruction slips at its launch: its unaligned beats, the other slots' reads, and the operations in
flight (R161, R234, R523). -/
def Core.slipOf (c : Core) (b : Bundle) (slot : Nat) (n : Needs) (f : Flight) : Nat :=
  n.slip + b.late.getD slot 0 + (c.fly.map (f.loses c.now)).sum

/-- Fly: an instruction joins those in flight, its needs seen by the later bundles until it completes; it and they move by
the banks they lose to each other, which BANKHOLD counts (R161). -/
def State.launch (s : State) (p : Nat) (b : Bundle) (slot : Nat) (w : W64) (n : Needs) (eff : List Eff)
    (late : Nat := 0) (waiting : Bool := false) : State :=
  let c := s.core p
  let f := c.flightOf b slot w n eff late waiting
  if n.rd = [] ∧ n.wr = [] then s.setCore p { c with fly := c.fly ++ [f] }
  else
    let k := c.slipOf b slot n f
    let back := c.fly.map (fun g => g.loses c.now f)
    let fly := (c.fly.zip back).map (fun x => x.1.move x.2)
    (s.setCore p { c with fly := fly ++ [f.move k] }).countBank p (k + back.sum)

/-- Elements that instructions in flight have written in clk before n reach the histogram now (R105): a change of HBASE and
a read of the counters find them there. Those of an instruction that waits for the staging buffer are not written. -/
def State.countDue (s : State) (p n : Nat) : State :=
  let c := s.core p
  let due (f : Flight) (e : Eff) : Bool := match e with
    | .hist k _ => !f.waiting && k < n
    | _ => false
  let v := c.fly.foldl (fun v f => f.eff.foldl (fun v e => match e with
    | .hist k x => if !f.waiting && k < n then v.countHist x else v
    | _ => v) v) c.v
  s.setCore p { c with v := v, fly := c.fly.map (fun f => { f with eff := f.eff.filter (fun e => !due f e) }) }

/-- The job of a core; 0 stands where none is bound, in which case nothing issues. -/
def State.jobN (s : State) (p : Nat) : Nat := ((s.core p).bound.map (·.1)).getD 0

/-- The signals of the clk reach the counts, or overflow: a core that issues no further bundle takes them at once. -/
def State.settleTok (s : State) (p : Nat) : State :=
  let v := (s.core p).v
  match v.overflow none with
  | some g => s.coreFault p g.pc 0x05 (2 ^ g.slot)
  | none => s.setV p v.settle

/-- A token is signalled: visible with the clk's other signals to the bundle that would issue in it (R157). -/
def State.signal (s : State) (p : Nat) (g : Sig) : State :=
  let v := (s.core p).v
  let s := s.setV p { v with pend := v.pend ++ [g] }
  if v.run = .running then s else s.settleTok p

/-- A one-clk instruction of the A, V or M slot signals its token at once: its completion is the next bundle's clk. -/
def State.signalTok (s : State) (p : Nat) (b : Bundle) (slot : Nat) (w : W64) : State :=
  match tokc w with
  | none => s
  | some t => if (s.core p).v.run = .stopped then s else s.signal p ⟨t, 1, b.num, slot, b.pc.toNat⟩

end Sys2Proof.Machine
end

