-- ==== Sys2Proof/Machine/Shadow.lean ====
section
/-! DEFINITION. Shadow checks (R422 to R428): which fills are selected, what the tap captures of them, and the compare
that ACCST sends. -/

namespace Sys2Proof.Machine

/-- shadow_select (R423); level 0 Clear, 1 Haze. -/
def shadowSelect (level job step att vc k f : Nat) : Bool :=
  let w := BitVec.ofNat 64 ((att <<< 56) ||| (job <<< 52) ||| (vc <<< 36) ||| (k <<< 32) ||| f)
  let h := (knotMix (knotMix (BitVec.ofNat 64 step ^^^ 0x7C15A93ED04B2F68#64) ^^^ w)).toNat
  if level = 0 then bits h 63 61 = 0 else if level = 1 then bits h 63 58 = 0 else false

/-- The check core of cluster c, if it works: the core whose ROLE is 1 (R422, R453). -/
def State.checkCore (s : State) (c : Nat) : Option Nat :=
  (coresOf c).find? (fun p => s.fld (rg (fnCore p) 0x0E8) 1 0 == 1)

/-- The cluster whose check core serves cluster c (R428): its own, or the next of the same job with wrap-around. -/
def State.servedBy (s : State) (c : Nat) : Option Nat :=
  if (s.checkCore c).isSome then some c
  else match s.jobOf c with
    | none => none
    | some j =>
      let cs := s.clustersOf j
      (cs.filter (c < ·) ++ cs.filter (· < c)).find? (fun d => (s.checkCore d).isSome)

/-- Bytes of a capture area (R424). -/
def captureArea : Nat := 224 * 1024

/-- Bytes that captures take: an MMA's fields 8, rows and scales; a weight tile with its scales; a row of 64 pairs 512
(the spec gives the area's size, not the captures' layout: DESIGN CHOICE, log entry 9). -/
def Capture.size : Capture → Nat
  | .mma _ k t bs rows => 8 + rows.length * ((k * t.width + 7) / 8 + (if bs = 0 then 0 else cdiv k bs))
  | .weights none => 8
  | .weights (some w) => 8 * kMax w.tag * w.tag.width + (if w.bs = 0 then 0 else 64 * (kMax w.tag / w.bs))
  | .pairs _ _ => 512

/-- Bytes in the capture area of core p: its open fills and its ended fills not yet replayed. -/
def State.captured (s : State) (p : Nat) : Nat :=
  let opens := (s.core p).v.fills.foldl (fun n f => n + f.size) 0
  match s.servedBy (clusterOf p) with
  | none => opens
  | some d => ((s.cluster d).checks.filter (fun x => x.core == p && !x.replayed)).foldl (fun n x => n + x.fill.size) opens

def State.setFills (s : State) (p : Nat) (l : List Fill) : State := s.setV p { (s.core p).v with fills := l }

/-- The open fill of tile k, if one is selected. -/
def VCore.fillOf (v : VCore) (k : Nat) : Option Fill := v.fills.find? (fun f => f.k == k)

def replaceFill (l : List Fill) (x : Fill) : List Fill := l.map (fun f => if f.k = x.k then x else f)

/-- Capture stops and the fill counts as abandoned (R424). -/
def State.abandon (s : State) (p k : Nat) : State :=
  match (s.core p).v.fillOf k with
  | none => s
  | some f =>
    if f.abandoned then s
    else (s.setFills p (replaceFill (s.core p).v.fills { f with abandoned := true, items := [], size := 0 })).bump
      (rg (fnCluster (clusterOf p)) 0x088) 31 0 1

/-- The tap writes one capture, unless the area is full (R424). -/
def State.capture (s : State) (p k : Nat) (x : Capture) : State :=
  match (s.core p).v.fillOf k with
  | none => s
  | some f =>
    if f.abandoned then s
    else if captureArea < s.captured p + x.size then s.abandon p k
    else s.setFills p (replaceFill (s.core p).v.fills { f with items := f.items ++ [x], size := f.size + x.size })

def State.onFill (s : State) (p k : Nat) (g : Fill → Fill) : State :=
  match (s.core p).v.fillOf k with
  | none => s
  | some f => s.setFills p (replaceFill (s.core p).v.fills (g f))

/-- A fill of tile k begins (R423): numbered, and selected or not. -/
def State.beginFill (s : State) (p k : Nat) : State :=
  match (s.core p).bound with
  | none => s
  | some (j, vc) =>
    let v := (s.core p).v
    let f := tget z0 v.fillNo k
    let v := { v with fillNo := tput z0 v.fillNo k (f + 1) }
    let job := s.job j
    if shadowSelect (s.level j) j job.step job.attempt vc k f then
      let x : Fill := { k, f, job := j, vc, step := job.step, attempt := job.attempt, items := [], size := 0, updated := [],
                        captured := [], wNeeded := true, hasMma := false, abandoned := false }
      let s := (s.setV p { v with fills := v.fills ++ [x] }).bump (rg (fnCluster (clusterOf p)) 0x080) 31 0 1
      if (s.servedBy (clusterOf p)).isNone then s.abandon p k else s
    else s.setV p v

/-- The open fill of tile k ends (R423): empty, abandoned, or passed to the check core. -/
def State.endFill (s : State) (p k : Nat) : State :=
  let v := (s.core p).v
  match v.fillOf k with
  | none => s.setV p { v with ended := tput z0 v.ended k 0 }
  | some f =>
    let v := { v with fills := v.fills.filter (fun x => x.k != k)
                      ended := tput z0 v.ended k (if f.abandoned || !f.hasMma then 0 else f.f + 1) }
    let s := s.setV p v
    if f.abandoned then s
    else if !f.hasMma then s.bump (rg (fnCluster (clusterOf p)) 0x088) 63 32 1
    else match s.servedBy (clusterOf p) with
      | none => s.bump (rg (fnCluster (clusterOf p)) 0x088) 31 0 1
      | some d =>
        let x := s.cluster d
        s.setCluster d { x with checks := x.checks ++ [⟨p, f, false, [], [], false, false⟩] }

def endFills (s : State) (p : Nat) : State := (List.range 8).foldl (fun s k => s.endFill p k) s

/-- The fills that a span's first clk begins: of every active tile (R423). -/
def beginFills (s : State) (p : Nat) : State :=
  slotsN.foldl (fun s n => s.beginFill p ((s.core p).v.activeTile n)) s

/-- Ended, still comparable fills of tile k of core p lose rows that a load or a clear writes (R426). -/
def State.spoilRows (s : State) (p k row0 rows : Nat) : State :=
  match s.servedBy (clusterOf p) with
  | none => s
  | some d =>
    let x := s.cluster d
    let e := tget z0 (s.core p).v.ended k
    if e = 0 then s
    else s.setCluster d { x with checks := x.checks.map (fun q =>
      if q.core = p ∧ q.fill.k = k ∧ q.fill.f + 1 = e then
        { q with fill := { q.fill with updated := q.fill.updated.filter (fun r => !(row0 ≤ r && r < row0 + rows)) } }
      else q) }

/-- The tap at an ACCLD or ACCCLR of rows of tile k (R424). -/
def State.tapLoad (s : State) (p k row0 rows : Nat) : State :=
  let out (l : List Nat) : List Nat := l.filter (fun r => !(row0 ≤ r && r < row0 + rows))
  (s.onFill p k (fun f => { f with updated := out f.updated, captured := out f.captured })).spoilRows p k row0 rows

/-- The tap at an MMA for the fill of tile k of array n: weights when due, pairs before a row's first update, the pass
itself; a poisoned operand or element abandons the fill (R424). -/
def State.tapMma (s : State) (p k : Nat) (w : Option WTile) (row0 klen : Nat) (ta : Tag) (bs : Nat)
    (rows : List ActRow) (before : List (List Pair)) (poisoned : Bool) : State :=
  match (s.core p).v.fillOf k with
  | none => s
  | some f =>
    if f.abandoned then s
    else if poisoned then s.abandon p k
    else
      let s := if f.wNeeded then (s.capture p k (.weights w)).onFill p k (fun f => { f with wNeeded := false }) else s
      let rs := if klen = 0 then [] else (List.range rows.length).map (row0 + ·)
      let s := (rs.zip before).foldl (fun s (r, ps) =>
        if f.captured.contains r then s else s.capture p k (.pairs r (ps.map (fun q => (q.hi, q.lo))))) s
      let s := s.capture p k (.mma row0 klen ta bs (rows.map (fun r => r.map (fun x => (x.1, x.2.1)))))
      s.onFill p k (fun f => { f with hasMma := true, updated := rs.foldl (fun l r => sins r l) f.updated
                                      captured := rs.foldl (fun l r => sins r l) f.captured })

/-- The compare of an ACCST of rows of tile k (R426): the pairs it reads go to the fill's check. -/
def State.tapStore (s : State) (p k row0 rows : Nat) : State :=
  let v := (s.core p).v
  let e := tget z0 v.ended k
  match s.servedBy (clusterOf p) with
  | none => s
  | some d =>
    let x := s.cluster d
    if e = 0 then s
    else s.setCluster d { x with checks := x.checks.map (fun q =>
      if q.core = p ∧ q.fill.k = k ∧ q.fill.f + 1 = e then
        let rs := ((List.range rows).map (row0 + ·)).filter (fun r => q.fill.updated.contains r)
        { q with sent := q.sent ++ rs.map (fun r => (r, (List.range 64).map (fun c => v.pair k r c))) }
      else q) }

end Sys2Proof.Machine
end

