-- ==== Sys2Proof/Machine/ArraySlot.lean ====
section
/-! DEFINITION. The A slot: MMA, weight loads, accumulator loads, stores, clears and the two switches (R107 to R130,
R184 to R187, R522). -/

namespace Sys2Proof.Machine

/-- A slot of the span's last bundle: the fills end once the bundle's A slot and its SPLICE or HALT are done, so that an
MMA beside them belongs to the fill (R423, R181). -/
def State.closeSpan (s : State) (p : Nat) (b : Bundle) (n : Nat) : State :=
  let c := opcode (b.slots.getD 0 0)
  let other := if n = 0 then opcode (b.slots.getD 1 0) == 0 || b.done.contains 1 else b.done.contains 0
  if (c = 0x0C ∨ c = 0x0E) ∧ other then endFills s p else s

/-- The step of the A slot. -/
def State.aStep (s : State) (p : Nat) (ok : Nat → Bool) (body : State → Bundle → W64 → State) : State :=
  s.slotStep p 1 ok (fun s b w => (body s b w).closeSpan p b 1)

/-- One activation row of a pass, of which KLEN = 0 reads nothing (R215): K positions 0 to klen - 1 of row i of the activation
layout (R215). -/
def actRow (m : View) (t : Td) (klen i : Nat) : ActRow :=
  (List.range klen).map (fun k =>
    let e := m.elem t (t.index [k, i])
    (e.code, e.scale, e.poison))

/-- The effect of a pass on one array: tile k rows updated in issue order (R119, R126). A pass with KLEN = 0 updates no
element and, the model takes it, reads none either, so that it finds no waiting error (log entry 7). -/
def State.passArray (s : State) (p : Nat) (snap : VCore) (n row0 klen : Nat) (t : Td) (rows : List ActRow) : State × Flags :=
  let k := snap.activeTile n
  let w := snap.weight n (snap.current n)
  let s := if klen = 0 then s else s.readAcc p k row0 rows.length 64
  let v := (s.core p).v
  let before := (List.range rows.length).map (fun i => (List.range 64).map (fun c => v.pair k (row0 + i) c))
  let after := if klen = 0 then before.map (fun b => (⟨b, 0⟩ : Fl (List Pair)))
    else (rows.zip before).map (fun (r, b) => passRow t.tg (t.bs != 0) w r b)
  let fl := after.foldl (fun f r => f ||| r.flags) 0
  let s := s.tapMma p k w row0 klen t.tg t.bs rows before (fl &&& flPOISON != 0)
  let v := (s.core p).v
  let acc := tputAll pair0 v.acc
    (after.mapIdx (fun i r => r.val.mapIdx (fun c q => (8192 * k + 64 * (row0 + i) + c, q)))).flatten
  (s.setV p { v with acc := acc }, fl)

/-- MMA (R107): the pass on every array of AMASK; NAN, INV, OVF and POISON show when its last row is written (R120). -/
def execMma (p : CoreId) (s : State) : Out :=
  .next (s.aStep p (· == 0x04) (fun s b w =>
    let t := b.snap.tdArv (sf w 16 12) (sf w 44 44 = 1) (sf w 43 40)
    let klen := sf w 39 32
    let rows := (List.range (sf w 31 24)).map (actRow (s.scratch p) t klen)
    let (s, f) := (arraysOf (sf w 11 8)).foldl (fun (s, f) n =>
      let (s, g) := s.passArray p b.snap n (sf w 23 17) klen t rows
      (s, f ||| (g &&& (flNAN ||| flINV ||| flOVF ||| flPOISON)))) (s, 0)
    s.launch p b 1 w (needMma b.snap w) (flagEff f ++ [.count 0x048 47 0 1])))

/-! Weight loads (R112, R215, R216). -/

/-- The tile of an LDW: column n, K position k from coordinates (n, k), or (k, n) under LDW.T; positions and columns
beyond the descriptor's or NCOL load +0. Nothing is read of a position that LDW does not need. -/
def loadTile (m : View) (t : Td) (ncol : Nat) (tr : Bool) : WTile :=
  let at_ (k n : Nat) : Elem := m.elem t (t.index (ldwAt tr k n))
  let cells := (List.range (ldwK t tr)).flatMap (fun k => (List.range ncol).map (fun n => (64 * k + n, at_ k n)))
  { tag := t.tg, bs := t.bs
    code := tputAll z0 [] (cells.map (fun (i, e) => (i, e.code)))
    scale := if t.bs = 0 then []
      else tputAll (fun _ => 127) [] ((cells.filter (fun (i, _) => i / 64 % t.bs == 0)).map (fun (i, e) => (64 * (i / 64 / t.bs) + i % 64, e.scale)))
    poison := (cells.filter (fun (_, e) => e.poison)).map (·.1) }

/-- LDW into the register of array ARR that is not in use (R111). -/
def State.loadWeights (s : State) (p : Nat) (b : Bundle) (w : W64) (tr : Bool) : State :=
  let t := b.snap.tdArv (sf w 14 10) (sf w 26 26 = 1) (sf w 25 22)
  let n := sf w 9 8
  s.launch p b 1 w (needLdw b.snap w tr) [.weights n (1 - b.snap.current n) (loadTile (s.scratch p) t (sf w 21 15) tr)]

def execLdw (p : CoreId) (s : State) : Out :=
  .next (s.aStep p (· == 0x01) (fun s b w => s.loadWeights p b w false))

def execLdwT (p : CoreId) (s : State) : Out :=
  .next (s.aStep p (· == 0x02) (fun s b w => s.loadWeights p b w true))

/-- SWAPW (R111): the current-weights bits of AMASK are inverted; the fills of those arrays capture weights anew. -/
def execSwapw (p : CoreId) (s : State) : Out :=
  .next (s.aStep p (· == 0x03) (fun s b w =>
    let v := (s.core p).v
    let s := s.setV p { v with curw := v.curw ^^^ BitVec.ofNat 4 (sf w 11 8) }
    let s := (arraysOf (sf w 11 8)).foldl (fun s n =>
      (s.onFill p (2 * n) (fun f => { f with wNeeded := true })).onFill p (2 * n + 1) (fun f => { f with wNeeded := true })) s
    s.signalTok p b 1 w))

/-- ACCSW (R122): the active-tile bits of AMASK are inverted; a fill ends and one begins on each array (R423). -/
def execAccsw (p : CoreId) (s : State) : Out :=
  .next (s.aStep p (· == 0x08) (fun s b w =>
    let s := (arraysOf (sf w 11 8)).foldl (fun s n => s.endFill p ((s.core p).v.activeTile n)) s
    let v := (s.core p).v
    let s := s.setV p { v with active := v.active ^^^ BitVec.ofNat 4 (sf w 11 8) }
    let s := (arraysOf (sf w 11 8)).foldl (fun s n => s.beginFill p ((s.core p).v.activeTile n)) s
    s.signalTok p b 1 w))

/-- ACCCLR (R122): the named tiles hold (+0, +0) without poison; written whole, with their ECC bits, they hold no waiting
error (log entry 7). -/
def execAccclr (p : CoreId) (s : State) : Out :=
  .next (s.aStep p (· == 0x07) (fun s b w =>
    let s := (clrTiles w).foldl (fun s k =>
      let c := s.core p
      let c := { c with v := { c.v with acc := tclear c.v.acc (8192 * k) 8192 }, upset := tclear c.upset (8192 * k) 8192 }
      (s.setCore p c).tapLoad p k 0 128) s
    s.launch p b 1 w (needA b.snap 0 w) []))

/-- ACCLD (R123, R125, R187): the region's elements, in element or RAW mode, with the flags. -/
def loadPairs (m : View) (v : VCore) (t : Td) (raw : Bool) (n : Nat) : List (Fl Pair) :=
  (List.range n).map (fun e =>
    if raw then
      let h := m.elem t (2 * e)
      let l := m.elem t (2 * e + 1)
      if h.poison || l.poison then ⟨⟨0, 0, true⟩, flPOISON⟩ else rawPair h.code l.code
    else
      let x := m.elem t e
      if x.poison then ⟨⟨0, 0, true⟩, flPOISON⟩
      else
        let r := elemVal t.tg (t.bs != 0) v.ftz x
        let q := pairRound r.val
        ⟨pairOf q.val, r.flags ||| q.flags⟩)

/-- ACCLD: an element written whole, with its ECC bits, holds no waiting error (log entry 7). -/
def execAccld (p : CoreId) (s : State) : Out :=
  .next (s.aStep p (· == 0x05) (fun s b w =>
    let t := aaTd b.snap w
    let k := sf w 10 8
    let row0 := sf w 22 16
    let ncol := sf w 37 31
    let ps := loadPairs (s.scratch p) b.snap t (sf w 38 38 = 1) (sf w 30 23 * ncol)
    let f := ps.foldl (fun f r => f ||| r.flags) 0
    let c := s.core p
    let keys := ps.mapIdx (fun e r => (8192 * k + 64 * (row0 + e / ncol) + e % ncol, r.val))
    let c := { c with v := { c.v with acc := tputAll pair0 c.v.acc keys }
                      upset := keys.foldl (fun u x => tput z0 u x.1 0) c.upset }
    let s := (s.setCore p c).tapLoad p k row0 (sf w 30 23)
    let s := if f &&& flPOISON != 0 then s.abandon p k else s
    s.launch p b 1 w (needAccld b.snap w) (flagEff f)))

/-- What ACCST writes (R124 to R126, R186): element mode rounds acc_value scaled by 2^XS, RAW stores the two words. -/
def storePairs (v live : VCore) (t : Td) (w : W64) : Fl (List Write) :=
  let k := sf w 10 8
  let row0 := sf w 22 16
  let ncol := sf w 37 31
  let pr (e : Nat) : Pair := live.pair k (row0 + e / ncol) (e % ncol)
  let n := sf w 30 23 * ncol
  let pois : Flags := if (List.range n).any (fun e => (pr e).poison) then flPOISON else 0
  if sf w 38 38 = 1 then
    ⟨(List.range (2 * n)).map (fun i =>
      let q := pr (i / 2)
      elemWrite false t i (if q.poison then 0 else if i % 2 = 0 then q.hi.toNat else q.lo.toNat) 127 q.poison), pois⟩
  else
    let xs : List Val := (List.range n).map (fun e =>
      let q := pr e
      if q.poison then none else some ((accValue q).scale (sext (sf w 50 44) 7)))
    let r := storeVals v (sf w 41 39) (sf w 42 42 = 1) (sf w 43 43 = 1) t 0 xs
    ⟨r.val, r.flags ||| pois ||| (if badKey v (sf w 41 39) then flPOISON else 0)⟩

/-- Clk after issue in which ACCST writes element e (Table 4.4): row i at 6 + i; under RAW, where e counts
words, the first half of a row's words at 6 + 2i and the rest at 7 + 2i. -/
def accstClk (w : W64) (e : Nat) : Nat := 6 + e / max 1 (sf w 37 31)

def execAccst (p : CoreId) (s : State) : Out :=
  .next (s.aStep p (· == 0x06) (fun s b w =>
    let t := aaTd b.snap w
    let k := sf w 10 8
    let s := s.readAcc p k (sf w 22 16) (sf w 30 23) (sf w 37 31)
    let r := storePairs b.snap (s.core p).v t w
    let s := s.tapStore p k (sf w 22 16) (sf w 30 23)
    s.launch p b 1 w (needAccst b.snap (s.ledgerCount (s.jobN p)) w)
      (s.writeEffs (s.jobN p) t (accstClk w) r.val ++ collapseEff r.val ++ flagEff r.flags)))

end Sys2Proof.Machine
end

