-- ==== Sys2Proof/Machine/Drain.lean ====
section
/-! DEFINITION. The log-drain ring: its records (R65), Contrail entries (R448, R449), the shadow entries of the ledger
(R62, R63). -/

namespace Sys2Proof.Machine

/-! The ring. -/

def State.ldRoom (s : State) : Nat :=
  if s.ldSize = 0 ∨ s.rings.ldBad ∨ !s.schReady then 0 else s.ldSize - (s.rings.ldProd - s.rings.ldCons).toNat

/-- One 64-byte entry is written, and then the producer index (R387). -/
def State.ldPut (s : State) (b : List Byte) : State :=
  let k := s.rings.ldProd
  let s := s.writeHbm (s.ringRow 65 0 8 + 64 * (k.toNat % s.ldSize)) b
  { s with rings := { s.rings with ldProd := k + 1 } }.putIndex 0x408 (k + 1)

/-! Entries. -/

/-- Table 15.6, Table 15.7. -/
def logBytes (e : LogEntry) : List Byte :=
  leBytes e.type 1 ++ leBytes e.sev 1 ++ leBytes e.func 2 ++ leBytes e.job 1 ++
    leBytes ((if e.lostN = 0 then 0 else 1) + (if e.report then 2 else 0)) 1 ++ leBytes e.lostN 2 ++
    leBytes e.beat.toNat 8 ++ leBytes e.code 1 ++ leBytes e.action 1 ++ leBytes e.attempt 1 ++ [0] ++
    leBytes e.unit 2 ++ [0, 0] ++ leBytes e.step.toNat 8 ++ leBytes e.addr.toNat 8 ++ leBytes e.d0.toNat 8 ++
    leBytes e.d1.toNat 8 ++ leBytes e.d2.toNat 8

/-- Table 2.4, a drain record. -/
def drainBytes (x : Shadow) : List Byte :=
  let f := (if x.val.poison then 1 else 0) + (if x.vary then 2 else 0) + (if x.val.full then 4 else 0) +
    (if x.promo then 8 else 0)
  leBytes 0x10 1 ++ leBytes x.job 1 ++ leBytes x.pslot 2 ++ leBytes x.rslot 2 ++ leBytes f 1 ++ leBytes x.attempt 1 ++
    leBytes x.step 8 ++ leBytes x.beat.toNat 8 ++ leBytes x.val.l0.toNat 8 ++ leBytes x.val.l1.toNat 8 ++
    leBytes x.val.count.toNat 8 ++ leBytes x.splice 4 ++ List.replicate 12 0

/-- A seal (0x11) or retract (0x12) record. -/
def sealBytes (type j : Nat) (vary : Bool) (step attempt : Nat) (beat : W64) : List Byte :=
  leBytes type 1 ++ leBytes j 1 ++ [0, 0, 0, 0] ++ leBytes (if vary then 2 else 0) 1 ++ leBytes attempt 1 ++
    leBytes step 8 ++ leBytes beat.toNat 8 ++ List.replicate 40 0

/-! What firmware writes. -/

/-- Seal and retract records, in order, while there is room. -/
def State.flushRecords (s : State) : State :=
  s.log.records.foldl (fun s b =>
    if s.ldRoom = 0 then s else { s with log := { s.log with records := s.log.records.drop 1 } }.ldPut b) s

/-- A seal or retract record is written, or waits for room. -/
def State.ledgerRecord (s : State) (type j : Nat) (vary : Bool) (step attempt : Nat) : State :=
  { s with log := { s.log with records := s.log.records ++ [sealBytes type j vary step attempt s.beat] } }.flushRecords

/-- Log drain: up to n Contrail entries in the order written, while there is room. -/
def State.drainLog (s : State) : Nat → State
  | 0 => s
  | n + 1 =>
    match s.log.entries with
    | [] => s
    | e :: r =>
      if s.ldRoom = 0 then s
      else ({ s with log := { s.log with entries := r } }.ldPut (logBytes e)).drainLog n

/-- Ledger drain: n of the pending shadow entries that p picks, ascending by physical slot and oldest first, while there
is room. -/
def State.drainShadows (s : State) (p : Shadow → Bool) (n : Nat) : State :=
  ((s.ledger.shadow.filter p).take n).foldl (fun s x =>
    if s.ldRoom = 0 then s
    else { s with ledger := { s.ledger with shadow := s.ledger.shadow.erase x } }.ldPut (drainBytes x)) s

/-- A shadow entry joins the pending ones. -/
def insertShadow (x : Shadow) : List Shadow → List Shadow
  | [] => [x]
  | y :: r => if x.pslot < y.pslot then x :: y :: r else y :: insertShadow x r

/-- The drain of relative slot r of job j: lanes, count and status go to the shadow entry, and the slot is cleared. -/
def State.drainSlot (s : State) (j step attempt r : Nat) (vary : Bool) (splice : Nat) : State :=
  let p := s.ledgerBase j + r - 1
  let x : Shadow :=
    { job := j, pslot := p, rslot := r, val := tget slot0 s.ledger.slots p, vary, step, attempt, splice, beat := s.beat, age := 0, promo := false }
  { s with ledger := ⟨tput slot0 s.ledger.slots p (slot0 p), insertShadow x s.ledger.shadow⟩ }

/-- Pending shadow entries of job j. -/
def State.shadowsOf (s : State) (j : Nat) : List Shadow := s.ledger.shadow.filter (fun x => x.job == j)

/-! Jobs whose splices cannot come (R529). -/

/-- Run states of every virtual core of job j: those on cores and those in context images. -/
def State.runsOf (s : State) (j : Nat) : List Run :=
  ((s.coresOfJob j).map (fun p => (s.core p).v.run)) ++
    (s.job j).contexts.filterMap (fun e => e.2.map (fun x => x.v.run))

def Run.isHalted : Run → Bool
  | .halted => true
  | _ => false
def Run.isArrived : Run → Bool
  | .arrived .. => true
  | _ => false

def State.allHalted (s : State) (j : Nat) : Bool := (s.runsOf j).all Run.isHalted

/-- Job j is unspliced: no splice of it can come. -/
def State.unspliced (s : State) (j : Nat) : Bool :=
  let x := s.job j
  s.stopped j || (x.phase == .span && x.pending.isNone && (x.prog.isNone || s.allHalted j))

/-- Every job of the chip is unspliced. -/
def State.chipUnspliced (s : State) : Bool := s.definedJobs.all s.unspliced

/-- LOG_DRAIN_IDLE (R448): while no job can splice, a Contrail entry is drained, and with it the records and shadow
entries that wait for the ring. -/
def execLogDrainIdle (s : State) : Out :=
  if s.chipUnspliced then .next ((s.flushRecords.drainShadows (fun _ => true) 1024).drainLog 1) else .next s

end Sys2Proof.Machine
end

