-- ==== Sys2Proof/Machine/Rings.lean ====
section
/-! DEFINITION. The ring pairs (R386 to R393, R529, R530): samples, faults, completions, and the checks that come before
a command's own. -/

namespace Sys2Proof.Machine

/-! Faults (R393). -/

/-- SCH.RINGFAULT takes a fault unless one is recorded, and event 0x05 carries its value (Table 13.15). -/
def State.ringEvent (s : State) (p code : Nat) (job : Option Nat) : State :=
  let k := rg fnSch 0x058
  let s := if s.flag k 40 then s else ((s.setFlag k 40 true).setFld k 37 32 p).setFld k 7 0 code
  s.event 0x05 fnSch job (leBytes (s.rd k).toNat 8)

/-- Pair p faults: it reads no further command and writes no further completion. -/
def State.ringFault (s : State) (p code : Nat) : State :=
  if s.rings.faulted.contains p then s
  else { s with rings := { s.rings with faulted := sins p s.rings.faulted, budget := tput z0 s.rings.budget p 0 } }.ringEvent
    p code (s.jobOfPair p)

/-! Samples and passes (R388, R529). -/

/-- SCH samples CP of pair p; lim entries may be processed. -/
def State.samplePair (s : State) (lim : Nat) (p : Nat) : State :=
  if s.rings.faulted.contains p ∨ s.cmdSize p = 0 then s
  else
    let n := (s.cp p - s.cc p).toNat
    if s.cmdSize p < n then s.ringFault p 0x01
    else { s with rings := { s.rings with sampled := tput z32 s.rings.sampled p (s.cp p)
                                          budget := tput z0 s.rings.budget p (min lim n) } }

/-- The sample of a splice of job j: pair 0 and the job's pairs, at most 16 entries each. -/
def State.sampleRings (s : State) (j : Nat) : State := (0 :: s.pairsOf j).foldl (fun s p => s.samplePair 16 p) s

/-- Entries of pair p can be processed without a splice. -/
def State.idlePair (s : State) (p : Nat) : Bool :=
  if p = 0 then s.chipUnspliced
  else match s.jobOfPair p with
    | some j => s.unspliced j
    | none => false

/-- Entries of pair p that may be processed now: what a splice's sample left, or all up to CP. -/
def State.due (s : State) (p : Nat) : Nat :=
  if s.idlePair p then (s.cp p - s.cc p).toNat else tget z0 s.rings.budget p

/-- The completion ring has a free entry for another command. -/
def State.cplRoom (s : State) (p : Nat) : Bool :=
  decide ((s.rings.waiting.filter (fun a => a.pair == p)).length + (s.pp p - s.pc p).toNat < s.cplSize p)

/-- Services of job j, failed fetches that its splice waits to see repeated among them (R367). -/
def State.svcOf (s : State) (j : Nat) : List (Nat × Svc) :=
  s.svc.filterMap (fun e => match e.2 with
    | some x => if x.job = j then some (e.1, x) else none
    | none => none)

/-- OP of the entry at CC as HBM holds it. -/
def State.headOp (s : State) (p : Nat) : Nat :=
  (s.mem.byte (s.cmdBase p + 64 * ((s.cc p).toNat % max 1 (s.cmdSize p)))).toNat

/-- Every stack that holds pair p's rings is READY (R492). -/
def State.pairServed (s : State) (p : Nat) : Bool :=
  let on (a n : Nat) : Bool := (List.range 8).all (fun k =>
    a + n ≤ k * 0x2000000000 || (k + 1) * 0x2000000000 ≤ a || s.flag (rg (fnHbm k) 0) 0)
  on (s.cmdBase p) (64 * s.cmdSize p) && on (s.cplBase p) (64 * s.cplSize p)

/-- SEC firmware runs and accepts images; while the AON PLL is not locked the core is held (R489). -/
def State.secReady (s : State) : Bool := s.flag (rg fnSec 0) 0 && s.flag (rg fnClk 0) 9

/-- The entry at CC of pair p can be read for processing: a SERVICE waits while its job has 8 services in progress (R366), a
LOADPROG while another waits to be bound or the job is stopped (R529). -/
def State.ringOpen (s : State) (p : Nat) : Bool :=
  s.schReady && s.pairServed p && !s.rings.faulted.contains p && s.due p != 0 && s.cplRoom p &&
    (match s.jobOfPair p with
     | some j =>
       !(s.headOp p == 4 && decide (8 ≤ ((s.svcOf j).filter (fun e => e.2.phase != 4)).length)) &&
         !(s.headOp p == 2 && (s.stopped j || (s.job j).pending.isSome))
     | none => true)

/-- A LOADBRAID whose image waits: SEC does not run, or checks what reached it before (R404). -/
def State.braidHeld (s : State) (p : Nat) : Bool :=
  s.headOp p == 6 && p == 0 && (!s.secReady || (match s.boot.images with
    | [] => false
    | e :: _ => e.1 != .braid))

/-- Pairs that a sample takes before pair p, and whose entries come before p's (R388). -/
def State.pairsBefore (s : State) (p : Nat) : List Nat :=
  match s.jobOfPair p with
  | some j => (0 :: s.pairsOf j).filter (· < p)
  | none => []

/-- Some entry of pair p can be processed now, and none of an earlier pair of its sample. -/
def State.ringReady (s : State) (p : Nat) : Bool :=
  s.ringOpen p && !s.braidHeld p && (s.pairsBefore p).all (fun q => !s.ringOpen q || s.braidHeld q)

/-! The checks of R530. -/

/-- A command as read: pair, index, bytes. -/
structure Cmd where
  pair : Nat
  seq  : Nat
  id   : W64
  args : List Byte

/-- First byte of an entry that must be zero and is not: bytes 1 to 3, and the ARGS bytes that the command does not name. -/
def zeroBad (e : List Byte) (named : Nat → Bool) : Option Nat :=
  (List.range 64).find? (fun o => (decide (1 ≤ o ∧ o < 4) || (decide (16 ≤ o) && !named (o - 16))) && e.getD o 0 != 0)

/-- ARGS bytes named in Table 13.11. -/
def argNamed (op o : Nat) : Bool :=
  match op with
  | 0x01 => decide (o < 3)
  | 0x02 => decide (o < 16)
  | 0x03 => o == 0 || o == 2 || o == 3
  | 0x04 => decide (o < 8)
  | 0x05 => decide (o < 5) || decide (8 ≤ o ∧ o < 28)
  | 0x06 => decide (o < 16)
  | _ => false

/-- Pairs that allow OP. -/
def pairAllows (p op : Nat) : Bool :=
  match op with
  | 0x02 | 0x04 => p != 0
  | 0x05 | 0x06 => p == 0
  | _ => true

/-- CC moves past the entry just processed. -/
def State.consume (s : State) (p : Nat) : State :=
  let k := s.cc p + 1
  { s with rings := { s.rings with cc := tput z32 s.rings.cc p k
                                   budget := tput z0 s.rings.budget p (tget z0 s.rings.budget p - 1) } }.putIndex (8 * p) k

/-- The entry at CC of pair p is read and checked up to its ARGS; body does what the command of OP does. A refused SERVICE
counts in SVCCNT.FAILED (R370). -/
def State.process (s : State) (p : Nat) (body : State → Nat → Cmd → State) : State :=
  let k := s.cc p
  let a := s.cmdBase p + 64 * (k.toNat % max 1 (s.cmdSize p))
  let (s, bs) := s.readHbm a 64
  let e := bs.map (·.1)
  let op := fieldLE e 0 1
  let seq := fieldLE e 4 4
  let id := BitVec.ofNat 64 (fieldLE e 8 8)
  if bs.any (·.2) then (s.consume p).complete p 0 0x0F k.toNat 0 (s.refusal a)
  else if seq ≠ k.toNat then s.ringFault p 0x03
  else
    let s := s.consume p
    let no (status detail : Nat) : State :=
      (if op = 0x04 then s.bump (rg fnSch 0x040) 15 0 1 else s).complete p op status seq id (s.refusal detail)
    if 0x06 < op then no 0x01 0
    else if 1 < op && !s.rings.hello.contains p then no 0x02 0
    else if !pairAllows p op then no 0x05 0
    else match zeroBad e (argNamed op) with
      | some o => no 0x04 o
      | none => body s op ⟨p, seq, id, e.drop 16⟩

/-- An entry that no row of its own: poisoned, out of sequence, or of no assigned OP. -/
def State.headless (s : State) (p : Nat) : Bool :=
  let k := s.cc p
  let a := s.cmdBase p + 64 * (k.toNat % max 1 (s.cmdSize p))
  s.poison.contains a || tget z0 s.upset a == 2 || s.mem.le (a + 4) 4 != k.toNat || decide (6 < s.headOp p)

/-- The entry at CC is of a controller whose HELLO named another firmware major, and asks for more than the HELLO and NOP
that every controller may send: its behaviour is undefined (R391). -/
def State.foreign (s : State) (p : Nat) : Bool := s.rings.majorDiff.contains p && decide (1 < s.headOp p)

/-- A row of Table 13.11 acts on the entry at CC of its pair, if it is that command's or no command's. -/
def State.ringRowStep (s : State) (p op : Nat) (body : State → Nat → Cmd → State) : Out :=
  if !s.ringReady p ∨ !(s.headOp p == op || s.headless p) then .next s
  else if s.foreign p then .fault .controllerMajor
  else .next (s.process p body)

/-! Restart of a pair (R393, R395). -/

/-- Pair p restarts with every index 0 and HELLO required; services that it started go on without it. -/
def State.restartPair (s : State) (p : Nat) : State :=
  let s : State := { s with
    svc := s.svc.map (fun (e : Nat × Option Svc) =>
      (e.1, e.2.map (fun x => if x.pair = p then { x with orphan := true } else x))) }
  let r := s.rings
  let r := { r with
    cp := tput z32 r.cp p 0, pc := tput z32 r.pc p 0, cc := tput z32 r.cc p 0, pp := tput z32 r.pp p 0
    hello := sdel p r.hello, faulted := sdel p r.faulted, waiting := r.waiting.filter (fun a => a.pair != p)
    sampled := tput z32 r.sampled p 0, budget := tput z0 r.budget p 0, majorDiff := sdel p r.majorDiff }
  ({ s with rings := r }.putIndex (8 * p) 0).putIndex (0x200 + 8 * p) 0

/-- RINGRST_GO. -/
def execRingrstGo (pair : PairId) (s : State) : Out :=
  if s.flag (rg fnSch 0x020) 0 then .next (s.restartPair pair) else .next s

/-- RINGRST_LOGS: the event and log-drain indices are 0; what waits is written after. -/
def State.restartLogs (s : State) : State :=
  let s := { s with rings := { s.rings with evProd := 0, evCons := 0, ldProd := 0, ldCons := 0, evBad := false, ldBad := false } }
  ((s.putIndex 0x400 0).putIndex 0x408 0).drainEvents 257

def execRingrstLogs (s : State) : Out :=
  if s.flag (rg fnSch 0x020) 0 then .next s.restartLogs else .next s

end Sys2Proof.Machine
end

