-- ==== Sys2Proof/Machine/Braid.lean ====
section
/-! DEFINITION. Signed images (R400 to R403) and the braid image's checks (R376 to R380, R39, R54, R56, R249, R253,
R300, R308, R324, R335, R338, R379, R383, R525). -/

namespace Sys2Proof.Machine

/-! Signature blocks. -/

/-- Slot k is programmed; revoked. -/
def State.slotDigest (s : State) (k : Nat) : Digest :=
  if k < 8 then Config.vendorKey k else tget z384 s.boot.fuses.owner k
def State.slotRevoked (s : State) (k : Nat) : Bool := s.boot.fuses.revoke.toNat.testBit k
def State.slotValid (s : State) (k : Nat) : Bool := (k < 8 || s.slotDigest k != 0) && !s.slotRevoked k

/-- Kind 1 firmware bundle, 2 braid image, 3 key image; the slots that may sign it (R402, R407). -/
def kindSlots (kind slot : Nat) : Bool := if kind = 1 then slot < 8 else if kind = 2 then 8 ≤ slot && slot < 16 else slot < 16

/-- The key-pair digest of the signature block at offset n. -/
def blockKey (b : List Byte) (n : Nat) : Digest := sha384 ((b.drop (n + 0x40)).take 1984)

/-- R403 steps 1 to 6: code of SEC.LASTREFUSE and the offset of the failing field. -/
def State.signBad (s : State) (kind : Nat) (b : List Byte) (n : Nat) : Option (Nat × Nat) :=
  let k := fieldLE b (n + 5) 1
  let msg := (b.drop n).take 64
  let pk := (b.drop (n + 0x40)).take 32
  let mpk := (b.drop (n + 0x60)).take 1952
  if fieldLE b n 4 ≠ 0x5347565A then some (0x01, n)
  else if fieldLE b (n + 4) 1 ≠ kind then some (0x01, n + 4)
  else if fieldLE b (n + 8) 8 ≠ n ∨ b.length < n + 5424 then some (0x01, n + 8)
  else if (b.drop (n + 0x10)).take 48 ≠ digestBytes (sha384 (b.take n)) then some (0x02, n + 0x10)
  else if !kindSlots kind k ∨ (8 ≤ k && s.slotDigest k == 0) then some (0x03, n + 5)
  else if s.slotRevoked k then some (0x05, n + 5)
  else if blockKey b n ≠ s.slotDigest k then some (0x04, n + 0x40)
  else if !Config.ed25519Verify pk msg ((b.drop (n + 0x800)).take 64) then some (0x06, n + 0x800)
  else if !Config.mldsaVerify mpk msg ((b.drop (n + 0x840)).take 3309) then some (0x07, n + 0x840)
  else none

/-! Records. -/

/-- A record: its number from 1, the offset of its body in the image, TYPE, body. -/
structure Rec where
  num  : Nat
  off  : Nat
  type : Nat
  body : List Byte

def Rec.at (r : Rec) (o n : Nat) : Nat := fieldLE r.body o n

/-- Most records of a TYPE, bytes of its body before its entries, and of each entry (0: none). -/
def recShape (ty : Nat) : Option (Nat × Nat × Nat) :=
  match ty with
  | 0x01 => some (1, 49, 0) | 0x02 => some (16, 40, 0) | 0x03 => some (2 ^ 32, 0, 16) | 0x04 => some (8, 769, 0)
  | 0x05 => some (1, 2048, 0) | 0x06 => some (1, 256, 0) | 0x07 => some (24, 201, 0) | 0x08 => some (1, 1024, 0)
  | 0x09 => some (17, 56, 0) | 0x0A => some (1, 8, 0) | 0x0B => some (1, 4096, 0) | 0x0C => some (1, 0, 32)
  | 0x0D => some (1, 1024, 0) | 0x0E => some (1, 16, 72) | 0x0F => some (1, 1064, 0) | 0x10 => some (32, 64, 0)
  | 0x11 => some (2 ^ 32, 0, 16)
  | _ => none

/-- A record's LEN covers exactly its body, up to the multiple of 8. -/
def lenOk (head entry n : Nat) : Bool :=
  if entry = 0 then n == (head + 7) / 8 * 8 else head ≤ n && (n - head) % entry == 0

/-- Step 3 of R380, from offset pos on: the records, or the number and offset of the first failure. -/
def parseRecs (b : List Byte) (stop : Nat) : Nat → Nat → Nat → Nat → List Rec → Except (Nat × Nat) (List Rec)
  | 0, pos, _, _, l => if pos = stop then .ok l else .error (0, 0x0C)
  | k + 1, pos, num, last, l =>
    let len := fieldLE b (pos + 4) 4
    let ty := fieldLE b pos 2
    if stop < pos + 8 then .error (0, 0x0C)
    else if len < 8 ∨ len % 8 ≠ 0 ∨ stop < pos + len then .error (num, pos + 4)
    else if ty < last then .error (num, pos)
    else
      match recShape ty with
      | none => if bitAt (fieldLE b (pos + 2) 1) 0 then parseRecs b stop k (pos + len) (num + 1) ty l else .error (num, pos)
      | some (most, head, entry) =>
        if most ≤ (l.filter (fun r => r.type == ty)).length then .error (num, pos)
        else if !lenOk head entry (len - 8) then .error (num, pos + 4)
        else parseRecs b stop k (pos + len) (num + 1) ty (l ++ [⟨num, pos + 8, ty, (b.drop (pos + 8)).take (len - 8)⟩])

/-- Checks of a record: body offset and what must hold there; the first that fails, as record number and image offset. -/
def Rec.first (r : Rec) (l : List (Nat × Bool)) : Option (Nat × Nat) := (l.find? (fun c => !c.2)).map (fun c => (r.num, r.off + c.1))

def Rec.entries (r : Rec) (head size : Nat) : List Nat :=
  (List.range ((r.body.length - head) / size)).map (fun k => head + size * k)

/-! Pages of the image's PAGEMAP runs. -/

/-- (first page, count, bits [63:48] of the entry). -/
def runsOf (l : List Rec) : List (Nat × Nat × Nat) :=
  (l.filter (fun r => r.type == 3)).flatMap (fun r => (r.entries 0 16).map (fun o => (r.at o 4, r.at (o + 4) 4, r.at (o + 8) 2)))

/-- Pages of [p, p + n) that lie in a run that q picks. -/
def runPages (runs : List (Nat × Nat × Nat)) (q : Nat → Bool) (p n : Nat) : Nat :=
  (runs.filter (fun r => q r.2.2)).foldl (fun k r => k + (min (r.1 + r.2.1) (p + n) - max r.1 p)) 0

/-- Pages of the byte range [a, a + n): first and count. -/
def pageSpan (a n : Nat) : Nat × Nat := if n = 0 then (pageOf a, 0) else (pageOf a, pageOf (a + n - 1) - pageOf a + 1)

/-- Every page of the byte range is valid and of job j, with the bits of mask set (bits of the entry, minus 48). -/
def ownedPages (runs : List (Nat × Nat × Nat)) (j mask a n : Nat) : Bool :=
  let (p, k) := pageSpan a n
  runPages runs (fun t => t.testBit 15 && bits t 13 10 == j && t &&& mask == mask) p k == k

/-- No page of the byte range is valid. -/
def freePages (runs : List (Nat × Nat × Nat)) (a n : Nat) : Bool :=
  let (p, k) := pageSpan a n
  runPages runs (fun t => t.testBit 15) p k == 0

/-! Step 4: fields. -/

/-- Ranges of Table 13.1. -/
def hbmEnd : Nat := 0x10000000000
def wholly (a n : Nat) : Bool :=
  a + n ≤ hbmEnd || (0x010000000000 ≤ a && a + n ≤ 0x010048000000) || (0x020000000000 ≤ a && a + n ≤ 0x020000320000) ||
    (0x030000000000 ≤ a && a + n ≤ 0x030000001000)

def podBad (r : Rec) : Option (Nat × Nat) :=
  let root := (r.body.drop 3).take 3 == (r.body.drop 10).take 3
  let second := (r.body.drop 3).take 3 == (r.body.drop 13).take 3
  let dir (o : Nat) (top : Bool) : Bool := if top then r.at o 1 == 0xFF else r.at o 1 < 6
  r.first ((List.range 3).map (fun k => (k, decide (1 ≤ r.at k 1 ∧ r.at k 1 ≤ 8))) ++
    [3, 10, 13].flatMap (fun o => (List.range 3).map (fun k => (o + k, decide (r.at (o + k) 1 < r.at k 1)))) ++
    [(6, decide (r.at 6 1 ≤ 7)), (8, r.at 8 2 % 64 == 0 && 256 ≤ r.at 8 2 && r.at 8 2 ≤ 4096), (16, dir 16 root)] ++
    [(17, r.at 17 1 < 6 || r.at 17 1 == 0xFF), (18, dir 18 second), (48, decide (r.at 48 1 < 4))])

def jobBad (l : List Rec) (r : Rec) : Option (Nat × Nat) :=
  let twin := l.any (fun q => q.type == 2 && q.num < r.num && q.at 0 1 == r.at 0 1)
  r.first [(0, r.at 0 1 < 16 && !twin), (1, r.at 1 1 < 16), (2, 1 ≤ r.at 2 2), (4, r.at 2 2 + r.at 4 2 ≤ 512),
    (8, r.at 8 4 != 0), (16, !(r.at 16 8).testBit 0)]

def pagemapBad (r : Rec) : Option (Nat × Nat) :=
  r.first ((r.entries 0 16).flatMap (fun o =>
    [(o + 4, r.at o 4 + r.at (o + 4) 4 ≤ 0x200000), (o + 8, !(r.at (o + 8) 2).testBit 14)]))

def slotplanBad (l : List Rec) (r : Rec) : Option (Nat × Nat) :=
  let twin := l.any (fun q => q.type == 4 && q.num < r.num && q.at 0 1 == r.at 0 1)
  let at_ (k : Nat) : Nat × Nat × Nat := (r.at (1 + 4 * k) 1, r.at (2 + 4 * k) 1, r.at (3 + 4 * k) 1)
  let all := (List.range 192).map at_
  let kinds (k : Nat) : Nat := (all.filter (fun x => x.1 == k)).length
  let svc (w : Bool) : Bool := all.any (fun x => x.1 == 0 && x.2.2.testBit 7 && bits x.2.2 5 4 == 2 && x.2.2.testBit 6 == w)
  r.first ([(0, r.at 0 1 < 8 && !twin)] ++
    (List.range 192).flatMap (fun k =>
      let (kind, cls, own) := at_ k
      [(1 + 4 * k, decide (kind ≤ 2)), (2 + 4 * k, kind != 0 || cls < 32), (3 + 4 * k, kind != 0 || !own.testBit 7 || bits own 5 4 != 3)]) ++
    [(1, kinds 0 == 160 && kinds 1 == 16 &&
        (List.range 32).all (fun c => (all.filter (fun x => x.1 == 0 && x.2.1 == c)).length == 5)), (1, svc false && svc true)])

def spillqBad (r : Rec) : Option (Nat × Nat) :=
  r.first ((r.entries 0 16).flatMap (fun o =>
    let n := r.at (o + 8) 1
    if n = 0 then [] else [(o, r.at o 8 % 64 == 0 && r.at o 8 < hbmEnd), (o + 8, 10 ≤ n && n ≤ 24), (o + 9, r.at (o + 9) 1 < 16)]))

def netqBad (r : Rec) : Option (Nat × Nat) :=
  r.first ((r.entries 0 4).flatMap (fun o =>
    if r.at o 1 = 0xFF then []
    else [(o, r.at o 1 < 16), (o + 1, r.at (o + 1) 1 ≤ 1), (o + 2, r.at (o + 2) 1 < (if r.at (o + 1) 1 = 0 then 24 else 64))]))

def tslotBad (l : List Rec) (r : Rec) : Option (Nat × Nat) :=
  let twin := l.any (fun q => q.type == 7 && q.num < r.num && q.at 0 1 == r.at 0 1)
  r.first ([(0, r.at 0 1 < 24 && !twin)] ++ (List.range 50).flatMap (fun k =>
    let o := 1 + 4 * k
    if !(r.at o 2).testBit 15 then [] else [(o, r.at o 2 % 16 == 0), (o + 2, r.at (o + 2) 1 < 32), (o + 3, r.at (o + 3) 1 < 64)]))

/-- Table 11.5. A stream plan record that is all zero leaves its stream without a plan. -/
def replanBad (r : Rec) : Option (Nat × Nat) :=
  r.first ((r.entries 0 16).flatMap (fun o =>
    let n := r.at o 1
    if n = 0 then [(o, r.at o 16 == 0)]
    else [(o, decide (n ≤ 8)), (o + 1, r.at (o + 1) 1 ≤ 2 && (r.at (o + 1) 1 != 0 || n == 1)), (o + 2, r.at (o + 2) 1 < 16), (o + 3, r.at (o + 3) 1 < 8)] ++
      (List.range 8).map (fun i =>
        let x := r.at (o + 4 + i) 1
        (o + 4 + i, decide (n ≤ i) || (decide (x / 64 < 3) && (x / 64 != 1 || decide (x % 64 < 24))))) ++
      [(o + 0x0C, decide (r.at (o + 0x0C) 1 < 64)), (o + 0x0D, decide (r.at (o + 0x0D) 1 < 64)), (o + 0x0E, r.at (o + 0x0E) 2 == 0)]))

def portBad (l : List Rec) (r : Rec) : Option (Nat × Nat) :=
  let twin := l.any (fun q => q.type == 9 && q.num < r.num && q.at 0 2 == r.at 0 2)
  r.first [(0, r.at 0 1 ≤ 8 && !twin), (1, r.at 1 1 ≤ 1), (4, r.at 4 2 ≤ 4094), (6, r.at 6 1 ≤ 32), (7, r.at 7 1 ≤ 128)]

def qpBad (r : Rec) : Option (Nat × Nat) :=
  r.first ((List.range 4096).map (fun n => (n, decide (r.at n 1 < 16) || r.at n 1 == 0xFE || r.at n 1 == 0xFF)))

def mregionBad (r : Rec) : Option (Nat × Nat) :=
  r.first ((r.entries 0 32).flatMap (fun o =>
    let twin := (r.entries 0 32).any (fun q => q < o && r.at q 2 == r.at o 2)
    [(o, r.at o 2 < 1024 && !twin), (o + 2, r.at (o + 2) 3 < 2 ^ 22), (o + 5, r.at (o + 5) 1 < 16 || r.at (o + 5) 1 == 0xFE)]))

def hawserBad (r : Rec) : Option (Nat × Nat) :=
  r.first ((r.entries 0 16).flatMap (fun o =>
    if r.at (o + 6) 2 = 0 then []
    else [(o + 2, r.at (o + 2) 1 ≤ 1), (o + 3, r.at (o + 3) 1 / 4 == r.at (o + 2) 1 && r.at (o + 3) 1 < 8)]))

/-- Table 11.6, one entry of 64 bytes at offset o: offsets within it and what must hold. -/
def peerChecks (get : Nat → Nat → Nat) (o : Nat) : List (Nat × Bool) :=
  let pod := (get (o + 0x0B) 1).testBit 2
  let n := get (o + 8) 2
  [(o, get o 4 < 2 ^ 20), (o + 4, get (o + 4) 4 < 2 ^ 20), (o + 8, if pod then 1 ≤ n else n ≤ 4096), (o + 0x0A, get (o + 0x0A) 1 ≤ 4),
    (o + 0x0B, get (o + 0x0B) 1 < 8), (o + 0x30, get (o + 0x30) 2 < 64 || get (o + 0x30) 2 == 0xFFFF),
    (o + 0x30, !pod || get (o + 0x30) 2 == 0xFFFF)]

def peerBad (r : Rec) : Option (Nat × Nat) :=
  r.first ([(0, r.at 0 8 % 0x400000 == 0 && r.at 0 8 + 0x400000 ≤ hbmEnd), (8, 16 + 72 * r.at 8 4 == r.body.length)] ++
    (r.entries 16 72).flatMap (fun o => [(o, decide (r.at o 4 < 65536)), (o + 4, r.at (o + 4) 4 == 0)] ++ peerChecks r.at (o + 8)))

def ringsBad (r : Rec) : Option (Nat × Nat) :=
  let lg (n : Nat) : Bool := 4 ≤ n && n ≤ 16
  r.first ([(0, r.at 0 8 % 4096 == 0)] ++ (List.range 66).flatMap (fun p =>
    let o := 8 + 16 * p
    let a := r.at (o + 14) 1
    let b := r.at (o + 15) 1
    if p < 64 then
      if a = 0 ∧ b = 0 then []
      else [(o, r.at o 8 % 4096 == 0), (o + 8, r.at (o + 8) 6 % 4096 == 0), (o + 14, lg a), (o + 15, lg b)]
    else [(o, r.at o 8 % 4096 == 0), (o + 14, lg a)]))

def strandBad (l : List Rec) (r : Rec) : Option (Nat × Nat) :=
  let i := r.at 0 1
  let twin := l.any (fun q => q.type == 0x10 && q.num < r.num && q.at 0 1 == i)
  let ok (o top : Nat) : Bool := r.at o 1 ≤ top || (r.at o 1 == 0xFF && i != 0)
  r.first ([(0, i < 32 && !twin), (1, ok 1 2), (2, ok 2 1), (3, ok 3 2)] ++ (List.range 60).map (fun k => (4 + k, r.at (4 + k) 1 == 0)))

def csrinitBad (r : Rec) : Option (Nat × Nat) :=
  r.first ((r.entries 0 16).map (fun o => (o + 2, r.at (o + 2) 2 % 8 == 0 && r.at (o + 2) 2 < 4096)))

def recBad (l : List Rec) (r : Rec) : Option (Nat × Nat) :=
  match r.type with
  | 0x01 => podBad r | 0x02 => jobBad l r | 0x03 => pagemapBad r | 0x04 => slotplanBad l r | 0x05 => spillqBad r
  | 0x06 => netqBad r | 0x07 => tslotBad l r | 0x08 => replanBad r | 0x09 => portBad l r | 0x0B => qpBad r
  | 0x0C => mregionBad r | 0x0D => hawserBad r | 0x0E => peerBad r | 0x0F => ringsBad r | 0x10 => strandBad l r
  | 0x11 => csrinitBad r
  | _ => none

/-! Step 5: cross-checks. -/

def ofType (l : List Rec) (ty : Nat) : List Rec := l.filter (fun r => r.type == ty)
def oneOf (l : List Rec) (ty : Nat) : Rec := (ofType l ty).headD ⟨0, 0, ty, []⟩

/-- The bodies have the braid's job j. -/
def hasJob (l : List Rec) (j : Nat) : Bool := (ofType l 2).any (fun r => r.at 0 1 == j)

def popcount (n w : Nat) : Nat := ((List.range w).filter (fun i => n.testBit i)).length

/-- Every data slot of job j's use 0 that R525 asks of the stack. -/
def useZero (l : List Rec) (st j : Nat) : Bool :=
  match (ofType l 4).find? (fun r => r.at 0 1 == st) with
  | none => false
  | some r => (List.range 32).all (fun c => [false, true].all (fun w => (List.range 192).any (fun k =>
      let own := r.at (3 + 4 * k) 1
      r.at (1 + 4 * k) 1 == 0 && r.at (2 + 4 * k) 1 == c && own.testBit 7 && own.testBit 6 == w && bits own 5 4 == 0 && own % 16 == j)))

/-- JOB records. Ledger ranges are compared as intervals, an empty one (COUNT 0) too: the model refuses one whose BASE lies
inside another job's range (DESIGN CHOICE, log entry 53). -/
def crossJobs (l : List Rec) : Option (Nat × Nat) :=
  let js := ofType l 2
  let runs := runsOf l
  let rings := oneOf l 0x0F
  js.findSome? (fun r =>
    let j := r.at 0 1
    let before := js.filter (fun q => q.num < r.num)
    let n := popcount (r.at 8 4) 32
    let ctx := r.at 24 8
    let sts := (List.range 8).filter (fun st => st * 0x2000000000 < ctx + n * 0x18C0000 && ctx < (st + 1) * 0x2000000000)
    r.first [
      (2, before.all (fun q => q.at 2 2 + q.at 4 2 ≤ r.at 2 2 || r.at 2 2 + r.at 4 2 ≤ q.at 2 2)),
      (8, before.all (fun q => q.at 8 4 &&& r.at 8 4 == 0)), (16, before.all (fun q => q.at 16 8 &&& r.at 16 8 == 0)),
      (16, (List.range 64).all (fun p => !(r.at 16 8).testBit p || rings.at (8 + 16 * p + 14) 1 != 0)),
      (24, ownedPages runs j 0 ctx (n * 0x18C0000) && sts.all (fun st => useZero l st j)),
      (32, ownedPages runs j 0 (r.at 32 8) (n * 0x200000))])

/-- Owners and destinations name defined jobs (R380). -/
def crossOwners (l : List Rec) : Option (Nat × Nat) :=
  l.findSome? (fun r => r.first (match r.type with
    | 0x04 => (List.range 192).map (fun k =>
        let own := r.at (3 + 4 * k) 1
        (3 + 4 * k, r.at (1 + 4 * k) 1 != 0 || !own.testBit 7 || bits own 5 4 == 2 || hasJob l (own % 16)))
    | 0x05 => (r.entries 0 16).map (fun o => (o + 9, r.at (o + 8) 1 == 0 || hasJob l (r.at (o + 9) 1)))
    | 0x06 => (r.entries 0 4).map (fun o => (o, r.at o 1 == 0xFF || hasJob l (r.at o 1)))
    | 0x07 => (List.range 50).flatMap (fun k =>
        let o := 1 + 4 * k
        if !(r.at o 2).testBit 15 then [] else [(o, hasJob l (bits (r.at o 2) 13 10)), (o + 2, hasJob l (r.at (o + 2) 1 % 16))])
    | 0x08 => (r.entries 0 16).map (fun o => (o + 2, r.at o 1 == 0 || hasJob l (r.at (o + 2) 1)))
    | 0x0B => (List.range 4096).map (fun n => (n, 16 ≤ r.at n 1 || hasJob l (r.at n 1)))
    | 0x0C => (r.entries 0 32).map (fun o => (o + 5, r.at (o + 5) 1 == 0xFE || hasJob l (r.at (o + 5) 1)))
    | _ => []))

/-- PAGEMAP runs do not overlap. -/
def crossRuns (l : List Rec) : Option (Nat × Nat) :=
  let all := (ofType l 3).flatMap (fun r => (r.entries 0 16).map (fun o => (r, o)))
  (all.zipIdx.find? (fun ((r, o), i) => (all.take i).any (fun (q, p) =>
    q.at p 4 < r.at o 4 + r.at (o + 4) 4 && r.at o 4 < q.at p 4 + q.at (p + 4) 4))).map (fun ((r, o), _) => (r.num, r.off + o))

/-- Chip regions as (base, length); a range lies in one of them. -/
def chipRegions (l : List Rec) : List (Nat × Nat) :=
  let r := oneOf l 0x0C
  ((r.entries 0 32).filter (fun o => r.at (o + 5) 1 == 0xFE)).map (fun o => (r.at (o + 8) 8, r.at (o + 16) 8))
def inChip (l : List Rec) (a n : Nat) : Bool := (chipRegions l).any (fun (b, k) => b ≤ a && a + n ≤ b + k)

def crossRegions (l : List Rec) : Option (Nat × Nat) :=
  let r := oneOf l 0x0C
  r.first ((r.entries 0 32).map (fun o =>
    let a := r.at (o + 8) 8
    let n := r.at (o + 16) 8
    (o + 8, wholly a n && (r.at (o + 5) 1 != 0xFE || hbmEnd ≤ a || freePages (runsOf l) a n))))

def crossRings (l : List Rec) : Option (Nat × Nat) :=
  let r := oneOf l 0x0F
  let owner (p : Nat) : Option Nat := ((ofType l 2).find? (fun q => (q.at 16 8).testBit p)).map (fun q => q.at 0 1)
  r.first ([(0, inChip l (r.at 0 8) 4096)] ++ (List.range 66).flatMap (fun p =>
    let o := 8 + 16 * p
    let cmd := 64 * 2 ^ r.at (o + 14) 1
    let cpl := 64 * 2 ^ r.at (o + 15) 1
    if 64 ≤ p then [(o, inChip l (r.at o 8) cmd)]
    else if r.at (o + 14) 1 = 0 then []
    else if p = 0 then [(o, inChip l (r.at o 8) cmd), (o + 8, inChip l (r.at (o + 8) 6) cpl)]
    else match owner p with
      | none => [(o, false)]
      | some j => [(o, ownedPages (runsOf l) j 0x80 (r.at o 8) cmd), (o + 8, ownedPages (runsOf l) j 0x40 (r.at (o + 8) 6) cpl)]))

/-- Spill queues lie in pages of their job (R249). -/
def crossSpill (l : List Rec) : Option (Nat × Nat) :=
  let r := oneOf l 5
  r.first ((r.entries 0 16).map (fun o =>
    let n := r.at (o + 8) 1
    (o, n == 0 || ownedPages (runsOf l) (r.at (o + 9) 1) 0 (r.at o 8) (64 * 2 ^ n))))

/-- The neighbour that direction d reaches: where the extent of the axis is 2, both directions reach one chip (R295). -/
def neighbourOf (pod : Rec) (d : Nat) : Nat := if pod.at (d / 2) 1 = 2 then d / 2 * 2 else d

/-- Tether slots: an owning network queue is bound to the link, an owning stream lies on the link's hub die, and one
receive queue of the neighbour is fed by one owner (R300, R335). Without NETQ no queue is bound (R378). -/
def crossSlots (l : List Rec) : Option (Nat × Nat) :=
  let nq := oneOf l 6
  let pod := oneOf l 1
  let feeds := (ofType l 7).flatMap (fun r => (List.range 50).filterMap (fun k =>
    let o := 1 + 4 * k
    if (r.at o 2).testBit 15 && !(r.at (o + 2) 1).testBit 4 then
      some (neighbourOf pod (linkDir (r.at 0 1)), r.at (o + 2) 1 % 16, r.at (o + 3) 1, bits (r.at o 2) 14 4) else none))
  (ofType l 7).findSome? (fun r => r.first ((List.range 50).flatMap (fun k =>
    let o := 1 + 4 * k
    let own := r.at o 2
    let q := bits own 9 4
    if !own.testBit 15 then []
    else
      [(o, if own.testBit 14 then (q / 32 == r.at 0 1 / 12)
           else !nq.body.isEmpty && nq.at (4 * q + 1) 1 == 0 && nq.at (4 * q + 2) 1 == r.at 0 1 && nq.at (4 * q) 1 == bits own 13 10),
       (o + 3, (r.at (o + 2) 1).testBit 4 || feeds.all (fun f =>
         !(f.1 == neighbourOf pod (linkDir (r.at 0 1)) && f.2.1 == r.at (o + 2) 1 % 16 && f.2.2.1 == r.at (o + 3) 1) || f.2.2.2 == bits own 14 4))])))

/-- Stream plans: inputs and outputs on the engine's own hub die, one stream to a receive queue (R300, R335). -/
def crossPlans (l : List Rec) : Option (Nat × Nat) :=
  let r := oneOf l 8
  let hw := oneOf l 0x0D
  let plane (k : Nat) : Nat := hw.at (16 * k + 2) 1
  let used (k : Nat) : Bool := hw.at (16 * k + 6) 2 != 0
  r.first ((r.entries 0 16).flatMap (fun o =>
    let die := o / 16 / 32
    if r.at o 1 = 0 then []
    else (List.range (r.at o 1)).map (fun i =>
        let x := r.at (o + 4 + i) 1
        (o + 4 + i, if x / 64 = 1 then x % 64 / 12 == die else if x / 64 = 2 then used (x % 64) && plane (x % 64) == die else true)) ++
      [(o + 0x0C, !(r.at (o + 3) 1).testBit 0 || (r.entries 0 16).all (fun q =>
          o ≤ q || r.at q 1 == 0 || !(r.at (q + 3) 1).testBit 0 || r.at (q + 2) 1 != r.at (o + 2) 1 || r.at (q + 0x0C) 1 != r.at (o + 0x0C) 1)),
       (o + 0x0D, !(r.at (o + 3) 1).testBit 2 || (used (r.at (o + 0x0D) 1) && plane (r.at (o + 0x0D) 1) == die))]))

/-- Connections: both spill queues in use, of one job, and a chip entry for the peer (R329, R338). -/
def crossHawser (l : List Rec) : Option (Nat × Nat) :=
  let r := oneOf l 0x0D
  let sp := oneOf l 5
  let peer := oneOf l 0x0E
  r.first ((List.range 64).map (fun k =>
    let o := 16 * k
    let q := 32 * k
    (o, r.at (o + 6) 2 == 0 || (sp.at (q + 8) 1 != 0 && sp.at (q + 24) 1 != 0 && sp.at (q + 9) 1 == sp.at (q + 25) 1 &&
      (peer.entries 16 72).any (fun e => peer.at e 4 == r.at o 2 && peer.at (e + 8 + 0x0A) 1 != 0 && !(peer.at (e + 8 + 0x0B) 1).testBit 2)))))

/-- Rank ranges of ACTIVE entries overlap nowhere. -/
def ranksApart (a : List (Nat × Nat)) : Bool :=
  a.zipIdx.all (fun ((f, n), i) => (a.take i).all (fun (g, m) => f + n ≤ g || g + m ≤ f || n == 0 || m == 0))

/-- The peer table: its region in free pages that no chip region covers, ranks apart, a chip entry for every ZV1 of the
pod (R338, R379). -/
def crossPeer (l : List Rec) : Option (Nat × Nat) :=
  let r := oneOf l 0x0E
  let pod := oneOf l 1
  let es := r.entries 16 72
  let a := r.at 0 8
  let apart := (chipRegions l).all (fun (b, n) => a + 0x400000 ≤ b || b + n ≤ a)
  let ranks := (es.filter (fun o => r.at (o + 8 + 0x0A) 1 == 1)).map (fun o => (r.at (o + 8) 4, r.at (o + 16) 2))
  let chip (x y z : Nat) : Bool := es.any (fun o => r.at (o + 12) 4 % 2 ^ 17 == pod.at 7 1 + 256 * (x + 8 * y + 64 * z) &&
    r.at (o + 8 + 0x0A) 1 != 0 && !(r.at (o + 8 + 0x0B) 1).testBit 2)
  let whole := (List.range (pod.at 0 1)).all (fun x => (List.range (pod.at 1 1)).all (fun y => (List.range (pod.at 2 1)).all (chip x y)))
  if r.body.isEmpty then some (0, 0x0C)
  else r.first [(0, freePages (runsOf l) a 0x400000 && apart), (8, whole), (16, ranksApart ranks)]

/-- Required records. -/
def crossNeeds (l : List Rec) : Option (Nat × Nat) :=
  if (ofType l 1).isEmpty ∨ (ofType l 2).isEmpty ∨ (ofType l 4).length ≠ 8 ∨ (ofType l 0x0F).isEmpty ∨
      !(ofType l 0x10).any (fun r => r.at 0 1 == 0) then some (0, 0x0C) else none

/-! The whole image. -/

/-- The records of an accepted image. -/
def imageRecs (b : List Byte) : Except (Nat × Nat) (List Rec) := parseRecs b (fieldLE b 0x10 8) (fieldLE b 0x0C 4) 64 1 0 []

/-- R380: code of SEC.LASTREFUSE, and DETAIL as record number and offset. -/
def State.braidBad (s : State) (b : List Byte) : Option (Nat × Nat × Nat) :=
  match s.signBad 2 b (fieldLE b 0x10 8) with
  | some (c, o) => some (c, 0xFFFFFFFF, o)
  | none =>
    if fieldLE b 0 4 ≠ 0x5242565A then some (0x01, 0, 0)
    else if fieldLE b 5 1 ≠ 1 then some (0x01, 0, 5)
    else if fieldLE b 6 1 ≠ s.fld (rg fnChip 0x008) 55 48 then some (0x01, 0, 6)
    else if fieldLE b 8 4 ≠ 64 then some (0x01, 0, 8)
    else if fieldLE b 0x18 8 ≠ 0 ∧ fieldLE b 0x18 8 ≠ s.boot.fuses.uid.toNat then some (0x09, 0, 0x18)
    else match imageRecs b with
      | .error (r, o) => some (0x01, r, o)
      | .ok l =>
        ([(l.findSome? (recBad l)), crossNeeds l, crossRuns l, crossJobs l, crossOwners l, crossRegions l, crossRings l,
          crossSpill l, crossSlots l, crossPlans l, crossHawser l, crossPeer l].findSome? id).map (fun (r, o) => (0x01, r, o))

end Sys2Proof.Machine
end

