-- ==== Sys2Proof/Machine/Movement.lean ====
section
/-! DEFINITION. The M slot (R198 to R205, R219 to R228): copies, the mailbox, digests, queues, network queues and
scatter-adds, with staging and spilling. -/

namespace Sys2Proof.Machine

/-- Source coordinates of destination coordinates i under a permutation (R195, R199). -/
def permBack (perm : List Nat) (i : List Nat) : List Nat := (List.range 5).map (fun k => i.getD (perm.findIdx (· == k)) 0)

/-- Element of the source that element e of the destination takes. -/
def sourceOf (a b : Td) (w : W64) (e : Nat) : Nat :=
  if opcode w = 0x01 then e else a.index (permBack (permOf w) (b.coords e))

/-- Is it a bit copy (R199)? -/
def bitCopy (a b : Td) (w : W64) : Bool :=
  (a.tag == b.tag && a.bs == b.bs && (permOf w).headD 0 == 0) || (a.tg == .e8m0 && b.tg == .e8m0)

/-- The writes of TMOV, TXP or TPERM, with the flags of a conversion (R199; never POISON). -/
def moveWrites (src : View) (v : VCore) (a b : Td) (w : W64) : Fl (List Write) :=
  let n := a.count
  if bitCopy a b w then ⟨(List.range n).flatMap (fun e => copyElem false src a b (sourceOf a b w e) e), 0⟩
  else
    let ins : List (Fl Val) := (List.range n).map (fun e =>
      let x := src.elem a (sourceOf a b w e)
      if x.poison then ⟨none, 0⟩
      else
        let r := elemVal a.tg (a.bs != 0) v.ftz x
        ⟨some r.val, r.flags⟩)
    let r := storeVals v (sf w 46 44) (sf w 47 47 = 1) (sf w 48 48 = 1) b 0 (ins.map (·.val))
    ⟨r.val, ins.foldl (fun f r => f ||| r.flags) r.flags⟩

/-! Staging and spilling. -/

/-- Two spans as one if they meet, no empty one. -/
def joinSpans (a b : Span) : List Span :=
  if a.meets b then [⟨min a.addr b.addr, max (a.addr + a.len) (b.addr + b.len) - min a.addr b.addr⟩]
  else [a, b].filter (0 < ·.len)

/-- The bytes that two spans share. -/
def commonSpan (a b : Span) : Span := ⟨max a.addr b.addr, overlapBytes a b⟩

/-- Overlapping source bytes of core p go out to the spill area and come back (R222, R225): an uncorrectable granule there poisons
the elements it held. The area takes them from its start on, from_ bytes of it in use; where the page map refuses the area (R257,
SVC), the access is counted, is not made, and its bytes come back poisoned (log entry 10). -/
def State.spillOut (s : State) (p j : Nat) (o : Span) (from_ : Nat) : State × List Nat :=
  let area := s.spillArea j (clusterOf p) + from_
  let bad := (pagesOf area o.len).filter (fun n => !pageAllows (s.page n) j 53)
  let s := bad.foldl (fun s n => s.pageFault 2 j n) s
  (granulePieces area o.len).foldl (fun (s, l) (x, n) =>
    let at_ := window p + o.addr + (x - area)
    let lost := (List.range n).map (at_ + ·)
    if bad.contains (pageOf x) then (s, l ++ lost)
    else
      let (s, ue) := (s.writeHbm x (s.mem.bytes at_ n)).readGranule (x / 64 * 64)
      (s, if ue then l ++ lost else l)) (s, [])

/-- The errors waiting in the words of the staging buffer that n bytes from its start pass through are found (R225): a
word corrected and counted, or its bytes lost, counted and reported. -/
def State.stageErrors (s : State) (p : Nat) (o : Span) : State × List Nat :=
  let lo := stageUpset (clusterOf p)
  let hits := s.upset.filter (fun e => lo ≤ e.1 && e.1 < lo + min o.len 0x100000)
  hits.foldl (fun (s, l) e =>
    let s := s.clearUpset e.1
    let k := rg (fnCore p) 0x0D0
    if e.2 = 1 then ((s.bump k 63 32 1).corrected (fnCore p) 5 (s.jobOfCore p), l)
    else
      ((s.bump k 31 0 1).uncorrected (fnCore p) 5 (s.jobOfCore p) 0 (e.1 - lo),
        l ++ ((List.range o.len).filter (fun i => i % 0x100000 / 8 == (e.1 - lo) / 8)).map (window p + o.addr + ·))) (s, [])

/-- A waiting instruction's place in the staging order: by issue clk, then by virtual core (R223). -/
def stageInsert (x : StageReq) : List StageReq → List StageReq
  | [] => [x]
  | y :: r => if x.clk < y.clk ∨ (x.clk = y.clk ∧ x.vc < y.vc) then x :: y :: r else y :: stageInsert x r

/-- Clk that a path adds to this instruction (R224): in open cadence a spill's excess is free. -/
def State.pathClk (s : State) : Path → Nat × State
  | .spilled v =>
    if s.fixed then (Path.added (.spilled v), s)
    else
      let (n, s) := s.draw
      (Path.added (.spilled v) + n.toNat, s)
  | path => (path.added, s)

/-- Launch of an M instruction on its path: a staged or spilled one waits for the staging buffer (R221 to R224). -/
def State.launchPath (s : State) (p : Nat) (b : Bundle) (w : W64) (n : Needs) (path : Path) (eff : List Eff) : State :=
  match path with
  | .direct => s.launch p b 3 w n eff
  | _ =>
    let spill := match path with
      | .spilled _ => true
      | _ => false
    let (clk, s) := s.pathClk path
    let r : StageReq := ⟨p, b.num, 3, ((s.core p).bound.map (·.2)).getD 0, (s.core p).now, clk, spill⟩
    let s := s.launch p b 3 w n eff clk true
    let s := s.bump (rg (fnCore p) 0x0C0) (if spill then 63 else 31) (if spill then 32 else 0) 1
    let c := clusterOf p
    let x := s.cluster c
    s.setCluster c { x with stageQ := stageInsert r x.stageQ }

/-- The scratchpad as the instruction reads it, the overlapping bytes with what the staging buffer and the spill did to
them. -/
def State.sourceView (s : State) (p j : Nat) (path : Path) (os : List Span) : State × View :=
  match path with
  | .direct => (s, s.scratch p)
  | _ =>
    let (s, l, _) := os.foldl (fun (s, l, n) o =>
      let (s, a) := s.stageErrors p o
      let (s, b) := match path with
        | .spilled _ => s.spillOut p j o n
        | _ => (s, [])
      (s, l ++ a ++ b, n + o.len)) (s, [], 0)
    (s, { s.scratch p with poison := s.poison ++ l })

/-- Clk after issue in which the mover writes element e of n (Table 7.6): its place in logical order gives its beat. -/
def moveClk (a : Td) (w : W64) (e : Nat) : Nat :=
  4 + (if opcode w = 0x01 then 0 else xl) + e * beats a.span.len / max 1 a.count

/-- TMOV, TXP, TPERM (R199). -/
def State.moveOp (s : State) (p : Nat) (b : Bundle) (w : W64) : State :=
  let v := b.snap
  let j := s.jobN p
  let a := mtSrc v w
  let d := mtDst v w
  let path := s.pathM p v w
  let (s, src) := s.sourceView p j path [commonSpan d.span a.span]
  let r := moveWrites src v a d w
  s.launchPath p b w (needMove v (s.ledgerCount j) w) path
    (s.writeEffs j d (moveClk a w) r.val ++ collapseEff r.val ++ flagEff r.flags)

def execTmov (p : CoreId) (s : State) : Out := .next (s.slotStep p 3 (· == 0x01) (fun s b w => s.moveOp p b w))
def execTxp (p : CoreId) (s : State) : Out := .next (s.slotStep p 3 (· == 0x02) (fun s b w => s.moveOp p b w))
def execTperm (p : CoreId) (s : State) : Out := .next (s.slotStep p 3 (· == 0x03) (fun s b w => s.moveOp p b w))

/-- The instruction of a request for the staging buffer waits no longer. -/
def StageReq.grant (r : StageReq) (c : Core) : Core :=
  { c with fly := c.fly.map (fun f => if f.bundle = r.bundle ∧ f.slot = r.slot then { f with waiting := false } else f) }

/-- It waits one clk more, and with it the writes of its bundle that wait for its reads (R523). -/
def StageReq.delay (r : StageReq) (c : Core) : Core :=
  let mine (f : Flight) : Bool := f.bundle = r.bundle && f.slot = r.slot
  let after (f : Flight) : Bool := c.fly.any (fun g => mine g && f.bundle == g.bundle && g.rd.any (fun x => f.wr.any x.meets))
  { c with fly := c.fly.map (fun f => if mine f || after f then f.move 1 else f) }

/-- STAGING_GRANT (R223), one clk of the staging buffer: free, it goes to the next waiting instruction, which completes
after the added clk; each other one waits, its core counts a clk of STAGEWAIT and its completion moves. -/
def execStagingGrant (c : ClusterId) (s : State) : Out :=
  let x := s.cluster c
  let wait (s : State) (r : StageReq) : State :=
    (s.setCore r.core (r.delay (s.core r.core))).bump (rg (fnCore r.core) 0x0C8) 47 0 1
  if !x.hold.isEmpty || x.asleep then .next s
  else match x.stage, x.stageQ with
  | none, r :: rest =>
    let s := (s.setCluster c { x with stage := some r, stageQ := rest }).setCore r.core (r.grant (s.core r.core))
    .next (rest.foldl wait s)
  | _, q => .next (q.foldl wait s)

/-! The mailbox (R200). -/

/-- Byte i of the bytes that w bits at a bit address touch takes its part of a code, and its mark (R235). -/
def putByte (bit w code : Nat) (poison : Bool) (i : Nat) (old : Byte × Bool) : Byte × Bool :=
  let mask := ((2 ^ w - 1) <<< (bit % 8)) >>> (8 * i) % 256
  let part := ((code % 2 ^ w) <<< (bit % 8)) >>> (8 * i) % 256
  (BitVec.ofNat 8 (old.1.toNat - (old.1.toNat &&& mask) ||| part), poison || (old.2 && mask != 255))

/-- Put w bits at a bit address: the bytes and their marks (R235). -/
def putBits (m : Mem) (pz : List Nat) (at0 bit w code : Nat) (poison : Bool) : Mem × List Nat :=
  let b0 := bit / 8
  let n := (bit % 8 + w + 7) / 8
  let old := m.le (at0 + b0) n
  let mask := (2 ^ w - 1) <<< (bit % 8)
  let new := (old - (old &&& mask)) ||| ((code % 2 ^ w) <<< (bit % 8))
  let pz := (List.range n).foldl (fun l i =>
    let full := bit ≤ 8 * (b0 + i) && 8 * (b0 + i) + 8 ≤ bit + w
    if poison then sins (at0 + b0 + i) l else if full then sdel (at0 + b0 + i) l else l) pz
  (m.store (at0 + b0) (leBytes new n), pz)

/-- Byte k of cluster c's mailbox is written in a clk by virtual core vc: among writes of one byte the later clk remains,
and in one clk the higher virtual core (R200), in whatever order the completions come; log says that the write is a new
one and keeps what it found. -/
def State.boxByte (s : State) (c k clk vc : Nat) (log : Bool) (g : Byte × Bool → Byte × Bool) : State :=
  let x := s.cluster c
  let newer (e : BoxWrite) : Bool := e.byte == k && (clk < e.clk || (e.clk == clk && vc < e.vc))
  let log := log && !x.boxLog.any (fun e => e.byte == k && e.clk == clk && e.vc == vc)
  match (x.boxLog.filter newer).getLast? with
  | none =>
    let a := 65536 * c + k
    let old := (s.mbx.byte a, s.mbxPoison.contains a)
    let s := { s with mbx := s.mbx.setByte a (g old).1, mbxPoison := sset a (g old).2 s.mbxPoison }
    if log then s.setCluster c { x with boxLog := ⟨k, clk, vc, old.1, old.2⟩ :: x.boxLog } else s
  | some y =>
    let new := g (y.old, y.poison)
    s.setCluster c { x with boxLog := x.boxLog.flatMap (fun e =>
      if e = y then { e with old := new.1, poison := new.2 } :: (if log then [⟨k, clk, vc, y.old, y.poison⟩] else []) else [e]) }

/-- The clk in which an MBX writes, or reads, byte k: its lines go through the port one a clk (R238). -/
def boxClk (box : Nat × Nat) (k : Nat) : Nat := box.1 + (k - box.2) / 64

/-- An effect of core p's MBX on its cluster's mailbox; any other effect leaves the mailbox. -/
def State.boxEff (s : State) (p : Nat) (box : Nat × Nat) (e : Eff) : State :=
  let c := clusterOf p
  let vc := ((s.core p).bound.map (·.2)).getD 0
  match e with
  | .put true b w code q =>
    (List.range ((b % 8 + w + 7) / 8)).foldl (fun s i =>
      let k := b / 8 + i
      s.boxByte c k (boxClk box k) vc true (putByte b w code q i)) s
  | .wash true a => s.boxByte c a (boxClk box a) vc false (fun x => (x.1, false))
  | _ => s

/-- The mailbox of core p's cluster as an MBX reads it whose lines it reads from clk box.1 on (R200): behind every write of
an earlier clk, those of instructions in flight among them, and before those of the same clk or a later one. -/
def State.mailboxView (s : State) (p : Nat) (box : Nat × Nat) : View :=
  let c := clusterOf p
  let s := (coresOf c).foldl (fun s q => (s.core q).fly.foldl (fun s f => match f.box with
    | none => s
    | some x => f.eff.foldl (fun s e => s.boxEff q x e) s) s) s
  let (m, z) := (s.cluster c).boxLog.foldl (fun (m, z) e =>
    if e.clk < boxClk box e.byte then (m, z)
    else (m.setByte (65536 * c + e.byte) e.old, sset (65536 * c + e.byte) e.poison z)) (s.mbx, s.mbxPoison)
  ⟨m, z, 65536 * c⟩

/-- An MBX of core p that goes out to the mailbox is given its clk; it and the MBX of the cluster's other cores move by
the lines they lose to each other, the higher virtual core to the lower (R238). -/
def State.contendBox (s : State) (p : Nat) (b : Bundle) (first : Flight → Option (Nat × Nat)) : State :=
  let c := s.core p
  let mine (f : Flight) : Bool := f.bundle == b.num && f.slot == 3
  let vcOf (q : Nat) : Nat := ((s.core q).bound.map (·.2)).getD 0
  let key (q : Nat) (f : Flight) : List Nat := [vcOf q, f.issued, f.due] ++ (f.rd ++ f.wr).flatMap (fun r => [r.addr, r.len])
  let others := ((coresOf (clusterOf p)).filter (· != p)).flatMap (fun q =>
    ((s.core q).fly.filter (fun g => g.op == 0x06 && g.slot == 3 && c.now < g.due)).map (fun g => (q, g)))
  let me := (c.fly.filter mine).headD (c.flightOf b 3 0 {} [] 0 false)
  let lost := ((others.filter (fun x => vcOf x.1 < vcOf p)).map (fun x =>
    Config.bankClash (key p me ++ key x.1 x.2) % (x.2.due - c.now + 1))).sum
  let s := (s.setCore p { c with fly := c.fly.map (fun f =>
    if mine f then ({ f with box := first f } : Flight).move lost else f) }).countBank p lost
  (others.filter (fun x => vcOf p < vcOf x.1)).foldl (fun s (q, g) =>
    let n := Config.bankClash (key q g ++ key p me) % (me.due - c.now + 1)
    let d := s.core q
    (s.setCore q { d with fly := d.fly.map (fun f =>
      if f.bundle = g.bundle ∧ f.slot = g.slot then f.move n else f) }).countBank q n) s

/-- Clk after issue in which an MBX reads, or writes, the first line of the mailbox: the spec gives its completion alone
(DESIGN CHOICE, log entry 14). -/
def boxReadAt : Nat := 2
def boxWriteAt : Nat := 8

/-- MBX (R200): a bit copy, folding and counting through TDD. -/
def execMbx (p : CoreId) (s : State) : Out :=
  .next (s.slotStep p 3 (· == 0x06) (fun s b w =>
    let v := b.snap
    let j := s.jobN p
    let a := mtSrc v w
    let d := mtDst v w
    let out := sf w 43 43 = 1
    let s := if out then s else s.readMbx (clusterOf p) a
    let now := (s.core p).now
    let src := if out then s.scratch p else s.mailboxView p (now + boxReadAt, a.span.addr)
    let ws := (List.range a.count).flatMap (fun e => copyElem out src a d e e)
    let clk (e : Nat) : Nat := 8 + e * cdiv a.span.len 64 / max 1 a.count
    let need := needMbx v (s.ledgerCount j) w
    (s.launch p b 3 w need (s.writeEffs j d clk ws ++ collapseEff ws)).contendBox p b
      (fun f => if out then some (f.due - need.lat + boxWriteAt, d.span.addr) else none)))

/-- DIGEST (R201): the folds alone. -/
def execDigest (p : CoreId) (s : State) : Out :=
  .next (s.slotStep p 3 (· == 0x07) (fun s b w =>
    let j := s.jobN p
    let a := mtSrc b.snap w
    let ws := (List.range a.count).flatMap (fun e => copyElem false (s.scratch p) a a e e)
    s.launch p b 3 w (needM b.snap (s.ledgerCount j) (fun _ => true) w) (s.foldOf j a ws)))

/-! Queues (R202, R203). -/

/-- SPUSH: the byte range joins the outbound queue. -/
def execSpush (p : CoreId) (s : State) : Out :=
  .next (s.slotStep p 3 (· == 0x04) (fun s b w =>
    let v := (s.core p).v
    let q := v.queue (sf w 11 8)
    let s := s.setV p (v.setQueue (sf w 11 8) { q with out := q.out ++ [(mqTd b.snap w).span] })
    s.signalTok p b 3 w))

/-- Areas popped that no instruction in flight reads go back as credits (R202). -/
def SQueue.giveBack (q : SQueue) (fly : List Flight) : SQueue :=
  let busy (a : Nat) : Bool := fly.any (fun f => f.rd.any (Span.meets ⟨a, q.entry⟩))
  { q with back := q.back.filter busy, credits := q.credits + (q.back.filter (fun a => !busy a)).length }

/-- Core p's queues take back what they can. -/
def Core.giveBack (c : Core) : Core :=
  { c with v := { c.v with sq := c.v.sq.map (fun e => (e.1, e.2.giveBack c.fly)) } }

/-- SPOP: the head entry's address into BASE; the area popped before goes back as a credit (R202, R244). -/
def execSpop (p : CoreId) (s : State) : Out :=
  .next (s.slotStep p 3 (· == 0x05) (fun s b w =>
    let v := (s.core p).v
    let q := v.queue (sf w 11 8)
    let at_ (k : Nat) : Nat := q.area + k % (max 1 q.depth) * q.entry
    let a := at_ q.popped
    let q := { q with back := if q.held then q.back ++ [at_ (q.popped - 1)] else q.back }.giveBack (s.core p).fly
    let d := v.desc (sf w 16 12)
    let v := { v with td := tput td0 v.td (sf w 16 12) ((d >>> 64 <<< 64) ||| BitVec.ofNat 512 a) }
    let v := v.setQueue (sf w 11 8) { q with popped := q.popped + 1, held := true }
    (s.setV p v).signalTok p b 3 w))

/-- NETQ: the byte range joins the network queue, eligible 48 ns on (R203, R301). -/
def execNetq (p : CoreId) (s : State) : Out :=
  .next (s.slotStep p 3 (· == 0x08) (fun s b w =>
    let q := sf w 27 22
    let s := s.setNq q (s.nq q ++ [⟨p, (mqTd b.snap w).span, s.beat.toNat + 48, 0⟩])
    s.signalTok p b 3 w))

/-- NETPEEK (R203): free entries and entries queued; it varies. -/
def execNetpeek (p : CoreId) (s : State) : Out :=
  .next (s.slotStep p 3 (· == 0x09) (fun s b w =>
    let n := (s.nq (sf w 27 22)).length
    (s.setVary p).launch p b 3 w (needM b.snap 0 (fun _ => true) w)
      [.greg (sf w 21 17) (BitVec.ofNat 64 ((32 - n) + n * 65536))]))

/-! Scatter-add (R204, R205). -/

/-- One destination element, its word read: its colliding values added in the given order of source indices. -/
def scatterElem (src : View) (v : VCore) (a d : Td) (w : W64) (e : Nat) (idx : List Nat) : Fl (Nat × Bool) :=
  let x := src.elem d e
  let rnd := sf w 30 28
  let step (acc : Fl (Num × Bool)) (i : Nat) : Fl (Num × Bool) :=
    let y := src.elem a i
    if acc.val.2 || y.poison || badKey v rnd then ⟨(acc.val.1, true), acc.flags ||| flPOISON⟩
    else
      let r := elemVal a.tg (a.bs != 0) v.ftz y
      let t := fadd acc.val.1 r.val (rnd == 2)
      let o := roundTag t.val d.tg (rndCtx v rnd (sf w 31 31 = 1) (sf w 32 32 = 1) d.tid (a.lidx i))
      ⟨(decode o.val d.tg, false), acc.flags ||| r.flags ||| t.flags ||| o.flags⟩
  let r := idx.foldl step ⟨(decode x.code d.tg, x.poison), 0⟩
  let code := (roundTag r.val.1 d.tg rneSat).val
  ⟨(code, r.val.2), r.flags⟩

/-- SADD.ORD and SADD.ANY with the order of the sources given (R204, R205). -/
def State.scatter (s : State) (p : Nat) (b : Bundle) (w : W64) (order : List Nat) : State :=
  let v := b.snap
  let j := s.jobN p
  let a := saddS v w
  let i := saddI v w
  let d := saddD v w
  let path := s.pathM p v w
  let need := needSadd v (s.ledgerCount j) w
  let per := if opcode w = 0x0A then 16 else 64
  let fold (s : State) (ws : List Write) : List Eff := s.writeEffs j d (fun _ => need.lat - 1) ws
  let (s, src) := s.sourceView p j path (joinSpans (commonSpan d.span a.span) (commonSpan d.span i.span))
  let ix := (List.range a.count).map (fun k => src.elem i k)
  if ix.any (·.poison) then
    let ws := (List.range d.count).map (fun e => elemWrite false d e 0 127 true)
    s.launchPath p b w need path (fold s ws ++ flagEff flPOISON)
  else if ix.any (fun x => sext x.code 32 < 0 || (d.count : Int) ≤ sext x.code 32) then
    s.launchPath p b w { need with lat := 2 + cdiv a.count per } path [.badIndex]
  else
    let dests := (ix.map (·.code)).foldl (fun l c => sins c l) []
    let s := s.readElems p d dests.length (fun k => dests.getD k 0)
    let src := { src with poison := src.poison ++ s.poison.filter (fun a => !src.poison.contains a) }
    let rs := dests.map (fun e =>
      let idx := order.filter (fun k => (ix.getD k ⟨0, false, 0⟩).code == e)
      (e, idx.length, scatterElem src v a d w e idx))
    let ws := rs.map (fun (e, _, r) => elemWrite false d e r.val.1 127 r.val.2)
    let hits : Nat := rs.foldl (fun n r => n + (r.2.1 - 1)) 0
    let f := rs.foldl (fun f r => f ||| r.2.2.flags) 0
    s.launchPath p b w need path
      (fold s ws ++ flagEff f ++ (if hits = 0 then [] else [.count 0x0B0 47 0 hits]))

def execSaddOrd (p : CoreId) (s : State) : Out :=
  .next (s.slotStep p 3 (· == 0x0A) (fun s b w => s.scatter p b w (List.range (saddS b.snap w).count)))

/-- An order of 0 to n - 1 drawn from values that nothing fixes: each index takes its place by a drawn key (R205). -/
def drawOrder (s : State) (n : Nat) : List Nat :=
  let put (x : Nat × Nat) (l : List (Nat × Nat)) : List (Nat × Nat) :=
    l.takeWhile (fun y => y.1 < x.1) ++ x :: l.dropWhile (fun y => y.1 < x.1)
  ((List.range n).foldr (fun i l => put ((Config.freeValue (s.free + i)).toNat, i) l) []).map (·.2)

/-- SADD.ANY (R205): the order is free, and the step varies. -/
def execSaddAny (p : CoreId) (s : State) : Out :=
  .next (s.slotStep p 3 (· == 0x0B) (fun s b w =>
    let n := (saddS b.snap w).count
    let order := drawOrder s n
    ({ s with free := s.free + n }.setVary p).scatter p b w order))

/-- SADD_INDEX_FAULT (R204, R524): once its scatter unit has read the last index, the out-of-range SADD faults; nothing
of it is written. -/
def execSaddIndexFault (p : CoreId) (s : State) : Out :=
  let c := s.core p
  match c.fly.find? (fun f => f.eff == [.badIndex]) with
  | none => .next s
  | some f =>
    if f.waiting || !s.ticking p then .next s else
    let s := s.setCore p { c with fly := c.fly.filter (fun g => !(g.bundle == f.bundle && g.slot == f.slot)) }
    let k := clusterOf p
    let x := s.cluster k
    let mine (r : StageReq) : Bool := r.core == p && r.bundle == f.bundle
    let s := s.setCluster k { x with stageQ := x.stageQ.filter (fun r => !mine r)
                                     stage := if x.stage.any mine then none else x.stage }
    .next (s.coreFault p f.pc.toNat 0x02 0x8)

end Sys2Proof.Machine
end

