-- ==== Sys2Proof/Machine/Control.lean ====
section
/-! DEFINITION. The C slot (R145 to R148, R155 to R157, R178 to R183), the fetch of bundles (R142, R155), completion
(R156, R168), the wait watchdog (R165), and the fold messages of the ledger (R60, R68). -/

namespace Sys2Proof.Machine

/-- Upsets in the four words of bundle pc: corrected words, and the mask of slots that failed (R142). -/
def State.fetchUpsets (s : State) (p pc : Nat) : Nat × Nat :=
  let st (n : Nat) : Nat := tget z0 s.upset (bundleMem p + 32 * pc + 8 * n)
  ((slotsN.filter (fun n => st n == 1)).length, maskOf (slotsN.filter (fun n => st n == 2)))

/-- BUNDLE_FETCH (R155, R142): the bundle at PC enters the issue buffer for the next clk, or the fetch faults; a
completion that is due comes first (Core.dueNow). A virtual core of a later round fetches nothing before its round (R272).
A PC fault names the last bundle that issued (R524). -/
def execBundleFetch (p : CoreId) (s : State) : Out :=
  let c := s.core p
  let free := match c.ib with
    | none => true
    | some b => b.complete
  if c.bound.isNone ∨ c.v.run ≠ .running ∨ !s.ticking p ∨ !free ∨ c.dueNow ∨ !s.onRound p then .next s
  else
    let pc := c.v.pc.toNat
    let s := s.setCore p { c.giveBack with now := c.now + 1 }
    if c.v.overrun ∨ c.v.codeLen ≤ pc then
      .next (s.coreFault p c.v.lastPc.toNat 0x08 0)
    else
      let (ce, ue) := s.fetchUpsets p pc
      let s := if ce = 0 then s else (s.bump (rg (fnCore p) 0x0A8) 63 32 ce).corrected (fnCore p) 3 (s.jobOfCore p)
      let s := { s with upset := tclear s.upset (bundleMem p + 32 * pc) 32 }
      if ue ≠ 0 then
        let s := s.bump (rg (fnCore p) 0x0A8) 31 0 (slotsN.filter ue.testBit).length
        let s := (s.report 0x30 3 (fnCore p) (s.jobOfCore p) { code := 3, action := 4, addr := pc }).countUe p
        .next (s.coreFault p pc 0x09 ue)
      else
        let ws := slotsN.map (fun n => BitVec.ofNat 64 (s.mem.le (bundleMem p + 32 * pc + 8 * n) 8))
        .next (s.setCore p { s.core p with ib := some ⟨c.v.pc, ws, false, 0, [], c.v, []⟩, heldN := 0 })

/-- NOP (R178): the slot does nothing, and signals no token whatever its bit 63 (log entry 14). A slot word without an assigned
opcode has no instruction of its own: its bundle faults at issue (R166, code 0x01). -/
def assigned (slot op : Nat) : Bool :=
  match slot with
  | 0 => 1 ≤ op && op ≤ 0x10
  | 1 => 1 ≤ op && op ≤ 0x08
  | 2 => op == 1 || op == 2 || (0x10 ≤ op && op ≤ 0x17) || (0x20 ≤ op && op ≤ 0x24) || (0x30 ≤ op && op ≤ 0x34)
  | _ => 1 ≤ op && op ≤ 0x0B

def execNop (p : CoreId) (slot : Fin 4) (s : State) : Out :=
  .next (s.slotStep p slot (fun op => !assigned slot op) (fun s _ _ => s))

/-- Destination of the CR and CI formats. -/
def State.setDest (s : State) (p : Nat) (w : W64) (x : W64) : State :=
  s.setV p ((s.core p).v.setDest (sf w 13 13 == 1) (sf w 12 8) x)

/-- LDI. -/
def execLdi (p : CoreId) (s : State) : Out :=
  .next (s.slotStep p 0 (· == 0x01) (fun s _ w => s.setDest p w (sextW (sf w 63 16) 48)))

/-- Sources A and B of SCAL (R179). -/
def scalA (v : VCore) (w : W64) : W64 :=
  if sf w 14 14 = 1 then (v.getA (sf w 19 15)).setWidth 64 else v.getG (sf w 19 15)
def scalB (v : VCore) (w : W64) : W64 := if sf w 25 25 = 1 then sextW (sf w 63 32) 32 else v.getG (sf w 24 20)

/-- Table 5.3. -/
def scalOp (v : VCore) (fn : Nat) (a b : W64) : W64 :=
  let n := b.toNat % 64
  match fn with
  | 0x00 => a + b
  | 0x01 => a - b
  | 0x02 => a &&& b
  | 0x03 => a ||| b
  | 0x04 => a ^^^ b
  | 0x05 => a <<< n
  | 0x06 => a >>> n
  | 0x07 => a.sshiftRight n
  | 0x08 => a * b
  | 0x09 => if a.toInt ≤ b.toInt then a else b
  | 0x0A => if a.toInt ≤ b.toInt then b else a
  | 0x0B => if a ≤ b then a else b
  | 0x0C => if a ≤ b then b else a
  | 0x0D => if a = b then 1 else 0
  | 0x0E => if a.toInt < b.toInt then 1 else 0
  | 0x0F => if a < b then 1 else 0
  | 0x10 => (v.getLc (b.toNat % 8)).setWidth 64
  | _ => BitVec.ofNat 64 (v.getTok (b.toNat % 64))

/-- SCAL: readable from clk 1, MUL from clk 3 (Table 5.10). -/
def execScal (p : CoreId) (s : State) : Out :=
  .next (s.slotStep p 0 (· == 0x02) (fun s b w =>
    let x := scalOp b.snap (sf w 31 26) (scalA b.snap w) (scalB b.snap w)
    if sf w 31 26 = 0x08 then
      s.launch p b 0 w (needC b.snap w) [if sf w 13 13 = 1 then .areg (sf w 12 8) (x.setWidth 48) else .greg (sf w 12 8) x]
    else s.setDest p w x))

/-! Control transfers (R155). -/

def tgt (w : W64) : BitVec 13 := BitVec.ofNat 13 (sf w 20 8)

/-- The next bundle is the one at t. -/
def State.branch (s : State) (p : Nat) (t : BitVec 13) : State :=
  s.setV p { (s.core p).v with pc := t, overrun := false }

def execLoop (p : CoreId) (s : State) : Out :=
  .next (s.slotStep p 0 (· == 0x03) (fun s b w =>
    let n : W32 := (b.snap.getG (sf w 28 24)).setWidth 32 + BitVec.ofNat 32 (sf w 63 32)
    let s := s.setV p ((s.core p).v.setLc (sf w 23 21) n)
    if n = 0 then s.branch p (tgt w) else s))

def execEndl (p : CoreId) (s : State) : Out :=
  .next (s.slotStep p 0 (· == 0x04) (fun s b w =>
    let n := b.snap.getLc (sf w 23 21) - 1
    let s := s.setV p ((s.core p).v.setLc (sf w 23 21) n)
    if n = 0 then s else s.branch p (tgt w)))

def execBr (p : CoreId) (s : State) : Out :=
  .next (s.slotStep p 0 (· == 0x05) (fun s _ w => s.branch p (tgt w)))

def execBrz (p : CoreId) (s : State) : Out :=
  .next (s.slotStep p 0 (· == 0x06) (fun s b w => if b.snap.getG (sf w 28 24) = 0 then s.branch p (tgt w) else s))

/-- CALL: the entry keeps the 13 bits of PC + 1. -/
def execCall (p : CoreId) (s : State) : Out :=
  .next (s.slotStep p 0 (· == 0x07) (fun s b w =>
    let v := (s.core p).v
    (s.setV p { v with rs := (b.pc + 1) :: v.rs }).branch p (tgt w)))

def execRet (p : CoreId) (s : State) : Out :=
  .next (s.slotStep p 0 (· == 0x08) (fun s _ _ =>
    let v := (s.core p).v
    match v.rs with
    | [] => s
    | r :: t => (s.setV p { v with rs := t }).branch p r))

/-! Tokens and queue waits: what TWAIT subtracts, its bundle's issue subtracts (R156). -/

def execTsig (p : CoreId) (s : State) : Out :=
  .next (s.slotStep p 0 (· == 0x09) (fun s b w =>
    if (s.core p).v.run = .stopped then s else s.signal p ⟨sf w 13 8, sf w 21 16, b.num, 0, b.pc.toNat⟩))

def execTwait (p : CoreId) (s : State) : Out :=
  .next (s.slotStep p 0 (· == 0x0A) (fun s _ _ => s))

def execQwait (p : CoreId) (s : State) : Out :=
  .next (s.slotStep p 0 (· == 0x0B) (fun s _ _ => s))

/-- The virtual core leaves the running state, unless its job has stopped; signals already made reach the counts. -/
def State.setRun (s : State) (p : Nat) (r : Run) : State :=
  let s := if (s.core p).v.pend = [] then s else s.settleTok p
  let v := (s.core p).v
  if v.run = .running then s.setV p { v with run := r } else s

/-- A virtual core of a job has arrived: the first one's SIDX names the splice, and any STEP marks it (R181, R277). -/
def State.noteArrival (s : State) (p sidx : Nat) (step : Bool) : State :=
  match (s.core p).bound, (s.core p).v.run with
  | some (j, _), .arrived .. =>
    let x := s.job j
    s.setJob j { x with firstSidx := some (x.firstSidx.getD sidx), stepMark := x.stepMark || step }
  | _, _ => s

/-- SPLICE (R181): arrival at entry SIDX. -/
def execSplice (p : CoreId) (s : State) : Out :=
  .next (s.slotStep p 0 (· == 0x0C) (fun s b w =>
    ((s.setRun p (.arrived (sf w 31 16) (sf w 8 8 == 1))).closeSpan p b 0).noteArrival p (sf w 31 16) (sf w 8 8 == 1)))

/-- FLAGS (R148): D takes the flags of the issue clk; a flag set meanwhile stays set (R102). Elements already written are
counted under the HBASE of their clk (R105). -/
def execFlags (p : CoreId) (s : State) : Out :=
  .next (s.slotStep p 0 (· == 0x0D) (fun s b w =>
    let fn := sf w 31 26
    let s := if fn.testBit 1 then s.countDue p ((s.core p).now + 1) else s
    let v := (s.core p).v
    let clear := BitVec.ofNat 8 (sf w 39 32) &&& (b.snap.nflags.setWidth 8)
    let v := { v with
      nflags := v.nflags &&& ~~~ (clear.setWidth _)
      ftz := if fn.testBit 0 then sf w 48 48 == 1 else v.ftz
      hbase := if fn.testBit 1 then BitVec.ofNat 8 (sf w 47 40) else v.hbase }
    (s.setV p v).setDest p w (b.snap.nflags.setWidth 64)))

/-- HALT (R182). -/
def execHalt (p : CoreId) (s : State) : Out :=
  .next (s.slotStep p 0 (· == 0x0E) (fun s b _ => (s.setRun p .halted).closeSpan p b 0))

def destEff (w : W64) (x : W64) : Eff :=
  if sf w 13 13 = 1 then .areg (sf w 12 8) (x.setWidth 48) else .greg (sf w 12 8) x

/-- TIME (R148, R183): the beat time of the issue clk. -/
def execTime (p : CoreId) (s : State) : Out :=
  .next (s.slotStep p 0 (· == 0x0F) (fun s b w =>
    (s.setVary p).launch p b 0 w (needC b.snap w) [destEff w s.beat]))

/-- ENTROPY (R183): the source is a free value (log entry 2). -/
def execEntropy (p : CoreId) (s : State) : Out :=
  .next (s.slotStep p 0 (· == 0x10) (fun s b w =>
    let (x, s) := s.draw
    (s.setVary p).launch p b 0 w (needC b.snap w) [destEff w x]))

/-! Completion. -/

/-- One effect of a completing instruction f of core p. -/
def State.applyEff (s : State) (p : Nat) (f : Flight) (e : Eff) : State :=
  let c := s.core p
  match e with
  | .greg d x => s.setV p (c.v.setG d x)
  | .areg d x => s.setV p (c.v.setA d x)
  | .vreg r l => s.setV p (c.v.setLanes r l)
  | .put false b w code q =>
    let (m, z) := putBits s.mem s.poison (window p) b w code q
    { s with mem := m, poison := z }
  | .put true .. | .wash true _ => s.boxEff p (f.box.getD (0, 0)) e
  | .wash false a => { s with poison := sdel (window p + a) s.poison }
  | .flags g => s.raise p f.pc.toNat g
  | .hist _ x => s.setV p (c.v.countHist x)
  | .fold slot l0 l1 n poison full =>
    let x := s.cluster (clusterOf p)
    s.setCluster (clusterOf p) { x with folds := x.folds ++ [⟨s.jobN p, slot, l0, l1, n, poison, full⟩] }
  | .count off hi lo n => s.bump (rg (fnCore p) off) hi lo n
  | .weights n r t => s.setV p { c.v with wt := tput wt0 c.v.wt (2 * n + r) (some t) }
  | .histClear => s.setV p { c.v with hist := [] }
  | .badIndex => s

def Eff.isFold : Eff → Bool
  | .fold .. => true
  | _ => false

/-- The staging buffer becomes free when the instruction that held it completes (R223). -/
def State.freeStage (s : State) (p : Nat) (f : Flight) : State :=
  let x := s.cluster (clusterOf p)
  match x.stage with
  | none => s
  | some r => if r.core = p ∧ r.bundle = f.bundle ∧ r.slot = f.slot then s.setCluster (clusterOf p) { x with stage := none } else s

/-- INSTRUCTION_COMPLETE (R168): the writes, counts, folds and flags of the instruction due, then its token; a full fold
queue keeps it (R60). On a running core nothing completes before its clk, which fetches and held clk make come; a core
that issues no further bundle goes on to the clk of the completion (log entry 1). -/
def execInstructionComplete (p : CoreId) (s : State) : Out :=
  let c := s.core p
  let open_ := match c.ib with
    | none => true
    | some b => !b.issued || b.complete
  match nextFlight c.fly with
  | none => .next s
  | some f =>
    if !open_ ∨ !s.ticking p ∨ (c.v.run = .running ∧ c.now < f.due) then .next s
    else if f.eff.any Eff.isFold ∧ 32 ≤ (s.cluster (clusterOf p)).folds.length then
      .next (s.bump (rg fnLedger 0x008) 47 0 1)
    else
      let fly := c.fly.filter (fun g => !(g.bundle == f.bundle && g.slot == f.slot))
      let s := s.setCore p { ({ c with fly } : Core).giveBack with now := max c.now f.due }
      let s := (f.eff.foldl (fun s e => s.applyEff p f e) s).freeStage p f
      match f.tok with
      | none => .next s
      | some t => if (s.core p).v.run = .stopped then .next s else .next (s.signal p ⟨t, 1, f.bundle, f.slot, f.pc.toNat⟩)

/-- WAIT_TIMEOUT (R165, R524). -/
def execWaitTimeout (p : CoreId) (s : State) : Out :=
  let c := s.core p
  match c.ib with
  | none => .next s
  | some b =>
    if b.issued ∨ c.v.run ≠ .running ∨ c.heldN ≤ s.waitLimit p then .next s
    else .next (s.coreFault p b.pc.toNat 0x06 0)

/-! The ledger. -/

/-- A slot takes a message (R58 to R60). -/
def Slot.add (x : Slot) (m : FoldMsg) : Slot :=
  { l0 := x.l0 + m.l0, l1 := x.l1 + m.l1, count := x.count + BitVec.ofNat 64 m.count
    poison := x.poison || m.poison, full := x.full || m.full }

/-- The ledger applies a message to its slot; slot 0 is never written (R54). -/
def State.applyFold (s : State) (m : FoldMsg) : State :=
  if m.slot = 0 then s
  else
    let s := { s with ledger := { s.ledger with
      slots := tput slot0 s.ledger.slots m.slot ((tget slot0 s.ledger.slots m.slot).add m) } }
    if m.poison then s.setFlag (rg fnLedger 0) 1 true else s

/-- FOLD_MESSAGE: messages wait while the ledger is not READY (R68). -/
def execFoldMessage (c : ClusterId) (s : State) : Out :=
  let x := s.cluster c
  match x.folds with
  | [] => .next s
  | m :: r => if s.flag (rg fnLedger 0) 0 then .next ((s.setCluster c { x with folds := r }).applyFold m) else .next s

/-- LEDGER_CLEAR_DONE (R68): after reset every slot and shadow entry is clear. Before the chip is out of reset and the hub
dies run there is no ledger to clear. -/
def execLedgerClearDone (s : State) : Out :=
  if s.flag (rg fnLedger 0) 0 ∨ !s.running ∨ !s.hubOn then .next s
  else .next ({ s with ledger := ⟨[], []⟩ }.setFlag (rg fnLedger 0) 0 true)

end Sys2Proof.Machine
end

