-- ==== Sys2Proof/Machine/Streams.lean ====
section
/-! DEFINITION. Stream threads (R239 to R247, R526), the HBM controllers' FIFOs and slots (R253 to R256, R260, R525),
spill queues (R249, R250), and the planned release of network entries (R280 to R284). -/

namespace Sys2Proof.Machine

def State.thread (s : State) (c t : Nat) : Thread := tget thread0 (s.cluster c).threads t
def State.setThread (s : State) (c t : Nat) (x : Thread) : State :=
  let k := s.cluster c
  s.setCluster c { k with threads := tput thread0 k.threads t x }

/-- The descriptor a thread runs. -/
def Thread.running (t : Thread) : Option Sd := if t.started then t.list.head?.map sdOf else none

/-- The running descriptor is complete: the thread goes on to the next one. -/
def Thread.finish (t : Thread) : Thread :=
  { t with list := t.list.drop 1, started := false, asked := 0, done := 0, buf := [], pour := [], planned := 0
           plan := match t.running with
             | some d => if d.net then t.plan.drop 1 else t.plan
             | none => t.plan }

/-- The thread's list still holds an outbound descriptor. -/
def Thread.outbound (t : Thread) : Bool := t.list.any (fun r => (sdOf r).out)

/-- Streams of job j move in cluster c: through quiesce too those of a thread whose list has an outbound descriptor left
(Table 9.4), none while the cluster is held, swaps or sleeps (R281, R273, R475). -/
def State.flowing (s : State) (j c : Nat) (out : Bool) : Bool :=
  let x := s.cluster c
  x.hold.isEmpty && !x.asleep && !x.swapping && !s.stopped j &&
    (match (s.job j).phase with
     | .span => true
     | .quiesce => out
     | _ => false)

/-! Start of a descriptor (R242, R257). -/

/-- XCH limits (R241). The model takes any ESIZE that divides the row and rejects 0 (log entry 22). -/
def Sd.xchOk (d : Sd) : Bool :=
  d.esize != 0 && (8 * d.len) % d.esize == 0 && d.len * d.ext.headD 1 ≤ 65536

/-- First page of a descriptor's span that fails its check; of a span that begins below address 0, page 0 (log entry 22). -/
def State.badPage (s : State) (j : Nat) (d : Sd) : Option Nat :=
  let (lo, hi) := d.span
  if lo < 0 then some 0
  else (pagesOf lo.toNat (hi - lo).toNat).find? (fun n => !pageAllows (s.page n) j (if d.out then 57 else 56))

/-- Why a descriptor is rejected at its start: code of SFAULT and the page. -/
def State.rejects (s : State) (j : Nat) (d : Sd) : Option (Nat × Nat) :=
  if d.out ≠ decide (8 ≤ d.sq) then some (0x01, 0)
  else if d.xch && !d.xchOk then some (0x02, 0)
  else if d.net && d.out then some (0x03, 0)
  else if d.net then none
  else (s.badPage j d).map (fun n => (0x04, n % 2 ^ 26))

/-- STREAM_DESCRIPTOR_START (R242). A descriptor of no byte is complete at its start (log entry 22). -/
def execStreamDescriptorStart (c : ClusterId) (thread : Fin 64) (s : State) : Out :=
  match s.jobOf c with
  | none => .next s
  | some j =>
    let t := s.thread c thread
    match t.list with
    | [] => .next s
    | r :: _ =>
      let d := sdOf r
      if t.started ∨ t.stopped ∨ !s.flowing j c t.outbound ∨ (s.coreFor j c d.vcore).isNone then .next s
      else match s.rejects j d with
        | some (code, page) =>
          let s := if code = 0x04 then s.pageFault 0 j page else s
          .next (s.streamFault j c thread code page)
        | none =>
          let t := { t with started := true, asked := 0, done := 0, buf := [], pour := [], planned := 0 }
          let t := match s.coreFor j c d.vcore with
            | some p => if d.out ∧ !t.outQ.contains (p, d.sq) then { t with outQ := t.outQ ++ [(p, d.sq)] } else t
            | none => t
          .next (s.setThread c thread (if d.total = 0 then t.finish else t))

/-! The stream exchange (R241). -/

/-- A matrix of rows x cols elements of w bits, row after row, transposed; an element is poisoned if a byte it touches
is, and poisons every byte it touches (R235). -/
def transposeElems (rows cols w : Nat) (l : List (Byte × Bool)) : List (Byte × Bool) :=
  let n := leNat (l.map (·.1))
  let from_ (e : Nat) : Nat := (e % rows) * cols + e / rows
  let code (e : Nat) : Nat := (n >>> (from_ e * w)) % 2 ^ w
  let bad (e : Nat) : Bool :=
    let b := from_ e * w
    ((l.drop (b / 8)).take ((b % 8 + w + 7) / 8)).any (·.2)
  (List.range l.length).map (fun k =>
    let e0 := 8 * k / w
    let es := (List.range ((8 * k + 7) / w - e0 + 1)).map (e0 + ·)
    let v := es.foldl (fun a e => a ||| (code e <<< ((e - e0) * w))) 0
    (BitVec.ofNat 8 (v >>> (8 * k - e0 * w)), es.any bad))

def Sd.group (d : Sd) : Nat := d.len * d.ext.headD 1
def Sd.cols (d : Sd) : Nat := 8 * d.len / d.esize

/-- Bytes of a stream pass through the exchange where XCHEN asks for it: whole groups come out transposed. -/
def Thread.exchange (t : Thread) (d : Sd) (bs : List (Byte × Bool)) : Thread × List (Byte × Bool) :=
  if d.xch then
    let l := t.buf ++ bs
    let g := max 1 d.group
    let n := l.length / g
    ({ t with buf := l.drop (n * g) },
      (List.range n).flatMap (fun i => transposeElems (d.ext.headD 1) d.cols d.esize ((l.drop (i * g)).take g)))
  else (t, bs)

/-- A stream thread's access to n bytes of core p's scratchpad contends with the instructions in flight (R161, R233): it
loses banks to them, and one that has lost 8 times takes them. How many clk, nothing fixes (log entry 2). -/
def State.contendPad (s : State) (p sq n : Nat) : State :=
  let c := s.core p
  let what (f : Flight) : List Nat := [sq, n, f.slot, f.op, c.now - f.issued] ++ (f.rd ++ f.wr).flatMap (fun r => [r.addr, r.len])
  if n = 0 ∨ !c.fly.any Flight.onPad then s
  else
    let back := c.fly.map (fun f => if f.onPad then Config.bankClash (1 :: what f) % (n / 8 + 1) else 0)
    let lost := ((c.fly.filter Flight.onPad).map (fun f => Config.bankClash (0 :: what f) % (f.due - c.now + 1))).sum
    (s.setCore p { c with fly := (c.fly.zip back).map (fun x => x.1.move x.2) }).countBank p (lost + back.sum)

/-! Granule requests (R247). -/

/-- Bytes pushed and not yet read of an outbound queue. -/
def SQueue.waiting (q : SQueue) : Nat := (q.out.foldl (fun n e => n + e.len) 0) - q.readOff

/-- Scratchpad addresses of the next n bytes of an outbound queue. -/
def SQueue.next (q : SQueue) (n : Nat) : List Nat :=
  ((q.out.flatMap (fun e => (List.range e.len).map (e.addr + ·))).drop q.readOff).take n

/-- The next n bytes of outbound queue q of core p are read. -/
def State.pullOut (s : State) (p q n : Nat) : State × List (Byte × Bool) :=
  let x := (s.core p).v.queue q
  let as := x.next n
  let s := s.contendPad p q n
  let s := as.foldl (fun s a => s.readScratch p ⟨a, 1⟩) s
  let bs := as.map (fun a => (s.mem.byte (window p + a), s.poison.contains (window p + a)))
  (s.setV p ((s.core p).v.setQueue q { x with readOff := x.readOff + n }), bs)

/-- Requests of a cluster that have not completed (R282). -/
def Cluster.outstanding (x : Cluster) : Nat := x.threads.foldl (fun n e => n + e.2.flight) 0

/-- Thread t issues its next request, if it can: an inbound one spends the credits of the entries it begins as far as it
has them, and one where it begins at an entry (R244); an outbound one takes its bytes from the queue (R245). -/
def State.requestOne (s : State) (j c t seq : Nat) : Option State :=
  let x := s.cluster c
  let th := s.thread c t
  match th.running with
  | none => none
  | some d =>
    match s.coreFor j c d.vcore with
    | none => none
    | some p =>
      if th.stopped ∨ d.net ∨ d.total ≤ th.asked ∨ 2048 ≤ x.outstanding ∨ !s.flowing j c th.outbound then none
      else
        let (a, n) := d.piece th.asked
        let q := (s.core p).v.queue d.sq
        let mk (th : Thread) (bs : List (Byte × Bool)) : Thread :=
          let r : Request :=
            { cluster := c, thread := t, job := j, use := 0, addr := a, len := n, write := d.out
              data := bs.map (·.1), poison := bs.any (·.2), issued := x.ticks, seq, merged := n == 64, pos := th.asked }
          { th with asked := th.asked + n, waiting := th.waiting ++ [r], flight := th.flight + 1 }
        if !d.out then
          let new := cdiv (th.asked + n) q.entry - cdiv th.asked q.entry
          if q.credits = 0 ∧ th.asked % q.entry = 0 then none
          else
            let k := min new q.credits
            let s := s.setV p ((s.core p).v.setQueue d.sq { q with credits := q.credits - k, begun := q.begun + k })
            some (s.setThread c t (mk th []))
        else if d.xch then
          if th.buf.isEmpty then
            if q.waiting < d.group then none
            else
              let (s, bs) := s.pullOut p d.sq d.group
              let bs := transposeElems d.cols (d.ext.headD 1) d.esize bs
              some (s.setThread c t { mk th (bs.take n) with buf := bs.drop n })
          else some (s.setThread c t { mk th (th.buf.take n) with buf := th.buf.drop n })
        else if q.waiting < n then none
        else
          let (s, bs) := s.pullOut p d.sq n
          some (s.setThread c t (mk th bs))

/-- Up to n requests in round-robin order from the thread after the one last served. -/
def State.requests (s : State) (j c : Nat) : Nat → State
  | 0 => s
  | n + 1 =>
    let r := (s.cluster c).robin
    match ((List.range 64).map (fun i => (r + i) % 64)).findSome? (fun t => (s.requestOne j c t (7 - n)).map (fun s => (s, t))) with
    | none => s
    | some (s, t) => (s.setCluster c { s.cluster c with robin := (t + 1) % 64 }).requests j c n

/-- GRANULE_REQUEST: a clk of the cluster, at most 8 requests. -/
def execGranuleRequest (c : ClusterId) (s : State) : Out :=
  match s.jobOf c with
  | none => .next s
  | some j =>
    let s := s.requests j c 8
    .next (s.setCluster c { s.cluster c with ticks := (s.cluster c).ticks + 1 })

/-! FIFOs (R254, R525). -/

def fifoKey (n pch cls : Nat) : Nat := 1024 * n + 32 * pch + cls
def State.fifo (s : State) (n pch cls : Nat) : List Request := tget noReq s.hbm.fifo (fifoKey n pch cls)
def State.setFifo (s : State) (n pch cls : Nat) (l : List Request) : State :=
  { s with hbm := { s.hbm with fifo := tput noReq s.hbm.fifo (fifoKey n pch cls) l } }

/-- The request at the head of a thread's waiting ones that is first in issue order for a FIFO. -/
def State.joinNext (s : State) (n pch cls : Nat) : Option Request :=
  let heads := s.clusters.flatMap (fun e => e.2.threads.filterMap (fun t => t.2.waiting.head?))
  let mine := heads.filter (fun r => stackOf r.addr == n && pchOf r.addr == pch && classOf r.addr == cls)
  mine.foldl (fun b r => match b with
    | none => some r
    | some q =>
      if r.issued < q.issued ∨ (r.issued = q.issued ∧ (r.cluster < q.cluster ∨ (r.cluster = q.cluster ∧ r.seq < q.seq)))
      then some r else some q) none

/-- Some data slot can serve the request: a partial write needs a read slot as well, for its merge. -/
def State.servable (s : State) (r : Request) : Bool :=
  let st := stackOf r.addr
  let cls := classOf r.addr
  s.hasSlot st cls r.write r.use r.job && (r.merged || !r.write || s.hasSlot st cls false r.use r.job)

def State.hbmReady (s : State) (n : Nat) : Bool := s.flag (rg (fnHbm n) 0) 0

/-- FIFO_JOIN. -/
def execFifoJoin (n : StackId) (pch : Fin 32) (cls : Fin 32) (s : State) : Out :=
  match s.joinNext n pch cls with
  | none => .next s
  | some r =>
    if !s.hbmReady n ∨ 32 ≤ (s.fifo n pch cls).length then .next s
    else
      let t := s.thread r.cluster r.thread
      if s.fixed && !s.servable r then .next (s.streamFault r.job r.cluster r.thread 0x05 (pageOf r.addr % 2 ^ 26))
      else
        let s := s.setThread r.cluster r.thread { t with waiting := t.waiting.drop 1 }
        .next (s.setFifo n pch cls (s.fifo n pch cls ++ [r]))

/-! Data slots. -/

/-- A write of a stream thread has completed. -/
def State.writeDone (s : State) (r : Request) : State :=
  let t := s.thread r.cluster r.thread
  let t := { t with done := t.done + r.len, flight := t.flight - 1 }
  s.setThread r.cluster r.thread (match t.running with
    | some d => if t.done = d.total then t.finish else t
    | none => t)

/-- Served reads wait in stream order. -/
def insertByPos (r : Request) : List Request → List Request
  | [] => [r]
  | q :: l => if r.pos < q.pos then r :: q :: l else q :: insertByPos r l

/-- The head of a FIFO is served, reading or writing HBM (R254). -/
def State.serve (s : State) (n pch cls : Nat) (r : Request) (rest : List Request) : State :=
  let s := s.setFifo n pch cls rest
  if r.write then (s.writeGranule r.addr r.data r.poison).writeDone r
  else
    let (s, bad) := s.readGranule (granuleOf r.addr)
    let t := s.thread r.cluster r.thread
    let r := { r with data := s.mem.bytes r.addr r.len, poison := bad }
    s.setThread r.cluster r.thread { t with served := insertByPos r t.served }

/-- The granule that scrub reads next in a pseudo-channel's class (R252, R260). -/
def scrubGranule (n pch cls i : Nat) : Nat := n * 0x2000000000 + (i * 65536 + cls * 2048 + pch * 64)

/-- Granules of stack n that patrol scrub should have read by now and has not (R260): SCRUB.PERIOD hours a pass. -/
def State.scrubBehind (s : State) (n : Nat) : Nat :=
  let h := s.fld (rg (fnHbm n) 0x100) 15 0
  let period := (if h = 0 then 24 else h) * 3600000000000
  let since := tget z0 s.hbm.scrubAt n
  if since = 0 ∨ !s.hbmReady n then 0
  else min (2 ^ 31) ((s.clk - (since - 1)) * 2 ^ 31 / period) - tget z0 s.hbm.scrubbed n

/-- A service read slot scrubs one granule: a corrected one waits for its write-back, an uncorrectable one is stored
poisoned. -/
def State.scrubRead (s : State) (n pch cls : Nat) : State :=
  let i := tget z0 s.hbm.scrub (fifoKey n pch cls)
  if 2 ^ 21 ≤ i ∨ s.power.paused then s
  else
    let g := scrubGranule n pch cls i
    let was := tget z0 s.upset g
    let (s, bad) := s.readGranule g
    let h := { s.hbm with scrub := tput z0 s.hbm.scrub (fifoKey n pch cls) (i + 1)
                          scrubbed := tput z0 s.hbm.scrubbed n (tget z0 s.hbm.scrubbed n + 1)
                          writeBack := if was = 1 then sins g s.hbm.writeBack else s.hbm.writeBack }
    let s := { s with hbm := h }
    let s := if bad && was != 0 then s.sealGranule g true else s
    if tget z0 s.hbm.scrubbed n = 2 ^ 31 then
      { s with hbm := { s.hbm with scrubbed := tput z0 s.hbm.scrubbed n 0, scrubAt := tput z0 s.hbm.scrubAt n (s.clk + 1)
                                   scrub := tclear s.hbm.scrub (1024 * n) 1024 } }.bump (rg (fnHbm n) 0x070) 31 0 1
    else s

/-- A service write slot writes one corrected granule back. -/
def State.scrubWrite (s : State) (n pch cls : Nat) : State :=
  match s.hbm.writeBack.find? (fun g => stackOf g == n && pchOf g == pch && classOf g == cls) with
  | none => s
  | some g => { s with hbm := { s.hbm with writeBack := sdel g s.hbm.writeBack } }.sealGranule g (s.poison.contains g)

/-- HOTBANK and HOTLAST (R264): clk of this position, counted by the lowest pseudo-channel with a hot FIFO. -/
def State.countHot (s : State) (n pch pos : Nat) : State :=
  let h := s.fld (rg (fnHbm n) 0x108) 5 0
  let lim := if h = 0 ∨ 32 < h then 32 else h
  let hot := s.hbm.fifo.filter (fun e => e.1 / 1024 == n && lim ≤ e.2.length)
  match hot with
  | [] => s
  | e :: _ =>
    if e.1 / 32 % 32 ≠ pch then s
    else ((s.bump (rg (fnHbm n) 0x058) 63 0 (4 * (pos + 1) / 3 - 4 * pos / 3)).setFld (rg (fnHbm n) 0x060) 9 5 pch).setFld
      (rg (fnHbm n) 0x060) 4 0 (e.1 % 32)

/-- HBM_SLOT_SERVE: position pos of a pseudo-channel's frame; all but a data slot only pass. In fixed cadence it serves the head
of its class if its owner code matches; in open cadence the slot plan is a floor and any head is served. A slot that
serves nothing scrubs, if it is a service slot or the cadence is open. -/
def execHbmSlotServe (n : StackId) (pch : Fin 32) (pos : Fin 192) (s : State) : Out :=
  let (kind, cls, owner) := s.slotAt n pos
  let s := if kind = 1 ∨ !s.hbmReady n then s else s.countHot n pch pos
  if kind ≠ 0 ∨ !s.hbmReady n then .next s
  else
    let service (write : Bool) : Bool := !s.fixed || (owner.testBit 7 && (owner.testBit 6 == write) && bits owner 5 4 == 2)
    let scrub : State :=
      let s := if service true then s.scrubWrite n pch cls else s
      if service false then s.scrubRead n pch cls else s
    match s.fifo n pch cls with
    | [] => .next scrub
    | r :: rest =>
      let serves (write : Bool) : Bool := !s.fixed || ownerServes owner write r.use r.job
      if r.write && !r.merged then
        if serves false then
          .next (s.setFifo n pch cls ({ r with merged := true } :: rest))
        else .next scrub
      else if serves r.write then .next (s.serve n pch cls r rest)
      else .next scrub

/-- HBM_REFRESH: a refresh slot, and one refresh that a re-phase postponed (R253, R254); in open cadence any position. -/
def execHbmRefresh (n : StackId) (pch : Fin 32) (pos : Fin 192) (s : State) : Out :=
  let (kind, _, _) := s.slotAt n pos
  if (s.fixed && kind != 1) || !s.hbmReady n then .next s
  else
    let s := if kind = 1 then s.countHot n pch pos else s
    let k := 32 * n.val + pch.val
    let o := tget z0 s.hbm.owed k
    .next { s with hbm := { s.hbm with
      refreshes := tput z0 s.hbm.refreshes k (tget z0 s.hbm.refreshes k + 1 + min o 1)
      owed := tput z0 s.hbm.owed k (o - 1) } }

/-! Delivery (R244). -/

/-- Bytes reach queue sq of core p, entry after entry; a full entry becomes visible. -/
def State.fillQueue (s : State) (p sq : Nat) : List (Byte × Bool) → State
  | [] => s
  | (b, bad) :: r =>
    let q := (s.core p).v.queue sq
    let a := window p + q.area + q.visible % (max 1 q.depth) * q.entry + q.fill
    let s := { s with mem := s.mem.setByte a b, poison := sset a bad s.poison }
    let q := if q.fill + 1 = q.entry then { q with visible := q.visible + 1, fill := 0 } else { q with fill := q.fill + 1 }
    (s.setV p ((s.core p).v.setQueue sq q)).fillQueue p sq r

/-- A stream's last entry is finished with zero bytes. -/
def State.padQueue (s : State) (p sq : Nat) : State :=
  let q := (s.core p).v.queue sq
  if q.fill = 0 then s else s.fillQueue p sq (List.replicate (q.entry - q.fill) (0, false))

/-- The bytes that a thread holds for queue sq of core p are written as far as the queue has room, credits spent for the
entries they begin; the rest waits (R244). -/
def State.pourInto (s : State) (p sq : Nat) (t : Thread) : State × Thread :=
  let q := (s.core p).v.queue sq
  let room := (q.begun - q.visible) * q.entry - q.fill + q.credits * q.entry
  let bs := t.pour.take room
  let s := (s.contendPad p sq bs.length).fillQueue p sq bs
  let q := (s.core p).v.queue sq
  let n := max q.begun (q.visible + (if q.fill = 0 then 0 else 1))
  (s.setV p ((s.core p).v.setQueue sq { q with begun := n, credits := q.credits - (n - q.begun) }),
    { t with pour := t.pour.drop room })

/-- GRANULE_DELIVERED: the thread's next read in stream order reaches the scratchpad, through the exchange where XCHEN
asks for it, or bytes that waited for room do. -/
def execGranuleDelivered (c : ClusterId) (thread : Fin 64) (s : State) : Out :=
  match s.jobOf c with
  | none => .next s
  | some j =>
    let t := s.thread c thread
    match t.running with
    | none => .next s
    | some d =>
      match s.coreFor j c d.vcore with
      | none => .next s
      | some p =>
        if d.out ∨ d.net ∨ !s.flowing j c t.outbound then .next s
        else
          let t := match t.pour, t.served with
            | [], r :: rest =>
              if r.pos ≠ t.done then t
              else
                let (t, bs) := t.exchange d (r.data.map (fun b => (b, r.poison)))
                { t with served := rest, done := t.done + r.len, flight := t.flight - 1, pour := bs }
            | _, _ => t
          let (s, t) := s.pourInto p d.sq t
          if t.done = d.total ∧ t.pour = [] then .next ((s.padQueue p d.sq).setThread c thread t.finish)
          else .next (s.setThread c thread t)

/-- The head entry of an outbound queue has been read to its last byte. -/
def SQueue.headRead (q : SQueue) : Bool :=
  match q.out with
  | [] => false
  | e :: _ => e.len ≤ q.readOff

/-- It leaves the queue: its credit returns. -/
def SQueue.dropHead (q : SQueue) : SQueue :=
  { q with out := q.out.drop 1, readOff := q.readOff - ((q.out.map (·.len)).headD 0) }

/-- OUTBOUND_ENTRY_READ (R245): of the queues that the thread reads, the first whose head entry has been read to its last
byte gets the entry's credit back; no clk of a held or sleeping cluster. -/
def execOutboundEntryRead (c : ClusterId) (thread : Fin 64) (s : State) : Out :=
  let x := s.cluster c
  match (s.thread c thread).outQ.find? (fun e => ((s.core e.1).v.queue e.2).headRead) with
  | none => .next s
  | some (p, q) =>
    if !x.hold.isEmpty ∨ x.asleep then .next s
    else .next (s.setV p ((s.core p).v.setQueue q ((s.core p).v.queue q).dropHead))

/-! Spill queues (R249, R250). -/

def State.spill (s : State) (q : Nat) : SpillQ := tget spill0 s.hbm.spillq q
def State.setSpill (s : State) (q : Nat) (x : SpillQ) : State :=
  { s with hbm := { s.hbm with spillq := tput spill0 s.hbm.spillq q x } }

/-- BASE, SIZE in granules (0: unused) and job of spill queue q (SPILLQ record). -/
def State.spillBase (s : State) (q : Nat) : Nat := fieldLE (s.rec1 5) (16 * q) 8
def State.spillSize (s : State) (q : Nat) : Nat :=
  let n := fieldLE (s.rec1 5) (16 * q + 8) 1
  if n = 0 then 0 else 2 ^ n
def State.spillJob (s : State) (q : Nat) : Nat := fieldLE (s.rec1 5) (16 * q + 9) 1

/-- Granules from a to b, modulo 2^40. -/
def ahead (a b : BitVec 40) : Nat := (b - a).toNat

/-- Where granule n lies. -/
def State.spillAt (s : State) (q : Nat) (n : BitVec 40) : Nat := s.spillBase q + 64 * (n.toNat % max 1 (s.spillSize q))

def State.spillFull (s : State) (q : Nat) : Bool := s.spillSize q ≤ ahead (s.spill q).q (s.spill q).p

/-- Write: one granule at P, or a wait that the FULL counter counts. -/
def State.spillPut (s : State) (q : Nat) (data : List Byte) (poison : Bool) : State :=
  let x := s.spill q
  if s.spillFull q then s.setSpill q { x with full := x.full + 1 }
  else (s.writeGranule (s.spillAt q x.p) data poison).setSpill q { x with p := x.p + 1 }

/-- Commit, rewind. -/
def State.spillCommit (s : State) (q : Nat) : State := s.setSpill q { s.spill q with c := (s.spill q).p }
def State.spillRewind (s : State) (q : Nat) : State := s.setSpill q { s.spill q with p := (s.spill q).c }

/-- The granule n of a queue as it is read, with its poison. -/
def State.spillPeek (s : State) (q : Nat) (n : BitVec 40) : State × List Byte × Bool :=
  let a := s.spillAt q n
  let (s, bad) := s.readGranule a
  (s, s.mem.bytes a 64, bad)

/-- SPILLQ_WRITE. A queue that the braid leaves unused takes nothing. -/
def execSpillqWrite (q : Fin 128) (data : List Byte) (poison : Bool) (s : State) : Out :=
  if s.spillSize q = 0 then .next s else .next (s.spillPut q ((data ++ List.replicate 64 0).take 64) poison)

/-- SPILLQ_READ: possible only while Q < C. -/
def execSpillqRead (q : Fin 128) (s : State) : Out :=
  let x := s.spill q
  if s.spillSize q = 0 ∨ ahead x.q x.c = 0 then .next s
  else
    let (s, bs, bad) := s.spillPeek q x.q
    .next (s.setSpill q { s.spill q with q := x.q + 1, last := bs, lastPoison := bad })

/-! Network entries (R280 to R284). -/

/-- A receive queue fed over a plane: a reduction-engine stream with a Hawser input delivers into it (Table 11.5). -/
def State.fromPlane (s : State) (j rq : Nat) : Bool :=
  let b := s.rec1 8
  (List.range 64).any (fun k =>
    let o := 16 * k
    fieldLE b (o + 2) 1 == j && (fieldLE b (o + 3) 1).testBit 0 && fieldLE b (o + 0x0C) 1 == rq &&
      (List.range (fieldLE b o 1)).any (fun i => fieldLE b (o + 4 + i) 1 / 64 == 2))

/-- Whole beats that an entry takes of the receive buffer (R282). -/
def beats256 (n : Nat) : Nat := 256 * cdiv n 256

def HoldWhy.isTether : HoldWhy → Bool
  | .tether _ => true
  | _ => false
def HoldWhy.isPlane : HoldWhy → Bool
  | .plane _ => true
  | _ => false

/-- Clk of a hold (R281): counted once in STALL and in the first cause that applies. -/
def State.countHold (s : State) (c n : Nat) : State :=
  let x := s.cluster c
  let off := if x.hold.any HoldWhy.isTether then 0x060 else if x.hold.any HoldWhy.isPlane then 0x068 else 0x070
  let s := s.setCluster c { x with holdClk := x.holdClk + n }
  (s.bump (rg (fnCluster c) 0x058) 47 0 n).bump (rg (fnCluster c) off) 47 0 n

def State.addHold (s : State) (c : Nat) (w : HoldWhy) : State :=
  let x := s.cluster c
  if x.hold.contains w then s else s.setCluster c { x with hold := x.hold ++ [w] }

def State.dropHold (s : State) (c : Nat) (w : HoldWhy) : State :=
  let x := s.cluster c
  let h := x.hold.filter (· != w)
  s.setCluster c { x with hold := h, holdClk := if h.isEmpty then 0 else x.holdClk }

/-- PLANNED_ENTRY_RELEASE: the next entry of a thread's KIND = 1 stream becomes visible in its planned clk, through the
exchange where XCHEN asks for it, or its absence holds the cluster for this clk. Each missing entry holds the cluster until
it is there; the clk counts at the command of the one that was missing first. -/
def execPlannedEntryRelease (c : ClusterId) (thread : Fin 64) (s : State) : Out :=
  match s.jobOf c with
  | none => .next s
  | some j =>
    let t := s.thread c thread
    match t.running, t.plan with
    | some d, (first, period) :: _ =>
      match s.coreFor j c d.vcore with
      | none => .next s
      | some p =>
        let x := s.cluster c
        let why : HoldWhy := if s.fromPlane j d.rq then .plane thread else .tether thread
        let late := x.hold.filter (· != .throttle)
        let q := (s.core p).v.queue d.sq
        if !d.net ∨ t.stopped ∨ !((s.job j).phase == .span || ((s.job j).phase == .quiesce && t.outbound)) ∨ x.asleep ∨
            x.hold.contains .throttle ∨ (!late.isEmpty && !late.contains why && (x.rx.any (fun e => e.rq == d.rq))) ∨
            (q.credits = 0 && q.depth != 0) then .next s
        else
          let s := s.setCluster c { x with spanClk := max x.spanClk (first + t.planned * period) }
          match x.rx.find? (fun e => e.thread == thread.val && e.rq == d.rq) with
          | none => .next (if (late ++ [why]).head? = some why then (s.addHold c why).countHold c 1 else s.addHold c why)
          | some e =>
            let s := s.dropHold c why
            let s := s.setCluster c { s.cluster c with rx := x.rx.erase e }
            let s := s.setRxBytes c (x.rxBytes - beats256 e.data.length)
            let s := s.setV p ((s.core p).v.setQueue d.sq { q with credits := q.credits - 1, begun := q.begun + 1 })
            let n := min e.data.length q.entry
            let (t, bs) := t.exchange d ((e.data.take n).zip ((e.poison ++ List.replicate n false).take n))
            let s := s.fillQueue p d.sq bs
            let t := { t with planned := t.planned + 1, done := t.done + q.entry }
            let s := if d.xch ∧ t.done < d.total then s else s.padQueue p d.sq
            .next (s.setThread c thread (if d.total ≤ t.done then t.finish else t))
    | _, _ => .next s

/-- HOLDLIMIT in force (R292), in clk of the nominal cclk, 1,000 to a µs (R13). -/
def State.holdLimit (s : State) (c : Nat) : Nat :=
  let n := (s.force (rg (fnCluster c) 0x100)).toNat % 2 ^ 32
  1000 * (if n = 0 then 10000 else n)

/-- HOLD_TIMEOUT (R284). -/
def execHoldTimeout (c : ClusterId) (s : State) : Out :=
  let x := s.cluster c
  match s.jobOf c with
  | none => .next s
  | some j =>
    if x.hold.isEmpty ∨ x.holdClk ≤ s.holdLimit c then .next s
    else .next (s.reportStop 0x24 (fnCluster c) j { unit := c, d0 := x.holdClk / 1000 })

end Sys2Proof.Machine
end

