-- ==== Sys2Proof/Machine/Load.lean ====
section
/-! DEFINITION. Programs: the load checks (R62, R153, R174, R243, R267, R269, R275, R276, R280, R526), the bind checks
(R268, R272), swaps of context images (R273), binding and the loads of a splice (R208, R246, R276). -/

namespace Sys2Proof.Machine

/-! Load checks: each answers the image offset of the first failing field (Table 13.13). -/

/-- Offsets with what must hold of them, in the order checked. -/
def firstBad (l : List (Nat × Bool)) : Option Nat := (l.find? (fun c => !c.2)).map (·.1)

def headerBad (b : List Byte) : Option Nat :=
  let h := headerOf b
  let fits (off n size : Nat) : Bool := n == 0 || off + n * size ≤ b.length
  firstBad [
    (b.length, 96 ≤ b.length), (0x00, fieldLE b 0 4 == 0x4750565A), (0x04, fieldLE b 4 1 == 0), (0x05, fieldLE b 5 1 == 1),
    (0x08, fieldLE b 8 4 == 96), (0x0C, 1 ≤ h.nvcl && h.nvcl ≤ 32), (0x0D, 1 ≤ h.vpc && h.vpc ≤ 9), (0x0E, h.nslot ≤ 511),
    (0x10, 1 ≤ h.lranks && h.lranks ≤ 1048576), (0x14, 1 ≤ h.nsplice && h.nsplice ≤ 65536),
    (0x18, fits h.spltab h.nsplice 64), (0x20, fits h.codetab (h.nvcl * h.vpc) 16), (0x28, fits h.desctab h.ndesc 64),
    (0x38, fits h.strtab h.nstream 64), (0x40, fits h.qrtab h.nqrec 8), (0x54, 1 ≤ h.threads && h.threads ≤ 64)]

/-- R153 and Table 6.1 for one slot word. -/
def slotLoads (slot : Nat) (w : W64) (len nsplice : Nat) : Bool :=
  let op := opcode w
  let rows : Bool := 1 ≤ sf w 31 24 && sf w 31 24 ≤ 128 && sf w 23 17 + sf w 31 24 ≤ 128
  let accRows : Bool := 1 ≤ sf w 30 23 && sf w 30 23 ≤ 128 && sf w 22 16 + sf w 30 23 ≤ 128
  let ncol (n : Nat) : Bool := 1 ≤ n && n ≤ 64
  op == 0 || (assigned slot op &&
    (match slot with
    | 0 =>
      (op != 0x02 || sf w 31 26 ≤ 0x11) && (!(3 ≤ op && op ≤ 7) || sf w 20 8 < len) && (op != 0x0C || sf w 31 16 < nsplice)
    | 1 =>
      (match op with
      | 0x01 | 0x02 => ncol (sf w 21 15)
      | 0x03 | 0x08 => sf w 11 8 != 0
      | 0x04 => sf w 11 8 != 0 && rows && sf w 39 32 ≤ 128
      | 0x05 | 0x06 => accRows && ncol (sf w 37 31)
      | _ => sf w 15 8 != 0)
    | 2 => op < 0x10 || vFields w
    | _ =>
      (match op with
      | 0x03 => (List.range 5).all (fun k => (List.range 5).any (fun d => bits (sf w 42 28) (3 * d + 2) (3 * d) == k))
      | 0x04 => 8 ≤ sf w 11 8
      | 0x05 => sf w 11 8 < 8
      | _ => true)))

/-- The register that a slot word writes, for the check of R153; g0 does not count. -/
def slotDest (slot : Nat) (w : W64) : List Reg :=
  let op := opcode w
  let l : List Reg := match slot with
    | 0 =>
      (match op with
      | 0x01 | 0x02 | 0x0D | 0x0F | 0x10 => [if sf w 13 13 = 1 then .a (sf w 12 8) else .g (sf w 12 8)]
      | 0x03 | 0x04 => [.lc (sf w 23 21)]
      | _ => [])
    | 1 => []
    | 2 => if op = 0x34 then [.key (sf w 9 8)] else if op = 0 ∨ op = 0x02 then [] else [.v (sf w 12 8)]
    | _ => if op = 0x09 then [.g (sf w 21 17)] else if op = 0x05 then [.desc (sf w 16 12)] else []
  l.filter (· != .g 0)

/-- The first failing slot of a bundle whose words lie at offset o. -/
def bundleBad (b : List Byte) (o len nsplice : Nat) : Option Nat :=
  let w (k : Nat) : W64 := BitVec.ofNat 64 (fieldLE b (o + 8 * k) 8)
  slotsN.findSome? (fun k =>
    let twice := (slotDest k (w k)).any (fun r => (List.range k).any (fun m => (slotDest m (w m)).contains r))
    if !slotLoads k (w k) len nsplice || twice then some (o + 8 * k) else none)

/-- The code of every virtual core. -/
def codeBad (b : List Byte) (h : Header) : Option Nat :=
  (List.range (h.nvcl * h.vpc)).findSome? (fun v =>
    let (o, len) := codeOf b h v
    let e := h.codetab + 16 * v
    if 8192 < len then some (e + 8)
    else if b.length < o + 32 * len then some e
    else (List.range len).findSome? (fun n => bundleBad b (o + 32 * n) len h.nsplice))

/-- Stream record i of the stream table. -/
def streamRec (b : List Byte) (h : Header) (i : Nat) : BitVec 512 := BitVec.ofNat 512 (fieldLE b (h.strtab + 64 * i) 64)

def streamsBad (b : List Byte) (h : Header) : Option Nat :=
  (List.range h.nstream).findSome? (fun i =>
    if h.vpc ≤ (sdOf (streamRec b h i)).vcore then some (h.strtab + 64 * i + 0x30) else none)

/-- Bits that Table 8.13 gives as zero. -/
def recZero (r : Nat) : Bool := bits r 63 55 == 0 && bits r 47 47 == 0 && bits r 31 21 == 0

/-- The queue records of one virtual core overlap nothing of each other and lie in the scratchpad. -/
def queuesBad (b : List Byte) (h : Header) : Option Nat :=
  (List.range h.nqrec).findSome? (fun i =>
    let r := queueRec b h i
    let stop (r : Nat) : Nat := recArea r + recEntry r * recDepth r
    let mates := (List.range (i % 16)).map (fun k => queueRec b h (i - i % 16 + k))
    let clash := mates.any (fun q => recDepth q != 0 && recArea r < stop q && recArea q < stop r)
    if !recZero r || 64 < recDepth r || recArea r % 32 != 0 || (recDepth r != 0 && (0x200000 < stop r || clash)) then
      some (h.qrtab + 8 * i)
    else none)

/-- First stream record and count that entry x gives thread t of virtual cluster i. -/
def dirEntry (b : List Byte) (x : Splice) (i t : Nat) : Nat × Nat :=
  let o := x.strdir + 8 * (64 * i + t)
  (fieldLE b o 4, fieldLE b (o + 4) 2)

/-- The stream records of a thread in a span. -/
def threadList (b : List Byte) (h : Header) (x : Splice) (i t : Nat) : List (BitVec 512) :=
  let (f, n) := dirEntry b x i t
  (List.range n).map (fun k => streamRec b h (f + k))

/-- KIND = 1 streams of a thread's list. -/
def netCount (l : List (BitVec 512)) : Nat := (l.filter (fun r => (sdOf r).net)).length

/-- KIND = 1 streams of entry x that stand before thread t of virtual cluster i, in directory order (R280). -/
def netBefore (b : List Byte) (h : Header) (x : Splice) (i t : Nat) : Nat :=
  ((List.range (64 * i + t)).map (fun k => netCount (threadList b h x (k / 64) (k % 64)))).foldl (· + ·) 0

def netTotal (b : List Byte) (h : Header) (x : Splice) : Nat := netBefore b h x h.nvcl 0

/-- One splice-table entry. -/
def spliceBad (b : List Byte) (h : Header) (n : Nat) : Option Nat :=
  let x := spliceOf b h n
  let e := h.spltab + 64 * n
  let first := firstBad [
    (e + 0x02, n != 0 || x.dset == 0), (e + 0x10, x.ndrain == 0 || x.drain + 2 * x.ndrain ≤ b.length),
    (e + 0x18, x.strdir + 512 * h.nvcl ≤ b.length)]
  match first with
  | some o => some o
  | none =>
    let slots := (List.range x.ndrain).map (fun k =>
      let r := fieldLE b (x.drain + 2 * k) 2
      (x.drain + 2 * k, decide (1 ≤ r ∧ r ≤ h.nslot)))
    let dir := (List.range (64 * h.nvcl)).map (fun k =>
      let (f, c) := dirEntry b x (k / 64) (k % 64)
      (x.strdir + 8 * k, decide (f + c ≤ h.nstream) && (x.tied || netCount (threadList b h x (k / 64) (k % 64)) == 0)))
    let used := (List.range h.nvcl).map (fun i =>
      (0x54, decide (((List.range 64).filter (fun t => (dirEntry b x i t).2 != 0)).length ≤ h.threads)))
    match firstBad (slots ++ dir ++ used) with
    | some o => some o
    | none =>
      let k := netTotal b h x
      if k = 0 then none
      else if x.rplan < 96 ∨ b.length < x.rplan + 8 * k then some (e + 0x20)
      else firstBad ((List.range k).map (fun j => (x.rplan + 8 * j + 4, fieldLE b (x.rplan + 8 * j + 4) 4 != 0)))

/-- The load checks of a program image. -/
def progBad (b : List Byte) : Option Nat :=
  match headerBad b with
  | some o => some o
  | none =>
    let h := headerOf b
    match codeBad b h with
    | some o => some o
    | none =>
      match streamsBad b h with
      | some o => some o
      | none =>
        match queuesBad b h with
        | some o => some o
        | none => (List.range h.nsplice).findSome? (spliceBad b h)

/-! Bind checks (R268). -/

/-- The clusters that virtual clusters 0, 1, ... of a program with header h take. -/
def State.takes (s : State) (j : Nat) (h : Header) : List Nat := (s.openClusters j).take h.nvcl

/-- Code of BINDFAULT if image b cannot be bound to job j. A tied span asks every cluster of the job that is not fenced for VPC
enabled cores (R275; log entry 11). -/
def State.bindBad (s : State) (j : Nat) (b : List Byte) : Option Nat :=
  let h := headerOf b
  if (s.openClusters j).length < h.nvcl then some 0x10
  else if s.ledgerCount j < h.nslot then some 0x11
  else if 2097152 < h.scratch ∨ 65536 < h.mbxuse then some 0x12
  else if (List.range 64).any (fun q => h.nqmask.testBit q && s.nqJob q != j) then some 0x13
  else if (List.range h.nsplice).any (fun n => (spliceOf b h n).tied) &&
      (s.openClusters j).any (fun c => decide ((s.enabledCores c).length < h.vpc)) then some 0x15
  else none

/-! Context images and swaps (R273). -/

def State.context (s : State) (j vc : Nat) : Option Context := tget noCtx (s.job j).contexts vc
def State.setContext (s : State) (j vc : Nat) (x : Option Context) : State :=
  s.setJob j { s.job j with contexts := tput noCtx (s.job j).contexts vc x }

/-- Bytes and marks of a scratchpad, counted from its start. -/
def State.scratchImage (s : State) (p : Nat) : Mem × List Nat :=
  let w := window p
  ((s.mem.filter (fun e => w ≤ e.1 && e.1 < w + 0x200000)).map (fun e => (e.1 - w, e.2)),
    (s.poison.filter (fun a => w ≤ a && a < w + 0x200000)).map (· - w))

def State.setScratch (s : State) (p : Nat) (m : Mem) (q : List Nat) : State :=
  let w := window p
  let mem := m.foldl (fun t e => Mem.setByte t (w + e.1) e.2) (tclear s.mem w 0x200000)
  let poison := q.foldl (fun l a => sins (w + a) l) (s.poison.filter (fun a => !(w ≤ a && a < w + 0x200000)))
  { s with mem, poison, upset := tclear s.upset w 0x200000 }

/-- Length of a context image, and where that of virtual core vc lies: the place of its local number in the context area of
its virtual cluster (R273, R274; log entry 11). -/
def imageLen : Nat := 0x2C0000
def State.imageAt (s : State) (j vc : Nat) : Nat :=
  let vpc := max 1 (s.header j).vpc
  s.jobField j 24 8 + 0x18C0000 * (vc / vpc) + imageLen * (vc % vpc)

/-- An image is written: its scratchpad bytes m lie in HBM, every granule has fresh check bits, and an injection that waits
for one of them applies (R259, R528). -/
def State.writeImage (s : State) (a : Nat) (m : Mem) : State :=
  let mem := m.foldl (fun t e => Mem.setByte t (a + e.1) e.2) (tclear s.mem a imageLen)
  let s := { s with mem, poison := s.poison.filter (fun g => !(a ≤ g && g < a + imageLen)), upset := tclear s.upset a imageLen }
  match tget noInject s.hbm.armed (a / 0x2000000000) with
  | none => s
  | some i =>
    let g := stackBase a + i.granule
    if a ≤ g ∧ g < a + imageLen then s.sealGranule g false else s

/-- An uncorrectable granule of an image poisons the elements that it held, o its offset: the sections in R273's order, of
each its elements in the order of their numbers; what has no mark of its own stays (log entry 11). -/
def Context.lose (x : Context) (o : Nat) : Context :=
  let v := x.v
  if o < 0x200000 then { x with poison := markBytes x.poison o 64 true }
  else if o < 0x280000 then
    { x with v := { v with acc := (List.range 8).foldl (fun t k =>
        let e := (o - 0x200000) / 8 + k
        tput pair0 t e { tget pair0 t e with poison := true }) v.acc } }
  else if o < 0x2A0000 then
    let r := (o - 0x280000) / 0x4000
    let d := (o - 0x280000) % 0x4000
    match tget wt0 v.wt r with
    | none => x
    | some t =>
      let held : List Nat := if d < 0x2000 then (List.range 32).map (d / 2 + ·)
        else if t.bs = 0 then []
        else (List.range (64 * t.bs)).map ((d - 0x2000) / 64 * 64 * t.bs + ·)
      { x with v := { v with wt := tput wt0 v.wt r (some { t with poison := (held.filter (· < 4096)).foldl (fun l k => sins k l) t.poison }) } }
  else if o < 0x2A8000 then
    { x with v := { v with v := (List.range 16).foldl (fun t k =>
        let e := (o - 0x2A0000) / 4 + k
        if e < 4096 then tput lane0 t e ⟨0, true⟩ else t) v.v } }
  else if o = 0x2A8000 then
    { x with v := { v with sk := (List.range 4).foldl (fun t k => tput key0 t k { tget key0 t k with poison := true }) v.sk } }
  else x

/-- The image at a is read: what its granules' errors leave of it. -/
def State.readImage (s : State) (a : Nat) (x : Context) : State × Context :=
  let inArea (g : Nat) : Bool := a ≤ g && g < a + imageLen
  let hit := (s.poison.filter inArea).foldl (fun l g => sins g l) ((s.upset.map (·.1)).filter inArea)
  hit.foldl (fun (s, x) g =>
    let (s, bad) := s.readGranule g
    (s, if bad then x.lose (g - a) else x)) (s, x)

/-- Core p saves its virtual core, whose errors the reads find, and has none. -/
def State.saveCore (s : State) (p : Nat) : State :=
  match (s.core p).bound with
  | none => s
  | some (j, vc) =>
    let s := s.readScratch p ⟨0, 0x200000⟩
    let s := (List.range 8).foldl (fun s k => s.readAcc p k 0 128 64) s
    let (m, q) := s.scratchImage p
    let c := s.core p
    ((s.writeImage (s.imageAt j vc) m).setContext j vc (some ⟨c.v, q⟩)).setCore p
      { c with bound := none, v := vcore0, ib := none, fly := [], upset := [] }

/-- The code of virtual core vc goes from the image in HBM to core p's bundle memory; a word that HBM cannot give
right is uncorrectable there. -/
def State.loadCode (s : State) (j vc p : Nat) : State :=
  match (s.job j).prog with
  | none => s
  | some g =>
    let (o, n) := codeOf g.image (headerOf g.image) vc
    let (s, bs) := s.readHbm (g.addr + o) (32 * n)
    let a := bundleMem p
    let bad := (List.range (4 * n)).filter (fun k => ((bs.drop (8 * k)).take 8).any (·.2))
    { s with mem := s.mem.store a (bs.map (·.1))
             upset := bad.foldl (fun u k => tput z0 u (a + 8 * k) 2) (tclear s.upset a 0x40000) }

/-- Core p takes virtual core vc of job j from its image. -/
def State.restoreCore (s : State) (j vc p : Nat) : State :=
  match s.context j vc with
  | none => s
  | some x =>
    let a := s.imageAt j vc
    let (s, x) := s.readImage a x
    let m : Mem := (s.mem.filter (fun e => a ≤ e.1 && e.1 < a + 0x200000)).map (fun e => (e.1 - a, e.2))
    let s := (s.setScratch p m x.poison).setContext j vc none
    let c := s.core p
    (s.setCore p { c with bound := some (j, vc), v := x.v, ib := none, fly := [], upset := [] }).loadCode j vc p

/-- Local virtual core that enabled core i of cluster c runs in round r, if there is one. -/
def State.inRound (s : State) (j c r i : Nat) : Option Nat :=
  let e := (s.cluster c).lanes.length
  match (s.cluster c).vcl with
  | none => none
  | some v =>
    let k := r * e + i
    if k < (s.header j).vpc then some ((s.header j).vpc * v + k) else none

/-- Cluster c goes to round r: each core for which the round has another virtual core swaps, a halted one not being
swapped in; a core for which it has none keeps the one it holds (R286's example). The number of swapping cores counts in
SWAPS and SWAPCLK (R273, R289, R291). -/
def State.toRound (s : State) (j c r : Nat) : State :=
  let moves := ((s.cluster c).lanes.mapIdx (fun i p => (p, s.inRound j c r i))).filter (fun (p, v) =>
    (s.core p).bound.map (·.2) != v &&
      (match v.bind (s.context j) with
       | some x => !x.v.run.isHalted
       | none => false))
  let s := moves.foldl (fun s (p, _) => s.saveCore p) s
  let s := moves.foldl (fun s (p, v) => match v with
    | some vc => s.restoreCore j vc p
    | none => s) s
  let n := moves.length
  let s := s.setCluster c { s.cluster c with round := r }
  if n = 0 then s
  else (s.bump (rg (fnCluster c) 0x078) 63 32 n).bump (rg fnSch 0x030) 47 0 (23552 * n + 400)

/-! Loads (Table 9.4). -/

/-- Records of descriptor set d. -/
def descSet (b : List Byte) (h : Header) (d : Nat) : Tab (BitVec 512) :=
  tputAll td0 [] ((List.range 32).map (fun i =>
    let n := 32 * d + i
    (i, if n < h.ndesc then BitVec.ofNat 512 (fieldLE b (h.desctab + 64 * n) 64) else 0)))

/-- A queue under a new record: empty, with all its credits. -/
def freshQueue (r : Nat) : SQueue :=
  if recDepth r = 0 then sq0 0
  else { sq0 0 with depth := recDepth r, entry := recEntry r, area := recArea r, credits := recDepth r }

/-- Entries that a queue holds. -/
def SQueue.holds (k : Nat) (q : SQueue) : Nat := if k < 8 then q.visible - q.popped else q.out.length

/-- The same queue after a splice: what was not delivered is gone, and popped entries have returned their credits
(R246). -/
def SQueue.settle (k : Nat) (q : SQueue) : SQueue :=
  if 8 ≤ k ∨ q.depth = 0 then q
  else { q with begun := q.visible, fill := 0, held := false, back := [], credits := q.depth - (q.visible - q.popped) }

/-- What has not been delivered is discarded, and returns its slots and credits (R273, R278). -/
def SQueue.undelivered (q : SQueue) : Nat := q.begun - q.visible
def SQueue.discard (q : SQueue) : SQueue := { q with begun := q.visible, fill := 0, credits := q.credits + q.undelivered }

/-- Virtual core v takes queue k's record r; the entries that it discards. -/
def VCore.loadQueue (v : VCore) (k r : Nat) : VCore × Nat :=
  let q := v.queue k
  if q.depth = recDepth r ∧ (q.depth = 0 ∨ (q.entry = recEntry r ∧ q.area = recArea r)) then (v, 0)
  else (v.setQueue k (freshQueue r), q.holds k)

/-- A virtual core's descriptors and queues at a splice under entry x of image b. Entry 0 of a first span loads both. -/
def VCore.load (v : VCore) (b : List Byte) (h : Header) (x : Splice) (vc : Nat) : VCore × List (Nat × Nat) :=
  let v := if x.dset = 0xFFFF then v else { v with td := descSet b h x.dset }
  let v := (List.range 16).foldl (fun v k => v.setQueue k ((v.queue k).settle k)) v
  if x.qset = 0xFFFF then (v, [])
  else (List.range 16).foldl (fun (v, l) k =>
    let (v, n) := v.loadQueue k (queueRec b h (x.qset * (h.nvcl * h.vpc * 16) + 16 * vc + k))
    (v, if n = 0 then l else l ++ [(k, n)])) (v, [])

/-- Entries discarded in a queue of local virtual core k of cluster c: counted and logged (R246). -/
def State.countDiscard (s : State) (j c k q n : Nat) : State :=
  if n = 0 then s
  else (s.bump (rg (fnCluster c) 0x048) 31 0 n).note 0x63 0 (fnCluster c) (some j) { code := 3, unit := 16 * k + q, d0 := n }

/-- Cluster that virtual core vc of job j runs in. -/
def State.clusterFor (s : State) (j vc : Nat) : Option Nat :=
  (s.clustersOf j).find? (fun c => (s.cluster c).vcl == some (vc / max 1 (s.header j).vpc))

/-- Every virtual core of job j is changed by f: those on cores and those in images. -/
def State.onVCores (s : State) (j : Nat) (f : State → Nat → VCore → State × VCore) : State :=
  let s := (s.coresOfJob j).foldl (fun s p => match (s.core p).bound with
    | some (_, vc) =>
      let (s, v) := f s vc (s.core p).v
      s.setV p v
    | none => s) s
  (s.job j).contexts.foldl (fun s e => match e.2 with
    | some x =>
      let (s, v) := f s e.1 x.v
      s.setContext j e.1 (some { x with v := v })
    | none => s) s

/-- Descriptor sets and queue records of entry x reach every virtual core of job j. -/
def State.loadSets (s : State) (j : Nat) (x : Splice) : State :=
  let b := s.image j
  let h := s.header j
  s.onVCores j (fun s vc v =>
    let (v, l) := v.load b h x vc
    (match s.clusterFor j vc with
     | some c => l.foldl (fun s (k, n) => s.countDiscard j c (vc % max 1 h.vpc) k n) s
     | none => s, v))

/-- The stream directory and the receive plan of entry x reach the threads of cluster c. -/
def State.loadStreams (s : State) (j c : Nat) (x : Splice) : State :=
  match (s.cluster c).vcl with
  | none => s
  | some i =>
    let b := s.image j
    let h := s.header j
    let th (t : Nat) : Thread :=
      let l := threadList b h x i t
      let n := if netCount l = 0 then 0 else netBefore b h x i t
      { thread0 t with
        list := l
        plan := (List.range (netCount l)).map (fun k => (fieldLE b (x.rplan + 8 * (n + k)) 4, fieldLE b (x.rplan + 8 * (n + k) + 4) 4)) }
    let k := s.cluster c
    s.setCluster c { k with threads := tputAll thread0 [] ((List.range 64).map (fun t => (t, th t))), robin := 0, ticks := 0, spanClk := 0 }

/-- Registers whose writes wait for a splice at which the core is not bound (R140, R171, R231). -/
def State.latchCore (s : State) (p : Nat) : State :=
  if (s.core p).bound.isSome then s
  else
    let f := fnCore p
    let ks := [rg f 0x108, rg f 0x110, rg f 0x400, rg f 0x408, rg f 0x410, rg f 0x418]
    { s with inForce := ks.foldl (fun t k => tput csrReset t k (s.rd k)) s.inForce }

/-- HOLDLIMIT of a cluster comes in force (R292). -/
def State.latchCluster (s : State) (c : Nat) : State :=
  let k := rg (fnCluster c) 0x100
  { s with inForce := tput csrReset s.inForce k (s.rd k) }

/-- The cores of job j give up their virtual cores without keeping them: their program is replaced. -/
def State.unbind (s : State) (j : Nat) : State :=
  let s := (s.coresOfJob j).foldl (fun s p =>
    s.setCore p { s.core p with bound := none, v := vcore0, ib := none, fly := [], upset := [] }) s
  let s := (s.clustersOf j).foldl (fun s c =>
    s.setCluster c { s.cluster c with vcl := none, lanes := [], threads := [], round := 0, rounds := 1, swapping := false, idleAt := s.clk + 1 }) s
  s.setJob j { s.job j with contexts := [] }

/-- Every cluster's virtual cluster and enabled cores by R272. -/
def State.place (s : State) (j : Nat) : State :=
  let h := s.header j
  (s.takes j h).zipIdx.foldl (fun s (c, i) =>
    let l := s.enabledCores c
    s.setCluster c { s.cluster c with vcl := some i, lanes := l, round := 0, rounds := cdiv h.vpc (max 1 l.length) }) s

/-- The binding of R272 differs from the one in force. -/
def State.moved (s : State) (j : Nat) : Bool :=
  (s.takes j (s.header j)).zipIdx.any (fun (c, i) =>
    (s.cluster c).vcl != some i || (s.cluster c).lanes != s.enabledCores c)

/-- Every virtual core of job j leaves its core, with its image, and round 0 is placed anew: after a fence (R272, R442). -/
def State.rebind (s : State) (j : Nat) : State :=
  let s := (s.coresOfJob j).foldl (fun s p => s.saveCore p) s
  let s := (s.clustersOf j).foldl (fun s c =>
    s.setCluster c { s.cluster c with vcl := none, lanes := [], threads := [] }) s
  let s := s.place j
  (s.boundClusters j).foldl (fun s c =>
    ((s.cluster c).lanes.mapIdx (fun i p => (i, p))).foldl (fun s (i, p) => match s.inRound j c 0 i with
      | some vc => s.restoreCore j vc p
      | none => s) s) s

/-- A program is bound: its virtual cores hold the state of a job's first span (Table 5.8); round 0 starts on the
scratchpads as they are, later rounds on an image of zeros (log entry 11). -/
def State.bindProgram (s : State) (j : Nat) (g : Program) : State :=
  let s := s.unbind j
  let s := s.setJob j { s.job j with prog := some g, pending := none, started := false }
  let h := headerOf g.image
  let s := s.place j
  (s.boundClusters j).foldl (fun s c => match (s.cluster c).vcl with
    | none => s
    | some i => (List.range h.vpc).foldl (fun s k =>
        let vc := h.vpc * i + k
        let v := { vcore0 with codeLen := (codeOf g.image h vc).2 }
        match (s.cluster c).lanes[k]? with
        | some p => (s.setCore p { s.core p with bound := some (j, vc), v := v }).loadCode j vc p
        | none => (s.writeImage (s.imageAt j vc) []).setContext j vc (some ⟨v, []⟩)) s) s

end Sys2Proof.Machine
end

