-- ==== Sys2Proof/Machine/Boot.lean ====
section
/-! DEFINITION. Firmware cores and secure boot (R342, R381, R396 to R420): network boot, the bundle and key images, checks
of images, crashes and restarts, the attestation report. -/

namespace Sys2Proof.Machine

/-! Firmware cores by number (Table 14.1): 0 SEC, 1 PWR, 2 SCH, 3 + c CCC c. -/

def fwNum : FwCore → Nat
  | .sec => 0 | .pwr => 1 | .sch => 2 | .ccc c => 3 + c.val

/-- Core kind of Table 14.2, and function. -/
def fwKind (n : Nat) : Nat := min n 3
def fwFunc (n : Nat) : Nat := if n = 0 then fnSec else if n = 1 then fnPwr else if n = 2 then fnSch else fnCluster (n - 3)

def State.fwUp (s : State) (n : Nat) : Bool := if n < 3 then s.flag (rg fnSec 0x008) n else s.flag (rg fnSec 0x010) (n - 3)

/-- UP of core n, where SEC.CORESTAT or CCCUP and the core's own block report it; a core that goes down is not READY. -/
def State.setFwUp (s : State) (n : Nat) (b : Bool) : State :=
  let s := if n < 3 then s.setFlag (rg fnSec 0x008) n b else s.setFlag (rg fnSec 0x010) (n - 3) b
  if n = 0 then s.setFlag (rg fnSec 0) 0 b
  else if n = 1 then s.setFlag (rg fnPwr 0) 1 b
  else if n = 2 then
    let s := s.setFlag (rg fnSch 0) 1 b
    if b then s else s.setFlag (rg fnSch 0) 0 false
  else s

/-- The ring samples that splices under way had to defer are taken (R46, R414). -/
def State.lateSamples (s : State) : State :=
  (s.definedJobs.filter (fun j => (s.job j).sampleDue)).foldl (fun s j =>
    (s.setJob j { s.job j with sampleDue := false }).sampleRings j) s

/-- SCH.STATUS.READY: the core is UP, the hub memories passed, a braid is in force, and pair 0 can be processed (R492).
In that clk the deferred ring samples are taken, and events that waited reach the ring (R411, R414). -/
def State.refreshSch (s : State) : State :=
  let ok := s.flag (rg fnSch 0) 1 && !s.flag (rg fnBist 0) 2 && s.flag (rg fnChip 0x010) 0 && s.pairServed 0
  let was := s.schReady
  let s := s.setFlag (rg fnSch 0) 0 ok
  if ok && !was then s.lateSamples.drainEvents 257 else s

/-! Boot stages (Table 14.6). -/

def State.stage (s : State) : Nat := s.fld (rg fnSec 0) 11 8
def State.setStage (s : State) (n : Nat) : State := s.setFld (rg fnSec 0) 11 8 n

/-- A field of the accepted bundle's header: 4 patch, 5 minor, 6 major, 7 SVN. -/
def State.bundleByte (s : State) (o : Nat) : Nat := fieldLE s.boot.buffer o 1

/-- The stages from 4 on, as far as the cores that run have brought the boot. -/
def State.refreshStage (s : State) : State :=
  let cccs := (List.range 32).all (fun c => (s.cluster c).fenced || s.fwUp (3 + c))
  let n := if s.stage < 4 ∨ !(s.fwUp 2 && cccs) then s.stage else if s.flag (rg fnChip 0x010) 0 then 6 else max 5 s.stage
  s.setStage n

/-- SCH runs, unless it stays down (R412): CHIP.VERSION reports the firmware. -/
def State.startSch (s : State) : State :=
  if s.boot.dead.contains 2 then s
  else
  let k := rg fnChip 0x008
  let s := s.setFwUp 2 true
  let s := ((s.setFld k 55 48 (s.bundleByte 6)).setFld k 47 40 (s.bundleByte 5)).setFld k 39 32 (s.bundleByte 4)
  s.refreshSch.refreshStage

/-! Network boot (R342). -/

def protoNum : BootProto → Nat
  | .dhcp4 => 0 | .dhcp6 => 1 | .tftp => 2

/-- The pause after a failed attempt: 1 s, then doubling up to 64 s. -/
def State.bootPause (s : State) (k : Nat) : Nat := max 1 (tget z0 s.boot.backoff k)

/-- The next attempt may come after the pause. -/
def State.bootBackoff (s : State) (k : Nat) : State :=
  let p := s.bootPause k
  { s with boot := { s.boot with
    tries := tput z0 s.boot.tries k 0, nextTry := tput z0 s.boot.nextTry k (s.clk + p * 1000000000)
    backoff := tput z0 s.boot.backoff k (min 64 (2 * p)) } }

/-- A failed attempt is logged: 1 DHCP, 2 TFTP. -/
def State.bootFailed (s : State) (k : Nat) : State :=
  (s.bootBackoff k).note 0x64 2 fnMgmt none { code := if k = 2 then 2 else 1, unit := 8 }

/-- "Dernen-ZV1", "tftp://", ".braid". -/
def vendorClass : List Byte := [0x44, 0x65, 0x72, 0x6E, 0x65, 0x6E, 0x2D, 0x5A, 0x56, 0x31]
def tftpScheme : List Byte := [0x74, 0x66, 0x74, 0x70, 0x3A, 0x2F, 0x2F]
def braidSuffix : List Byte := [0x2E, 0x62, 0x72, 0x61, 0x69, 0x64]

/-- An attempt puts its request on MGMT: DHCP with the vendor class, TFTP for a file with block size 8,192 and transfer size. -/
def State.bootAsk (s : State) (k : Nat) (file : List Byte) : State :=
  let server := if k = 2 then (s.boot.lease.map (·.server)).getD [] else []
  { s with boot := { s.boot with
    tries := tput z0 s.boot.tries k (s.clk + 1)
    ask := some ⟨k, if k = 2 then [] else vendorClass, server, file, if k = 2 then 8192 else 0⟩ } }

/-- An attempt has its answer. -/
def State.bootDone (s : State) (k : Nat) : State :=
  { s with boot := { s.boot with backoff := tput z0 s.boot.backoff k 0, tries := tput z0 s.boot.tries k 0 } }

/-- MGMT has an address. -/
def State.takeLease (s : State) (k : Nat) (l : Lease) : State :=
  let s := (s.bootDone k).setFlag (rg fnMgmt 0) 2 true
  { s with boot := if k = 0 then { s.boot with lease4 := some l } else { s.boot with lease6 := some l } }

/-- The boot file arrives, in blocks of the size that the server accepted, 512 without. -/
def State.takeFile (s : State) (blksize tsize : Option Nat) : State :=
  let s := s.bootDone 2
  let s := { s with boot := { s.boot with fetched := true, blksize := min 8192 (blksize.getD 512), tsize } }
  if s.stage = 1 then s.setStage 2 else s

/-- A file to fetch, and protocol k not done: DHCP until it has given a lease, TFTP once one of them has. -/
def State.bootWants (s : State) (k : Nat) : Bool :=
  (s.stage == 1 || s.boot.refetch) && s.flag (rg fnMgmt 0) 0 && tget z0 s.boot.tries k == 0 && decide (tget z0 s.boot.nextTry k ≤ s.clk) &&
    (if k = 0 then s.boot.lease4.isNone else if k = 1 then s.boot.lease6.isNone else s.boot.lease.isSome && !s.boot.fetched)

/-- NETBOOT_ATTEMPT: DHCPv4 and DHCPv6 in parallel, then TFTP of the boot file, whose bytes BUNDLE_ACCEPT judges. A boot-file
URL must be a tftp one. Without an answer the attempt goes on. -/
def execNetbootAttempt (proto : BootProto) (answer : Option BootAnswer) (s : State) : Out :=
  let k := protoNum proto
  if !s.bootWants k then .next s
  else
    let s := s.bootAsk k (if k = 2 then (s.boot.lease.map (·.file)).getD [] else [])
    match proto, answer with
    | .dhcp4, some (.lease4 a server file braid) =>
      .next (s.takeLease 0 ⟨BitVec.ofNat 128 (0xFFFF00000000 + a.toNat), server, file, braid⟩)
    | .dhcp6, some (.lease6 a url braid) => .next (if tftpScheme.isPrefixOf url then s.takeLease 1 ⟨a, [], url, braid⟩ else s.bootFailed 1)
    | .tftp, some (.file blk size) => .next (s.takeFile blk size)
    | _, _ => .next s

/-- NETBOOT_TIMEOUT: after 4 s. -/
def execNetbootTimeout (proto : BootProto) (s : State) : Out :=
  let k := protoNum proto
  let t := tget z0 s.boot.tries k
  if t = 0 ∨ s.clk < t - 1 + 4000000000 then .next s else .next (s.bootFailed k)

/-! Refusals of images (R403). -/

/-- SEC.LASTREFUSE and report 0x61. -/
def State.refuseImage (s : State) (kind code detail : Nat) : State :=
  let k := rg fnSec 0x038
  ((s.setFld k 15 8 kind).setFld k 7 0 code).report 0x61 2 fnSec none { code, unit := kind, d0 := detail }

/-- DETAIL of a failing field: record number and image offset (R380). -/
def detailOf (rec_ off : Nat) : Nat := rec_ % 2 ^ 32 * 2 ^ 32 + off

/-! The firmware bundle (R398, R399). -/

/-- Segment k: core kind, offset, length. -/
def segOf (b : List Byte) (k : Nat) : Nat × Nat × Nat :=
  (fieldLE b (0x20 + 32 * k) 1, fieldLE b (0x28 + 32 * k) 8, fieldLE b (0x30 + 32 * k) 8)

/-- Offset of the first header field that R398 forbids. -/
def bundleHeaderBad (b : List Byte) : Option Nat :=
  let n := fieldLE b 0x10 8
  firstBad ([(0, fieldLE b 0 4 == 0x4657565A), (7, fieldLE b 7 1 ≤ 64), (8, fieldLE b 8 4 == 4), (0x0C, fieldLE b 0x0C 4 == 0),
    (0x10, 0xA0 ≤ n && n + 5424 ≤ 0x800000 && b.length == n + 5424 &&
      n == (List.range 4).foldl (fun m k => max m ((segOf b k).2.1 + (segOf b k).2.2)) 0), (0x18, fieldLE b 0x18 8 == 0)] ++
    (List.range 4).flatMap (fun k =>
      let (kind, off, len) := segOf b k
      let before := (List.range k).map (segOf b)
      let e := 0x20 + 32 * k
      [(e, kind < 4 && before.all (fun x => x.1 != kind)), (e + 1, fieldLE b (e + 1) 7 == 0),
        (e + 8, 0xA0 ≤ off && off + len ≤ n && before.all (fun x => x.2.1 + x.2.2 ≤ off || off + len ≤ x.2.1)),
        (e + 16, len ≤ 0x200000), (e + 24, fieldLE b (e + 24) 8 == 0)]))

/-- The first check that a bundle fails: code and DETAIL. -/
def State.bundleBad (s : State) (b : List Byte) : Option (Nat × Nat) :=
  match s.signBad 1 b (fieldLE b 0x10 8) with
  | some (c, o) => some (c, detailOf 0xFFFFFFFF o)
  | none =>
    match bundleHeaderBad b with
    | some o => some (0x01, detailOf 0 o)
    | none => if fieldLE b 7 1 < s.boot.fuses.rollback then some (0x08, detailOf 0 7) else none

/-! Key images (R406, R407). -/

/-- Some slot of a range is valid. -/
def State.anySlot (s : State) (lo hi : Nat) : Bool := (List.range 16).any (fun k => lo ≤ k && k < hi && s.slotValid k)

/-- The operation at offset o may be performed under signing slot k (Table 14.5). -/
def State.keyOpOk (s : State) (b : List Byte) (k o : Nat) : Bool :=
  let op := fieldLE b o 1
  let arg := fieldLE b (o + 1) 1
  let zero := fieldLE b (o + 2) 14 == 0
  let plain := fieldLE b (o + 16) 48 == 0
  zero && (match op with
  | 1 => 8 ≤ arg && arg < 16 && s.slotDigest arg == 0 && (8 ≤ k || !s.anySlot 8 16)
  | 2 =>
    plain && (if arg < 8 then k < 8 && (List.range 8).any (fun i => i != arg && s.slotValid i)
      else arg < 16 && s.slotDigest arg != 0 && 8 ≤ k)
  | 3 => plain && decide (s.boot.fuses.rollback ≤ arg ∧ arg ≤ s.bundleByte 7) && 8 ≤ k
  | _ => false)

def ownerBits (s : State) : Nat := (List.range 8).foldl (fun n i => n + if s.slotDigest (8 + i) = 0 then 0 else 2 ^ i) 0

/-- The first check that a key image fails: code and DETAIL. -/
def State.keyBad (s : State) (b : List Byte) : Option (Nat × Nat) :=
  let nops := fieldLE b 4 1
  let n := 32 + 64 * nops
  match s.signBad 3 b n with
  | some (c, o) => some (c, detailOf 0xFFFFFFFF o)
  | none =>
    let head := firstBad [(0, fieldLE b 0 4 == 0x594B565A), (4, 1 ≤ nops && nops ≤ 16), (0x11, fieldLE b 0x11 15 == 0)]
    match head with
    | some o => some (0x01, detailOf 0 o)
    | none =>
      let f := s.boot.fuses
      if fieldLE b 8 8 = 0 ∨ fieldLE b 8 8 ≠ f.uid.toNat then some (0x09, detailOf 0 8)
      else if fieldLE b 5 1 ≠ f.rollback then some (0x0A, detailOf 0 5)
      else if fieldLE b 6 2 ≠ f.revoke.toNat then some (0x0A, detailOf 0 6)
      else if fieldLE b 0x10 1 ≠ ownerBits s then some (0x0A, detailOf 0 0x10)
      else ((List.range nops).find? (fun i => !s.keyOpOk b (fieldLE b (n + 5) 1) (32 + 64 * i))).map (fun i => (0x0B, detailOf 0 (32 + 64 * i)))

/-- One operation programs fuses; a fuse goes only from 0 to 1. -/
def Fuses.op (f : Fuses) (op arg : Nat) (d : Digest) : Fuses :=
  if op = 1 then { f with owner := tput z384 f.owner arg (tget z384 f.owner arg ||| d) }
  else if op = 2 then { f with revoke := f.revoke ||| (1 <<< arg) }
  else { f with rollback := max f.rollback arg }

/-- KEY_IMAGE_APPLY: an image that checks programs its operations in order; another is refused. -/
def State.applyKeyImage (s : State) (b : List Byte) : State :=
  match s.keyBad b with
  | some (c, d) => s.refuseImage 3 c d
  | none =>
    let f := (List.range (fieldLE b 4 1)).foldl (fun f i =>
      let o := 32 + 64 * i
      Fuses.op f (fieldLE b o 1) (fieldLE b (o + 1) 1) (BitVec.ofNat 384 (fieldLE b (o + 16) 48))) s.boot.fuses
    { s with boot := { s.boot with fuses := f } }

/-- Key images back to back: n at most. -/
def State.applyKeys (s : State) : Nat → List Byte → State
  | 0, _ => s
  | n + 1, b =>
    if b.isEmpty then s
    else
      let len := 32 + 64 * fieldLE b 4 1 + 5424
      (s.applyKeyImage (b.take len)).applyKeys n (b.drop len)

/-! Acceptance. -/

/-- PMBus rails in the order in which they are switched on (Table 17.8). -/
def railOrder : List Nat := [5, 11, 12, 4, 0, 1, 2, 3, 10, 8, 9]

/-- Rails are sequenced anew: every one off in reverse order, then on (R510). -/
def State.startRails (s : State) : State :=
  { s with power := { s.power with offs := railOrder.reverse, ons := railOrder } }

/-- PWR firmware runs: boot stage 4. -/
def State.startPwr (s : State) : State := ((s.setFwUp 1 true).setStage 4).startRails

/-- BUNDLE_ACCEPT: the fetched file is checked; an accepted bundle is measured and held, the key images of the second file
are applied, and SEC and PWR firmware run. A bundle that comes because the boot buffer failed must be the measured one. -/
def execBundleAccept (file : List Byte) (keys : Option (List Byte)) (s : State) : Out :=
  if !s.boot.fetched then .next s
  else
    let s := { s with boot := { s.boot with fetched := false } }
    let d := sha384 (file.take (fieldLE file 0x10 8))
    match s.bundleBad file with
    | some (c, o) =>
      let s := (s.refuseImage 1 c o).bootBackoff 2
      .next (if s.stage = 2 then s.setStage 1 else s)
    | none =>
      if s.boot.refetch then
        if d ≠ s.boot.mfw then .next ((s.refuseImage 1 0x02 (detailOf 0xFFFFFFFF (fieldLE file 0x10 8 + 0x10))).bootBackoff 2)
        else .next { s with boot := { s.boot with buffer := file, refetch := false } }
      else
        let s := { s with boot := { s.boot with buffer := file, mfw := d } }
        let s := match keys with
          | some b => s.applyKeys (b.length + 1) b
          | none => s
        .next ((s.setStage 3).setFwUp 0 true).startPwr

/-! Braid images (R381, R382, R404). -/

def State.setBraidPending (s : State) (b : Bool) : State := s.setFlag (rg fnChip 0x010) 1 b

/-- SEC checks the pending braid: an accepted one is loaded once the running jobs have stopped; a refused one completes its
LOADBRAID with BRAID, or is fetched again after 64 s. -/
def State.checkBraid (s : State) (p : PendBraid) : State :=
  match s.braidBad p.image with
  | none => { s with cmds := { s.cmds with braid := some { p with checked := true } } }
  | some (c, r, o) =>
    let s := s.refuseImage 2 c (detailOf r o)
    let s := { s with cmds := { s.cmds with braid := none } }
    if p.cmd then (s.setBraidPending false).finish 0 0x06 0x08 p.seq p.id (s.refusal (detailOf r o))
    else { s with boot := { s.boot with retryAt := s.clk + 64000000000 } }

/-- A braid image reaches SCH: checked at once, or held until SEC is READY. -/
def State.takeBraid (s : State) (p : PendBraid) : State :=
  let s := { s with cmds := { s.cmds with braid := some p } }
  if s.secReady && s.boot.images.all (· == (.braid, p.image)) then
    { s with boot := { s.boot with images := [] } }.checkBraid p
  else if s.boot.images.contains (.braid, p.image) then s
  else { s with boot := { s.boot with images := s.boot.images ++ [(.braid, p.image)] } }

/-- The file name of the first braid: that of DHCPv4, else of DHCPv6, else the boot file's with ".braid" (R381). -/
def Boot.braidName (b : Boot) : List Byte :=
  match b.lease4.bind (·.braid), b.lease6.bind (·.braid) with
  | some n, _ => n
  | none, some n => n
  | none, none => (b.lease.map (·.file)).getD [] ++ braidSuffix

/-- BRAID_FETCH of the first braid, once SCH is UP and the hub memories have passed. Without an answer the attempt failed. -/
def execBraidFetch (file : Option (List Byte)) (s : State) : Out :=
  if !s.fwUp 2 ∨ s.flag (rg fnBist 0) 2 ∨ s.flag (rg fnChip 0x010) 0 ∨ s.cmds.braid.isSome ∨ s.clk < s.boot.retryAt ∨
      s.clk < tget z0 s.boot.nextTry 2 ∨ !s.flag (rg fnMgmt 0) 2 then .next s
  else
    let s := s.bootAsk 2 s.boot.braidName
    match file with
    | none => .next (s.bootFailed 2)
    | some b => .next ((s.bootDone 2).takeBraid ⟨0, 0, b, false, false⟩)

/-- An image on its own is checked: nothing changes but the records of a refusal. -/
def State.checkImage (s : State) (kind : ImageKind) (image : List Byte) : State :=
  let (k, bad) : Nat × Option (Nat × Nat) := match kind with
    | .bundle => (1, s.bundleBad image)
    | .braid => (2, (s.braidBad image).map (fun (c, r, o) => (c, detailOf r o)))
    | .key => (3, s.keyBad image)
  match bad with
  | some (c, d) => s.refuseImage k c d
  | none => s

/-- IMAGE_CHECK: the image that waits longest, a braid's once SCH can act on the answer (R413); one that reaches SEC while
another waits, or while SEC does not run, waits behind it (R404). The image of a LOADBRAID that is still unprocessed is checked
when that is. -/
def execImageCheck (kind : ImageKind) (image : List Byte) (s : State) : Out :=
  let wait : State := { s with boot := { s.boot with images := s.boot.images ++ [(kind, image)] } }
  match s.boot.images with
  | [] => .next (if s.secReady then s.checkImage kind image else wait)
  | e :: rest =>
    if e ≠ (kind, image) then .next wait
    else if !s.secReady then .next s
    else
      let t := { s with boot := { s.boot with images := rest } }
      match s.cmds.braid with
      | some p =>
        if p.image = image ∧ kind = .braid ∧ !p.checked then .next (if s.fwUp 2 then t.checkBraid p else s)
        else .next (t.checkImage kind image)
      | none => .next (if kind = .braid ∧ s.flag (rg fnChip 0x010) 1 then s else t.checkImage kind image)

/-! Crashes and restarts (R410 to R414). -/

def crashNum : CrashCause → Nat
  | .exception => 1 | .memory => 2 | .watchdog => 3

/-- Crashes of core n within 60 s of now, with this one. -/
def State.recentCrashes (s : State) (n : Nat) : List Nat :=
  (tget noTimes s.boot.crashes n).filter (fun t => s.clk < t + 60000000000)

/-- Entry 0x60 and event 0x03: every crash writes them, once the restart time that they carry is known, or with 0 at the
crash where no restart comes (log entry 57). -/
def State.crashNote (s : State) (n cause us : Nat) : State :=
  let s := s.report 0x60 2 (fwFunc n) none { code := cause, unit := fwKind n, d0 := us }
  s.event 0x03 (fwFunc n) none
    (leBytes (fwKind n) 1 ++ leBytes cause 1 ++ leBytes (tget noTimes s.boot.crashes n).length 1 ++ [0] ++ leBytes us 4)

/-- Core n crashes: it waits for its restart, or with the eighth crash in 60 s stays down; a cluster without its CCC is
fenced, and the job that holds it stops (R412). -/
def State.fwCrash (s : State) (n cause : Nat) : State :=
  let l := s.recentCrashes n ++ [s.clk]
  let s := { s with boot := { s.boot with crashes := tput noTimes s.boot.crashes n l } }.setFwUp n false
  if l.length < 8 then
    let s := { s with boot := { s.boot with waiting := s.boot.waiting ++ [(n, cause, s.clk)] } }
    if s.boot.dead.contains 0 then s.crashNote n cause 0 else s
  else
    let s := { s with boot := { s.boot with dead := sins n s.boot.dead } }.crashNote n cause 0
    if n = 0 then s.boot.waiting.foldl (fun s w => s.crashNote w.1 w.2.1 0) s
    else if n < 3 then s
    else
      let s := s.fenceCluster (n - 3) 0x60
      match s.jobOf (n - 3) with
      | some j => if s.jobDefined j then s.reportStop 0x60 (fnCluster (n - 3)) j { code := cause, unit := 3 } else s
      | none => s

/-- FIRMWARE_CRASH. -/
def execFirmwareCrash (core : FwCore) (cause : CrashCause) (s : State) : Out :=
  if s.fwUp (fwNum core) then .next (s.fwCrash (fwNum core) (crashNum cause)) else .next s

/-- WATCHDOG_EXPIRY. -/
def execWatchdogExpiry (core : FwCore) (s : State) : Out :=
  if s.fwUp (fwNum core) then .next (s.fwCrash (fwNum core) 3) else .next s

/-- The boot buffer still holds the measured bundle. -/
def State.bufferGood (s : State) : Bool := sha384 (s.boot.buffer.take (fieldLE s.boot.buffer 0x10 8)) == s.boot.mfw

/-- SEC.RESTARTS field of a core. -/
def restartField (n : Nat) : Nat × Nat := if n = 0 then (63, 48) else if n = 1 then (47, 32) else if n = 2 then (31, 16) else (15, 0)

/-- The core that restarts next: SEC by itself, then PWR, SCH, the CCCs in ascending order. -/
def State.nextRestart (s : State) (n : Nat) : Bool :=
  s.boot.waiting.any (fun w => w.1 == n) && (n == 0 || (s.fwUp 0 && s.boot.waiting.all (fun w => n ≤ w.1)))

/-- FIRMWARE_RESTART: the segment is loaded from the boot buffer, or, if the buffer fails its check, the bundle is fetched
again first. -/
def execFirmwareRestart (core : FwCore) (s : State) : Out :=
  let n := fwNum core
  match s.boot.waiting.find? (fun w => w.1 == n) with
  | none => .next s
  | some (_, cause, t) =>
    if !s.nextRestart n then .next s
    else if !s.bufferGood then .next { s with boot := { s.boot with refetch := true } }
    else
      let (hi, lo) := restartField n
      let s := { s with boot := { s.boot with waiting := s.boot.waiting.filter (fun w => w.1 != n), restarted := true } }
      let s := (s.setFwUp n true).bump (rg fnSec 0x018) hi lo 1
      let s := s.crashNote n cause ((s.clk - t) / 1000)
      .next (if n = 2 then s.refreshSch.refreshStage else s.refreshStage)

/-! Attestation (R415 to R418). -/

/-- The effective strand record of job j. -/
def State.effectiveStrand (s : State) (j : Nat) : List Byte :=
  if !s.jobDefined j then 0xFF :: List.replicate 63 0
  else
    let m := rg fnChip 0x030
    leBytes (s.job j).strand 1 ++ leBytes (s.level j) 1 ++ leBytes (s.fld m 32 32) 1 ++ leBytes (s.fld m 35 34) 1 ++ List.replicate 60 0

/-- MSTRAND; zero before a braid. -/
def State.mstrand (s : State) : Digest :=
  if s.flag (rg fnChip 0x010) 0 then sha384 ((List.range 16).flatMap s.effectiveStrand) else 0

/-- The five measurements as the report holds them. -/
def State.measurements (s : State) : List Byte :=
  [s.boot.mrom, s.boot.mfw, s.boot.mbraid, s.boot.mowner, s.mstrand].flatMap digestBytes

/-- Bytes 0x000 to 0x17F of the report (Table 14.8). -/
def State.reportHead (s : State) (seq : Nat) : List Byte :=
  let loaded := s.flag (rg fnChip 0x010) 0
  let m := rg fnChip 0x030
  let r (hi lo : Nat) : Nat := min 255 (s.fld (rg fnSec 0x018) hi lo)
  let b := leBytes 0x5441565A 4 ++ [1] ++ leBytes ((if loaded then 1 else 0) + 2 + (if s.boot.restarted then 4 else 0)) 1 ++ [0, 0] ++
    leBytes seq 8 ++ leBytes s.boot.fuses.uid.toNat 8 ++ leBytes (if s.flag (rg fnClk 0x048) 16 then s.beat.toNat else 0) 8 ++
    s.boot.nonce.flatMap (fun w => leBytes w.toNat 8) ++
    leBytes (s.bundleByte 6) 1 ++ leBytes (s.bundleByte 5) 1 ++ leBytes (s.bundleByte 4) 1 ++ leBytes (s.bundleByte 7) 1 ++
    leBytes s.boot.fuses.revoke.toNat 2 ++ leBytes s.boot.fuses.rollback 1 ++ leBytes (ownerBits s) 1 ++
    leBytes s.boot.fuses.grade 2 ++ leBytes (s.fld (rg fnChip 0x050) 8 0) 2 ++
    leBytes (r 63 48) 1 ++ leBytes (r 47 32) 1 ++ leBytes (r 31 16) 1 ++ leBytes (r 15 0) 1 ++ s.measurements ++
    (List.range 16).flatMap (fun j => (s.effectiveStrand j).take 1) ++ leBytes s.braid.serial.toNat 8 ++
    leBytes (s.fld m 31 0) 4 ++ leBytes (s.fld m 32 32) 1 ++ leBytes (s.fld m 35 34) 1
  (b ++ List.replicate 384 0).take 384

/-- The whole report, signed with the device key. -/
def State.newReport (s : State) (seq : Nat) (hedge : W64) : List Byte :=
  let h := s.reportHead seq
  let k := s.boot.devKey
  h ++ digestBytes (Config.deviceKey k) ++ List.replicate 16 0 ++ (Config.ed25519Sign k h ++ List.replicate 64 0).take 64 ++
    (Config.mldsaSign k hedge h ++ List.replicate 3309 0).take 3309 ++ [0, 0, 0]

/-- REPORT_POST: a measurement has changed since the last report, or a nonce has been taken. -/
def execReportPost (s : State) : Out :=
  let old := (s.boot.report.drop 0x50).take 240
  if !s.secReady ∨ (!s.boot.asked ∧ old = s.measurements) then .next s
  else
    let (hedge, s) := s.draw
    let seq := s.rd (rg fnSec 0x030) + 1
    .next ({ s with boot := { s.boot with report := s.newReport seq.toNat hedge, asked := false } }.wr (rg fnSec 0x030) seq)

/-- NONCE3 takes all four words and asks for a report (R418). -/
def State.takeNonce (s : State) (value : W64) : State :=
  let s := s.wr (rg fnSec 0x058) value
  { s with boot := { s.boot with nonce := (List.range 4).map (fun i => s.rd (rg fnSec (0x040 + 8 * i))), asked := true } }

/-- NONCE_WRITE: a write of SEC.NONCE3. -/
def execNonceWrite (value : W64) (s : State) : Out := .next (s.takeNonce value)

end Sys2Proof.Machine
end

