-- ==== Sys2Proof/Machine/Pod.lean ====
section
/-! DEFINITION. The pod: its trees and links, the peer table (R338, R339), the alignment groups with their gathers
(R312), and the seal and retract of steps (R437 to R441). -/

namespace Sys2Proof

/-! Fields of control messages. -/

/-- The n bytes from byte i of bytes 1 to 7. -/
def CtlMsg.at (m : CtlMsg) (i n : Nat) : Nat := Machine.bits m.lo.toNat (8 * (i - 1 + n) - 1) (8 * (i - 1))

/-- The message has the TYPE of its row. -/
def CtlMsg.is (m : CtlMsg) (t : Nat) : Bool := m.type.toNat == t
def CtlMsg.group (m : CtlMsg) : Nat := m.at 1 1 % 16
def CtlMsg.attempt (m : CtlMsg) : Nat := m.at 2 1
def CtlMsg.step (m : CtlMsg) : Nat := m.hi.toNat

/-- Number of a source in a group's collections: direction, or 64 + connection. -/
def MsgSrc.num : MsgSrc → Nat
  | .link l => Machine.linkDir l.val
  | .conn k => 64 + k.val

def MsgSrc.isLink : MsgSrc → Bool
  | .link _ => true
  | .conn _ => false

end Sys2Proof

namespace Sys2Proof.Machine

/-! Links and connections. -/

def State.link (s : State) (l : Nat) : Link := tget link0 s.net.links l
def State.setLink (s : State) (l : Nat) (x : Link) : State :=
  { s with net := { s.net with links := tput link0 s.net.links l x } }
def State.conn (s : State) (k : Nat) : Conn := tget conn0 s.net.conns k
def State.setConn (s : State) (k : Nat) (x : Conn) : State :=
  { s with net := { s.net with conns := tput conn0 s.net.conns k x } }
def State.grp (s : State) (g : Nat) : Group := tget group0 s.net.groups g
def State.setGrp (s : State) (g : Nat) (x : Group) : State :=
  { s with net := { s.net with groups := tput group0 s.net.groups g x } }

def State.linkReady (s : State) (l : Nat) : Bool := s.flag (rg (fnTether l) 0) 0
def State.linkCarrying (s : State) (l : Nat) : Bool := s.flag (rg (fnTether l) 0) 2
def State.linkCarried (s : State) (l : Nat) : Bool := s.flag (rg (fnTether l) 0) 3
def State.linkFailed (s : State) (l : Nat) : Bool := s.flag (rg (fnTether l) 0) 4

/-- The links of direction d, by bundle index (Table 10.1). -/
def bundleLinks (d : Nat) : List Nat := [2 * d, 2 * d + 1, 12 + 2 * d, 13 + 2 * d]

/-- The link of direction d that takes its control messages: the lowest READY one, else the lowest carried one. -/
def State.dirLink (s : State) (d : Nat) : Option Nat :=
  match (bundleLinks d).find? s.linkReady with
  | some l => some l
  | none => (bundleLinks d).find? s.linkCarried

def State.sendLink (s : State) (l : Nat) (m : CtlMsg) : State :=
  let x := s.link l
  s.setLink l { x with ctl := x.ctl ++ [m] }
def State.sendDir (s : State) (d : Nat) (m : CtlMsg) : State :=
  match s.dirLink d with
  | some l => s.sendLink l m
  | none => s
def State.sendConn (s : State) (k : Nat) (m : CtlMsg) : State :=
  let x := s.conn k
  s.setConn k { x with ctl := x.ctl ++ [m] }

/-- A connection that the braid uses; its peer-table entry, plane and home port (HAWSER record). -/
def State.connUsed (s : State) (k : Nat) : Bool := fieldLE (s.rec1 0x0D) (16 * k + 6) 2 != 0
def State.connPeer (s : State) (k : Nat) : Nat := fieldLE (s.rec1 0x0D) (16 * k) 2
def State.connOpen (s : State) (k : Nat) : Bool := s.connUsed k && ((s.conn k).state == 1 || (s.conn k).state == 2)

/-- A control message from its bytes 1 to 7 and 8 to 15. -/
def ctlMsg (type lo hi : Nat) : CtlMsg := ⟨BitVec.ofNat 8 type, BitVec.ofNat 56 lo, BitVec.ofNat 64 hi⟩

/-! The pod (POD record). -/

def State.podByte (s : State) (o : Nat) : Nat := fieldLE (s.rec1 1) o 1
/-- Coordinates as in CLK.PODSTAT.COORD. -/
def coordOf (x y z : Nat) : Nat := x + 8 * y + 64 * z
def State.ownCoord (s : State) : Nat := coordOf (s.podByte 3) (s.podByte 4) (s.podByte 5)
/-- LOC bits [16:0]: pod and coordinates. -/
def State.ownLoc (s : State) : Nat := s.podByte 7 + 256 * s.ownCoord

def kPodstat : Nat := rg fnClk 0x048
/-- CLK.STATUS. -/
def kClk : Nat := rg fnClk 0

/-- The time by which a chip's links send frames: its beat time, and before it is LOCKED, while it has none, the clk of its own
reference (log entry 34). -/
def State.linkTime (s : State) : Nat := if s.flag kPodstat 16 then s.beat.toNat else s.clk
/-- This chip is the pod's root now (R308, R310). -/
def State.isRoot (s : State) : Bool := s.flag kPodstat 9

/-- A message to the parent of the tree in force: toward the link that this chip is locked to. -/
def State.sendParent (s : State) (m : CtlMsg) : State := s.sendDir (linkDir (s.fld kPodstat 23 19)) m

/-- Directions of the tree children below which members of group g lie. -/
def State.childDirs (s : State) (g : Nat) : List Nat := (List.range 6).filter (fun d => (s.podByte (20 + g)).testBit d)

def State.sendChildren (s : State) (g : Nat) (m : CtlMsg) : State := (s.childDirs g).foldl (fun s d => s.sendDir d m) s

/-! The peer table (R338, R339). -/

def State.peerBase (s : State) : Nat := fieldLE (s.rec1 0x0E) 0 8
def State.peerField (s : State) (i o n : Nat) : Nat := if s.rec1 0x0E = [] then 0 else s.mem.le (s.peerBase + 64 * i + o) n

/-- Entries with a byte that is not zero, ascending. -/
def State.peerList (s : State) : List Nat :=
  if s.rec1 0x0E = [] then []
  else (s.mem.filter (fun e => s.peerBase ≤ e.1 && e.1 < s.peerBase + 0x400000)).foldl
    (fun l e => sins ((e.1 - s.peerBase) / 64) l) []

def State.peerState (s : State) (i : Nat) : Nat := s.peerField i 0x0A 1
def State.peerPod (s : State) (i : Nat) : Bool := (s.peerField i 0x0B 1).testBit 2
/-- LOC bits [16:0]. -/
def State.peerLoc (s : State) (i : Nat) : Nat := s.peerField i 4 4 % 2 ^ 17

def State.activePeers (s : State) : List Nat := s.peerList.filter (fun i => s.peerState i == 1)

/-- Membership generation in force (R347). -/
def State.gen (s : State) : Nat := s.fld (rg fnSch 0x038) 63 32

/-- Entry i takes a STATE: written with the generation, and told by event 0x01 (Table 13.15). -/
def State.markPeer (s : State) (i st : Nat) : State :=
  if s.peerState i = st then s
  else
    let s := (s.writeHbm (s.peerBase + 64 * i + 0x0A) (leBytes st 1)).writeHbm (s.peerBase + 64 * i + 0x0C) (leBytes s.gen 4)
    s.event 0x01 fnSch none (leBytes i 4 ++ leBytes st 1 ++ [0, 0, 0] ++ leBytes s.gen 4)

/-- A message goes out on every link that carries traffic and every open connection, but not where it came from. -/
def State.spread (s : State) (m : CtlMsg) (src : Option MsgSrc) : State :=
  let s := (List.range 24).foldl (fun s l =>
    if s.linkReady l && decide (src ≠ some (.link (Fin.ofNat 24 l))) then s.sendLink l m else s) s
  (List.range 64).foldl (fun s k =>
    if s.connOpen k && decide (src ≠ some (.conn (Fin.ofNat 64 k))) then s.sendConn k m else s) s

/-- The chip finds that entry i is SUSPECT (2) or DOWN (3): marked, and MDOWN sent on links and connections (R339). -/
def State.reportPeer (s : State) (i st : Nat) : State :=
  if s.peerState i = st ∨ s.peerState i = 3 ∨ s.peerState i = 0 then s
  else
    let m := ctlMsg 0x20 (s.peerField i 4 4 % 2 ^ 20 + 2 ^ 24 * st) s.beat.toNat
    let s := (s.markPeer i st).bump (rg fnSch 0x038) 23 8 1
    { s with net := { s.net with mdowns := s.net.mdowns ++ [m] } }.spread m none

/-! Groups. -/

/-- Jobs of group g on this chip. -/
def State.groupJobs (s : State) (g : Nat) : List Nat := s.definedJobs.filter (fun j => s.group j == g)

/-- Members that a gather waits for: the jobs with a bound program that have not all halted (log entry 25). -/
def State.members (s : State) (g : Nat) : List Nat :=
  (s.groupJobs g).filter (fun j => (s.job j).prog.isSome && (s.stopped j || !s.allHalted j))

/-- The group's jobs on this chip stop with a bind fault. -/
def State.stopGroup (s : State) (g code : Nat) (sidx : Job → Nat) : State :=
  (s.groupJobs g).foldl (fun s j => if (s.job j).prog.isSome then s.bindStop j code (sidx (s.job j)) else s) s

/-- The smallest multiple of 64 that is at least x. -/
def up64 (x : Nat) : Nat := (x + 63) / 64 * 64

/-- The release beat of a gather that completes now (R312, R439). -/
def State.releaseBeat (s : State) : Nat := up64 (s.beat.toNat + s.fld (rg fnClk 0x058) 15 0)

/-- Hops of the longest downward path: at least half of each axis, at most 12 (R308); the braid gives a chip no other
chip's parents, so which it is, nothing fixes here. -/
def State.treeHops (s : State) (w : Nat) : Nat :=
  let far := s.podByte 0 / 2 + s.podByte 1 / 2 + s.podByte 2 / 2
  if far = 0 then 0 else far + w % (13 - min 12 far)

/-- CLK.ALIGNLEAD as the root computes it (R313): each hop's one-way delay plus 192 ns, plus 256 ns. The path's first hop is
one of the root's own links, whose delay it holds; of the other chips' links it holds none, and each has at most 416 ns and at
most DPAD - 192 ns (R296; log entry 2). -/
def State.setAlignLead (s : State) : State :=
  let (w, s) := s.draw
  let (d, s) := s.draw
  let (v, s) := s.draw
  let hops := s.treeHops w.toNat
  let own := (List.range 24).filter s.linkReady
  let first := s.fld (rg (fnTether (own.getD (d.toNat % max 1 own.length) 0)) 0x040) 15 0
  let rest := v.toNat % ((hops - 1) * min 416 (fieldLE (s.rec1 1) 8 2 - 192) + 1)
  s.setFld (rg fnClk 0x058) 15 0 (up64 ((if hops = 0 then 0 else first + rest) + 192 * hops + 256))

/-! Aligned splices (R312). -/

/-- RELEASE reaches the chip: forwarded down, and every member that waits for it takes its release beat; one that
arrives late releases at the next multiple of 64 (R313). -/
def State.applyRelease (s : State) (g beat : Nat) : State :=
  let x := s.grp g
  let s := s.sendChildren g (ctlMsg 0x04 (g + 256 * x.seq.toNat) beat)
  let s := s.setGrp g { x with seq := x.seq + 1, gathered := [], ready := 0, sentG := false }
  let late := beat < s.beat.toNat
  let s := if late then s.bump (rg fnClk 0x060) 31 0 1 else s
  (s.members g).foldl (fun s j =>
    let y := s.job j
    if y.phase = .align ∧ y.aligned ∧ y.release.isNone then s.setJob j { y with release := some (if late then up64 s.beat.toNat else beat) } else s) s

/-- The gather of group g goes up once every member is in its alignment phase and every masked child has gathered; the
root answers it with RELEASE. -/
def State.tryGather (s : State) (g : Nat) : State :=
  let x := s.grp g
  let ms := s.members g
  let there := ms.all (fun j => (s.job j).phase == .align && (s.job j).aligned && (s.job j).release.isNone)
  if x.sentG ∨ !there ∨ (ms.isEmpty && (s.childDirs g).isEmpty) ∨ !(s.childDirs g).all x.gathered.contains then s
  else
    let s := s.setGrp g { x with sentG := true }
    if s.isRoot then s.applyRelease g s.releaseBeat
    else s.sendParent (ctlMsg 0x03 (g + 256 * x.seq.toNat) x.ready)

/-- A job enters its alignment phase: its ready beat is now. -/
def State.alignReady (s : State) (j : Nat) : State :=
  let g := s.group j
  let x := s.grp g
  (s.setGrp g { x with ready := max x.ready s.beat.toNat }).tryGather g

/-! Seal (R437, R438). -/

/-- A step and attempt as one number, rising. -/
def stepCode (n a : Nat) : Nat := 256 * n + a + 1

/-- Pods of the run, as the ACTIVE entries name them. -/
def State.runPods (s : State) : List Nat := s.activePeers.foldl (fun l i => sins (s.peerLoc i % 256) l) []
def State.onePod (s : State) : Bool := s.runPods.all (· == s.podByte 7)

/-- Where the seal root lies when the run has several pods: LOC of the ACTIVE entry that holds rank 0. -/
def State.sealLoc (s : State) : Option Nat :=
  (s.activePeers.find? (fun i => s.peerField i 0 4 % 2 ^ 20 == 0 && s.peerField i 8 2 != 0)).map s.peerLoc

def State.isSealRoot (s : State) : Bool := if s.onePod then s.isRoot else s.sealLoc == some s.ownLoc

/-- The connection to the chip at a location. -/
def State.connTo (s : State) (loc : Nat) : Option Nat :=
  (List.range 64).find? (fun k => s.connUsed k && s.peerLoc (s.connPeer k) == loc && !s.peerPod (s.connPeer k))

/-- Pod of a connection's peer. -/
def State.podOfConn (s : State) (k : Nat) : Nat := s.peerLoc (s.connPeer k) % 256

/-- Connection by which the seal root reaches the root of a pod: the one its messages came by, the one to the LOC of
its pod entry, or the lowest one to the pod. -/
def State.rootConn (s : State) (g pod : Nat) : Option Nat :=
  match (s.grp g).roots.find? (fun k => s.podOfConn k == pod) with
  | some k => some k
  | none =>
    match (s.activePeers.find? (fun i => s.peerPod i && s.peerLoc i % 256 == pod)).bind (fun i => s.connTo (s.peerLoc i)) with
    | some k => some k
    | none => (List.range 64).find? (fun k => s.connUsed k && s.podOfConn k == pod)

/-- Group, step and attempt as PASS, SEAL, FAIL, RETRACT and QUIESCED carry them. -/
def stepMsg (type g n a : Nat) : CtlMsg := ctlMsg type (g + 256 * a) n
/-- FAIL with its originator. -/
def failMsg (g n a origin : Nat) : CtlMsg := ctlMsg 0x12 (g + 256 * a + 65536 * origin) n
/-- RESTART: group, new attempt, step, release beat. -/
def restartMsg (g n a beat : Nat) : CtlMsg := ctlMsg 0x15 (g + 256 * a + 65536 * (n % 2 ^ 40)) beat

/-- What the seal root sends down goes to every other pod's root by its connection. -/
def State.sendPods (s : State) (g : Nat) (m : CtlMsg) : State :=
  if s.onePod then s
  else s.runPods.foldl (fun s p =>
    if s.isRoot && p == s.podByte 7 then s
    else match s.rootConn g p with
      | some k => s.sendConn k m
      | none => s) s

/-- A message of the group goes from the pod root to the seal root; without a connection the group's jobs stop
(bind fault 0x17). -/
def State.sendSealRoot (s : State) (g : Nat) (m : CtlMsg) : State :=
  match s.sealLoc.bind s.connTo with
  | some k => s.sendConn k m
  | none => s.stopGroup g 0x17 (·.stepSidx)

/-- A message that this chip has settled for its part of the tree goes up. -/
def State.sendUp (s : State) (g : Nat) (m : CtlMsg) : State :=
  if s.isRoot then s.sendSealRoot g m else s.sendParent m

/-- A SEAL, FAIL or RETRACT that is too late (R441). -/
def State.sealStale (s : State) (g n a : Nat) : Bool :=
  let x := s.grp g
  decide (n < x.sealed) || decide (stepCode n a ≤ x.retracted)
def State.ignoreSeal (s : State) : State := s.bump (rg fnSch 0x068) 63 48 1

/-- SEAL for (n, a) reaches the chip: forwarded down; each member writes its seal record and holds no unsealed step. -/
def State.applySeal (s : State) (g n a : Nat) : State :=
  let s := s.sendChildren g (stepMsg 0x11 g n a)
  let s := s.setGrp g { s.grp g with sealed := n + 1 }
  (s.groupJobs g).foldl (fun s j =>
    let x := s.job j
    if x.unsealed ≠ some (n, a) then s
    else
      let s := s.setJob j { x with unsealed := none, passed := false, failed := false, sealed := (n, a) :: x.sealed }
      (s.ledgerRecord 0x11 j x.unsealedVary n a).bump (rg fnSch 0x068) 23 0 1) s

/-- The seal root holds PASS from every pod: SEAL goes out. -/
def State.trySeal (s : State) (g n a : Nat) : State :=
  let x := s.grp g
  let pods := x.passed.filterMap (fun q => if 64 ≤ q then some (s.podOfConn (q - 64)) else none)
  let own := !s.isRoot || x.sentP
  if s.sealStale g n a ∨ !s.isSealRoot ∨ x.step ≠ n ∨ x.attempt ≠ a ∨ !own ∨
      !s.runPods.all (fun p => pods.contains p || (s.isRoot && p == s.podByte 7)) then s
  else
    let s := s.sendPods g (stepMsg 0x11 g n a)
    if s.isRoot then s.applySeal g n a else s.setGrp g { s.grp g with passed := (s.grp g).passed.filter (· < 64) }

/-- Collection of a step starts with its first PASS. -/
def State.openPass (s : State) (g n a : Nat) : State :=
  let x := s.grp g
  if x.step = n ∧ x.attempt = a then s else s.setGrp g { x with step := n, attempt := a, passed := [], sentP := false }

/-- PASS goes up once every member has passed locally and every masked child has sent its PASS. -/
def State.tryPass (s : State) (g n a : Nat) : State :=
  let s := s.openPass g n a
  let x := s.grp g
  let here := (s.members g).all (fun j => (s.job j).unsealed == some (n, a) && (s.job j).passed)
  if x.sentP ∨ s.sealStale g n a ∨ !here ∨ !(s.childDirs g).all x.passed.contains then s
  else
    let s := s.setGrp g { x with sentP := true }
    if s.isRoot && s.isSealRoot then s.trySeal g n a else s.sendUp g (stepMsg 0x10 g n a)

/-! Retract (R439 to R441). -/

/-- Job j runs step n, attempt a, or waits for its seal. -/
def State.runsStep (s : State) (j n a : Nat) : Bool :=
  let x := s.job j
  x.prog.isSome && !s.stopped j && x.retract.isNone && (x.unsealed == some (n, a) || (x.step == n && x.attempt == a))

/-- Effects of instructions in flight that the retract discards: their folds. -/
def Core.dropFolds (c : Core) : Core :=
  { c with fly := c.fly.map (fun f => { f with eff := f.eff.filter (fun e => match e with
      | .fold .. => false
      | _ => true) }) }

/-- Fills and checks of job j are gone. -/
def State.dropChecks (s : State) (j : Nat) : State :=
  let s := (s.coresOfJob j).foldl (fun s p => s.setV p { (s.core p).v with fills := [], ended := [] }) s
  (List.range 32).foldl (fun s c =>
    let x := s.cluster c
    s.setCluster c { x with checks := x.checks.filter (fun q => q.fill.job != j) }) s

/-- The reduction-engine streams that the plan gives job j hold nothing (R335). -/
def State.dropStreams (s : State) (j : Nat) : State :=
  (List.range 64).foldl (fun s k =>
    if fieldLE (s.rec1 8) (16 * k) 1 != 0 && fieldLE (s.rec1 8) (16 * k + 2) 1 == j then
      { s with net := { s.net with streams := tput rstream0 s.net.streams k { rstream0 k with stopped := (tget rstream0 s.net.streams k).stopped } } }
    else s) s

/-- Steps 1 and 2 of R439 for job j: it stops issuing, its ledger range is cleared, shadow entries of work done since
the step began are discarded, and the retract record is written. -/
def State.retractJob (s : State) (g j n a : Nat) : State :=
  let x := s.job j
  let vary := if x.unsealed = some (n, a) then x.unsealedVary else x.vary
  let s := s.quietJob j
  let s := (s.coresOfJob j).foldl (fun s p => s.setCore p (s.core p).dropFolds) s
  let s := (s.clustersOf j).foldl (fun s c =>
    let k := s.cluster c
    s.setCluster c { k with folds := k.folds.filter (fun m => m.job != j) }) s
  let s := (s.dropChecks j).dropStreams j
  let gone (y : Shadow) : Bool := y.job == j && decide (n < y.step ∨ (y.step = n ∧ a ≤ y.attempt))
  let s := { s with ledger := ⟨tclear s.ledger.slots (s.ledgerBase j) (s.ledgerCount j), s.ledger.shadow.filter (fun y => !gone y)⟩ }
  let s := s.ledgerRecord 0x12 j vary n a
  let s := s.setJob j { s.job j with phase := .span, retract := some a, release := none, firstSidx := none, stepMark := false, applying := 0 }
  let s := s.bump (rg fnSch 0x068) 47 24 1
  let s := s.report 0x54 0 fnSch (some j) { action := 2, unit := g, d0 := (s.grp g).origin }
  if 254 ≤ a then s.reportStop 0x25 fnSch j { d0 := g } else s

/-- Every member has stopped, and no suspect core of theirs awaits its kernels (step 3). -/
def State.quietGroup (s : State) (g : Nat) : Bool :=
  (s.members g).all (fun j => (s.job j).retract.isSome || s.stopped j) &&
    (s.groupJobs g).all (fun j => ((s.clustersOf j).flatMap coresOf).all (fun p => !s.suspect p))

/-- QUIESCED goes up once members and masked children are quiet; the seal root answers with RESTART, which act gives
its effect on this chip. -/
def State.tryQuiesced (s : State) (act : State → Nat → Nat → Nat → Nat → State) (g n a : Nat) : State :=
  let x := s.grp g
  let pods := x.quiesced.filterMap (fun q => if 64 ≤ q then some (s.podOfConn (q - 64)) else none)
  let tree := x.retracted == stepCode n a && (x.sentQ || (s.quietGroup g && (s.childDirs g).all x.quiesced.contains))
  if x.retracted ≠ stepCode n a ∧ x.answered ≠ stepCode n a then s
  else
    let first := tree && !x.sentQ
    let s := if first then s.setGrp g { x with sentQ := true } else s
    if s.isSealRoot then
      let s := if first && !s.isRoot then s.sendParent (stepMsg 0x14 g n a) else s
      if (!s.isRoot || tree) && 254 ≠ a && x.restarted ≠ stepCode n a &&
          s.runPods.all (fun p => pods.contains p || (s.isRoot && p == s.podByte 7)) then
        let beat := s.releaseBeat
        let s := s.setGrp g { s.grp g with restarted := stepCode n a }
        let s := s.sendPods g (restartMsg g n (a + 1) beat)
        if s.isRoot then act s g n (a + 1) beat else s
      else s
    else if first then s.sendUp g (stepMsg 0x14 g n a)
    else s

/-- RETRACT for (n, a) reaches the chip. -/
def State.applyRetract (s : State) (act : State → Nat → Nat → Nat → Nat → State) (g n a : Nat) : State :=
  let s := s.sendChildren g (stepMsg 0x13 g n a)
  let x := s.grp g
  let c := stepCode n a
  let s := s.setGrp g { x with retracted := c, quiesced := if x.answered = c then x.quiesced else [], sentQ := false }
  let s := (s.groupJobs g).foldl (fun s j => if s.runsStep j n a then s.retractJob g j n a else s) s
  s.tryQuiesced act g n a

/-! Restart (R439, R440). -/

/-- A virtual core at a restart: reset values, but what R103 restores, its place in the program, and its descriptors and
queue records before the restart splice's entry loads them. -/
def VCore.restart (v : VCore) : VCore :=
  { vcore0 with
    run := match v.run with
      | .halted => .halted
      | _ => .arrived 0 false
    pc := v.pc, overrun := v.overrun, codeLen := v.codeLen, rs := v.rs, nflags := v.nflags, ftz := v.ftz, hbase := v.hbase
    sk := v.sk, hist := v.hist, td := v.td
    sq := v.sq.map (fun e => (e.1, { sq0 0 with depth := e.2.depth, entry := e.2.entry, area := e.2.area, credits := e.2.depth })) }

/-- Job j goes back to the splice that began step n, with attempt a, bound anew, and waits for the release beat. -/
def State.restartJob (s : State) (j n a beat : Nat) : State :=
  let x := s.job j
  let old := x.unsealed.map (·.1) == some n
  let saved := if old then x.savedOld else x.saved
  let sidx := if old then x.oldSidx else x.stepSidx
  let ord := if old then x.oldOrd else x.stepOrd
  let s := s.setJob j { x with
    step := n, attempt := a, vary := false, phase := .align, release := some beat, sidx, ordinal := ord, stepMark := false
    binding := false, updating := false, firstSidx := none, passed := false, failed := false, failing := false
    unsealed := if old then none else x.unsealed, saved, stepSidx := sidx, stepOrd := ord }
  match (s.job j).prog with
  | none => s
  | some p =>
    match s.bindBad j p.image with
    | some code => s.bindStop j code sidx
    | none =>
      let s := s.rebind j
      let s := s.onVCores j (fun s vc _ => (s, (tget vc0 saved vc).restart))
      let e := s.spliceAt j sidx
      (s.boundClusters j).foldl (fun s c => s.loadStreams j c e) (s.loadSets j e)

/-- RESTART for step n with attempt a reaches the chip. -/
def State.applyRestart (s : State) (g n a beat : Nat) : State :=
  let s := s.sendChildren g (restartMsg g n a beat)
  let late := beat < s.beat.toNat
  let s := if late then s.bump (rg fnClk 0x060) 31 0 1 else s
  let beat := if late then up64 s.beat.toNat else beat
  (s.groupJobs g).foldl (fun s j =>
    if (s.job j).retract = some (a - 1) ∧ a ≠ 0 ∧ !s.stopped j ∧ (s.job j).phase = .span then s.restartJob j n a beat else s) s

/-- FAIL for (n, a): the first is forwarded up, and at the seal root answered with RETRACT. -/
def State.failUp (s : State) (g n a origin : Nat) (atSealRoot : Bool) : State :=
  let x := s.grp g
  let c := stepCode n a
  if atSealRoot then
    if x.answered = c then s
    else
      let s := s.setGrp g { x with origin, failed := c, answered := c, quiesced := [] }
      let s := s.sendPods g (stepMsg 0x13 g n a)
      if s.isRoot then s.applyRetract State.applyRestart g n a else s
  else if x.failed = c then s
  else (s.setGrp g { x with failed := c, origin }).sendUp g (failMsg g n a origin)

/-- This chip as originator of a FAIL: coordinates and pod. -/
def State.ownOrigin (s : State) : Nat := s.ownCoord + 65536 * s.podByte 7

/-- Step n, attempt a of job j fails locally (R434): FAIL goes up at once. -/
def State.failStep (s : State) (j n a : Nat) : State :=
  let x := s.job j
  let open_ := x.unsealed == some (n, a)
  if !(s.runsStep j n a) ∨ (if open_ then x.failed else x.failing) then s
  else
    let s := s.setJob j (if open_ then { x with failed := true, passed := false } else { x with failing := true })
    s.failUp (s.group j) n a s.ownOrigin (s.isRoot && s.isSealRoot)

/-! Ports of connections (R329, R333). -/

def fnPort (e : Nat) : Nat := if e = 8 then 0x028 else fnEth e

/-- READY of a port's sub-port. -/
def State.portReady (s : State) (e sub : Nat) : Bool :=
  if e = 8 then s.flag (rg (fnEth 8) 0) 0 else s.flag (rg (fnEth e) 0) (if sub = 0 then 0 else 2)

/-- Ports of a plane from the one after e, ascending and around. -/
def planePorts (e : Nat) : List Nat := (List.range 4).map (fun i => e / 4 * 4 + (e + i) % 4)

/-- A connection whose port is not READY moves to the next READY one of its plane and resends from its ACK point. -/
def State.moveConn (s : State) (k : Nat) : State :=
  let x := s.conn k
  if !s.connUsed k ∨ s.portReady x.port 0 then s
  else match (planePorts x.port).find? (fun e => s.portReady e 0) with
    | some e => s.setConn k { x with port := e, next := x.acked }
    | none => s

def State.moveConns (s : State) : State := (List.range 64).foldl (fun s k => s.moveConn k) s

/-- A connection is opened anew: closed until its HELLOs have been exchanged, sequence numbers from 0, with a quarter of the
line rate, on its home port or, where that is not READY, the next that is (R322, R329, R333). -/
def State.reopenConn (s : State) (k : Nat) : State :=
  if !s.connUsed k then s
  else
    let x := s.conn k
    let s := s.setConn k { conn0 k with port := fieldLE (s.rec1 0x0D) (16 * k + 3) 1, heard := s.linkTime, ctl := x.ctl }
    { s with hbm := { s.hbm with spillq := tput spill0 (tput spill0 s.hbm.spillq (2 * k) (spill0 0)) (2 * k + 1) (spill0 0) } }.moveConn k

/-! The start of beat time (R308, R309, R327). -/

def Conn.rebase (x : Conn) (b : Nat) : Conn :=
  { x with heard := b, qAt := b, ackAt := b + 1000000, paceAt := 0, helloAt := 0, pace := { x.pace with cut := 0, tick := b + 1 } }

/-- The chip is LOCKED and its beat time starts at b: what its links and connections time runs on from there, and delays
still being measured are measured anew. -/
def State.startBeat (s : State) (b : Nat) : State :=
  let s := { s.setFlag kPodstat 16 true with beat := BitVec.ofNat 64 b }
  let s := (List.range 24).foldl (fun s k => s.setLink k { s.link k with frameTime := up64 b, sentAt := 0, lostAt := 0, echoes := [] }) s
  let s := (List.range 64).foldl (fun s k => if s.connUsed k then s.setConn k ((s.conn k).rebase b) else s) s
  { s with net := { s.net with
    paused := [], qps := s.net.qps.map (fun e => (e.1, { e.2 with paceAt := 0 }))
    txq := s.net.txq.map (fun e => (e.1, e.2.map (fun f => { f with after := 0 }))) } }

end Sys2Proof.Machine
end

