-- ==== Sys2Proof/Machine/SvcOps.lean ====
section
/-! DEFINITION. Services as the splices see them (R366 to R369): what is in progress, what a gate waits for, and the copy
of a Halo snapshot. -/

namespace Sys2Proof.Machine

def State.setSvc (s : State) (i : Nat) (x : Option Svc) : State := { s with svc := tput noSvc s.svc i x }

def Svc.total (x : Svc) : Nat := x.regions.foldl (fun n r => n + r.2.1) 0

/-- Where byte pos of the regions, back to back, lies. -/
def regionAt : List (Nat × Nat × Nat) → Nat → Nat
  | [], _ => 0
  | (a, n, _) :: r, pos => if pos < n then a + pos else regionAt r (pos - n)

/-- Step n of job j is sealed, and with which attempt. -/
def State.sealedAs (s : State) (j n : Nat) : Option Nat := ((s.job j).sealed.find? (fun e => e.1 == n)).map (·.2)

/-- A granule goes from a to b with its poison. -/
def State.copyGranule (s : State) (a b : Nat) : State :=
  let (s, bad) := s.readGranule a
  s.writeGranule b (s.mem.bytes a 64) bad

/-- The Halo snapshot of job j that copies now: the oldest, once its step is sealed (R369). -/
def State.haloOf (s : State) (j : Nat) : Option (Nat × Svc) :=
  match (s.svcOf j).find? (fun e => e.2.type == 3) with
  | some (i, x) => if x.phase ≤ 2 ∧ (s.sealedAs j x.step).isSome then some (i, x) else none
  | none => none

/-- Up to n granules of the snapshot are copied; with the last one the stream may begin. -/
def State.haloCopy (s : State) (i : Nat) (x : Svc) (n : Nat) : State :=
  let m := min n ((x.total - x.copied) / 64)
  let s := (List.range m).foldl (fun s k =>
    let p := x.copied + 64 * k
    s.copyGranule (regionAt x.regions p) (x.snap + p)) s
  let c := x.copied + 64 * m
  s.setSvc i (some { x with copied := c, phase := if x.total ≤ c then 3 else 2 })

end Sys2Proof.Machine
end

