-- ==== Sys2Proof/Machine/Splice.lean ====
section
/-! DEFINITION. Splices (R53, R62, R63, R272 to R279, R285, R286, R385, R423, R463 to R465): the phases of Table 9.4, one
command each, and the round boundaries within a span. -/

namespace Sys2Proof.Machine

/-- The splice-table entry of the splice under way: of the pending program where no program runs (R276). -/
def State.entry (s : State) (j : Nat) : Splice :=
  let x := s.job j
  if x.binding then
    let b := ((x.pending.orElse (fun _ => x.prog)).map (·.image)).getD []
    spliceOf b (headerOf b) 0
  else s.spliceAt j x.sidx

/-- Clk of a splice that count in SPLICEWAIT (R278). -/
def State.spliceWait (s : State) (n : Nat) : State := s.bump (rg fnSch 0x010) 47 0 n

/-! Outbound streams at quiesce (R527). -/

/-- Outbound descriptor d, at place i of the list of thread th, can never complete: its virtual core stands at the splice, or
has no place in the round, and its queue holds nothing for it; at the head of the list, fewer bytes than its next request
takes (log entry 62). -/
def State.lacks (s : State) (j c : Nat) (th : Thread) (last : Bool) (i : Nat) (d : Sd) : Bool :=
  if !d.out then false
  else match s.coreFor j c d.vcore with
    | none => last
    | some p =>
      let q := (s.core p).v.queue d.sq
      let asked := if i = 0 then th.asked else 0
      let need := if i ≠ 0 then 1 else if d.xch then (if th.buf.isEmpty then d.group else 0) else (d.piece asked).2
      ((s.core p).v.run.isArrived || (s.core p).v.run.isHalted) && (s.core p).fly.isEmpty &&
        decide (asked < d.total ∧ q.waiting < need)

/-- Some outbound descriptor left to the thread is such a one. -/
def State.stuck (s : State) (j c t : Nat) (last : Bool) : Bool :=
  let th := s.thread c t
  !th.stopped && th.list.zipIdx.any (fun x => s.lacks j c th last x.2 (sdOf x.1))

/-- The first stuck thread of the job's clusters cs. -/
def State.stuckOf (s : State) (j : Nat) (cs : List Nat) (last : Bool) : Option (Nat × Nat) :=
  (cs.flatMap (fun c => (List.range 64).map (fun t => (c, t)))).find? (fun x => s.stuck j x.1 x.2 last)

/-- It records stream fault 0x06 and stops the job. -/
def State.faultStuck (s : State) (j : Nat) (cs : List Nat) (last : Bool) : State :=
  match s.stuckOf j cs last with
  | some (c, t) => s.streamFault j c t 0x06 0
  | none => s

/-! Begin. -/

/-- Firmware retires the pages that reached the limit (R258, R442). -/
def State.retirePages (s : State) : State :=
  s.hbm.retire.foldl (fun s n =>
    let s := s.setPage n (setField (s.page n) 62 62 1)
    s.fenceNote 5 n fnPagemap (s.pageOwner n) 0x30 (n * 0x80000) 0) { s with hbm := { s.hbm with retire := [] } }

/-- Registers whose writes take effect at the next splice of the job (R290, R292, R371, R471), those of a core only at a
splice at which it is not bound (R140, R171, R231). -/
def State.latchJob (s : State) (j : Nat) : State :=
  let s := { s with inForce := tput csrReset s.inForce (rg fnSch 0x108) (s.rd (rg fnSch 0x108)) }
  let s := (s.clustersOf j).foldl (fun s c => s.latchCluster c) s
  let s := ((s.clustersOf j).flatMap coresOf).foldl (fun s p => s.latchCore p) s
  s.setJob j { s.job j with age := s.rd (rg fnSch 0x100), hold := s.flag (rg fnBist 0x108) 0 }

/-- SIDX values with which virtual cores have arrived differ (R277). -/
def State.mismatched (s : State) (j : Nat) : Bool :=
  let l := (s.runsOf j).filterMap (fun r => match r with
    | .arrived n _ => some n
    | _ => none)
  l.any (fun n => n != l.headD 0)

/-- At a splice each stack's on-die corrected counts and its temperature are read (R251); both are free (log entry 15). -/
def State.readStack (s : State) (n : Nat) : State :=
  if !s.hbmReady n then s
  else
    let (e, s) := s.draw
    let (t, s) := s.draw
    { s with hbm := { s.hbm with temps := tput z0 s.hbm.temps n (t.toNat % 256) } }.bump (rg (fnHbm n) 0x050) 63 0 e.toNat

/-- The splice's first clk: rings sampled, stacks read, pages retired, registers latched. -/
def State.openSplice (s : State) (j sidx : Nat) (binding : Bool) : State :=
  let x := s.job j
  let s := s.setJob j { x with phase := .quiesce, sidx, binding, waited := 0, gateClk := 0, sampleDue := false, promote := 0, applying := 0 }
  let e := s.entry j
  let x := s.job j
  let s := s.setJob j { x with aligned := e.align }
  let s := if s.schReady then s.sampleRings j else s.setJob j { s.job j with sampleDue := true }
  ((List.range 8).foldl (fun s n => s.readStack n) s).retirePages.latchJob j

/-- SPLICE_BEGIN: virtual cores at different entries stop the job; with every one there, or none running and a program
waiting to be bound, the splice begins. -/
def execSpliceBegin (j : JobId) (s : State) : Out :=
  let x := s.job j
  let rs := s.runsOf j
  if x.phase ≠ .span ∨ s.stopped j ∨ x.retract.isSome then .next s
  else if s.mismatched j then .next (s.bindStop j 0x14 (x.firstSidx.getD 0))
  else if x.prog.isSome && !s.allHalted j then
    if !rs.all (fun r => r.isArrived || r.isHalted) || (s.boundClusters j).any (fun c => (s.cluster c).swapping) then .next s
    else if s.boot.dead.contains 2 then .next (s.reportStop 0x60 fnSch j { unit := 2 })
    else .next ((s.openSplice j (x.firstSidx.getD 0) false).faultStuck j (s.boundClusters j) true)
  else if x.pending.isSome then .next (s.openSplice j 0 true)
  else .next s

/-! Quiesce and ledger drain. -/

/-- Streams, folds, instructions, network queues and kernels of job j are done (Table 9.4, R427, R431). -/
def State.quiet (s : State) (j : Nat) : Bool :=
  let cs := s.clustersOf j
  (s.coresOfJob j).all (fun p => (s.core p).fly.isEmpty) &&
    cs.all (fun c =>
      let x := s.cluster c
      x.folds.isEmpty && x.threads.all (fun e => e.2.stopped || !e.2.outbound) && (coresOf c).all (fun p => !s.suspect p)) &&
    (List.range 64).all (fun q => s.nqJob q != j || (s.nq q).isEmpty) &&
    (!(s.job j).stepMark || (s.job j).unsealed.isNone)

/-- Outbound entries that have been read whole leave their queue. -/
def SQueue.dropRead (q : SQueue) : Nat → SQueue
  | 0 => q
  | n + 1 => if q.headRead then q.dropHead.dropRead n else q

/-- The undelivered entries of virtual core vc's inbound queues are discarded and counted in cluster c (R246). -/
def State.dropEntries (s : State) (j c vc : Nat) (v : VCore) : State × VCore :=
  let k := vc % max 1 (s.header j).vpc
  let s := (List.range 8).foldl (fun s q => s.countDiscard j c k q (v.queue q).undelivered) s
  (s, (List.range 8).foldl (fun v q => v.setQueue q (v.queue q).discard) v)

/-- The quiesce stops the inbound threads of cluster c: what they have not delivered is discarded, counted, and returns its
slots and credits; outbound entries read whole have returned theirs (R245, R246). -/
def State.dropInbound (s : State) (j c : Nat) : State :=
  let s := s.onVCores j (fun s vc v =>
    if s.clusterFor j vc ≠ some c then (s, v)
    else
      let (s, v) := s.dropEntries j c vc v
      (s, (List.range 8).foldl (fun v q => v.setQueue (8 + q) ((v.queue (8 + q)).dropRead 64)) v))
  let x := s.cluster c
  let s := x.rx.foldl (fun s e => match (s.thread c e.thread).list.find? (fun r => (sdOf r).net && (sdOf r).rq == e.rq) with
    | some r => s.countDiscard j c (sdOf r).vcore (sdOf r).sq 1
    | none => s) s
  (s.setCluster c { s.cluster c with rx := [], threads := (s.cluster c).threads.map (fun e =>
      (e.1, { thread0 0 with plan := e.2.plan })) }).setRxBytes c 0

/-- Requests of job j leave the FIFOs. -/
def State.dropRequests (s : State) (j : Nat) : State :=
  { s with hbm := { s.hbm with fifo := (s.hbm.fifo.map (fun e => (e.1, e.2.filter (fun r => r.job != j)))).filter (fun e => e.2 != []) } }

/-- The ledger drain of entry e (R62), after the pending entries that it forces out, or that have waited too long, are
marked for a promoted drain (R63). An entry's age grows at every later drain point of its job, so that with LIMIT 1 every
one is promoted at the first; the entries that this very drain point takes are not among the promoted ones (DESIGN CHOICE,
both, log entry 30). Of a program that does not bind the slots within the job's range are drained, no others. -/
def State.drainLedger (s : State) (j : Nat) (e : Splice) (b : List Byte) : State :=
  let x := s.job j
  let slots := (drainList b e).filter (· ≤ s.ledgerCount j)
  let lim := max 1 (s.fld (rg fnLedger 0x100) 7 0)
  let aged := s.ledger.shadow.map (fun y => if y.job = j then { y with age := y.age + 1 } else y)
  let mine := aged.filter (fun y => y.job == j)
  let due := mine.any (fun y => decide (lim ≤ y.age) || slots.contains y.rslot)
  let aged := if due then aged.map (fun y => if y.job = j then { y with promo := true } else y) else aged
  let s := { s with ledger := { s.ledger with shadow := aged } }
  let s := s.setJob j { x with promote := if due then 1 else 0 }
  slots.foldl (fun s r => s.drainSlot j x.step x.attempt r x.vary x.ordinal) s

/-- Selected fills of job j, step and attempt, that no ACCST compared are abandoned (R426). -/
def State.dropUncompared (s : State) (j n a : Nat) : State :=
  (List.range 32).foldl (fun s c =>
    let x := s.cluster c
    let gone (q : Check) : Bool := q.fill.job == j && q.fill.step == n && q.fill.attempt == a && q.sent.isEmpty
    let out := x.checks.filter gone
    let s := s.setCluster c { x with checks := x.checks.filter (fun q => !gone q) }
    (out.filter (!·.compared)).foldl (fun s q => s.bump (rg (fnCluster (clusterOf q.core)) 0x088) 31 0 1) s) s

/-- Every virtual core of job j as it stands. -/
def State.vcoresOf (s : State) (j : Nat) : Tab VCore :=
  let here := (s.coresOfJob j).filterMap (fun p => match (s.core p).bound with
    | some (_, vc) => some (vc, (s.core p).v)
    | none => none)
  let there := (s.job j).contexts.filterMap (fun e => e.2.map (fun x => (e.1, x.v)))
  tputAll vc0 [] (here ++ there)

/-- The step boundary (R53): the step that ends waits for its seal, the next one begins with attempt 0. -/
def State.endStep (s : State) (j : Nat) : State :=
  let x := s.job j
  let s := s.dropUncompared j x.step x.attempt
  let s := s.onVCores j (fun s _ v => (s, { v with fillNo := [], ended := [] }))
  s.setJob j { s.job j with
    step := x.step + 1, attempt := 0, vary := false, ordinal := 0, unsealed := some (x.step, x.attempt)
    unsealedVary := x.vary, passed := false, failed := x.failing, failing := false, updating := false
    savedOld := x.saved, oldSidx := x.stepSidx, oldOrd := x.stepOrd, saved := s.vcoresOf j, stepSidx := x.sidx, stepOrd := 0 }

/-- QUIESCE_DONE. -/
def execQuiesceDone (j : JobId) (s : State) : Out :=
  let x := s.job j
  if x.phase ≠ .quiesce ∨ s.stopped j then .next s
  else
    let s := s.faultStuck j (s.boundClusters j) true
    if s.stopped j then .next s
    else if !s.quiet j then
      .next ((s.setJob j { s.job j with waited := x.waited + 1 }).spliceWait (if x.waited < 32 then 0 else 1))
    else
      let e := s.entry j
      let b := if x.binding then ((x.pending.map (·.image)).getD (s.image j)) else s.image j
      let s := ((s.boundClusters j).foldl (fun s c => s.dropInbound j c) s).dropRequests j
      let s := s.drainLedger j e b
      let s := if x.stepMark then s.endStep j else s.setJob j { s.job j with ordinal := x.ordinal + 1 }
      .next (s.setJob j { s.job j with phase := .gates })

/-! Gates. -/

/-- Clusters and cores that a binding splice needs, the stacks of the job's pages and areas, its engines (R475, R492). -/
def State.bindReady (s : State) (j : Nat) : Bool :=
  let b := ((s.job j).pending.map (·.image)).getD []
  let ctx := (s.jobField j 24 8, (s.clustersOf j).length * 0x18C0000)
  let spill := (s.jobField j 32 8, (s.clustersOf j).length * 0x200000)
  let areas := [ctx, spill].flatMap (fun (a, n) => (List.range 8).filter (fun k => k * 0x2000000000 < a + n && a < (k + 1) * 0x2000000000))
  let pages := s.hbm.pages.filterMap (fun e => if pageValid e.2 && pageJob e.2 == j then some (e.1 / 0x40000) else none)
  let engines := (List.range 64).filterMap (fun k =>
    if fieldLE (s.rec1 8) (16 * k) 1 != 0 && fieldLE (s.rec1 8) (16 * k + 2) 1 == j then some (k / 8) else none)
  !s.flag (rg fnBist 0) 3 && (s.openClusters j).all (fun c => s.flag (rg (fnCluster c) 0) 0) &&
    (s.takes j (headerOf b)).all (fun c => !(s.cluster c).asleep) &&
    (areas ++ pages).all s.hbmReady && engines.all (fun r => s.flag (rg (fnRe r) 0) 0)

/-- A fetch, a checkpoint's reads or a Halo copy keeps the splice waiting (R367 to R369). -/
def State.servicesHold (s : State) (j : Nat) : Bool :=
  let x := s.job j
  let begins := x.stepMark || (x.binding && x.prog.isNone)
  (s.svcOf j).any (fun (_, v) =>
    (v.type == 1 && begins && v.step == x.step) ||
    ((s.entry j).update && (v.step + 2 == x.step) &&
      ((v.type == 2 && decide (v.moved < v.total)) || (v.type == 3 && decide (v.copied < v.total)))))

/-- Every connection's send queue is acknowledged up to C (R340). -/
def State.connsDrained (s : State) : Bool :=
  (List.range 64).all (fun k => !s.connUsed k || ahead (s.spill (2 * k)).q (s.spill (2 * k)).c == 0)

/-- A peer-table update is due at this splice: staged for the step that begins, or announced for it and not here. -/
def State.peerDue (s : State) (j : Nat) : Bool :=
  (s.job j).stepMark &&
    (match s.cmds.peer with
     | some u => u.job == j && u.step == (s.job j).step
     | none => s.net.mgens.any (fun m => m.1 == s.gen + 1 && m.2 == (s.job j).step))

def State.peerWaits (s : State) (j : Nat) : Bool :=
  s.peerDue j && (s.cmds.peer.isNone || !s.connsDrained)

/-- The update is applied: its entries, the generation, and HELLO for every connection whose entry changed (R340). -/
def State.applyPeers (s : State) (j : Nat) : State :=
  match s.cmds.peer with
  | none => s
  | some u =>
    if !s.peerDue j then s
    else
      let changed (i : Nat) (bs : List Byte) : Bool := s.mem.bytes (s.peerBase + 64 * i) 64 != bs
      let moved := (u.entries.filter (fun e => changed e.1 e.2)).map (·.1)
      let s := u.entries.foldl (fun s e => s.writeHbm (s.peerBase + 64 * e.1) e.2) s
      let s := (s.setFld (rg fnSch 0x038) 63 32 u.gen.toNat).setFlag (rg fnSch 0x038) 0 false
      let s := { s with cmds := { s.cmds with peer := none }
                        net := { s.net with mgens := s.net.mgens.filter (fun m => m.1 != u.gen.toNat) } }
      let s := (List.range 64).foldl (fun s k => if s.connUsed k && moved.contains (s.connPeer k) then s.reopenConn k else s) s
      s.finish 0 0x05 0 u.seq (BitVec.ofNat 64 u.id.toNat) (leBytes u.gen.toNat 4 ++ [0, 0, 0, 0] ++ leBytes u.step 8)

/-- The job's clusters' CCCs run. -/
def State.cccsUp (s : State) (j : Nat) : Bool := (s.openClusters j).all (fun c => s.flag (rg fnSec 0x010) c)

/-- A checked LOADBRAID waits for the running jobs to stop (R382). -/
def State.braidWaits (s : State) : Bool := s.cmds.braid.any (·.checked)

/-- Promoted drain entries of job j still to write (R63). -/
def State.promoLeft (s : State) (j : Nat) : Bool := s.ledger.shadow.any (fun y => y.job == j && y.promo)

def State.gatesClosed (s : State) (j : Nat) : Bool :=
  let x := s.job j
  !s.schReady || !s.cccsUp j || ((s.entry j).update && x.unsealed.isSome) || s.promoLeft j || !s.log.records.isEmpty ||
    (0 :: s.pairsOf j).any s.ringReady || s.peerWaits j || (s.braidWaits && x.prog.isSome) || (x.binding && !s.bindReady j)

/-- A Halo copy unfinished at its UPDATE splice runs on here (R369). -/
def State.finishHalo (s : State) (j : Nat) : State :=
  match s.haloOf j with
  | some (i, x) => if (s.entry j).update ∧ x.step + 2 = (s.job j).step then s.haloCopy i x (x.total / 64) else s
  | none => s

/-- A promoted drain due at this splice begins and is counted (R63). -/
def State.startPromoted (s : State) (j : Nat) : State :=
  if (s.job j).promote = 0 then s
  else ((s.setJob j { s.job j with promote := 0 }).bump (rg fnLedger 0x010) 31 0 1).note 0x63 0 fnSch (some j) { code := 1, unit := 1, d0 := 2000 }

/-- What firmware does at the gates before it looks at them: a promoted drain, the records that wait, a Halo copy. -/
def State.serveGates (s : State) (j : Nat) : State :=
  if s.schReady then ((s.startPromoted j).flushRecords.drainShadows (fun y => y.job == j && y.promo) 1024).finishHalo j else s

/-- GATES_OPEN. -/
def execGatesOpen (j : JobId) (s : State) : Out :=
  let x := s.job j
  if x.phase ≠ .gates ∨ s.stopped j then .next s
  else if s.boot.dead.contains 2 then .next (s.reportStop 0x60 fnSch j { unit := 2 })
  else
    let s := s.serveGates j
    let hold := s.servicesHold j
    if s.gatesClosed j ∨ hold then
      let s := s.setJob j { s.job j with gateClk := (s.job j).gateClk + 1 }
      .next ((if hold then s.bump (rg fnSch 0x048) 47 0 1 else s).spliceWait 1)
    else
      let x := s.job j
      let s := if x.gateClk = 0 then s else s.note 0x63 0 fnSch (some j) { code := 2, d0 := x.gateClk }
      let s := s.applyPeers j
      .next (s.setJob j { s.job j with
        phase := .modeChange, applying := x.staged.length, updating := (s.entry j).update || (s.job j).updating })

/-! Mode change (R385). -/

/-- CADENCE and PCAP of strand i come in force. -/
def State.setChipMode (s : State) (i : Nat) : State :=
  let b := s.strandRec i
  let cad := fieldLE b 2 1
  let cap := fieldLE b 3 1
  let s := if cad = 0xFF then s
    else (List.range 8).foldl (fun s n => s.setFlag (rg (fnHbm n) 0) 1 (cad == 0)) (s.setFld (rg fnChip 0x030) 32 32 cad)
  if cap = 0xFF then s
  else (s.setFld (rg fnChip 0x030) 35 34 cap).setFld (rg fnPwr 0x010) 47 32 (if cap = 0 then 1600 else if cap = 1 then 1900 else 2300)

/-- The pending chip mode applies: event 0x07, and its STRAND goes on. -/
def State.applyChip (s : State) (i : Nat) : State :=
  let s := s.setChipMode i
  let s := { s with cmds := { s.cmds with chip := none } }
  let s := s.event 0x07 fnChip none (leBytes (s.rd (rg fnChip 0x030)).toNat 8)
  match s.cmds.strands.find? (fun x => x.chip) with
  | none => s
  | some x =>
    let y := { x with chip := false }
    { s with cmds := { s.cmds with strands := s.cmds.strands.map (fun z => if z = x then y else z) } }.settleStrand y

/-- The PWR core runs: it is UP, and not held for want of the AON PLL (R489). -/
def State.pwrUp (s : State) : Bool := s.flag (rg fnSec 0x008) 1 && s.flag (rg fnClk 0) 9

/-- CHIP_MODE_APPLY. -/
def execChipModeApply (s : State) : Out :=
  match s.cmds.chip with
  | none => .next s
  | some i =>
    let waits (j : Nat) : Bool := (s.job j).prog.isNone || s.unspliced j || (s.job j).phase == .modeChange
    if s.pwrUp && s.definedJobs.all waits then .next (s.applyChip i) else .next s

/-! Background work (R285, R286). -/

/-- BIST.PINNEDi of core p. -/
def kPinned (p : Nat) : Nat := rg fnBist (0x048 + 8 * (p / 64))
def State.pinned (s : State) (p : Nat) : Bool := s.flag (kPinned p) (p % 64)

/-- BIST.LASTFAIL takes a failure unless one is recorded (R470). -/
def State.lastFail (s : State) (kind func unit row : Nat) : State :=
  let k := rg fnBist 0x028
  if s.flag k 40 then s
  else ((((s.setFlag k 40 true).setFld k 35 32 kind).setFld k 31 22 func).setFld k 15 8 unit).setFld k 7 0 row

/-- A record joins the repair table (R467, R470). -/
def State.addRepair (s : State) (r : Repair) : State :=
  if s.bist.table.any (fun q => { q with fused := false } == { r with fused := false }) then s
  else
    let s := { s with bist := { s.bist with table := s.bist.table ++ [r] } }
    let k := rg fnBist 0x018
    let s := s.bump k 47 32 1
    if r.kind = 0 then s.bump k 15 0 1 else if r.kind = 1 then s.bump k 31 16 1 else s

/-- The hole of core p is pinned: its bank failed. -/
def State.pinHole (s : State) (p : Nat) : State :=
  let h := s.fld (rg (fnCore p) 0x0D8) 5 0
  ((s.setFlag (kPinned p) (p % 64) true).lastFail 1 (fnCore p) h 0).addRepair ⟨p, 1, 0, h, false⟩

/-- A rotation (R237). -/
def State.rotate (s : State) (p : Nat) : State :=
  let k := rg (fnCore p) 0x0D8
  let h := s.fld k 5 0
  let down := h = 32 ∨ (s.flag k 6 ∧ h ≠ 0)
  ((s.setFlag k 6 down).setFld k 5 0 (if down then h - 1 else h + 1)).bump (rg fnBist 0x010) 31 0 1

/-- One slice on core p: an element, whose reads may differ, or the rotation that ends the cycle (R464, R465). -/
def State.slice (s : State) (p : Nat) (bad : Bool) : State :=
  if 2 ≤ s.role p ∨ s.pinned p ∨ (s.cluster (clusterOf p)).asleep then s
  else
    let k := tget z0 s.bist.cycle p
    let put (s : State) (n : Nat) : State := { s with bist := { s.bist with cycle := tput z0 s.bist.cycle p n } }
    if k = 12 then put (s.rotate p) 0
    else if bad ∧ k % 6 ≠ 0 then s.pinHole p
    else put s (k + 1)

/-- One slice of every tested core of job j (R463). -/
def State.bistTurn (s : State) (j : Nat) (bad : List Nat) : State :=
  ((s.clustersOf j).flatMap coresOf).foldl (fun s p => s.slice p (bad.contains p)) (s.bump (rg fnBist 0x008) 47 0 1)

/-- The next k granules of stack n's scrub pass are read. -/
def State.scrubReads (n : Nat) : Nat → State → State
  | 0, s => s
  | k + 1, s =>
    let i := tget z0 s.hbm.scrubbed n % 1024
    State.scrubReads n k (s.scrubRead n (i / 32) (i % 32))

/-- A turn of the scrub catch-up (R260): the write-backs that scrub owes, and of the reads that it owes as many as the turn
has time for, which nothing fixes (log entry 2). -/
def State.scrubTurn (s : State) : State :=
  let s := s.hbm.writeBack.foldl (fun s g => s.sealGranule g (s.poison.contains g)) { s with hbm := { s.hbm with writeBack := [] } }
  let (n, s) := s.draw
  (List.range 8).foldl (fun s k => State.scrubReads k (min (s.scrubBehind k) (n.toNat % 4096)) s) s

/-- Shadow entries that the ledger task may write at a splice of job j: those of earlier splices (R63). -/
def State.oldShadow (j : Nat) (y : Shadow) : Bool := !(y.job == j && y.age == 0)

/-- Work pending of a task: 0 ledger drain, 1 log drain, 2 scrub, 3 BIST slice, 4 Halo snapshot. -/
def State.taskPending (s : State) (j t : Nat) : Bool :=
  match t with
  | 0 => s.ledger.shadow.any (State.oldShadow j)
  | 1 => !s.log.entries.isEmpty
  | 2 => !s.hbm.writeBack.isEmpty || (!s.power.paused && (List.range 8).any (fun n => s.scrubBehind n != 0))
  | 3 => s.flag (rg fnBist 0) 0 && !(s.job j).hold &&
      ((s.clustersOf j).flatMap coresOf).any (fun p => decide (s.role p < 2) && !s.pinned p && !(s.cluster (clusterOf p)).asleep)
  | _ => (s.haloOf j).isSome

/-- One turn of a task. How much a turn of the drains and the copy does, nothing fixes (log entry 2). -/
def State.serveTask (s : State) (j t : Nat) (bad : List Nat) : State :=
  match t with
  | 0 => let (n, s) := s.draw; s.drainShadows (State.oldShadow j) (n.toNat % 1024)
  | 1 => let (n, s) := s.draw; s.drainLog (n.toNat % 4097)
  | 2 => s.scrubTurn
  | 3 => s.bistTurn j bad
  | _ =>
    match s.haloOf j with
    | some (i, x) => let (n, s) := s.draw; s.haloCopy i x n.toNat
    | none => s

/-- Threshold of a task, its promoted length in clk, its field of SCH.PROMOTE (Table 9.6). -/
def taskAge (age : W64) (t : Nat) : Nat := max 1 (getField age (8 * t - 1) (8 * t - 8))
def taskClk (t : Nat) : Nat := if t = 1 then 4000 else if t = 2 then 8000 else if t = 3 then 24000 else 16000

/-- Tasks 1 to 4 whose age has passed its threshold run before the slot's own turns. -/
def State.promoted (s : State) (j : Nat) : List Nat :=
  [1, 2, 3, 4].filter (fun t => decide (taskAge (s.job j).age t < tget z0 (s.job j).ages t) && s.taskPending j t)

def State.promoteTask (s : State) (j t : Nat) (bad : List Nat) : State :=
  let s := s.serveTask j t bad
  let s := s.bump (rg fnSch 0x028) (16 * t - 1) (16 * t - 16) 1
  s.note 0x63 0 fnSch (some j) { code := 1, unit := t + 1, d0 := taskClk t }

/-- The turns of the reserved slot: round-robin from the task after the one served last, one at least, as many as BGLEN has room for,
which nothing but the bound of R463 fixes. -/
def State.turns (s : State) (j : Nat) (bg : Nat) (bad : List Nat) (done : List Nat) : State × List Nat :=
  if bg = 0 then (s, done)
  else
    let (n, s) := s.draw
    let order := (List.range 5).map (fun i => ((s.job j).lastTask + i) % 5)
    let can := (order.filter (fun t => s.taskPending j t && !done.contains t && (t != 3 || 8300 ≤ bg))).take (1 + n.toNat % 5)
    (can.foldl (fun s t => let s := s.serveTask j t bad; s.setJob j { s.job j with lastTask := (t + 1) % 5 }) s, done ++ can)

/-- Ages after a splice: served tasks start again, the others that have work pending age. -/
def State.ageTasks (s : State) (j : Nat) (done : List Nat) : State :=
  let a := [1, 2, 3, 4].foldl (fun a t =>
    if done.contains t then tput z0 a t 0 else if s.taskPending j t then tput z0 a t (tget z0 a t + 1) else a) (s.job j).ages
  s.setJob j { s.job j with ages := a }

/-- MODE_CHANGE_DONE: a job waits here while a chip mode is pending; then the background work of the splice runs. bad
names the cores whose march element reads a differing word (R465). -/
def execModeChangeDone (j : JobId) (bad : List CoreId) (s : State) : Out :=
  let x := s.job j
  if x.phase ≠ .modeChange ∨ s.stopped j then .next s
  else if s.cmds.chip.isSome && x.prog.isSome then .next (s.spliceWait 1)
  else
    let ps := s.promoted j
    let bad := bad.map (·.val)
    let s := ps.foldl (fun s t => s.promoteTask j t bad) s
    let (s, done) := s.turns j (s.entry j).bglen bad ps
    .next ((s.ageTasks j done).setJob j { (s.ageTasks j done).job j with phase := .reserved })

/-- RESERVED_SLOT_DONE. -/
def execReservedSlotDone (j : JobId) (s : State) : Out :=
  let x := s.job j
  if x.phase = .reserved ∧ !s.stopped j then .next (s.setJob j { x with phase := .swap }) else .next s

/-! Swap and load. -/

/-- SWAP_DONE: back to round 0 (R273). -/
def execSwapDone (j : JobId) (s : State) : Out :=
  if (s.job j).phase ≠ .swap ∨ s.stopped j then .next s
  else
    let s := (s.boundClusters j).foldl (fun s c => if (s.cluster c).round = 0 then s else s.toRound j c 0) s
    .next (s.setJob j { s.job j with phase := .load })

/-- The waiting program is bound, or its command ends with BIND and the job keeps what it had (R268). -/
def State.bindPending (s : State) (j : Nat) (g : Program) : State :=
  let (pair, seq, id) := tget noLoad s.cmds.loads j
  let s := { s with cmds := { s.cmds with loads := tput noLoad s.cmds.loads j (0, 0, 0) } }
  let x := s.job j
  match s.bindBad j g.image with
  | some code =>
    let s := (s.setJob j { x with pending := none }).recordBind j code 0
    s.finish pair 0x02 0x07 seq id (s.refusal code)
  | none =>
    let s := s.bindProgram j g
    let s := s.setJob j { s.job j with sidx := 0, stepSidx := 0, oldSidx := 0, stepOrd := (s.job j).ordinal, oldOrd := 0 }
    let s := s.setJob j { s.job j with saved := s.vcoresOf j, savedOld := s.vcoresOf j }
    s.finish pair 0x02 0 seq id (digestBytes g.digest)

/-- LOAD_PHASE: a waiting program binds; a program that stays is checked and bound again if a fence moved it; the entry's
descriptors, queue records, stream directory and receive plan load. A binding splice whose program is refused ends here, and
strands that it had to apply do. -/
def execLoadPhase (j : JobId) (s : State) : Out :=
  let x := s.job j
  if x.phase ≠ .load ∨ s.stopped j then .next s
  else
    let s := match x.pending with
      | some g => s.bindPending j g
      | none => s
    let fresh := x.pending.isSome && (s.job j).pending.isNone && (s.job j).prog != x.prog
    let y := s.job j
    let fresh := fresh || (x.pending.isSome && (s.job j).prog == x.pending)
    let ended : State := (s.setJob j { y with phase := .span, binding := false }).applyStrands j y.applying
    match y.prog with
    | none => .next ended
    | some g =>
      if !fresh && x.binding then .next ended
      else
        match (if fresh then none else s.bindBad j g.image) with
        | some code => .next (s.bindStop j code y.sidx)
        | none =>
          let s := if !fresh && s.moved j then s.rebind j else s
          let e := s.spliceAt j y.sidx
          let s := s.loadSets j e
          let s := (s.boundClusters j).foldl (fun s c => s.loadStreams j c e) s
          let s := s.setJob j { s.job j with phase := .align, binding := false, started := true }
          .next (if y.aligned then s.alignReady j else s)

/-! Release (R279, R253, R312, R314). -/

/-- The tether conditions of a job's release: locked, and every link that carries its slots READY or carried. -/
def State.tetherOk (s : State) (j : Nat) : Bool :=
  let links := (s.recs 7).filterMap (fun b =>
    if (List.range 50).any (fun k => (fieldLE b (1 + 4 * k) 2).testBit 15 && bits (fieldLE b (1 + 4 * k) 2) 13 10 == j) then
      some (fieldLE b 0 1) else none)
  links.isEmpty || (s.flag kPodstat 16 && links.all (fun l => s.linkReady l || s.linkCarried l))

/-- Every stack ends its frame and starts a new one here; the refreshes not reached are owed (R253). -/
def State.rephase (s : State) : State :=
  let pos := (s.clk - s.hbm.frameAt) % 256
  let owed := (List.range 256).foldl (fun o k =>
    let n := ((List.range 192).filter (fun i => pos ≤ 4 * i / 3 && (s.slotAt (k / 32) i).1 == 1)).length
    tput z0 o k (tget z0 o k + (if pos = 0 then 0 else n))) s.hbm.owed
  { s with hbm := { s.hbm with owed, frameAt := s.clk } }

/-- The cores of cluster c begin a round together: its clk is 0, and no mailbox byte has been written in it (R50, R200). -/
def State.newClock (s : State) (c : Nat) : State :=
  let s := (coresOf c).foldl (fun s p => s.setCore p { s.core p with now := 0, heldN := 0 }) s
  s.setCluster c { s.cluster c with boxLog := [] }

/-- The virtual cores of cluster c's round that run begin their fills (R423). -/
def State.roundFills (s : State) (c : Nat) : State :=
  ((coresOf c).filter (fun p => s.onRound p && (s.core p).v.run == .running)).foldl (fun s p => beginFills s p) s

/-- The span starts: virtual cores that have not halted run, each in its round, fills begin, staged strands apply (R423,
R385). -/
def State.startSpan (s : State) (j : Nat) : State :=
  let go (v : VCore) : VCore := if v.run.isHalted then v else { v with run := .running }
  let s := s.onVCores j (fun s _ v => (s, go v))
  let x := s.job j
  let s := s.applyStrands j x.applying
  let s := (s.boundClusters j).foldl (fun s c =>
    let k := s.cluster c
    let s := if 1 < k.rounds then s.bump (rg (fnCluster c) 0x078) 31 0 1 else s
    ((s.setCluster c { s.cluster c with spanClk := 0, ticks := 0 }).newClock c).roundFills c) s
  s.setJob j { s.job j with phase := .span, release := none, retract := none, firstSidx := none, stepMark := false, aligned := false }

/-- SPAN_RELEASE: an aligned splice, or a restart, at its release beat; in fixed cadence another one at the next frame
boundary; in open cadence at once. -/
def execSpanRelease (j : JobId) (s : State) : Out :=
  let x := s.job j
  if x.phase ≠ .align ∨ s.stopped j ∨ (s.coresOfJob j).any (fun p => !(s.core p).fly.isEmpty) then .next s
  else if !s.tetherOk j then .next (s.spliceWait 1)
  else
    let count (s : State) : State := if x.retract.isSome then s else s.bump (rg fnSch 0x008) 47 0 1
    match x.release with
    | some b =>
      if s.beat.toNat < b then .next (if x.retract.isSome then s else s.spliceWait 1)
      else .next (count (s.rephase.startSpan j))
    | none =>
      if x.aligned then .next ((s.tryGather (s.group j)).spliceWait 1)
      else if !s.fixed then .next (count (s.startSpan j))
      else
        let w := (256 - (s.clk - s.hbm.frameAt) % 256) % 256
        let s := ({ s with clk := s.clk + w, beat := s.beat + BitVec.ofNat 64 w }).spliceWait w
        .next (count (s.startSpan j))

/-! Rounds (R272, R273, R526). -/

/-- Cores of cluster c that hold virtual cores of job j and of the round. -/
def State.roundCores (s : State) (j c : Nat) : List Nat :=
  (coresOf c).filter (fun p => (s.core p).bound.any (·.1 == j) && s.onRound p)

/-- Where virtual core vc of job j stands: on a core of cluster c, or in its image. -/
def State.runOf (s : State) (j c vc : Nat) : Option Run :=
  match (coresOf c).find? (fun p => (s.core p).bound == some (j, vc)) with
  | some p => some (s.core p).v.run
  | none => (s.context j vc).map (·.v.run)

/-- The next round of the cluster that has a virtual core to run. -/
def State.nextRound (s : State) (j c : Nat) : Option Nat :=
  let x := s.cluster c
  let live (r : Nat) : Bool := (List.range x.lanes.length).any (fun i => match (s.inRound j c r i).bind (s.runOf j c) with
    | some r => !r.isHalted && !r.isArrived
    | none => false)
  ((List.range x.rounds).filter (fun r => x.round < r)).find? live

/-- A descriptor of a round that cluster c has still to come to: what stands behind it waits there (R526). -/
def State.laterRound (s : State) (c : Nat) (r : BitVec 512) : Bool :=
  decide ((s.cluster c).round < (sdOf r).vcore / max 1 (s.cluster c).lanes.length)

/-- Instructions, folds, NETQ entries, outbound streams and kernels of the cluster's round are done (R273, R526). -/
def State.roundQuiet (s : State) (j c : Nat) : Bool :=
  let here := s.roundCores j c
  here.all (fun p => (s.core p).fly.isEmpty) && (s.cluster c).folds.isEmpty &&
    (List.range 64).all (fun q => (s.nq q).all (fun e => !here.contains e.core)) &&
    (s.cluster c).threads.all (fun t => t.2.stopped ||
      (t.2.list.takeWhile (fun r => !s.laterRound c r)).all (fun r => !(sdOf r).out)) &&
    (coresOf c).all (fun p => !s.suspect p)

/-- The round's inbound descriptors end, finished or not: threads go on behind them, requests for them are dropped. -/
def State.endRoundStreams (s : State) (c : Nat) : State :=
  let mine (t : Thread) : List (BitVec 512) := if t.stopped then [] else t.list.takeWhile (fun r => !s.laterRound c r)
  let x := s.cluster c
  let cut (t : Thread) : Thread :=
    let l := mine t
    if l = [] then t
    else { thread0 0 with list := t.list.drop l.length, outQ := t.outQ, plan := t.plan.drop (netCount l) }
  let gone := (x.threads.filter (fun e => mine e.2 != [])).map (·.1)
  let fifo := (s.hbm.fifo.map (fun e => (e.1, e.2.filter (fun r => !(r.cluster == c && gone.contains r.thread))))).filter (fun e => e.2 != [])
  ({ s with hbm := { s.hbm with fifo } }).setCluster c
    { x with threads := x.threads.map (fun (e : Nat × Thread) => (e.1, cut e.2)) }

/-- The quiesce at a round boundary stops the round's inbound threads: what they have not delivered is discarded and counted
(R273, R278). -/
def State.dropRound (s : State) (j c : Nat) : State :=
  ((s.roundCores j c).foldl (fun s p => match (s.core p).bound with
    | some (_, vc) =>
      let (s, v) := s.dropEntries j c vc (s.core p).v
      s.setV p v
    | none => s) s).endRoundStreams c

/-- ROUND_BOUNDARY: every virtual core of the cluster's round has arrived or halted and is quiet: the cluster goes to its
next round that has a virtual core to run. -/
def execRoundBoundary (c : ClusterId) (s : State) : Out :=
  match s.jobOf c with
  | none => .next s
  | some j =>
    let x := s.cluster c
    let here := s.roundCores j c
    let stand := here.all (fun p => (s.core p).v.run.isArrived || (s.core p).v.run.isHalted)
    match s.nextRound j c with
    | none => .next s
    | some r =>
      if (s.job j).phase ≠ .span ∨ s.stopped j ∨ x.swapping ∨ !stand then .next s
      else
        let s := s.faultStuck j [c] false
        if s.stopped j ∨ !s.roundQuiet j c then .next s
        else
          let s := (s.dropRound j c).toRound j c r
          .next (s.setCluster c { s.cluster c with swapping := true })

/-- ROUND_SWAP_DONE: the round starts. -/
def execRoundSwapDone (c : ClusterId) (s : State) : Out :=
  let x := s.cluster c
  if !x.swapping then .next s
  else
    let s := s.setCluster c { x with swapping := false }
    .next ((s.newClock c).roundFills c)

end Sys2Proof.Machine
end

