-- ==== Sys2Proof/Machine/Check.lean ====
section
/-! DEFINITION. Checks of the arrays (R425 to R431, R434, R455): replay and comparison of ended fills, a step's local
result, cross-checks and the known-answer kernels. -/

namespace Sys2Proof.Machine

/-! Replay (R425). -/

/-- The state of a replay: the weights in force and the pairs of rows. -/
structure Replay where
  w    : Option WTile
  rows : Tab (List (W32 × W32))

def noRow : Nat → List (W32 × W32) := fun _ => []

/-- One captured item. -/
def Replay.item (r : Replay) (x : Capture) : Replay :=
  match x with
  | .weights w => { r with w }
  | .pairs row ps => { r with rows := tput noRow r.rows row ps }
  | .mma row0 klen tag bs rows =>
    if klen = 0 then r
    else
      { r with rows := rows.zipIdx.foldl (fun t (a, i) =>
          let ps := (tget noRow t (row0 + i)).map (fun q => Pair.mk q.1 q.2 false)
          let out := (passRow tag (bs != 0) r.w (a.map (fun x => (x.1, x.2, false))) ps).val
          tput noRow t (row0 + i) (out.map (fun q => (q.hi, q.lo)))) r.rows }

/-- The captured passes in capture order. -/
def replay (l : List Capture) : Tab (List (W32 × W32)) := (l.foldl Replay.item ⟨none, []⟩).rows

/-- The check that cluster c's check core replays next: round-robin by the main core's slot, oldest first. -/
def Cluster.nextReplay (x : Cluster) : Option (Nat × Check) :=
  (List.range 9).findSome? (fun i =>
    let slot := (x.chkSlot + i) % 9
    (x.checks.find? (fun q => !q.replayed && q.core % 9 == slot)).map (fun q => (slot, q)))

/-- Checks held by a check core that has left service are lost (R424, R442). -/
def State.loseChecks (s : State) (c : Nat) : State :=
  let x := s.cluster c
  let s := s.setCluster c { x with checks := [] }
  (x.checks.filter (!·.compared)).foldl (fun s q => s.bump (rg (fnCluster (clusterOf q.core)) 0x088) 31 0 1) s

/-- SHADOW_REPLAY: one ended fill; a cross-check pre-empts it. -/
def execShadowReplay (c : ClusterId) (s : State) : Out :=
  if (s.checkCore c).isNone then .next (s.loseChecks c)
  else if s.contain.digests ≠ [] then .next s
  else
    let x := s.cluster c
    match x.nextReplay with
    | none => .next s
    | some (slot, q) =>
      let y := { q with replayed := true, result := replay q.fill.items, fill := { q.fill with items := [] } }
      .next (s.setCluster c { x with chkSlot := (slot + 1) % 9, checks := x.checks.map (fun z => if z = q then y else z) })

/-! Comparison (R426, R427). -/

/-- Differing elements of the rows sent, as (row, column). A poisoned element is not compared. -/
def Check.differ (q : Check) (flip : Bool) : List (Nat × Nat) :=
  let all := q.sent.flatMap (fun (r, ps) =>
    ((ps.zip (tget noRow q.result r)).zipIdx.filter (fun (x, _) => !x.1.poison)).map (fun (x, i) => (r, i, x.1, x.2)))
  let bad := (all.drop (if flip then 1 else 0)).filter (fun (_, _, p, e) => !(p.hi == e.1 && p.lo == e.2))
  let first := if flip then (all.take 1).filter (fun (_, _, p, e) => !(p.hi == (e.1 ^^^ 1) && p.lo == e.2)) else []
  (first ++ bad).map (fun (r, i, _, _) => (r, i))

/-- A core awaits known-answer kernels (R427, R453). -/
def State.setSuspect (s : State) (p : Nat) : State := s.setFlag (rg (fnCore p) 0x0E8) 2 true

/-- The effects of a mismatch found by the check core of cluster c (R427). -/
def State.mismatch (s : State) (c : Nat) (q : Check) (bad : List (Nat × Nat)) : State :=
  let f := q.fill
  let (row, col) := bad.headD (0, 0)
  let live := s.runsStep f.job f.step f.attempt
  let s := s.bump (rg (fnCluster (clusterOf q.core)) 0x090) 31 0 1
  let s := s.report 0x40 2 (fnCore q.core) (some f.job)
    { action := if live then 2 else 0, unit := q.core, d0 := f.vc + f.k * 2 ^ 16 + f.f * 2 ^ 32, d1 := row * 2 ^ 32 + col, d2 := bad.length }
  let s := s.setSuspect q.core
  match s.checkCore c with
  | none => s
  | some k =>
    let s := s.setSuspect k
    if !live then s
    else
      let s := { s with contain := { s.contain with suspects := s.contain.suspects ++ [(q.core, k, 0)] } }
      s.failStep f.job f.step f.attempt

/-- The comparison of a replayed fill with the pairs sent since the last one. -/
def State.compare (s : State) (c : Nat) (q : Check) : State :=
  let x := s.cluster c
  let f := q.fill
  let bad := q.differ x.flip
  let y := { q with sent := [], compared := true, mismatch := q.mismatch || !bad.isEmpty }
  let open_ := (s.job f.job).step == f.step && (s.job f.job).attempt == f.attempt
  let s := s.setCluster c { x with flip := false,
                                   checks := if open_ then x.checks.map (fun z => if z = q then y else z) else x.checks.erase q }
  let s := if q.compared then s else s.bump (rg (fnCluster (clusterOf q.core)) 0x080) 63 32 1
  let e := (c, f.job, f.step, f.attempt)
  let s := if s.contain.compared.contains e then s else { s with contain := { s.contain with compared := s.contain.compared ++ [e] } }
  if bad.isEmpty || q.mismatch then s else s.mismatch c q bad

/-- SHADOW_COMPARE. -/
def execShadowCompare (c : ClusterId) (s : State) : Out :=
  if (s.checkCore c).isNone then .next s
  else match (s.cluster c).checks.find? (fun q => q.replayed && !q.sent.isEmpty) with
    | none => .next s
    | some q => .next (s.compare c q)

/-- CHKINJECT.FLIP is armed at the check core that serves the cluster. -/
def State.armFlip (s : State) (c : Nat) : State :=
  match s.servedBy c with
  | none => s
  | some d => s.setCluster d { s.cluster d with flip := true }

/-- CHKINJECT_FLIP: an expert-page write. -/
def execChkinjectFlip (c : ClusterId) (s : State) : Out :=
  if s.flag (rg (fnCluster c) 0x020) 0 then .next (s.armFlip c) else .next s

/-! Local result (R434). -/

/-- Pairs of step n, attempt a of job j still wait for their comparison. -/
def State.unresolved (s : State) (j n a : Nat) : Bool :=
  (List.range 32).any (fun c => (s.checkCore c).isSome && (s.cluster c).checks.any (fun q =>
    q.fill.job == j && q.fill.step == n && q.fill.attempt == a && !q.sent.isEmpty))

/-- STEP_PASS_LOCAL. -/
def execStepPassLocal (j : JobId) (s : State) : Out :=
  let x := s.job j
  match x.unsealed with
  | none => .next s
  | some (n, a) =>
    if x.failed ∨ s.stopped j ∨ x.retract.isSome ∨ (!x.passed ∧ s.unresolved j n a) then .next s
    else .next ((s.setJob j { x with passed := true }).tryPass (s.group j) n a)

/-! Cross-checks (R429, R430). -/

/-- Check cores in service, and enabled cores that no running program binds. -/
def State.participants (s : State) : List Nat :=
  (List.range 288).filter (fun p =>
    s.flag (rg (fnCluster (clusterOf p)) 0) 0 && s.flag (rg fnSec 0x010) (clusterOf p) && !(s.cluster (clusterOf p)).asleep &&
      (s.role p == 1 || (s.role p == 0 && ((s.core p).bound.isNone || (s.core p).v.run.isHalted || (s.core p).v.run == .stopped))))

/-- CROSS_CHECK, at each beat time that is a multiple of 10 ms: each participant's digest comes out of a kernel that the spec does
not give (log entry 2). -/
def execCrossCheck (epoch : W64) (s : State) : Out :=
  if !s.schReady ∨ s.beat.toNat ≠ 10000000 * epoch.toNat ∨ s.contain.crossed = epoch.toNat + 1 ∨ s.contain.digests ≠ [] then .next s
  else
    let s := { s with contain := { s.contain with epoch := epoch.toNat, crossed := epoch.toNat + 1 } }
    .next (s.participants.foldl (fun s p =>
      let (lo, s) := s.draw
      let (hi, s) := s.draw
      let s := s.bump (rg (fnCluster (clusterOf p)) 0x098) 63 32 1
      { s with contain := { s.contain with digests := s.contain.digests ++ [(p, hi ++ lo)] } }) s)

/-- Report 0x41 of a core that a cross-check fences. -/
def State.crossReport (s : State) (p n : Nat) : State :=
  s.report 0x41 2 (fnCore p) (s.jobOf (clusterOf p)) { action := 3, unit := p, d0 := s.contain.epoch, d1 := n }

/-- A check core that a cross-check fences makes the unsealed steps fail whose fills it compared since its last passing
one (R430). -/
def State.distrust (s : State) (p : Nat) : State :=
  let l := s.contain.compared.filter (fun e => e.1 == clusterOf p)
  let s := { s with contain := { s.contain with compared := s.contain.compared.filter (fun e => e.1 != clusterOf p) } }
  l.foldl (fun s (_, j, n, a) => s.failStep j n a) s

/-- A core fenced by a cross-check of n participants. -/
def State.crossFence (s : State) (p n : Nat) : State :=
  let check := s.role p == 1
  let s := (s.crossReport p n).fenceCore p 0x41
  if check then s.distrust p else s

/-- The digest that more than half of the participants have. -/
def majority (t : List (Nat × BitVec 128)) : Option (BitVec 128) :=
  (t.find? (fun e => decide (t.length < 2 * (t.filter (fun f => f.2 == e.2)).length))).map (·.2)

/-- CROSS_CHECK_COMPARE. -/
def execCrossCheckCompare (s : State) : Out :=
  let t := s.contain.digests
  if t.isEmpty ∨ !s.schReady then .next s
  else
    let s := { s with contain := { s.contain with digests := [] } }
    let m := majority t
    let bad := (t.filter (fun e => decide (m ≠ some e.2))).map (·.1)
    let s := bad.foldl (fun s p => s.bump (rg (fnCluster (clusterOf p)) 0x098) 31 0 1) s
    let good := (t.map (·.1)).filter (fun p => !bad.contains p && s.role p == 1)
    let s := { s with contain := { s.contain with compared := s.contain.compared.filter (fun e => !(good.map clusterOf).contains e.1) } }
    if t.length = 2 then
      if bad.isEmpty then .next s
      else
        let two := (t.map (·.1)).filter (fun p => s.role p == 1)
        let pairs := if two = [] then (t.take 1).flatMap (fun e => (t.drop 1).map (fun f => (e.1, f.1, 6)))
          else two.flatMap (fun p => (t.filter (fun e => e.1 != p)).map (fun e => (p, e.1, 3)))
        .next { s with contain := { s.contain with suspects := s.contain.suspects ++ pairs } }
    else if m.isNone then .next s
    else .next (bad.foldl (fun s p => s.crossFence p t.length) s)

/-! Known-answer kernels (R431, R439). -/

/-- A fence that both cores' passing brings about: of a suspect main core under a retract with reason 0x40, of the check
core of a cross-check of two, and of nobody where neither of the two is a check core. -/
def State.passedFence (s : State) (x : Nat × Nat × Nat) : State :=
  if x.2.2 < 3 then s.fenceCore x.1 0x40 else if x.2.2 < 6 then s.crossFence x.1 2 else s

/-- The kernels of core p end: a differing core is fenced with reports 0x42 and 0x50. -/
def State.katDone (s : State) (p : Nat) (failing : Option Nat) : State :=
  let job := s.jobOf (clusterOf p)
  let mine := s.contain.suspects.filter (fun x => x.1 == p || x.2.1 == p)
  match failing with
  | some k =>
    let s := s.report 0x42 2 (fnCore p) job { code := k, action := 3, unit := p }
    let check := s.role p == 1
    let cross := mine.any (fun x => 3 ≤ x.2.2)
    let s := if cross then s.crossReport p 2 else s
    let s := { s with contain := { s.contain with suspects := s.contain.suspects.filter (fun x => !mine.contains x) } }
    let s := s.fenceCore p 0x42
    if cross && check then s.distrust p else s
  | none =>
    let s := s.setFlag (rg (fnCore p) 0x0E8) 2 false
    let due (x : Nat × Nat × Nat) : Bool := (x.1 == p && x.2.2 % 3 == 2) || (x.2.1 == p && x.2.2 % 3 == 1)
    let l := s.contain.suspects.filter due
    let left := (s.contain.suspects.filter (fun x => !due x)).map (fun x =>
      if x.1 = p then (x.1, x.2.1, x.2.2 / 3 * 3 + 1) else if x.2.1 = p then (x.1, x.2.1, x.2.2 / 3 * 3 + 2) else x)
    l.foldl State.passedFence { s with contain := { s.contain with suspects := left } }

/-- Groups whose retract awaits this chip's QUIESCED go on (R439). -/
def State.resumeGroups (s : State) : State :=
  (List.range 16).foldl (fun s g =>
    let c := (s.grp g).retracted
    if c = 0 ∨ (s.grp g).sentQ then s else s.tryQuiesced State.applyRestart g ((c - 1) / 256) ((c - 1) % 256)) s

/-- An occasion of R431 for core p: its cluster is coming into service, a reset of it is under way, or it is suspect and
no core of its cluster runs. -/
def State.katOccasion (s : State) (p : Nat) : Bool :=
  let c := clusterOf p
  let asked := s.suspect p || s.contain.suspects.any (fun x => x.1 == p || x.2.1 == p)
  let still := (coresOf c).all (fun q => (s.core q).v.run != .running && (s.core q).fly.isEmpty)
  let reset := match s.contain.frst with
    | none => false
    | some f => if f.job then (s.clustersOf f.target).contains c else f.target == fnCore p || f.target == fnCluster c
  !s.flag (rg (fnCluster c) 0) 0 || reset || (asked && still)

end Sys2Proof.Machine
end

