-- ==== Sys2Proof/Machine/Seal.lean ====
section
/-! DEFINITION. Control messages (Table 10.5, Table 11.7, Table 15.3): echoes, gathers and releases, takeover of the
root, the seal and retract of steps, membership (R310 to R312, R339 to R341, R437 to R441). A frame and a CTRL packet
process their messages by the same operations. -/

namespace Sys2Proof.Machine

/-! Echoes (R311). The turnaround of a reply, and the beat time of an ECHO, are those of transmission: until then the
reply holds the time of its ECHO's decoding. -/

/-- TETHERl.PEER: the chip and link that the other end names. -/
def State.seePeer (s : State) (l from_ coord : Nat) : State :=
  let p := rg (fnTether l) 0x048
  ((s.setFld p 8 0 coord).setFld p 11 9 (linkDir from_)).setFld p 13 12 (linkIndex from_)

def State.onEcho (s : State) (l : Nat) (m : CtlMsg) : State :=
  let s := s.sendLink l (ctlMsg 0x02 (l + 256 * s.ownCoord + 2 ^ 24 * (s.linkTime % 2 ^ 32)) m.hi.toNat)
  s.seePeer l (m.at 1 1) (m.at 2 2)

/-- ECHO. -/
def execEcho (l : LinkId) (msg : CtlMsg) (s : State) : Out :=
  if msg.is 0x01 then .next (s.onEcho l msg) else .next s

/-- A round trip; DELAY takes the mean of 64, and half of it rounded to the nearest ns. -/
def State.onEchoReply (s : State) (l : Nat) (m : CtlMsg) : State :=
  let s := s.seePeer l (m.at 1 1) (m.at 2 2)
  let x := s.link l
  let es := x.echoes ++ [s.linkTime - m.hi.toNat - m.at 4 4]
  if es.length < 64 then s.setLink l { x with echoes := es }
  else
    let sum := es.foldl (· + ·) 0
    let k := rg (fnTether l) 0x040
    ((s.setLink l { x with echoes := [], measured := true }).setFld k 31 16 ((sum + 32) / 64)).setFld k 15 0 ((sum + 64) / 128)

/-- ECHOREPLY. -/
def execEchoReply (l : LinkId) (msg : CtlMsg) (s : State) : Out :=
  if msg.is 0x02 then .next (s.onEchoReply l msg) else .next s

/-! Alignment (R312). -/

def State.onGather (s : State) (src : MsgSrc) (m : CtlMsg) : State :=
  let g := m.group
  let x := s.grp g
  if !src.isLink then s
  else if m.at 2 2 ≠ x.seq.toNat then s.stopGroup g 0x16 (·.sidx)
  else (s.setGrp g { x with gathered := sins src.num x.gathered, ready := max x.ready m.hi.toNat }).tryGather g

/-- GATHER: a SEQ that differs stops the group's jobs with bind fault 0x16. -/
def execGather (src : MsgSrc) (msg : CtlMsg) (s : State) : Out :=
  if msg.is 0x03 then .next (s.onGather src msg) else .next s

def State.onRelease (s : State) (src : MsgSrc) (m : CtlMsg) : State :=
  let g := m.group
  if !src.isLink then s
  else if m.at 2 2 ≠ (s.grp g).seq.toNat then s.stopGroup g 0x16 (·.sidx)
  else s.applyRelease g m.hi.toNat

/-- RELEASE. -/
def execRelease (src : MsgSrc) (msg : CtlMsg) (s : State) : Out :=
  if msg.is 0x04 then .next (s.onRelease src msg) else .next s

/-! Takeover of the root (R310). -/

/-- Hops along one axis of the torus, and from a chip to another. -/
def axisHops (n a b : Nat) : Nat :=
  let d := if a ≤ b then b - a else a - b
  min d (n - d)
def State.hopsTo (s : State) (coord : Nat) : Nat :=
  axisHops (s.podByte 0) (s.podByte 3) (coord % 8) + axisHops (s.podByte 1) (s.podByte 4) (coord / 8 % 8) +
    axisHops (s.podByte 2) (s.podByte 5) (coord / 64 % 8)

/-- The chip locks to link l; ALT says that this is no timing parent of its first tree. -/
def State.lockTo (s : State) (l : Nat) (alt : Bool) : State :=
  ((s.setFld kPodstat 23 19 l).setFlag kPodstat 18 alt).setFlag kPodstat 17 false

/-- A root that is one no more: no port has PTP lock (R343). -/
def State.loseRoot (s : State) : State :=
  (List.range 8).foldl (fun s e => s.setFlag (rg (fnEth e) 0) 1 false) (s.setFlag kPodstat 9 false)

/-- A takeover comes down the second tree, from the chip's parent there: it goes on down, and the chip locks to that parent.
The braid names no children of the second tree, so the message goes to every neighbour but the parent, and a chip takes it
from its parent only (log entry 34). -/
def State.onRoot (s : State) (src : MsgSrc) (m : CtlMsg) : State :=
  let coord := m.at 2 2 % 512
  if s.net.newRoot = coord + 1 ∨ s.podByte 18 ≠ src.num then s
  else
    let s := { s with net := { s.net with newRoot := coord + 1, holdover := 0 } }
    let s := (List.range 6).foldl (fun s d => if d = src.num then s else s.sendDir d m) s
    let s := s.loseRoot.setFld kPodstat 27 24 (s.hopsTo coord)
    match (bundleLinks (s.podByte 18)).find? s.linkReady with
    | some l => s.lockTo l true
    | none => s

/-- ROOT. -/
def execRoot (src : MsgSrc) (msg : CtlMsg) (s : State) : Out :=
  if msg.is 0x05 && src.isLink then .next (s.onRoot src msg) else .next s

/-! Seal and retract (R438, R439, R441). -/

/-- The seal root learns by which connection a pod's root reaches it. -/
def State.noteRoot (s : State) (src : MsgSrc) (g : Nat) : State :=
  match src with
  | .link _ => s
  | .conn k => s.setGrp g { s.grp g with roots := sins k.val (s.grp g).roots }

/-- The message comes to this chip as the seal root: by a connection, or up its own tree when it is the pod root too. -/
def State.asSealRoot (s : State) (src : MsgSrc) : Bool := s.isSealRoot && (s.isRoot || !src.isLink)

def State.onPass (s : State) (src : MsgSrc) (m : CtlMsg) : State :=
  let g := m.group
  let n := m.step
  let a := m.attempt
  if s.sealStale g n a then s
  else
    let s := (s.noteRoot src g).openPass g n a
    let s := s.setGrp g { s.grp g with passed := sins src.num (s.grp g).passed }
    if src.isLink then s.tryPass g n a else s.trySeal g n a

/-- PASS. -/
def execPass (src : MsgSrc) (msg : CtlMsg) (s : State) : Out :=
  if msg.is 0x10 then .next (s.onPass src msg) else .next s

def State.onSeal (s : State) (m : CtlMsg) : State :=
  if s.sealStale m.group m.step m.attempt then s.ignoreSeal else s.applySeal m.group m.step m.attempt

/-- SEAL. -/
def execSeal (_src : MsgSrc) (msg : CtlMsg) (s : State) : Out :=
  if msg.is 0x11 then .next (s.onSeal msg) else .next s

def State.onFail (s : State) (src : MsgSrc) (m : CtlMsg) : State :=
  let g := m.group
  if s.sealStale g m.step m.attempt then s.ignoreSeal
  else (s.noteRoot src g).failUp g m.step m.attempt (m.at 3 3) (s.asSealRoot src)

/-- FAIL. -/
def execFail (src : MsgSrc) (msg : CtlMsg) (s : State) : Out :=
  if msg.is 0x12 then .next (s.onFail src msg) else .next s

def State.onRetract (s : State) (m : CtlMsg) : State :=
  if s.sealStale m.group m.step m.attempt then s.ignoreSeal
  else s.applyRetract State.applyRestart m.group m.step m.attempt

/-- RETRACT. -/
def execRetract (_src : MsgSrc) (msg : CtlMsg) (s : State) : Out :=
  if msg.is 0x13 then .next (s.onRetract msg) else .next s

def State.onQuiesced (s : State) (src : MsgSrc) (m : CtlMsg) : State :=
  let g := m.group
  let c := stepCode m.step m.attempt
  let x := s.grp g
  if x.retracted ≠ c ∧ x.answered ≠ c then s
  else
    let s := s.noteRoot src g
    (s.setGrp g { s.grp g with quiesced := sins src.num (s.grp g).quiesced }).tryQuiesced State.applyRestart g m.step m.attempt

/-- QUIESCED. -/
def execQuiesced (src : MsgSrc) (msg : CtlMsg) (s : State) : Out :=
  if msg.is 0x14 then .next (s.onQuiesced src msg) else .next s

/-- RESTART names the step by its low 40 bits: it is that of the retract the chip performed. -/
def State.onRestart (s : State) (m : CtlMsg) : State :=
  let g := m.group
  let c := (s.grp g).retracted
  if c = 0 then s
  else
    let n := (c - 1) / 256
    let a := (c - 1) % 256 + 1
    if m.attempt = a ∧ m.at 3 5 = n % 2 ^ 40 then s.applyRestart g n a m.hi.toNat else s

/-- RESTART. -/
def execRestart (_src : MsgSrc) (msg : CtlMsg) (s : State) : Out :=
  if msg.is 0x15 then .next (s.onRestart msg) else .next s

/-! Membership (R339, R340). -/

/-- The entry that names the chip at LOC: its own, or that of its pod. -/
def State.peerOf (s : State) (loc : Nat) : Option Nat :=
  match s.peerList.find? (fun i => s.peerPod i && s.peerState i != 0 && s.peerLoc i % 256 == loc % 256) with
  | some i => some i
  | none => s.peerList.find? (fun i => !s.peerPod i && s.peerState i != 0 && s.peerLoc i == loc % 2 ^ 17)

/-- MDOWN reaches the chip: the entry becomes SUSPECT unless it is DOWN, and the message goes on once. -/
def State.onMdown (s : State) (src : MsgSrc) (m : CtlMsg) : State :=
  if s.net.mdowns.contains m then s
  else
    let s := { s with net := { s.net with mdowns := s.net.mdowns ++ [m] } }
    let s := match s.peerOf (m.at 1 3) with
      | some i => if s.peerState i = 3 then s else s.markPeer i 2
      | none => s
    s.spread m (some src)

/-- MDOWN. -/
def execMdown (src : MsgSrc) (msg : CtlMsg) (s : State) : Out :=
  if msg.is 0x20 then .next (s.onMdown src msg) else .next s

/-- MGEN: a neighbour's update for generation G takes effect at a step, so this chip's does. -/
def State.onMgen (s : State) (m : CtlMsg) : State :=
  let e := (m.at 1 4, m.hi.toNat)
  if e.1 ≤ s.gen ∨ s.net.mgens.contains e then s else { s with net := { s.net with mgens := s.net.mgens ++ [e] } }

/-- MGEN. -/
def execMgen (_src : MsgSrc) (msg : CtlMsg) (s : State) : Out :=
  if msg.is 0x21 then .next (s.onMgen msg) else .next s

/-- PEER_SILENCE_TIMEOUT: an open connection has received nothing for 8 ms. -/
def execPeerSilenceTimeout (k : ConnId) (s : State) : Out :=
  let x := s.conn k
  if !s.connUsed k ∨ x.state ≠ 1 ∨ s.linkTime < x.heard + 8000000 then .next s
  else .next ((s.setConn k { x with state := 2 }).reportPeer (s.connPeer k) 2)

/-! Any message, as a frame or a packet carries it. -/

/-- A message is processed by its TYPE. Types without a meaning count in UNCORR of the link they came by. -/
def State.control (s : State) (src : MsgSrc) (m : CtlMsg) : State :=
  match src, m.type.toNat with
  | .link _, 0x00 => s
  | .link l, 0x01 => s.onEcho l m
  | .link l, 0x02 => s.onEchoReply l m
  | .link _, 0x03 => s.onGather src m
  | .link _, 0x04 => s.onRelease src m
  | .link _, 0x05 => s.onRoot src m
  | _, 0x10 => s.onPass src m
  | _, 0x11 => s.onSeal m
  | _, 0x12 => s.onFail src m
  | _, 0x13 => s.onRetract m
  | _, 0x14 => s.onQuiesced src m
  | _, 0x15 => s.onRestart m
  | _, 0x20 => s.onMdown src m
  | _, 0x21 => s.onMgen m
  | .link l, _ => s.bump (rg (fnTether l) 0x060) 63 0 1
  | .conn _, _ => s

end Sys2Proof.Machine
end

