-- ==== Sys2Proof/Machine/Sends.lean ====
section
/-! DEFINITION. Frames out of the Ethernet ports (R318 to R322, R343): the addresses of a port, next hops, traffic classes,
and what holds a frame back. -/

namespace Sys2Proof.Machine

/-! Ports (R318, R343, R345). -/

/-- The PORT record of a port and sub-port. -/
def State.portRec (s : State) (e sub : Nat) : List Byte :=
  ((s.recs 9).find? (fun b => fieldLE b 0 1 == e && fieldLE b 1 1 == sub)).getD []

/-- Two 400 Gb/s sub-ports. -/
def State.portSplit (s : State) (e : Nat) : Bool := (fieldLE (s.portRec e 0) 2 1).testBit 0
/-- Line rate of a port, bit/s. -/
def State.lineRate (s : State) (e : Nat) : Nat := if s.portSplit e then 400000000000 else 800000000000

def State.countRx (s : State) (e : Nat) : State := s.bump (rg (fnPort e) 0x040) 63 0 1
def State.countTx (s : State) (e n : Nat) : State := s.bump (rg (fnPort e) 0x048) 63 0 n
def State.countDrop (s : State) (e : Nat) : State := s.bump (rg (fnPort e) 0x050) 63 0 1

/-- A braid is in force (R375). -/
def State.braidLoaded (s : State) : Bool := s.flag (rg fnChip 0x010) 0

/-- MAC address of a port or sub-port, from the fused block of 32: MGMT has the base. -/
def State.macOf (s : State) (e sub : Nat) : BitVec 48 :=
  s.boot.fuses.mac + BitVec.ofNat 48 (if e = 8 then 0 else 1 + 2 * e + sub)

/-- Addresses of many receivers that the protocols of a port use (log entry 65): broadcast, LLDP and peer delay, PFC, PTP
over Ethernet and IPv4, and IPv6 multicast. -/
def groupMac (m : BitVec 48) : Bool :=
  [0xFFFFFFFFFFFF, 0x0180C200000E, 0x0180C2000001, 0x011B19000000, 0x01005E000181, 0x01005E00006B].contains m.toNat ||
    m.toNat / 2 ^ 32 == 0x3333

/-- The port takes frames for this address. -/
def State.macOk (s : State) (e sub : Nat) (m : BitVec 48) : Bool := m == s.macOf e sub || groupMac m

/-! IP (R320). -/

def v4Prefix : Nat := 0xFFFF00000000
def isV4 (a : BitVec 128) : Bool := a.toNat / 2 ^ 32 == 0xFFFF

/-- The port's own address of a family; MGMT without a PORT record has what DHCP gave it. -/
def State.portAddr (s : State) (e sub : Nat) (v4 : Bool) : BitVec 128 :=
  let b := s.portRec e sub
  if b = [] then s.boot.bound
  else if v4 then BitVec.ofNat 128 (v4Prefix + beNat ((b.drop 8).take 4))
  else BitVec.ofNat 128 (beNat ((b.drop 16).take 16))

/-- The next hop toward a: a itself within the port's prefix, else the gateway of its family. -/
def State.nextHop (s : State) (e sub : Nat) (a : BitVec 128) : BitVec 128 :=
  let b := s.portRec e sub
  let v4 := isV4 a
  let host := if v4 then 32 - fieldLE b 6 1 else 128 - fieldLE b 7 1
  if b = [] ∨ a >>> host = s.portAddr e sub v4 >>> host then a
  else if v4 then BitVec.ofNat 128 (v4Prefix + beNat ((b.drop 12).take 4))
  else BitVec.ofNat 128 (beNat ((b.drop 32).take 16))

/-- The neighbour cache of the port's hub die. -/
def State.neighbour (s : State) (e : Nat) (a : BitVec 128) : Option (BitVec 48) :=
  ((if 4 ≤ e ∧ e < 8 then s.net.cacheB else s.net.cacheA).find? (fun x => x.1 == a)).map (·.2)

/-! Traffic classes (R320, R378). -/

def State.dscpOf (s : State) (tc : Nat) : Nat := fieldLE (s.rec1 0x0A) (2 * tc) 1 % 64
def State.pcpOf (s : State) (tc : Nat) : Nat := fieldLE (s.rec1 0x0A) (2 * tc + 1) 1 % 8

/-- A frame to a MAC address, without IP. -/
def State.l2Frame (s : State) (e sub tc : Nat) (dst : BitVec 48) (body : TxBody) : TxFrame :=
  { tc, src := s.macOf e sub, dst := some dst, vlan := fieldLE (s.portRec e sub) 4 2, pcp := s.pcpOf tc, ip := none, hop := 0, after := 0, body }

/-- A frame to an IP address: never fragmented, hop limit 64. -/
def State.ipFrame (s : State) (e sub tc : Nat) (a : BitVec 128) (ecn : Bool) (after : Nat) (body : TxBody) : TxFrame :=
  let hop := s.nextHop e sub a
  { tc, src := s.macOf e sub, dst := s.neighbour e hop, vlan := fieldLE (s.portRec e sub) 4 2, pcp := s.pcpOf tc
    ip := some { src := s.portAddr e sub (isV4 a), dst := a, dscp := s.dscpOf tc, ecn, df := isV4 a, hops := 64 }
    hop, after, body }

/-! What holds a frame back (R321, R322). -/

def txKey (e sub tc : Nat) : Nat := 8 * e + 4 * sub + tc

/-- PFC is enabled for the class on the port or sub-port. -/
def State.pfcOn (s : State) (e sub tc : Nat) : Bool := decide (e < 8) && (fieldLE (s.portRec e sub) 3 1).testBit tc

/-- Class tc of the port or sub-port may not send now. -/
def State.classPaused (s : State) (e sub tc : Nat) : Bool := decide (s.linkTime < tget z0 s.net.paused (txKey e sub tc))

def State.waiting (s : State) (e sub tc : Nat) : List TxFrame := tget noTx s.net.txq (txKey e sub tc)

/-- The frame can leave now: its port READY, its class not paused, its pace and the neighbour's address there. -/
def State.canLeave (s : State) (e sub : Nat) (f : TxFrame) : Bool :=
  s.portReady e sub && !s.classPaused e sub f.tc && decide (f.after ≤ s.linkTime) && f.dst.isSome

/-- Frames of a class that can leave do, in order. -/
def State.flushTx (s : State) (e sub tc : Nat) : State :=
  let q := (s.waiting e sub tc).map (fun f => { f with dst := if f.dst.isSome then f.dst else s.neighbour e f.hop })
  let go := q.filter (s.canLeave e sub)
  let net := { s.net with
    txq := tput noTx s.net.txq (txKey e sub tc) (q.filter (fun f => !s.canLeave e sub f))
    sent := match go.getLast? with
      | some f => tput noSent s.net.sent (2 * e + sub) (some f)
      | none => s.net.sent }
  ({ s with net }).countTx e go.length

/-- A frame is sent as soon as it can leave. -/
def State.putTx (s : State) (e sub : Nat) (f : TxFrame) : State :=
  ({ s with net := { s.net with txq := tput noTx s.net.txq (txKey e sub f.tc) (s.waiting e sub f.tc ++ [f]) } }).flushTx e sub f.tc

/-- A frame to a MAC address. -/
def State.sendL2 (s : State) (e sub tc : Nat) (dst : BitVec 48) (body : TxBody) : State := s.putTx e sub (s.l2Frame e sub tc dst body)

/-- A frame to an IP address; a next hop that the cache lacks is asked for. -/
def State.sendIp (s : State) (e sub tc : Nat) (a : BitVec 128) (ecn : Bool) (after : Nat) (body : TxBody) : State :=
  let f := s.ipFrame e sub tc a ecn after body
  let ask : BitVec 48 := if isV4 f.hop then 0xFFFFFFFFFFFF else 0x3333FF000000 + BitVec.ofNat 48 (f.hop.toNat % 2 ^ 24)
  let s := if f.dst.isSome then s else s.sendL2 e sub 3 ask (.neighbour f.hop)
  s.putTx e sub f

/-- Every class of a port and sub-port. -/
def State.flushPort (s : State) (e sub : Nat) : State := (List.range 4).foldl (fun s tc => s.flushTx e sub tc) s

/-- Whatever waits and can leave now does. -/
def State.flushAll (s : State) : State := s.net.txq.foldl (fun s x => s.flushTx (x.1 / 8) (x.1 / 4 % 2) (x.1 % 4)) s

/-- A pause of a class is sent, or with quanta 0 its release; PFC frames pass no pause themselves (R321). -/
def State.sendPause (s : State) (e sub tc quanta : Nat) : State :=
  let f := s.l2Frame e sub 3 0x0180C2000001 (.pause tc quanta)
  let net := { s.net with
    sent := tput noSent s.net.sent (2 * e + sub) (some f), pausing := sset (txKey e sub tc) (quanta != 0) s.net.pausing }
  (({ s with net }).countTx e 1).bump (rg (fnEth e) 0x070) 31 0 1

/-- ns that n bytes take at a pace. -/
def Pace.time (p : Pace) (n : Nat) : Nat := cdiv (n * 8 * 1000000000 * 4 ^ p.k) (max 1 p.num)

end Sys2Proof.Machine
end

