-- ==== Sys2Proof/Machine/Eth.lean ====
section
/-! DEFINITION. Ethernet ports (R318 to R328, R344): frames, pauses, pacing, neighbours, PTP, LLDP, connection
management. -/

namespace Sys2Proof.Machine

/-! Frames (R319, R320). -/

/-- The frame's VLAN is the port's: tagged with it, or untagged where it is 0. -/
def vlanOk (v : Nat) (f : EthFrame) : Bool := if f.tagged then f.vlan.toNat == v else v == 0

/-- A protocol of the port takes the frame. UDP ports: RoCEv2, PTP, Hawser on the planes, and while the chip boots or
fetches its first braid whatever DHCP and TFTP use on MGMT (R342, R381). -/
def State.takesBody (s : State) (e : Nat) (b : EthBody) : Bool :=
  match b with
  | .arp | .nd | .icmpEcho | .lldp | .ptp => true
  | .roce _ _ => true
  | .udp d => d.toNat == 4791 || d.toNat == 319 || d.toNat == 320 || (e != 8 && d.toNat == 51104) || (e == 8 && !s.braidLoaded)
  | .otherIp | .fragment => false

/-- A plane port counts the FEC codewords of a frame that it corrected and those it could not; how many those were,
nothing fixes, but a frame with a good FCS holds none of the latter (log entry 2). -/
def State.countFec (s : State) (e : Nat) (fcsOk : Bool) : State :=
  if e = 8 then s
  else
    let (n, s) := s.draw
    let (m, s) := s.draw
    (s.bump (rg (fnEth e) 0x058) 63 0 (n.toNat % 64)).bump (rg (fnEth e) 0x060) 63 0 (if fcsOk then 0 else m.toNat % 64)

/-- The class's receive buffer after a frame: how full it is, nothing fixes (log entry 2). Above 75 % a port with PFC for the
class pauses the peer, below 50 % it releases it (R321). -/
def State.fillRx (s : State) (e sub tc : Nat) : State :=
  if !s.pfcOn e sub tc then s
  else
    let (w, s) := s.draw
    let fill := w.toNat % 101
    let on := s.net.pausing.contains (txKey e sub tc)
    if 75 < fill ∧ !on then s.sendPause e sub tc 65535
    else if fill < 50 ∧ on then s.sendPause e sub tc 0
    else s

/-- Opcodes of RC and UD that Table 11.3 covers: sends, writes and reads with their answers, connection management, CNP. -/
def roceKnown (op : Nat) : Bool := op < 0x12 || op == 0x64 || op == 0x65 || op == 0x81

def State.reply (s : State) (r : Reply) : State := { s with net := { s.net with reply := r } }

def State.qp (s : State) (q : Nat) : Qp := tget qp0 s.net.qps q
def State.setQp (s : State) (q : Nat) (x : Qp) : State := { s with net := { s.net with qps := tput qp0 s.net.qps q x } }

/-- A QP answers, on class TC0: the answer is a packet of its own, ECN-capable. -/
def State.answer (s : State) (e q : Nat) (r : Reply) : State :=
  (s.sendIp e 0 0 (s.qp q).peer true 0 (.roce q r true)).reply r

/-- A frame whose protocol takes it. A RoCEv2 request outside Table 11.3 on a connected QP gets the invalid-request NAK (R323). -/
def State.takeFrame (s : State) (e : Nat) (b : EthBody) : State :=
  match b with
  | .roce q op => if (s.qp q.toNat).state = 2 ∧ !roceKnown op.toNat then s.answer e q.toNat .invalid else s
  | _ => s

/-- ETH_FRAME_RX: counted; a bad FCS, an unknown MAC, a wrong VLAN, a length outside 64 to 9,216, and IP traffic of no
protocol of the port drop it. -/
def execEthFrameRx (e : PortId) (sub : Fin 2) (f : EthFrame) (s : State) : Out :=
  if !s.portReady e sub then .next s
  else
    let s := ((s.countRx e).countFec e f.fcsOk).fillRx e sub f.tc
    let ok := f.fcsOk && s.macOk e sub f.dst && vlanOk (fieldLE (s.portRec e sub) 4 2) f && decide (64 ≤ f.len ∧ f.len ≤ 9216) &&
      s.takesBody e f.body
    .next (if ok then s.takeFrame e f.body else s.countDrop e)

/-! Pauses (R321). -/

/-- PAUSE_FRAME_RX: counted; obeyed for the classes that have PFC, for quanta of 512 bit times; what it releases leaves. -/
def execPauseFrameRx (e : PortId) (tc : PortClass) (quanta : W16) (s : State) : Out :=
  let sub := tc.sub
  let tc := tc.tc
  if e.val = 8 ∨ !s.portReady e sub then .next s
  else
    let s := s.bump (rg (fnEth e) 0x070) 63 32 1
    if !s.pfcOn e sub tc then .next s
    else
      let till := if quanta = 0 then 0 else s.linkTime + cdiv (quanta.toNat * 512 * 1000000000) (s.lineRate e)
      .next (({ s with net := { s.net with paused := tput z0 s.net.paused (txKey e sub tc) till } }).flushTx e sub tc)

/-! Pacing (R322). -/

/-- A sender opens at a quarter of its line rate; its first 100 µs without a cut begin now. -/
def openPace (rate now : Nat) : Pace := ⟨rate / 4, 0, 0, now + 1⟩

/-- A cut to three quarters, at least 1 Gb/s, unless one fell within the last 50 µs. -/
def Pace.cutAt (p : Pace) (now : Nat) : Pace :=
  if p.cut ≠ 0 ∧ now < p.cut - 1 + 50000 then p
  else if 3 * p.num < 1000000000 * 4 ^ (p.k + 1) then { p with num := 1000000000, k := 0, cut := now + 1 }
  else { p with num := 3 * p.num, k := p.k + 1, cut := now + 1 }

/-- A raise by a 32nd of the line rate, after 100 µs without a cut. -/
def Pace.raise (p : Pace) (rate now : Nat) : Pace :=
  let last := max p.cut p.tick
  if last ≠ 0 ∧ now < last - 1 + 100000 then p
  else
    let n := p.num + rate / 32 * 4 ^ p.k
    if rate * 4 ^ p.k ≤ n then { p with num := rate, k := 0, tick := now + 1 } else { p with num := n, tick := now + 1 }

/-- A CNP of a QP, or an ACK with CE_ECHO of a connection, cuts the flow's rate. -/
def State.cutFlow (s : State) (f : Flow) : State :=
  match f with
  | .qp n => s.setQp n.toNat { s.qp n.toNat with pace := (s.qp n.toNat).pace.cutAt s.linkTime }
  | .conn k => s.setConn k { s.conn k with pace := (s.conn k).pace.cutAt s.linkTime }

/-- CNP_RX. A connection is told by CE_ECHO, which is no CNP. -/
def execCnpRx (e : PortId) (flow : Flow) (s : State) : Out :=
  let s := match flow with
    | .qp _ => if e.val = 8 then s else s.bump (rg (fnEth e) 0x068) 63 32 1
    | .conn _ => s
  .next (s.cutFlow flow)

/-- PACING_RAISE. -/
def execPacingRaise (flow : Flow) (s : State) : Out :=
  let now := s.linkTime
  match flow with
  | .qp n =>
    let x := s.qp n.toNat
    .next (s.setQp n.toNat { x with pace := x.pace.raise (s.lineRate x.port) now })
  | .conn k =>
    let x := s.conn k
    .next (s.setConn k { x with pace := x.pace.raise (s.lineRate x.port) now })

/-! Echo, neighbours (R320). -/

/-- ICMP_ECHO: answered, in class TC3. -/
def execIcmpEcho (e : PortId) (sender : EchoFrom) (s : State) : Out :=
  if s.portReady e sender.sub then .next (s.sendIp e sender.sub 3 sender.peer false 0 .echo) else .next s

/-- The cache of the port's hub die: 1,024 entries; what a new one replaces in a full cache, nothing fixes. -/
def putNeighbour (l : List (BitVec 128 × BitVec 48)) (a : BitVec 128) (m : BitVec 48) (pick : Nat) : List (BitVec 128 × BitVec 48) :=
  let l := l.filter (fun e => e.1 != a)
  (if l.length < 1024 then l else l.eraseIdx (pick % 1024)) ++ [(a, m)]

/-- NEIGHBOUR_RESOLUTION: the sender's mapping is kept, and frames that wait for it leave; a request for one of the port's
addresses is answered. -/
def execNeighbourResolution (e : PortId) (sub : Fin 2) (msg : NeighbourMsg) (s : State) : Out :=
  if !s.portReady e sub then .next s
  else
    let (n, s) := s.draw
    let dieB := 4 ≤ e.val ∧ e.val < 8
    let net := if dieB then { s.net with cacheB := putNeighbour s.net.cacheB msg.addr msg.mac n.toNat }
      else { s.net with cacheA := putNeighbour s.net.cacheA msg.addr msg.mac n.toNat }
    let s := { s with net }.flushPort e sub
    .next (if msg.request then s.sendL2 e sub 3 msg.mac (.neighbour (s.portAddr e sub (isV4 msg.addr))) else s)

/-! PTP (R326, R327). -/

def State.podEpoch (s : State) : Nat := fieldLE (s.rec1 1) 40 8
def kPtpLock (e : Nat) : Nat := rg (fnEth e) 0

/-- The root follows PTP time: locked at once below 1 µs, later by slewing; beyond 1 ms it stops following. -/
def State.followPtp (s : State) (e : Nat) (ptpTime : W64) (offset : Int) : State :=
  let far := 1000000 < offset.natAbs
  let mine : Int := (ptpTime.toNat : Int) - s.podEpoch
  if s.net.ptpBad then s
  else if !s.flag kPodstat 16 then
    if offset.natAbs < 1000 then
      (s.setFlag (kPtpLock e) 1 true).startBeat (BitVec.ofInt 64 mine).toNat
    else if s.net.ptpLog ≠ 0 ∧ s.clk < s.net.ptpLog - 1 + 1000000000 then s
    else
      let s := { s with net := { s.net with ptpLog := s.clk + 1 } }
      s.logWrite { plainEntry s 0x65 1 (fnEth e) none with code := 1, unit := e, d0 := BitVec.ofInt 64 offset }
  else if far then
    let s := { s with net := { s.net with ptpBad := true, slew := 0 } }
    let s := s.setFlag (kPtpLock e) 1 false
    s.logWrite { plainEntry s 0x65 1 (fnEth e) none with code := 2, unit := e, d0 := BitVec.ofInt 64 offset }
  else
    let s := s.setFlag (kPtpLock e) 1 true
    { s with net := { s.net with slew := mine - s.beat.toNat } }

/-- A port's delay correction, signed ns: of ingress, or of egress (PORT record). -/
def State.ptpCorr (s : State) (e sub : Nat) (egress : Bool) : Int :=
  (BitVec.ofNat 32 (fieldLE (s.portRec e sub) (if egress then 52 else 48) 4)).toInt

/-- The timestamp of a message: the port's clock with the correction, to 1 ns. -/
def State.ptpStamp (s : State) (e sub : Nat) (m : PtpMsg) : W64 := BitVec.ofInt 64 (m.raw.toNat + s.ptpCorr e sub m.sent)

/-- PTP_EVENT: every port and sub-port timestamps it, sent or received, of one step or two. The root's client runs on the
plane A port that the braid names: a received message gives it PTP time, and the offset of the port's clock from that; a pod
epoch of 0 disables PTP. -/
def execPtpEvent (e : PortId) (sub : Fin 2) (msg : PtpMsg) (s : State) : Out :=
  if !s.portReady e sub then .next s
  else
    let t := s.ptpStamp e sub msg
    let s := { s with net := { s.net with stamps := tput noStamp s.net.stamps (2 * e.val + sub.val) (t, msg.oneStep) } }
    if msg.sent then .next (s.sendL2 e sub 3 0x011B19000000 (.ptp msg.oneStep t))
    else if s.podEpoch ≠ 0 ∧ s.isRoot ∧ e.val = s.podByte 48 ∧ e.val < 4 ∧ sub.val = 0 then
      let now := msg.origin + msg.delay
      .next (s.followPtp e now ((t.toNat : Int) - now.toNat))
    else .next s

/-! LLDP (R328). -/

/-- A TLV: type, length, value. -/
def tlv (t : Nat) (v : List Byte) : List Byte :=
  [BitVec.ofNat 8 (2 * t + v.length / 256), BitVec.ofNat 8 v.length] ++ v

/-- "MGMT", "E0" to "E7", or a sub-port's "E0.0" to "E7.1". -/
def State.portName (s : State) (e sub : Nat) : List Byte :=
  if e = 8 then [0x4D, 0x47, 0x4D, 0x54]
  else [0x45, BitVec.ofNat 8 (0x30 + e)] ++ if s.portSplit e then [0x2E, BitVec.ofNat 8 (0x30 + sub)] else []

/-- Plane of a port: A 0, B 1, none of MGMT 0xFF. -/
def planeOf (e : Nat) : Nat := if e = 8 then 0xFF else e / 4

/-- An LLDPDU: Chassis ID the MGMT MAC, Port ID the interface name, TTL 120 s, and subtype 0x01 under the OUI of the fused
block with site, pod, coordinates and plane (log entry 65). -/
def State.lldpdu (s : State) (e sub : Nat) : List Byte :=
  let mac := beBytes (s.macOf 8 0).toNat 6
  tlv 1 (4 :: mac) ++ tlv 2 (5 :: s.portName e sub) ++ tlv 3 [0, 120] ++
    tlv 127 (mac.take 3 ++ [1] ++ leBytes (s.podByte 6) 1 ++ leBytes (s.podByte 7) 1 ++ leBytes s.ownCoord 2 ++ leBytes (planeOf e) 1) ++
    tlv 0 []

/-- LLDP_TX. -/
def execLldpTx (e : PortId) (sub : Fin 2) (s : State) : Out :=
  if s.portReady e sub then .next (s.sendL2 e sub 3 0x0180C200000E (.lldp (s.lldpdu e sub))) else .next s

/-- LLDP_RX: a new Chassis ID or Port ID writes entry 0x62. -/
def execLldpRx (e : PortId) (sub : Fin 2) (chassis port : W64) (s : State) : Out :=
  let k := 2 * e.val + sub.val
  if !s.portReady e sub ∨ tget noLldp s.net.lldp k = (chassis, port) then .next s
  else
    let s := { s with net := { s.net with lldp := tput noLldp s.net.lldp k (chassis, port) } }
    .next (s.note 0x62 0 (fnPort e) none { unit := e, d0 := chassis.toNat })

/-! RoCEv2 connections (R323). -/

/-- Owner of an RC QP: a job, 0xFE the chip, 0xFF none. Before a braid MGMT serves any QP (R325). -/
def State.qpOwner (s : State) (q : Nat) : Nat := if s.rec1 0x0B = [] then 0xFF else fieldLE (s.rec1 0x0B) q 1
def State.qpServed (s : State) (e q : Nat) : Bool := if s.braidLoaded then s.qpOwner q != 0xFF else e == 8

/-- An answer of connection management: a packet on QP1. -/
def State.answerCm (s : State) (e q : Nat) (peer : BitVec 128) (r : Reply) : State :=
  (s.sendIp e 0 0 peer true 0 (.cm q)).reply r

/-- A QP is connected: its pace opens. -/
def State.connectQp (s : State) (e q : Nat) : State :=
  s.setQp q { s.qp q with state := 2, pace := openPace (s.lineRate e) s.linkTime, paceAt := 0 }

/-- CM_MESSAGE on QP1: the chip is passive for a REQ and active where it sent one. -/
def execCmMessage (e : PortId) (qp : BitVec 12) (msg : CmMsg) (s : State) : Out :=
  let peer := msg.peer
  let n := qp.toNat
  let x := s.qp n
  if !s.portReady e 0 then .next s
  else if !s.qpServed e n then .next (s.answerCm e n peer .invalid)
  else match msg.kind with
    | .req mtu => .next ((s.setQp n { x with state := 1, port := e, peer, mtu }).answerCm e n peer .ok)
    | .rep => if x.state = 1 then .next ((s.connectQp e n).answerCm e n peer .ok) else .next (s.reply .discarded)
    | .rtu => if x.state = 1 then .next ((s.connectQp e n).reply .none) else .next (s.reply .discarded)
    | .rej => .next ((s.setQp n (qp0 n)).reply .none)
    | .dreq => .next ((s.setQp n (qp0 n)).answerCm e n peer .ok)
    | .drep => .next ((s.setQp n (qp0 n)).reply .none)

/-- A CE-marked packet: a CNP goes back, at most once per 50 µs and QP (R322). -/
def State.sendCnp (s : State) (e q : Nat) : State :=
  let x := s.qp q
  let now := s.linkTime
  if x.cnpAt ≠ 0 ∧ now < x.cnpAt - 1 + 50000 then s
  else
    let s := (s.setQp q { x with cnpAt := now + 1 }).sendIp e 0 3 x.peer false 0 (.cnp q)
    if e = 8 then s else s.bump (rg (fnEth e) 0x068) 31 0 1

/-- What a packet's CE mark makes the receiver of QP q do. -/
def State.onMark (s : State) (e q : Nat) (ceMark : Bool) : State := if ceMark then s.sendCnp e q else s

/-- SEND: received on a connected RC QP and acknowledged; Send with Invalidate is not supported. -/
def execSend (e : PortId) (head : RoceHead) (msg : SendMsg) (s : State) : Out :=
  let q := head.qp.toNat
  if !s.portReady e 0 then .next s
  else if (s.qp q).state = 2 then .next ((s.onMark e q head.ceMark).answer e q (if msg.invalidate then .invalid else .ok))
  else .next (s.reply .discarded)

/-! Injection (R344). -/

def State.armPort (s : State) (e bit : Nat) : State :=
  { s with net := { s.net with inject := tput z0 s.net.inject e (tget z0 s.net.inject e ||| bit) } }

/-- ETH_INJECT_CRC. -/
def execEthInjectCrc (e : Fin 8) (s : State) : Out :=
  if s.flag (rg (fnEth e) 0x020) 0 then .next (s.armPort e 2) else .next s

/-- ETH_INJECT_DROP. -/
def execEthInjectDrop (e : Fin 8) (s : State) : Out :=
  if s.flag (rg (fnEth e) 0x020) 0 then .next (s.armPort e 1) else .next s

/-! Lock (R329). -/

/-- PCS_LOCK_CHANGE: MGMT locks once a reference is judged (R487), a plane port once its hub die's clock runs (R472). -/
def execPcsLockChange (e : PortId) (sub : Fin 2) (locked : Bool) (s : State) : Out :=
  if locked && !s.flag (rg fnClk 0) (if e.val = 8 then 0 else 11) then .next s
  else if e.val = 8 then .next (if sub.val = 0 then s.setFlag (rg (fnEth 8) 0) 0 locked else s)
  else if sub.val = 1 then .next (if s.flag (rg (fnEth e) 0) 3 then s.setFlag (rg (fnEth e) 0) 2 locked else s)
  else
    let s := if locked then s else s.setFlag (kPtpLock e) 1 false
    .next (s.setFlag (rg (fnEth e) 0) 0 locked).moveConns

end Sys2Proof.Machine
end

