-- ==== Sys2Proof/Machine/Tether.lean ====
section
/-! DEFINITION. Tether links (R294 to R311, R314, R316): frames out and in, retry, failure and what carries the traffic,
training, and the pod timebase. -/

namespace Sys2Proof.Machine

/-! The slot table (R300). -/

/-- The TSLOT record of link l. -/
def State.slotTable (s : State) (l : Nat) : List Byte := ((s.recs 7).find? (fun b => fieldLE b 0 1 == l)).getD []
/-- Owner code of slot k; destination JOB with RE in bit 4; RQ. -/
def ownerOf (b : List Byte) (k : Nat) : Nat := fieldLE b (1 + 4 * k) 2
def destOf (b : List Byte) (k : Nat) : Nat := fieldLE b (3 + 4 * k) 1
def destRq (b : List Byte) (k : Nat) : Nat := fieldLE b (4 + 4 * k) 1 % 64

def State.stream (s : State) (i : Nat) : RStream := tget rstream0 s.net.streams i
def State.setStream (s : State) (i : Nat) (x : RStream) : State :=
  { s with net := { s.net with streams := tput rstream0 s.net.streams i x } }

/-- Beat time from which the head entry of an owner may leave; none if nothing waits. -/
def State.headTime (s : State) (l own : Nat) : Option Nat :=
  let src := bits own 9 4
  if !own.testBit 15 then none
  else if own.testBit 14 then (tget noOuts (s.stream src).outs l).head?.map (·.2)
  else (s.nq src).head?.map (·.beat)

/-! Slots out (R299, R301). -/

/-- Words of a slot that hold a poisoned byte. -/
def poisonMask (m : Marked) : W32 :=
  BitVec.ofNat 32 ((List.range 32).foldl (fun n w => n + if ((m.drop (8 * w)).take 8).any (·.2) then 2 ^ w else 0) 0)

/-- n bytes of core p's scratchpad as they are read, with their poison. -/
def State.readMarked (s : State) (p a n : Nat) : State × Marked :=
  let s := s.readScratch p ⟨a, n⟩
  (s, (List.range n).map (fun i => (s.mem.byte (window p + a + i), s.poison.contains (window p + a + i))))

/-- The next slot's bytes of a stream's output toward link l. -/
def State.takeStream (s : State) (l src ft : Nat) : State × Option (Marked × Bool) :=
  let x := s.stream src
  match tget noOuts x.outs l with
  | [] => (s, none)
  | (m, t) :: r =>
    if ft < t then (s, none)
    else
      let rest := m.drop 256
      let put (q : List (Marked × Nat)) : State := s.setStream src { x with outs := tput noOuts x.outs l q }
      (put (if rest.isEmpty then r else (rest, t) :: r), some (m.take 256, rest.isEmpty))

/-- The next slot's bytes of network queue src; with its last slot the entry leaves the queue. -/
def State.takeEntry (s : State) (src ft : Nat) : State × Option (Marked × Bool) :=
  match s.nq src with
  | [] => (s, none)
  | e :: r =>
    if ft < e.beat then (s, none)
    else
      let n := min 256 (e.span.len - e.sent)
      let last := e.span.len ≤ e.sent + n
      let (s, m) := s.readMarked e.core (e.span.addr + e.sent) n
      (s.setNq src (if last then r else { e with sent := e.sent + n } :: r), some (m, last))

/-- Slot k of link l at frame time ft. -/
def State.takeSlot (s : State) (l : Nat) (b : List Byte) (k ft : Nat) : State × FrameSlot :=
  let own := ownerOf b k
  if !own.testBit 15 then (s, emptySlot)
  else
    let (s, r) := if own.testBit 14 then s.takeStream l (bits own 9 4) ft else s.takeEntry (bits own 9 4) ft
    match r with
    | none => (s, emptySlot)
    | some (m, last) =>
      let m := m ++ List.replicate ((8 - m.length % 8) % 8) (0, false)
      let x := s.link l
      let q := tget zeroByte x.sseq own
      (s.setLink l { x with sseq := tput zeroByte x.sseq own (q + 1) },
        ⟨true, last, (destOf b k).testBit 4, BitVec.ofNat 4 (destOf b k), BitVec.ofNat 6 (destRq b k), q, poisonMask m, m.map (·.1)⟩)

def State.takeSlots (s : State) (l ft : Nat) : State × List FrameSlot :=
  let b := s.slotTable l
  if b.isEmpty then (s, List.replicate 50 emptySlot)
  else (List.range 50).foldl (fun (s, q) k => let (s, x) := s.takeSlot l b k ft; (s, q ++ [x])) (s, [])

/-! Frames out (R297, R298, R303, R305, R306). -/

/-- Control messages take the beat time of transmission: an ECHO its own, a reply its turnaround (R311). -/
def stampCtl (beat : Nat) (m : CtlMsg) : CtlMsg :=
  if m.is 0x01 then { m with hi := BitVec.ofNat 64 beat }
  else if m.is 0x02 then
    ctlMsg 0x02 (m.lo.toNat % 2 ^ 24 + 2 ^ 24 * ((beat + 2 ^ 32 - m.at 4 4) % 2 ^ 32)) m.hi.toNat
  else m

/-- The first frame time from ft on, at most beat, at which link l has something to send. -/
def State.nextTime (s : State) (l ft beat : Nat) : Nat :=
  if (s.link l).ctl ≠ [] then ft
  else
    let b := s.slotTable l
    let ts := (List.range 50).filterMap (fun k => s.headTime l (ownerOf b k))
    ts.foldl (fun n t => min n (max ft (up64 t))) beat

/-- A frame goes out on the lanes of link v. -/
def State.putFrame (s : State) (v : Nat) (f : Frame) : State :=
  let x := s.link v
  let lanes := toLanes x.scrTx (codedBytes (protectedBytes f x.corrupt))
  s.setLink v { x with out := some f, outOk := !x.corrupt, lanes, corrupt := false, sentAt := s.linkTime + 1
                       scrTx := lanesNext x.scrTx lanes }

/-- A new frame of link l, sent by link v: l itself, or the partner that carries it. -/
def State.newFrame (s : State) (l v : Nat) (ft : Nat) (ctl : List CtlMsg) (slots : List FrameSlot) : State :=
  let y := s.link v
  let stamp := if s.flag kPodstat 16 then ft else 0
  let f : Frame := { fseq := y.txSeq, ack := y.rxSeq, nak := y.nak, replay := false, carry := l != v, beat := BitVec.ofNat 64 stamp, ctl, slots }
  let held := y.sent ++ [⟨f, 0, s.linkTime⟩]
  (s.setLink v { y with txSeq := y.txSeq + 1, sent := held.drop (held.length - 19) }).putFrame v f

/-- The next frame of link l by way of link v: frames that a failed link had not got across first, then frame times that
have nothing to send are skipped and the next one is built. -/
def State.sendOn (s : State) (l v : Nat) : State :=
  let x := s.link l
  match if l = v then none else (x.sent.find? (fun q => x.resend.head? == some q.frame.fseq)) with
  | some q => ((s.setLink l { x with resend := x.resend.drop 1 }).newFrame l v q.frame.beat.toNat q.frame.ctl q.frame.slots)
  | none =>
    let beat := s.linkTime
    if beat < x.frameTime then s
    else
      let ft := min beat (s.nextTime l x.frameTime beat)
      let s := s.bump (rg (fnTether l) 0x078) 63 0 ((ft - x.frameTime) / 64)
      let x := s.link l
      let ctl := (x.ctl.take 5).map (stampCtl beat)
      let s := s.setLink l { x with ctl := x.ctl.drop 5, frameTime := ft + 64 }
      let (s, slots) := s.takeSlots l ft
      s.newFrame l v ft ctl slots

/-- The oldest frame to resend goes out again, marked REPLAY. -/
def State.resendOne (s : State) (v : Nat) (q : SentFrame) : State :=
  let x := s.link v
  let f := { q.frame with replay := true, ack := x.rxSeq, nak := x.nak }
  let s := s.setLink v { x with resend := x.resend.drop 1
                                sent := x.sent.map (fun y => if y = q then { q with resends := q.resends + 1, at_ := s.linkTime } else y) }
  (s.bump (rg (fnTether v) 0x068) 63 0 1).putFrame v f

/-- A link that trains (R314): its hub die is up, and it is neither READY, fenced nor known to be without a cable. -/
def State.linkTrains (s : State) (l : Nat) : Bool :=
  s.flag kClk 11 && !s.linkReady l && !s.linkFailed l && !s.flag (rg (fnTether l) 0) 5

/-- A link in training sends frames without slots, for frame lock, and with lock an ECHO in each, once the braid has given it
the coordinates that this carries, until 64 are measured. -/
def State.trainFrame (s : State) (l : Nat) : State :=
  let x := s.link l
  let ask := s.flag (rg (fnTether l) 0) 1 && s.rec1 1 != [] && !x.measured
  let ping := if ask then [ctlMsg 0x01 (l + 256 * s.ownCoord) 0] else []
  let ctl := (x.ctl.take (5 - ping.length) ++ ping).map (stampCtl s.linkTime)
  (s.setLink l { x with ctl := x.ctl.drop (5 - ping.length), resend := [] }).newFrame l l s.linkTime ctl (List.replicate 50 emptySlot)

/-- TETHER_FRAME_TX: at beat times that are multiples of 64. -/
def execTetherFrameTx (l : LinkId) (s : State) : Out :=
  let x := s.link l
  if s.linkTime % 64 ≠ 0 ∨ x.failing.isSome ∨ x.sentAt = s.linkTime + 1 then .next s
  else if !s.linkReady l then .next (if s.linkTrains l then s.trainFrame l else s)
  else match x.sent.find? (fun q => x.resend.head? == some q.frame.fseq) with
    | some q => .next (s.resendOne l q)
    | none =>
      let s := s.setLink l { x with resend := [], turn := s.linkCarrying l && !x.turn }
      .next (s.sendOn (if s.linkCarrying l && x.turn then partner l else l) l)

/-! Failure (R304, R306, R307). -/

/-- Report 0x50 of a link and its event 0x08. -/
def State.fenceLink (s : State) (l reason : Nat) : State :=
  let k := rg (fnTether l) 0
  (((s.setFlag k 4 true).setFlag k 0 false).setFlag k 1 false).fenceNote 4 l (fnTether l) none reason 0 0

/-- Jobs that own a slot of link l. -/
def State.slotJobs (s : State) (l : Nat) : List Nat :=
  let b := s.slotTable l
  if b.isEmpty then []
  else s.definedJobs.filter (fun j => (List.range 50).any (fun k => (ownerOf b k).testBit 15 && bits (ownerOf b k) 13 10 == j))

/-- PAIR_LOST: every job with a slot on the pair stops with cause 0x27 (R307). -/
def State.pairLost (s : State) (l : Nat) : State :=
  let k := rg (fnTether l) 0
  let p := rg (fnTether (partner l)) 0
  let s := (((s.setFlag k 2 false).setFlag k 3 false).setFlag p 2 false).setFlag p 3 false
  let js := s.definedJobs.filter (fun j => (s.slotJobs l).contains j || (s.slotJobs (partner l)).contains j)
  js.foldl (fun s j => s.reportStop 0x27 (fnTether l) j { unit := l, d0 := partner l }) s

/-- The READY link with the lowest j of a bundle. -/
def State.bundleHead (s : State) (d : Nat) : Option Nat := (bundleLinks d).find? s.linkReady

/-- PARENT_SWITCH: the next READY link of the parent bundle, then of the alternate parent's, then holdover (R310). -/
def State.switchParent (s : State) (l : Nat) : State :=
  let alt := s.flag kPodstat 18
  match s.bundleHead (linkDir l) with
  | some q => s.lockTo q alt
  | none =>
    match if alt then none else s.bundleHead (s.podByte 17) with
    | some q => s.lockTo q true
    | none =>
      let s := s.setFlag kPodstat 17 true
      let s := { s with net := { s.net with holdover := s.beat.toNat + 1 } }
      s.report 0x53 2 fnClk none { code := 1, unit := l }

/-- The chip at the other end of link l as its PEER register names it, in this pod. -/
def State.neighbourEntry (s : State) (l : Nat) : Option Nat :=
  s.peerOf (s.podByte 7 + 256 * s.fld (rg (fnTether l) 0x048) 8 0)

/-- LINK_FAIL: the link is fenced and reported; its partner carries it, or the pair is lost; the frames not yet
acknowledged are the partner's to send. The neighbour becomes SUSPECT (R339), and a lost parent is replaced. -/
def State.linkFail (s : State) (l cause : Nat) : State :=
  if s.linkFailed l then s
  else
    let p := partner l
    let lock := s.flag kPodstat 16 && !s.isRoot && s.fld kPodstat 23 19 == l
    let was := s.linkReady l
    let s := (s.report 0x52 2 (fnTether l) none { code := cause, unit := l, d0 := p }).fenceLink l 0x52
    let x := s.link l
    let s := s.setLink l { x with failing := none, nak := false, turn := false, measured := false, echoes := []
                                  resend := (x.sent.filter (fun q => (q.frame.fseq - x.acked).toNat < 32768 && q.frame.fseq != x.acked)).map (·.frame.fseq) }
    let s := match s.neighbourEntry l with
      | some i => if was then s.reportPeer i 2 else s
      | none => s
    let lost := s.linkFailed p || s.linkCarrying l
    let s := if lost then s.pairLost l
      else (s.setFlag (rg (fnTether l) 0) 3 true).setFlag (rg (fnTether p) 0) 2 true
    if lock then s.switchParent l else s

/-- LINK_FAIL. -/
def execLinkFail (l : LinkId) (cause : Fin 4) (s : State) : Out :=
  if (s.link l).failing = some cause.val then .next (s.linkFail l cause) else .next s

/-- LOCK_LOST_TIMEOUT: lock lost for more than 1 µs. -/
def execLockLostTimeout (l : LinkId) (s : State) : Out :=
  let x := s.link l
  if x.lostAt = 0 ∨ s.linkTime ≤ x.lostAt - 1 + 1000 ∨ !s.linkReady l ∨ x.failing.isSome then .next s
  else .next (s.setLink l { x with failing := some 3 })

/-- INJECT.FAIL: the link fails now, READY or not. -/
def State.injectFail (s : State) (l : Nat) : State := s.linkFail l 0

/-- TETHER_INJECT_FAIL: an expert-page write. -/
def execTetherInjectFail (l : LinkId) (s : State) : Out :=
  if s.flag (rg (fnTether l) 0x020) 0 then .next (s.injectFail l) else .next s

/-- INJECT.FRAME: the next frame sent is corrupted. -/
def State.injectFrame (s : State) (l : Nat) : State := s.setLink l { s.link l with corrupt := true }

/-- TETHER_INJECT_FRAME. -/
def execTetherInjectFrame (l : LinkId) (s : State) : Out :=
  if s.flag (rg (fnTether l) 0x020) 0 then .next (s.injectFrame l) else .next s

/-! Frames in (R297, R302, R303, R309). -/

/-- Frame lock: 4 good frames with FSEQs that each increase by one declare it, 4 failing ones lose it. -/
def State.lockGood (s : State) (l : Nat) (f : Frame) : State :=
  let x := s.link l
  let n := if f.fseq = x.lockSeq + 1 ∧ x.good ≠ 0 then min 4 (x.good + 1) else 1
  let s := s.setLink l { x with good := n, bad := 0, lockSeq := f.fseq, lostAt := if n = 4 then 0 else x.lostAt }
  if n = 4 ∧ !s.linkFailed l then s.setFlag (rg (fnTether l) 0) 1 true else s

def State.lockBad (s : State) (l : Nat) : State :=
  let x := s.link l
  let n := min 4 (x.bad + 1)
  let lost := n = 4 ∧ s.flag (rg (fnTether l) 0) 1
  let s := s.setLink l { x with good := 0, bad := n, lostAt := if lost then s.linkTime + 1 else x.lostAt }
  if lost then s.setFlag (rg (fnTether l) 0) 1 false else s

/-- TETHER_RESEND: on a NAK the frames from ACK + 1 on are resent, unless a resend of that frame may still be on its way. -/
def State.onNak (s : State) (l : Nat) (ack : W16) : State :=
  let x := s.link l
  let n := s.fld (rg (fnTether l) 0x100) 7 0
  let limit := if n = 0 then 8 else n
  if ack + 1 = x.txSeq ∨ x.resend ≠ [] then s
  else match x.sent.find? (fun q => q.frame.fseq == ack + 1) with
    | none => s.setLink l { x with failing := some 2 }
    | some q =>
      if q.resends ≠ 0 ∧ s.linkTime < q.at_ + s.fld (rg (fnTether l) 0x040) 31 16 + 320 then s
      else if limit ≤ q.resends then s.setLink l { x with failing := some 1 }
      else s.setLink l { x with resend := (x.sent.dropWhile (fun y => y.frame.fseq != ack + 1)).map (·.frame.fseq) }

/-- The beat time that the parent's frame gives: its stamp and the link's measured one-way delay. -/
def State.parentBeat (s : State) (l : Nat) (f : Frame) : Nat := f.beat.toNat + s.fld (rg (fnTether l) 0x040) 15 0

/-- First lock. -/
def State.firstLock (s : State) (l : Nat) (f : Frame) : State := (s.lockTo l false).startBeat (s.parentBeat l f)

/-- BEAT_CORRECTION: the first lock takes the parent's beat time, from the READY link with the lowest j of the parent bundle
(R308); a chip in holdover follows a parent bundle that is READY again, its own first; later every 1,024th frame from the
parent is compared, and the difference is left to slew (R309). -/
def State.beatCorrect (s : State) (l : Nat) (f : Frame) : State :=
  let first := s.bundleHead (s.podByte 16)
  if s.isRoot ∨ f.replay ∨ !s.linkReady l ∨ s.rec1 1 = [] then s
  else if !s.flag kPodstat 16 then (if first = some l then s.firstLock l f else s)
  else if s.flag kPodstat 17 then
    if first = some l ∨ (first.isNone ∧ s.bundleHead (s.podByte 17) = some l) then
      let s := s.lockTo l first.isNone
      { s with net := { s.net with holdover := 0 } }
    else s
  else if s.fld kPodstat 23 19 ≠ l then s
  else
    let x := s.link l
    if x.compared + 1 < 1024 then s.setLink l { x with compared := x.compared + 1 }
    else
      let s := s.setLink l { x with compared := 0 }
      { s with net := { s.net with slew := (s.parentBeat l f : Int) - s.beat.toNat } }

/-- An accepted frame: acknowledged, its control messages processed, its slots kept until they become available. -/
def State.accept (s : State) (l : Nat) (f : Frame) : State :=
  let s := s.setLink l { s.link l with rxSeq := f.fseq, nak := false }
  let dst := if f.carry then partner l else l
  let x := s.link dst
  if f.beat ≠ 0 ∧ f.beat.toNat < x.lastTime then s
  else
    let dpad := s.fld (rg fnClk 0x050) 47 32
    let late := f.beat.toNat + dpad < s.beat.toNat
    let a : Arrived := ⟨max s.beat.toNat (f.beat.toNat + dpad), late, f⟩
    let s := s.setLink dst { x with arrived := x.arrived ++ [a], lastTime := f.beat.toNat + 1 }
    f.ctl.foldl (fun s m => s.control (.link (Fin.ofNat 24 dst)) m) s

/-- A frame that decodes and checks reaches link l. Before the link is READY only its echoes are of use. -/
def State.goodFrame (s : State) (l : Nat) (n : Nat) (f : Frame) : State :=
  let s := (s.bump (rg (fnTether l) 0x058) 63 0 n).lockGood l f
  if !s.linkReady l then
    (f.ctl.filter (fun m => m.is 0x01 || m.is 0x02)).foldl (fun s m => s.control (.link (Fin.ofNat 24 l)) m) s
  else
    let s := s.setLink l { s.link l with acked := f.ack }
    let s := if f.nak then s.onNak l f.ack else s
    let x := s.link l
    let want := f.fseq = x.rxSeq + 1
    if x.nak ∧ !(f.replay ∧ want) then s
    else if want then (s.accept l f).beatCorrect l f
    else if (f.fseq - x.rxSeq).toNat < 32768 ∧ f.fseq ≠ x.rxSeq then s.setLink l { x with nak := true }
    else s

/-- A failed frame: counted, and NAK until its REPLAY arrives. -/
def State.badFrame (s : State) (l : Nat) : State :=
  let s := (s.bump (rg (fnTether l) 0x060) 63 0 1).lockBad l
  if s.linkReady l then s.setLink l { s.link l with nak := true } else s

/-- The wiring by which link l reads its lanes: what training finds, kept while frame lock holds. -/
def State.wiringOf (s : State) (l : Nat) (w : Wiring) : Wiring := if s.flag (rg (fnTether l) 0) 1 then (s.link l).wiring else w

/-- The lanes in order, their polarity restored. -/
def State.rxLanes (s : State) (l : Nat) (w : Wiring) (lanes : List (List Pam4)) : List (List Pam4) := straighten (s.wiringOf l w) lanes

/-- What link l reads from its lanes: the bytes corrected and the frame, none for a failed one. -/
def State.readFrame (s : State) (l : Nat) (w : Wiring) (lanes : List (List Pam4)) : Option (Nat × Frame) :=
  deframe (s.link l).scrRx (s.rxLanes l w lanes)

/-- TETHER_FRAME_RX: the symbols of one frame on the eight lanes. -/
def execTetherFrameRx (l : LinkId) (wiring : Wiring) (lanes : List (List Pam4)) (s : State) : Out :=
  if s.linkFailed l ∨ s.flag (rg (fnTether l) 0) 5 then .next s
  else
    let r := s.readFrame l wiring lanes
    let x := s.link l
    let s := (s.setLink l { x with wiring := s.wiringOf l wiring, scrRx := lanesNext x.scrRx (s.rxLanes l wiring lanes) }).bump
      (rg (fnTether l) 0x050) 63 0 1
    match r with
    | some (n, f) => .next (s.goodFrame l n f)
    | none => .next (s.badFrame l)

/-! Slots in (R280, R282, R299, R302). -/

/-- The cluster and thread of job j that receive stream rq. -/
def State.receiver (s : State) (j rq : Nat) : Option (Nat × Nat) :=
  ((s.clustersOf j).flatMap (fun c => (s.cluster c).threads.map (fun e => (c, e)))).findSome? (fun (c, e) =>
    if e.2.list.any (fun r => (sdOf r).net && (sdOf r).rq == rq) then some (c, e.1) else none)

/-- An entry reaches the network part of its cluster's receive buffer; RXBUF_OVERFLOW stops the job (R282). An entry of
no listed stream, or of a job that has stopped or retracts, is discarded. -/
def State.receive (s : State) (j rq : Nat) (m : Marked) : State :=
  let x := s.job j
  if s.stopped j ∨ (x.retract.isSome ∧ x.phase = .span) then s
  else match s.receiver j rq with
    | none => s
    | some (c, t) =>
      let k := s.cluster c
      let n := k.rxBytes + beats256 m.length
      if 0x100000 < n then s.reportStop 0x28 (fnCluster c) j { unit := c, d0 := rq, d1 := k.rxBytes }
      else (s.setCluster c { k with rx := k.rx ++ [⟨t, rq, m.map (·.1), m.map (·.2)⟩] }).setRxBytes c n

/-- An entry reaches stream i as the input whose kind and index match (R335). -/
def State.reInput (s : State) (i kind idx : Nat) (m : Marked) : State :=
  let b := s.rec1 8
  match (List.range (fieldLE b (16 * i) 1)).find? (fun j => fieldLE b (16 * i + 4 + j) 1 == 64 * kind + idx) with
  | none => s
  | some j =>
    let x := s.stream i
    if x.stopped then s else s.setStream i { x with ins := tput noIns x.ins j (tget noIns x.ins j ++ [m]) }

/-- One slot that link l received. -/
def State.writeSlot (s : State) (l : Nat) (q : FrameSlot) : State :=
  if !q.v then s
  else
    let m : Marked := q.data.mapIdx (fun i b => (b, q.pmask.toNat.testBit (i / 8)))
    let key := l * 4096 + (if q.re then 2048 else 0) + q.job.toNat * 64 + q.rq.toNat
    let all := tget noMarked s.net.asm key ++ m
    let put (m : Marked) : State := { s with net := { s.net with asm := tput noMarked s.net.asm key m } }
    if !q.last then put all
    else if q.re then (put []).reInput q.rq.toNat 1 l all
    else (put []).receive q.job.toNat q.rq.toNat all

/-- The oldest frame that link l holds is written, in slot order. -/
def State.writeFrame (s : State) (l : Nat) : State :=
  let x := s.link l
  match x.arrived with
  | [] => s
  | a :: r =>
    let s := s.setLink l { x with arrived := r }
    let s := if a.late then s.bump (rg (fnTether l) 0x070) 63 0 1 else s
    a.frame.slots.foldl (fun s q => s.writeSlot l q) s

/-- Of the frames whose slots are available by time t, or on link l or a lower one at t, the link of the first: earlier
times first, and in one clk ascending links (R302). -/
def State.firstDue (s : State) (t l : Nat) : Option Nat :=
  let due := (List.range 24).filterMap (fun k => (s.link k).arrived.head?.map (fun a => (a.avail, k)))
  ((due.filter (fun e => decide (e.1 < t ∨ (e.1 = t ∧ e.2 ≤ l)))).foldl (fun b e => match b with
    | none => some e
    | some c => if e.1 < c.1 then some e else b) none).map (·.2)

/-- At most n of those frames, in that order. -/
def State.writeDue (t l : Nat) : Nat → State → State
  | 0, s => s
  | n + 1, s => match s.firstDue t l with
    | none => s
    | some k => State.writeDue t l n (s.writeFrame k)

/-- SLOTS_AVAILABLE: the oldest frame of the link whose slots are available, after all that come before it. -/
def execSlotsAvailable (l : LinkId) (s : State) : Out :=
  match (s.link l).arrived with
  | [] => .next s
  | a :: _ =>
    if s.beat.toNat < a.avail then .next s
    else
      let n := (List.range 24).foldl (fun n k => n + (s.link k).arrived.length) 0
      .next (State.writeDue a.avail l n s)

/-! Training (R295, R296, R314). -/

/-- Coordinates of the neighbour in direction d. -/
def State.neighbourCoord (s : State) (d : Nat) : Nat :=
  let ext := s.podByte (d / 2)
  let step (a : Nat) : Nat := if d % 2 = 0 then (a + 1) % max 1 ext else (a + ext - 1) % max 1 ext
  let x := s.podByte 3
  let y := s.podByte 4
  let z := s.podByte 5
  if d / 2 = 0 then coordOf (step x) y z else if d / 2 = 1 then coordOf x (step y) z else coordOf x y (step z)

/-- The axis of link l has more than one chip. -/
def State.cabled (s : State) (l : Nat) : Bool := decide (2 ≤ s.podByte (linkDir l / 2))

/-- The peer that a trained link reports obeys the cabling rule, and its delay both limits. -/
def State.linkSound (s : State) (l : Nat) : Bool :=
  let k := rg (fnTether l) 0x048
  let d := linkDir l
  let ns := s.fld (rg (fnTether l) 0x040) 15 0
  s.fld k 8 0 == s.neighbourCoord d && s.fld k 11 9 == (if d % 2 = 0 then d + 1 else d - 1) && s.fld k 13 12 == linkIndex l &&
    decide (ns ≤ 416 ∧ ns + 192 ≤ s.fld (rg fnClk 0x050) 47 32)

/-- A trained link becomes READY, or stays unready and the error is logged. No Contrail type of Table 15.8 names a cabling
error: the entry's TYPE and SEV are left free (log entry 2). -/
def State.judgeLink (s : State) (l : Nat) : State :=
  let k := rg (fnTether l) 0
  if !s.flag k 1 ∨ !(s.link l).measured ∨ s.linkFailed l ∨ s.rec1 1 = [] ∨ !s.cabled l ∨ s.linkReady l then s
  else if s.linkSound l then
    let x := s.link l
    let s := (s.setFlag k 0 true).setLink l { x with
      frameTime := up64 s.linkTime, sent := [], resend := [], nak := false, arrived := [], rxSeq := x.lockSeq }
    if s.isRoot then s.setAlignLead else s
  else
    let (t, s) := s.draw
    let (v, s) := s.draw
    s.logPut (plainEntry s (t.toNat % 256) (v.toNat % 5) (fnTether l) none)

/-- The command names the peer and the delays that link l's echoes gave, as PEER and DELAY hold them. -/
def State.trainedAs (s : State) (l : Nat) (coord : BitVec 9) (dir : BitVec 3) (index : BitVec 2) (rtt oneway : W16) : Bool :=
  let peer := rg (fnTether l) 0x048
  let delay := rg (fnTether l) 0x040
  s.fld peer 8 0 == coord.toNat && s.fld peer 11 9 == dir.toNat && s.fld peer 13 12 == index.toNat &&
    s.fld delay 31 16 == rtt.toNat && s.fld delay 15 0 == oneway.toNat

/-- LINK_TRAINING_DONE: with frame lock and 64 echoes the cabling and the delay are judged. A command that names what the
echoes did not give is no event of this link (log entry 34). -/
def execLinkTrainingDone (l : LinkId) (coord : BitVec 9) (dir : BitVec 3) (index : BitVec 2) (rtt oneway : W16) (s : State) : Out :=
  if s.linkTrains l && s.trainedAs l coord dir index rtt oneway then .next (s.judgeLink l) else .next s

/-! The root (R310). -/

/-- HOLDOVER_TIMEOUT: after 10 ms in holdover the chip's tether links are fenced. -/
def execHoldoverTimeout (s : State) : Out :=
  if !s.flag kPodstat 17 ∨ s.net.holdover = 0 ∨ s.beat.toNat < s.net.holdover - 1 + 10000000 then .next s
  else
    let ls := (List.range 24).filter (fun l => !s.flag (rg (fnTether l) 0) 5 && !s.linkFailed l)
    let s := ls.foldl (fun s l => s.fenceLink l 0x53) { s with net := { s.net with holdover := 0 } }
    .next (ls.foldl (fun s l => s.pairLost l) s)

/-- ROOT_TAKEOVER: the standby root sets ROOT and sends ROOT down the second tree. -/
def execRootTakeover (s : State) : Out :=
  if s.rec1 1 = [] ∨ s.podByte 18 ≠ 0xFF ∨ s.isRoot ∨ !s.flag kPodstat 16 then .next s
  else
    let s := s.report 0x53 2 fnClk none { code := 2, unit := s.fld kPodstat 23 19 }
    let s := (((s.setFlag kPodstat 9 true).setFlag kPodstat 17 false).setFld kPodstat 27 24 0)
    let s := { s with net := { s.net with holdover := 0, newRoot := s.ownCoord + 1 } }.setAlignLead
    .next ((List.range 6).foldl (fun s d => s.sendDir d (ctlMsg 0x05 (256 * s.ownCoord) s.beat.toNat)) s)

end Sys2Proof.Machine
end

