-- ==== Sys2Proof/Machine/Engine.lean ====
section
/-! DEFINITION. Reduction engines (R335 to R337, R349, R352 to R357): entries handed over by network queues, one beat of
a stream, its outputs. -/

namespace Sys2Proof.Machine

/-! Plan records (Table 11.5). -/

def State.planByte (s : State) (i o : Nat) : Nat := fieldLE (s.rec1 8) (16 * i + o) 1
def State.planIns (s : State) (i : Nat) : Nat := s.planByte i 0

/-- Network queue q is bound to stream i (NETQ record). -/
def State.nqStream (s : State) (q : Nat) : Option Nat :=
  if s.nqJob q = 0xFF ∨ fieldLE (s.rec1 6) (4 * q + 1) 1 ≠ 1 then none else some (fieldLE (s.rec1 6) (4 * q + 2) 1)

/-- The head entry of network queue q goes to its stream once it may. -/
def State.handOver (s : State) (q : Nat) : State :=
  match s.nqStream q, s.nq q with
  | some i, e :: r =>
    if s.beat.toNat < e.beat then s
    else
      let (s, m) := s.readMarked e.core e.span.addr e.span.len
      (s.setNq q r).reInput i 0 q m
  | _, _ => s

/-! One beat (R336, R337, R356). -/

/-- The head entries of the inputs, in addition order; none while one is missing. -/
def State.heads (s : State) (i : Nat) : Option (List Marked) :=
  let x := s.stream i
  let n := s.planIns i
  let l := (List.range n).filterMap (fun j => (tget noIns x.ins j).head?)
  if n = 0 ∨ l.length ≠ n ∨ x.stopped then none else some l

/-- Bytes [o, o + n) of an entry. -/
def Marked.at (m : Marked) (o n : Nat) : Marked := (m.drop o).take n
def Marked.bad (m : Marked) (o n : Nat) : Bool := (m.at o n).any (·.2)
def Marked.le (m : Marked) (o n : Nat) : Nat := leNat ((m.at o n).map (·.1))

/-- Element i of a compressed record at offset o (R354). -/
def hzDecode (m : Marked) (o i : Nat) : Num :=
  match (List.range 4).find? (fun j => m.le (o + 4 + j) 1 == i) with
  | some j => decode (m.le (o + 8 + 4 * j) 4) .fp32
  | none =>
    let x := decode (m.le o 4) .fp32
    if x.isNan then .nan else if (m.le (o + 0x20 + i / 8) 1).testBit (i % 8) then x.neg else x

/-- Values folded in IN order, with what each addition raises (R336, R349). -/
def foldIns : List Num → Fl Num
  | [] => ⟨.zero false, 0⟩
  | x :: r => r.foldl (fun a y => let t := rne32 a.val y; ⟨t.val, a.flags ||| t.flags⟩) ⟨x, 0⟩

/-- An output element: its value and flags, or none if poisoned. -/
abbrev OutElem := Option (Fl Num)

/-- Element e of an FP32 sum: poisoned if its 8-byte word is, in any input. -/
def sumElem (ins : List Marked) (e : Nat) : OutElem :=
  if ins.any (fun m => m.bad (e / 2 * 8) 8) then none else some (foldIns (ins.map (fun m => decode (m.le (4 * e) 4) .fp32)))

/-- Element e of a sum of compressed records: any poisoned word of the record poisons it. -/
def hzElem (ins : List Marked) (e : Nat) : OutElem :=
  let o := e / 256 * 64
  if ins.any (fun m => m.bad o 64) then none else some (foldIns (ins.map (fun m => hzDecode m o (e % 256))))

/-- Its FP32 code; a NaN leaves as 0x7FC0_0000. The bytes under a poison mark, which nothing fixes, are the draw's. -/
def elemBytes (free : W64) : OutElem → Marked
  | some f => (leBytes (roundFp f.val .fp32 rneSat).val 4).map (·, false)
  | none => (leBytes free.toNat 4).map (·, true)

/-- Output bytes of an entry of n input bytes. -/
def outLen (fmt n : Nat) : Nat := if fmt = 2 then n / 64 * 1024 else n

/-- REn counts of the elements of a beat: NAN and OVF raised, poisoned. Under FMT = 2 every NaN element counts (R356). -/
def State.countElems (s : State) (r fmt : Nat) (es : List OutElem) : State :=
  let n (p : Fl Num → Bool) : Nat := (es.filter (fun e => match e with
    | some f => p f
    | none => false)).length
  let nan := n (fun f => f.flags &&& flNAN != 0 || (fmt == 2 && f.val.isNan))
  let ovf := n (fun f => f.flags &&& flOVF != 0)
  ((s.bump (rg (fnRe r) 0x048) 63 32 nan).bump (rg (fnRe r) 0x048) 31 0 ovf).bump (rg (fnRe r) 0x050) 63 0
    (es.filter (·.isNone)).length

/-- Output bytes of beat b of stream i. -/
def State.beatOut (s : State) (i b : Nat) (ins : List Marked) : State × Marked :=
  let fmt := s.planByte i 1
  if fmt = 0 then (s, (ins.headD []).at (256 * b) 256)
  else
    let n := min 64 (outLen fmt (ins.headD []).length / 4 - 64 * b)
    let es := (List.range n).map (fun e => if fmt = 1 then sumElem ins (64 * b + e) else hzElem ins (64 * b + e))
    let (free, s) := s.draw
    (s.countElems (i / 8) fmt es, es.flatMap (elemBytes free))

/-- The links whose slots stream i owns (R300). -/
def State.streamLinks (s : State) (i : Nat) : List Nat :=
  (List.range 24).filter (fun l =>
    let b := s.slotTable l
    !b.isEmpty && (List.range 50).any (fun k =>
      let own := ownerOf b k
      own.testBit 15 && own.testBit 14 && bits own 9 4 == i))

/-- A finished output entry goes where OUT says: receive queue, tether slots, Hawser connection. -/
def State.sendOut (s : State) (i : Nat) (m : Marked) : State :=
  let out := s.planByte i 3
  let s := s.bump (rg (fnRe (i / 8)) 0x040) 63 0 1
  let s := if out.testBit 0 then s.receive (s.planByte i 2) (s.planByte i 0x0C) m else s
  let at_ := s.beat.toNat + 12
  let put (s : State) (l : Nat) : State :=
    let x := s.stream i
    s.setStream i { x with outs := tput noOuts x.outs l (tget noOuts x.outs l ++ [(m, at_)]) }
  let s := if out.testBit 1 then (s.streamLinks i).foldl put s else s
  if out.testBit 2 then put s 64 else s

/-- RE_FAULT: inputs of unequal byte counts stop the stream and its job. -/
def State.reFault (s : State) (i : Nat) : State :=
  let k := rg (fnRe (i / 8)) 0x058
  let s := s.setStream i { s.stream i with stopped := true }
  let s := if s.flag k 40 then s else ((s.setFlag k 40 true).setFld k 34 32 (i % 8)).setFld k 7 0 0x01
  s.reportStop 0x23 (fnRe (i / 8)) (s.planByte i 2) { code := 0x01, unit := i }

/-- Stream i combines its next beat. -/
def State.reStep (s : State) (i : Nat) (ins : List Marked) : State :=
  let n := (ins.headD []).length
  if ins.any (fun m => m.length != n) then s.reFault i
  else
    let x := s.stream i
    let (s, m) := s.beatOut i x.beat ins
    let acc := x.acc ++ m
    let total := outLen (s.planByte i 1) n
    if 256 * (x.beat + 1) < total then s.setStream i { x with beat := x.beat + 1, acc }
    else
      let rest := (List.range (s.planIns i)).foldl (fun t j => tput noIns t j ((tget noIns x.ins j).drop 1)) x.ins
      (s.setStream i { x with ins := rest, beat := 0, acc := [] }).sendOut i acc

end Sys2Proof.Machine
end

