-- ==== Sys2Proof/Machine/Hawser.lean ====
section
/-! DEFINITION. The Hawser transport (R329 to R334, R341, R441): packets out of the send queues and into the receive
queues, acknowledgments, retransmission, and the beat of an engine with the output that it hands to a connection. -/

namespace Sys2Proof.Machine

/-! The send queue of connection k is spill queue 2k, its receive queue 2k + 1. -/

def sendQ (k : Nat) : Nat := 2 * k
def recvQ (k : Nat) : Nat := 2 * k + 1

/-- Peer, home port and WIN of a connection (HAWSER record). -/
def State.connWin (s : State) (k : Nat) : Nat := fieldLE (s.rec1 0x0D) (16 * k + 6) 2

/-- Granules of a packet of n payload bytes. -/
def hwGranules (n : Nat) : Nat := 1 + cdiv n 64

def State.spillFree (s : State) (q : Nat) : Nat := s.spillSize q - ahead (s.spill q).q (s.spill q).p

/-- WINADV: free space of the receive queue, in packets of the largest size. -/
def State.winAdv (s : State) (k : Nat) : Nat := min 65535 (s.spillFree (recvQ k) / 129)

/-- A packet is written into the send queue and committed. -/
def State.buildPacket (s : State) (k : Nat) (ctrl last : Bool) (stream job : Nat) (m : Marked) : State :=
  let x := s.conn k
  let q := sendQ k
  let at_ := (s.spill q).p
  let bad := m.any (·.2)
  let j := s.job job
  let flags := (if bad then 1 else 0) + (if last then 2 else 0)
  let h := hwHeader (if ctrl then 3 else 1) flags x.far.toNat k m.length s.gen x.built.toNat x.expect.toNat (s.winAdv k) stream job
    j.step j.attempt 0
  let n := cdiv m.length 64
  let s := s.spillPut q h false
  let s := (List.range n).foldl (fun s i =>
    let g : List (Byte × Bool) := (m.drop (64 * i)).take 64
    s.spillPut q ((g.map Prod.fst ++ List.replicate 64 0).take 64) (g.any Prod.snd)) s
  let p : HwSent := { psn := x.built, at_, len := m.length, ctrl, poison := bad, last, stream, job, step := BitVec.ofNat 64 j.step
                      attempt := j.attempt, times := 0 }
  (s.spillCommit q).setConn k { s.conn k with
    packets := x.packets ++ [p], built := x.built + 1, qAt := if x.packets.isEmpty then s.linkTime else x.qAt }

/-- HAWSER_PACKETIZE: the output entry at the head of stream i is cut into packets, as many as the send queue has room
for; a full queue holds the stream's output. n bounds the packets. -/
def State.packetize (s : State) (i : Nat) : Nat → State
  | 0 => s
  | n + 1 =>
    let k := s.planByte i 0x0D
    let x := s.stream i
    match tget noOuts x.outs 64 with
    | [] => s
    | (m, t) :: r =>
      let p := m.take 8192
      let rest := m.drop 8192
      if s.beat.toNat < t ∨ (s.conn k).state = 0 ∨ (s.conn k).state = 3 then s
      else if s.spillFree (sendQ k) < hwGranules p.length then
        s.setSpill (sendQ k) { s.spill (sendQ k) with full := (s.spill (sendQ k)).full + 1 }
      else
        let s := s.buildPacket k false rest.isEmpty i (s.planByte i 2) p
        (s.setStream i { x with outs := tput noOuts x.outs 64 (if rest.isEmpty then r else (rest, t) :: r) }).packetize i n

/-- Packets that the waiting output of stream i makes at most. -/
def State.waitingPackets (s : State) (i : Nat) : Nat :=
  (tget noOuts (s.stream i).outs 64).foldl (fun n e => n + cdiv e.1.length 8192 + 1) 0

/-- RE_BEAT: network queues hand over; the lowest stream of the engine that has its next beat combines it; output for a
connection goes to its send queue. -/
def execReBeat (r : Fin 8) (s : State) : Out :=
  let s := (List.range 64).foldl (fun s q => match s.nqStream q with
    | some i => if i / 8 = r then s.handOver q else s
    | none => s) s
  let is := (List.range 8).map (8 * r.val + ·)
  let s := is.foldl (fun s i => s.packetize i (s.waitingPackets i)) s
  match is.findSome? (fun i => (s.heads i).map (fun l => (i, l))) with
  | some (i, l) => .next (s.reStep i l)
  | none => .next s

/-! Transmission (R322, R330, R331, R333, R344). -/

/-- A packet of connection k with no payload: ACK or HELLO. -/
def State.barePacket (s : State) (k : Nat) (ceEcho nak : Bool) : HwPacket :=
  let x := s.conn k
  { dconn := x.far, sconn := BitVec.ofNat 6 k, poison := false, last := false, ceEcho, retx := false, nak
    gen := BitVec.ofNat 32 s.gen, psn := 0, ackpsn := x.expect, winadv := BitVec.ofNat 16 (s.winAdv k), stream := 0, job := 0
    step := 0, attempt := 0, beat := s.beat, payload := [], ceMark := false, crcOk := true }

/-- The peer's address on a plane (Table 11.6). -/
def State.peerAddr (s : State) (i plane : Nat) : BitVec 128 :=
  BitVec.ofNat 128 (beNat (s.mem.bytes (s.peerBase + 64 * i + 0x10 + 16 * plane) 16))

/-- A packet of a TYPE leaves the connection's port as a UDP datagram: DATA in class TC2 and ECN-capable, the others in TC3
(R320, R322, R329). -/
def State.sendHw (s : State) (k type : Nat) (p : HwPacket) : State :=
  let x := s.conn k
  let s := s.setConn k { x with out := some (type, p) }
  s.sendIp x.port 0 (if type = 1 then 2 else 3) (s.peerAddr (s.connPeer k) (x.port / 4)) (type == 1) 0
    (.hawser (fieldLE (s.rec1 0x0D) (16 * k + 4) 2) (p.bytes type))

/-- An ACK leaves, the next is due after 1 ms of idleness; under a pause of its class it stays due. -/
def State.putAck (s : State) (k : Nat) (nak : Bool) : State :=
  let x := s.conn k
  if s.classPaused x.port 0 3 then s.setConn k { x with ackAt := min x.ackAt s.linkTime, nakDue := x.nakDue || nak }
  else
    let p := s.barePacket k x.ceEcho (nak || x.nakDue)
    (s.setConn k { x with ceEcho := false, nakDue := false, commits := 0, ackAt := s.linkTime + 1000000 }).sendHw k 2 p

/-- A HELLO leaves. -/
def State.putHello (s : State) (k : Nat) : State :=
  let x := s.conn k
  if s.classPaused x.port 0 3 then s
  else (s.setConn k { x with helloAt := s.linkTime + 1 }).sendHw k 4 (s.barePacket k false false)

/-- Control messages that wait are made into a CTRL packet. -/
def State.buildCtrl (s : State) (k : Nat) : State :=
  let x := s.conn k
  let ms := x.ctl.take 512
  let m : Marked := (ms.flatMap (fun c => leBytes c.type.toNat 1 ++ leBytes c.lo.toNat 7 ++ leBytes c.hi.toNat 8)).map (·, false)
  if ms.isEmpty ∨ s.spillFree (sendQ k) < hwGranules m.length then s
  else (s.setConn k { x with ctl := x.ctl.drop 512 }).buildPacket k true true 0 (s.spillJob (sendQ k)) m

/-- Payload as read from the send queue, and whether a granule of the packet read poisoned. -/
def State.readPacket (s : State) (k : Nat) (p : HwSent) : State × List Byte × Bool :=
  let (s, bs, bad) := (List.range (hwGranules p.len)).foldl (fun (s, l, b) i =>
    let (s, g, x) := s.spillPeek (sendQ k) (p.at_ + BitVec.ofNat 40 i)
    (s, l ++ g, b || x)) (s, [], false)
  (s, (bs.drop 64).take p.len, bad)

/-- Packet p goes out on the connection's port, or is dropped or corrupted there by INJECT. -/
def State.transmit (s : State) (k : Nat) (p : HwSent) : State :=
  let (s, data, bad) := s.readPacket k p
  let x := s.conn k
  let now := s.linkTime
  let arm := if p.ctrl then 0 else tget z0 s.net.inject x.port
  let drop := arm.testBit 0
  let s := if arm = 0 then s else { s with net := { s.net with inject := tput z0 s.net.inject x.port (if drop then arm - 1 else 0) } }
  let pkt := { s.barePacket k false false with
    poison := p.poison || bad, last := p.last, retx := decide (0 < p.times), psn := p.psn, stream := BitVec.ofNat 6 p.stream
    job := BitVec.ofNat 4 p.job, step := p.step, attempt := BitVec.ofNat 8 p.attempt, payload := data, crcOk := drop || arm = 0 }
  let s := if 0 < p.times then s.bump (rg (fnEth x.port) 0x078) 63 0 1 else s
  let s := s.setConn k { x with
    next := x.next + 1
    packets := x.packets.map (fun y => if y.psn = p.psn then { y with times := y.times + 1 } else y)
    paceAt := if p.ctrl then x.paceAt else max now x.paceAt + x.pace.time (52 + p.len) }
  if drop then s else s.sendHw k (if p.ctrl then 3 else 1) pkt

/-- HAWSER_TRANSMIT: a connection that is not open sends HELLO; an open one its next packet, within the window, the pace and
PFC. -/
def execHawserTransmit (k : ConnId) (s : State) : Out :=
  if !s.connUsed k ∨ (s.conn k).state = 3 ∨ !s.portReady (s.conn k).port 0 then .next s
  else if (s.conn k).state = 0 then .next (s.putHello k)
  else
    let s := (s.buildCtrl k)
    let s := (List.range 64).foldl (fun s i =>
      if (s.planByte i 3).testBit 2 && s.planByte i 0x0D == k.val then s.packetize i (s.waitingPackets i) else s) s
    let x := s.conn k
    match x.packets.find? (fun p => p.psn == x.next) with
    | none => .next s
    | some p =>
      if min (s.connWin k) x.winadv ≤ (x.next - x.acked).toNat ∨ (!p.ctrl ∧ s.linkTime < x.paceAt) ∨
          s.classPaused x.port 0 (if p.ctrl then 3 else 2) then .next s
      else .next (s.transmit k p)

/-! Acknowledgments and retransmission (R333). -/

/-- ACKPSN and WINADV of a packet received: Q moves past what they cover. -/
def State.onAck (s : State) (k : Nat) (ackpsn : W32) (winadv : W16) : State :=
  let x := s.conn k
  let n := (ackpsn - x.acked).toNat
  let x := { x with winadv := winadv.toNat }
  if n = 0 ∨ (x.built - x.acked).toNat < n then s.setConn k x
  else
    let rest := x.packets.drop n
    let q := sendQ k
    let at_ := (rest.head?.map (·.at_)).getD (s.spill q).c
    (s.setSpill q { s.spill q with q := at_ }).setConn k { x with
      acked := ackpsn, packets := rest, timeouts := 0, qAt := s.linkTime
      next := if (x.next - x.acked).toNat < n then ackpsn else x.next }

/-- The connection that a packet is for, if it takes packets. -/
def State.hwFor (s : State) (e : Nat) (p : HwPacket) : Option Nat :=
  let k := p.dconn.toNat
  if e < 8 ∧ s.portReady e 0 ∧ s.connUsed k ∧ (s.conn k).state ≠ 3 then some k else none

/-- The packet of a TYPE in a datagram, and the connection that takes it. -/
def State.hwTake (s : State) (e type : Nat) (bytes : List Byte) (ceMark : Bool) : Option (Nat × HwPacket) :=
  (hwParse type bytes ceMark).bind (fun p => (s.hwFor e p).map (fun k => (k, p)))

/-- HAWSER_ACK_RX: with NAK, the transmit pointer goes back to ACKPSN; CE_ECHO cuts the rate. -/
def execHawserAckRx (e : PortId) (pkt : HwDatagram) (s : State) : Out :=
  match s.hwTake e 2 pkt.bytes pkt.ceMark with
  | none => .next s
  | some (k, pkt) =>
    if !pkt.crcOk ∨ (s.conn k).state = 0 then .next s
    else
      let s := (s.setConn k { s.conn k with heard := s.linkTime }).onAck k pkt.ackpsn pkt.winadv
      let s := if pkt.ceEcho then s.cutFlow (.conn (Fin.ofNat 64 k)) else s
      .next (if pkt.nak then s.setConn k { s.conn k with next := (s.conn k).acked } else s)

/-- RTO (R333). -/
def Conn.rto (x : Conn) : Nat := max 200000 (2 * x.srtt.toNat + 100000)

/-- HAWSER_RTO: packets wait for their acknowledgment, and Q has not advanced for RTO. -/
def execHawserRto (k : ConnId) (s : State) : Out :=
  let x := s.conn k
  if !s.connOpen k ∨ x.packets.isEmpty ∨ s.linkTime < x.qAt + x.rto then .next s
  else
    let s := s.bump (rg (fnEth x.port) 0x098) 63 0 1
    let x := { x with timeouts := x.timeouts + 1, next := x.acked, qAt := s.linkTime }
    if x.timeouts < 8 then .next (s.setConn k x)
    else .next ((s.setConn k { x with state := 3 }).reportPeer (s.connPeer k) 3)

/-- HAWSER_ACK_TIMER. -/
def execHawserAckTimer (k : ConnId) (s : State) : Out :=
  if s.connOpen k && decide ((s.conn k).ackAt ≤ s.linkTime) then .next (s.putAck k false) else .next s

/-- HAWSER_HELLO_RX: the answer to a HELLO of its own measures a round trip; the mean of eight is SRTT and opens the
connection at a quarter of the line rate. -/
def execHawserHelloRx (e : PortId) (bytes : List Byte) (ceMark : Bool) (s : State) : Out :=
  match s.hwTake e 4 bytes ceMark with
  | none => .next s
  | some (k, pkt) =>
    if !pkt.crcOk then .next s
    else
      let now := s.linkTime
      let x : Conn := { s.conn k with far := pkt.sconn, winadv := pkt.winadv.toNat, heard := now }
      if x.state ≠ 0 ∨ x.helloAt = 0 then .next ((s.setConn k x).putHello k)
      else
        let x : Conn := { x with hellos := x.hellos + 1, rttSum := x.rttSum + (now - (x.helloAt - 1)) }
        let x : Conn := if x.hellos < 8 then x
          else { x with state := 1, srtt := BitVec.ofNat 32 (x.rttSum / 8), pace := openPace (s.lineRate x.port) now, ackAt := now + 1000000 }
        .next ((s.setConn k x).putHello k)

/-! Reception (R332, R334, R341, R441). -/

/-- The packet's step and attempt are older than what job j runs or holds unsealed (R441). -/
def State.hwStale (s : State) (p : HwPacket) : Bool :=
  let j := p.job.toNat
  let x := s.job j
  let held := (x.step, x.attempt) :: x.unsealed.toList
  let n := p.step.toNat
  s.jobDefined j && x.prog.isSome &&
    (held.all (fun h => decide (n < h.1)) || held.any (fun h => n == h.1 && decide (p.attempt.toNat < h.2)))

/-- An ACK becomes due within 20 µs. -/
def State.ackSoon (s : State) (k : Nat) : State :=
  let x := s.conn k
  s.setConn k { x with ackAt := min x.ackAt (s.linkTime + 20000) }

/-- The receive queue has room for the packet. -/
def State.hwRoom (s : State) (k : Nat) (p : HwPacket) : Bool := hwGranules p.payload.length ≤ s.spillFree (recvQ k)

/-- The packet is written into the receive queue as it arrives, with its poison (R332, R334): nothing is between C and P
before it, and a full queue takes none of it. -/
def State.storePacket (s : State) (k type : Nat) (p : HwPacket) : State :=
  let q := recvQ k
  let s := s.spillRewind q
  if !s.hwRoom k p then s.setSpill q { s.spill q with full := (s.spill q).full + 1 }
  else
    let s := s.spillPut q ((p.head type ++ List.replicate 16 0).take 64) false
    (List.range (cdiv p.payload.length 64)).foldl (fun s i =>
      s.spillPut q ((((p.payload.drop (64 * i)).take 64) ++ List.replicate 64 0).take 64) p.poison) s

/-- A stored packet is committed and read again: its payload as read. -/
def State.commitPacket (s : State) (k : Nat) (p : HwPacket) : State × Marked :=
  let q := recvQ k
  let s := s.spillCommit q
  let from_ := (s.spill q).q
  let (s, bs, bad) := (List.range (hwGranules p.payload.length)).foldl (fun (s, l, b) i =>
    let (s, g, x) := s.spillPeek q (from_ + BitVec.ofNat 40 i)
    (s, l ++ g, b || x)) (s, [], false)
  (s.setSpill q { s.spill q with q := (s.spill q).c }, ((bs.drop 64).take p.payload.length).map (·, bad))

/-- A DATA or CTRL packet arrives for connection k: stored, then committed and passed to use, or rewound and counted. -/
def State.hwReceive (s : State) (e k type : Nat) (p : HwPacket) (use : State → Marked → State) : State :=
  let s := s.setConn k { s.conn k with heard := s.linkTime, ceEcho := (s.conn k).ceEcho || p.ceMark }
  let s := if p.ceMark then s.ackSoon k else s
  let room := s.hwRoom k p
  let s := s.storePacket k type p
  let back := s.spillRewind (recvQ k)
  if !p.crcOk then (back.bump (rg (fnEth e) 0x088) 63 0 1).ackSoon k
  else
    let s := s.onAck k p.ackpsn p.winadv
    let back := back.onAck k p.ackpsn p.winadv
    let x := s.conn k
    if p.psn ≠ x.expect then
      let s := back.bump (rg (fnEth e) 0x080) 63 0 1
      if (p.psn - x.expect).toNat < 2 ^ 31 then s.putAck k true else s.ackSoon k
    else if p.gen.toNat ≠ s.gen then (back.bump (rg (fnEth e) 0x090) 63 0 1).putAck k true
    else if s.hwStale p then (back.setConn k { x with expect := x.expect + 1 }).ackSoon k
    else if !room then back.ackSoon k
    else
      let (s, m) := s.commitPacket k p
      let s := s.setConn k { s.conn k with expect := x.expect + 1, commits := x.commits + 1 }
      let s := if 16 ≤ (s.conn k).commits then s.putAck k false else s
      use s m

/-- HAWSER_DATA_RX: a committed packet joins its stream's entry, which goes to the stream with its last packet. -/
def execHawserDataRx (e : PortId) (pkt : HwDatagram) (s : State) : Out :=
  match s.hwTake e 1 pkt.bytes pkt.ceMark with
  | none => .next s
  | some (k, pkt) =>
    if (s.conn k).state = 0 then .next s
    else .next (s.hwReceive e k 1 pkt (fun s m =>
      let i := pkt.stream.toNat
      let all := tget noMarked (s.conn k).part i ++ m
      let keep (m : Marked) : State := s.setConn k { s.conn k with part := tput noMarked (s.conn k).part i m }
      if pkt.last then (keep []).reInput i 2 k all else keep all))

/-- The control messages of a payload. -/
def ctlOf (bs : List Byte) : List CtlMsg :=
  (List.range (bs.length / 16)).map (fun i => ctlMsg (fieldLE bs (16 * i) 1) (fieldLE bs (16 * i + 1) 7) (fieldLE bs (16 * i + 8) 8))

/-- HAWSER_CTRL_RX: its messages are processed, unless they read poisoned. -/
def execHawserCtrlRx (e : PortId) (pkt : HwDatagram) (s : State) : Out :=
  match s.hwTake e 3 pkt.bytes pkt.ceMark with
  | none => .next s
  | some (k, pkt) =>
    if (s.conn k).state = 0 then .next s
    else .next (s.hwReceive e k 3 pkt (fun s m =>
      if m.any (·.2) then s else (ctlOf (m.map (·.1))).foldl (fun s c => s.control (.conn (Fin.ofNat 64 k)) c) s))

end Sys2Proof.Machine
end

