-- ==== Sys2Proof/Machine/Reset.lean ====
section
/-! DEFINITION. Domains and rails as CSRs report them (R472, R473, R493, R505, R507), resets of functions, jobs, dies and
the chip (R444, R447, R452, R469, R479, R487, R489, R505), and the start of a boot (R409, R504). -/

namespace Sys2Proof.Machine

/-! Domains. -/

/-- The domain of function f is on. -/
def State.fnOn (s : State) (f : Nat) : Bool :=
  if f = fnPwr ∨ f = fnClk ∨ f = fnSec ∨ f = fnMgmt then true
  else if 0x010 ≤ f ∧ f < 0x018 then s.dieOn ((f - 0x010) / 2)
  else if 0x100 ≤ f ∧ f < 0x120 then s.dieOn ((f - 0x100) / 8)
  else if 0x200 ≤ f ∧ f < 0x320 then s.dieOn ((f - 0x200) / 72)
  else s.hubOn

/-! Rails (R505, R507, R508). -/

/-- The PWRGOOD group of rail r: 0 HUB, 1 CMP, 2 HBM, 3 the board's own. -/
def railGroup (r : Nat) : Nat := if r < 5 then 1 else if r = 6 ∨ r = 7 then 3 else if r = 5 ∨ r = 11 ∨ r = 12 then 0 else 2
def groupRails (g : Nat) : List Nat := (List.range 13).filter (fun r => railGroup r == g)

def State.rail (s : State) (r : Nat) : Rail := tget rail0 s.power.rails r
def State.setRail (s : State) (r : Nat) (x : Rail) : State := { s with power := { s.power with rails := tput rail0 s.power.rails r x } }

def State.groupPin (s : State) (g : Nat) : Bool := if g = 0 then s.pins.pgHub else if g = 1 then s.pins.pgCmp else s.pins.pgHbm

def kRails : Nat := rg fnPwr 0x048
def State.good (s : State) (r : Nat) : Bool := s.flag kRails r
def State.railFault (s : State) (r : Nat) : Bool := s.flag kRails (16 + r)

/-- PWR.STATUS.STATE: 0 ON, 1 DEEP, 2 STANDBY, 3 in transition. -/
def State.pwrState (s : State) : Nat := s.fld (rg fnPwr 0) 7 6
def State.setPwrState (s : State) (n : Nat) : State := s.setFld (rg fnPwr 0) 7 6 n

/-- ALERT_N (R507). -/
def State.refreshAlert (s : State) : State :=
  let ref := s.flag (rg fnClk 0) 0 || s.flag (rg fnClk 0) 2
  s.setFlag (rg fnPwr 0) 2 (s.running && (s.power.hot || !ref || s.fld kRails 28 16 != 0))

/-- Rails that the current state needs. -/
def stateRails (st : Nat) : List Nat :=
  if st = 1 then [5, 6, 7, 8, 9, 10, 11, 12] else if st = 2 then [6, 7] else List.range 13

/-- PWR.RAILS.GOOD, PWR.STATUS.READY and ALERT follow the pins, the regulators and the monitors. -/
def State.refreshRails (s : State) : State :=
  let warned (r : Nat) : Bool := s.power.warns.any (fun w => w.rail == r)
  let ok (r : Nat) : Bool := s.running && !warned r &&
    (railGroup r == 3 || ((s.rail r).on && s.power.groupOn.contains (railGroup r) && s.groupPin (railGroup r)))
  let s := (List.range 13).foldl (fun s r => s.setFlag kRails r (ok r)) s
  let full := (List.range 3).filter (fun g => (groupRails g).all s.good)
  let s := { s with power := { s.power with onceGood := full.foldl (fun l g => sins g l) s.power.onceGood } }
  (s.setFlag (rg fnPwr 0) 0 ((stateRails s.pwrState).all s.good)).refreshAlert

/-! Cores, clusters, stacks. -/

/-- Bytes [a, a + n) read as if never written, unpoisoned. -/
def State.clearMem (s : State) (a n : Nat) : State :=
  { s with mem := tclear s.mem a n, poison := s.poison.filter (fun x => !(a ≤ x && x < a + n)), upset := tclear s.upset a n }

/-- EXPERT_EN of a function's block is cleared (R374). -/
def State.dropExpert (s : State) (f : Nat) : State := s.setFlag (rg f 0x020) 0 false

/-- The registers of function f's block return to their reset values, but for those at the given offsets: counters and
fault records clear with the function (R138, R170, R206, R230, R262, R291, R293, R454). -/
def State.resetBlock (s : State) (f : Nat) (keep : List Nat) : State :=
  let stays (k : Nat) : Bool := k / 4096 != f || keep.contains (k % 4096)
  { s with csr := s.csr.filter (fun e => stays e.1), inForce := s.inForce.filter (fun e => stays e.1) }

/-- A ROWMAPn value that maps out the given rows, two at most. -/
def rowMap (rows : List Nat) : W64 :=
  BitVec.ofNat 64 (match rows with
    | [] => 0
    | [a] => 0x80 + a
    | a :: b :: _ => 0x8000 + 256 * b + 0x80 + a)

/-- Rows that a ROWMAPn value maps out. -/
def mapRows (w : W64) : List Nat :=
  (if w.toNat.testBit 7 then [getField w 6 0] else []) ++ (if w.toNat.testBit 15 then [getField w 14 8] else [])

def kRowmap (p n : Nat) : Nat := rg (fnCore p) (0x400 + 8 * n)

/-- Rows of array n of core p mapped out by fuse; by fuse or soft repair. -/
def State.fuseRows (s : State) (p n : Nat) : List Nat :=
  (s.bist.fuses.filter (fun r => r.core == p && r.kind == 0 && r.array == n)).map (·.row)
def State.repairRows (s : State) (p n : Nat) : List Nat :=
  (s.bist.table.filter (fun r => r.core == p && r.kind == 0 && r.array == n)).foldl (fun l r => if l.contains r.row then l else l ++ [r.row])
    (s.fuseRows p n)

/-- Row maps of core p are loaded and in force; its accumulators are clear (R138). -/
def State.loadRowMaps (s : State) (p : Nat) : State :=
  let s := (List.range 4).foldl (fun s n =>
    let w := rowMap (s.repairRows p n)
    { s.wr (kRowmap p n) w with inForce := tput csrReset s.inForce (kRowmap p n) w }) s
  s.setFld (rg (fnCore p) 0x040) 3 0 0xF

/-- Core p is cleared, and its kernels are to run before service. -/
def State.resetCore (s : State) (p : Nat) : State :=
  let s := (s.setCore p core0).clearMem (window p) 0x400000
  let s := { s with bist := { s.bist with cycle := tput z0 s.bist.cycle p 0 }
                    contain := { s.contain with kats := if s.role p < 2 then sins p s.contain.kats else s.contain.kats } }
  (s.resetBlock (fnCore p) [0x0D8, 0x0E8]).loadRowMaps p

/-- Cluster c is cleared with its cores. -/
def State.resetCluster (s : State) (c : Nat) : State :=
  let s := (coresOf c).foldl (fun s p => s.resetCore p) (s.loseChecks c)
  let k := cluster0 c
  let s := s.setCluster c { k with fenced := (s.cluster c).fenced, idleAt := s.clk + 1 }
  let s := { s with mbx := tclear s.mbx (65536 * c) 65536, mbxPoison := s.mbxPoison.filter (fun x => x / 65536 != c) }
  s.resetBlock (fnCluster c) [0x0A0]

/-- Stack n is written clear; what its controller holds is gone (R444, R528). -/
def State.resetStack (s : State) (n : Nat) : State :=
  let s := s.clearMem (n * 0x2000000000) 0x2000000000
  let h := s.hbm
  let h := { h with fifo := tclear h.fifo (1024 * n) 1024, owed := tclear h.owed (32 * n) 32, refreshes := tclear h.refreshes (32 * n) 32
                    armed := tput noInject h.armed n none, scrub := tclear h.scrub (1024 * n) 1024, scrubbed := tput z0 h.scrubbed n 0
                    scrubAt := tput z0 h.scrubAt n 0, temps := tput z0 h.temps n 0
                    writeBack := h.writeBack.filter (fun g => g / 0x2000000000 != n) }
  ({ s with hbm := h }.setFlag (rg (fnHbm n) 0) 0 false).dropExpert (fnHbm n)

/-- Stack n serves: READY, in the cadence in force (R254), and its patrol scrub begins a pass (R260). The first stack to be
READY sets the frame phase (R253). -/
def State.readyStack (s : State) (n : Nat) : State :=
  let first := (List.range 8).all (fun k => !s.flag (rg (fnHbm k) 0) 0)
  let s := { s with hbm := { s.hbm with frameAt := if first then s.clk else s.hbm.frameAt, scrubAt := tput z0 s.hbm.scrubAt n (s.clk + 1) } }
  ((s.setFlag (rg (fnHbm n) 0) 0 true).setFlag (rg (fnHbm n) 0) 1 (!s.flag (rg fnChip 0x030) 32)).refreshSch

/-- Jobs with pages in stack n. -/
def State.stackJobs (s : State) (n : Nat) : List Nat :=
  s.definedJobs.filter (fun j => s.hbm.pages.any (fun e => e.1 / 0x40000 == n && pageValid e.2 && pageJob e.2 == j))

/-- Cluster c is in service once every core cleared has passed its kernels: READY, and its CCC is UP (Table 17.8). -/
def State.serveCluster (s : State) (c : Nat) : State :=
  if s.contain.kats.any (fun p => clusterOf p == c) ∨ (s.cluster c).fenced then s
  else
    let down := s.boot.waiting.any (fun w => w.1 == 3 + c) || s.boot.dead.contains (3 + c)
    let s := s.setFlag (rg (fnCluster c) 0) 0 true
    if down then s else s.setFwUp (3 + c) true

/-- Core p's kernels have run. -/
def State.kernelsDone (s : State) (p : Nat) : State :=
  let s := { s with contain := { s.contain with kats := sdel p s.contain.kats } }
  if s.flag (rg (fnCluster (clusterOf p)) 0) 0 ∨ s.contain.frst.isSome then s else (s.serveCluster (clusterOf p)).refreshStage

/-- KAT_RUN: failing is the number of a kernel whose signature differs. -/
def execKatRun (p : CoreId) (failing : Option Byte) (s : State) : Out :=
  if 2 ≤ s.role p ∨ !s.katOccasion p then .next s
  else .next ((s.katDone p (failing.map (·.toNat))).resumeGroups.kernelsDone p)

/-! Reset of a function or a job (R444, Table 15.5). -/

def kFrst : Nat := rg fnChip 0x040
def State.frstErr (s : State) (n : Nat) : State := s.setFld kFrst 23 16 n

/-- The job that holds cluster c stops, with cause 0x51. -/
def State.stopHolder (s : State) (c func : Nat) : State :=
  match s.jobOf c with
  | some j => if s.jobDefined j then s.stopJob j 0x51 func else s
  | none => s

/-- Why a reset of function f is refused. -/
def State.frstRefused (s : State) (f : Nat) : Option Nat :=
  if (0x200 ≤ f ∧ f < 0x320) ∨ (0x100 ≤ f ∧ f < 0x120) ∨ (0x020 ≤ f ∧ f < 0x028) then none
  else if 0x030 ≤ f ∧ f < 0x048 then (if s.linkFailed (f - 0x030) then none else some 0x04)
  else if 0x050 ≤ f ∧ f < 0x058 then
    let used (k : Nat) : Bool := s.planIns k != 0 && (s.job (s.planByte k 2)).prog.isSome
    (if (List.range 8).any (fun i => used (8 * (f - 0x050) + i)) then some 0x03 else none)
  else if 0x010 ≤ f ∧ f < 0x018 then
    (if (s.stackJobs (f - 0x010)).any (fun j => (s.job j).prog.isSome) then some 0x03 else none)
  else some 0x02

/-- A tether link's framing starts anew; the link stays fenced and carried (R306). -/
def State.resetLink (s : State) (l : Nat) : State :=
  ((s.setLink l { s.link l with good := 0, bad := 0, lostAt := 0, nak := false }).setFlag (rg (fnTether l) 0) 1 false).dropExpert (fnTether l)

/-- A plane port loses its lock until the reset is ready. -/
def State.resetPort (s : State) (e : Nat) : State :=
  ((((s.setFlag (rg (fnEth e) 0) 0 false).setFlag (rg (fnEth e) 0) 1 false).setFlag (rg (fnEth e) 0) 2 false).dropExpert (fnEth e)).moveConns

/-- The streams of a reduction engine are emptied. -/
def State.resetRe (s : State) (r : Nat) : State :=
  { s with net := { s.net with streams := tclear s.net.streams (8 * r) 8 } }.dropExpert (fnRe r)

/-- The reset of function f begins. -/
def State.resetFn (s : State) (f : Nat) : State :=
  if 0x200 ≤ f then (s.stopHolder (clusterOf (f - 0x200)) f).resetCore (f - 0x200)
  else if 0x100 ≤ f then (s.stopHolder (f - 0x100) f).resetCluster (f - 0x100)
  else if 0x050 ≤ f then s.resetRe (f - 0x050)
  else if 0x030 ≤ f then s.resetLink (f - 0x030)
  else if 0x020 ≤ f then s.resetPort (f - 0x020)
  else s.resetStack (f - 0x010)

/-- A job's record after its reset: strands, a program not yet bound and the splices' background ages stay. -/
def Job.reset (x : Job) : Job :=
  let y := job0 0
  { y with strand := x.strand, staged := x.staged, pending := x.pending, age := x.age, hold := x.hold, ages := x.ages, lastTask := x.lastTask }

/-- The streams that the plan gives job j are as at reset. -/
def State.dropJobStreams (s : State) (j : Nat) : State :=
  let mine (k : Nat) : Bool := s.planIns k != 0 && s.planByte k 2 == j
  { s with net := { s.net with streams := s.net.streams.filter (fun e => !mine e.1) } }

/-- Job j is reset: its clusters, ledger range, step, network queues and connections; what its group has collected and its
engines' streams hold of it goes too; a fetch that failed no longer holds its splice (R367). -/
def State.resetJob (s : State) (j : Nat) : State :=
  let s := (s.clustersOf j).foldl (fun s c => s.resetCluster c) s
  let s := { s with ledger := ⟨tclear s.ledger.slots (s.ledgerBase j) (s.ledgerCount j), s.ledger.shadow.filter (fun y => y.job != j)⟩ }
  let s := (List.range 64).foldl (fun s q => if s.nqJob q = j then s.setNq q [] else s) s
  let s := (List.range 64).foldl (fun s k => if s.connUsed k ∧ s.spillJob (2 * k) = j then s.reopenConn k else s) s
  let s := s.dropJobStreams j
  let s := if (s.groupJobs (s.group j)).tail.isEmpty then s.setGrp (s.group j) (group0 0) else s
  let s := (s.svcOf j).foldl (fun s e => if e.2.phase = 4 then s.setSvc e.1 none else s) s
  (s.setJob j (s.job j).reset).setFlag (rg fnChip 0x048) j false

/-- A write with GO = 1 that names a target: refused while a reset is under way; FUNC and JOB keep what was written. -/
def State.startFrst (s : State) (func : Nat) (job : Bool) (target : Nat) (refused : Option Nat) (go : State → State) : State :=
  if s.flag kFrst 15 then s.frstErr 0x01
  else
    let s := (s.setFld kFrst 9 0 func).setFlag kFrst 14 job
    match refused with
    | some e => s.frstErr e
    | none =>
      let s := { s with contain := { s.contain with frst := some ⟨target, job⟩ } }
      go ((s.frstErr 0).setFlag kFrst 15 true)

/-- FRST.GO for function f, and for the job that FUNC[3:0] names. -/
def State.frstFn (s : State) (f : Nat) : State := s.startFrst f false f (s.frstRefused f) (fun s => s.resetFn f)
def State.frstJob (s : State) (func : Nat) : State :=
  let j := func % 16
  s.startFrst func true j (if s.jobDefined j then none else some 0x02) (fun s => (s.stopJob j 0x51 fnChip).resetJob j)

/-- FUNCTION_RESET. -/
def execFunctionReset (func : BitVec 10) (s : State) : Out :=
  if s.fnOn fnChip then .next (s.frstFn func.toNat) else .next s

/-- JOB_RESET. -/
def execJobReset (j : JobId) (s : State) : Out :=
  if s.fnOn fnChip then .next (s.frstJob j) else .next s

/-- Clusters whose kernels a reset waits for. -/
def State.frstClusters (s : State) (f : Frst) : List Nat :=
  if f.job then s.clustersOf f.target
  else if 0x200 ≤ f.target then [clusterOf (f.target - 0x200)]
  else if 0x100 ≤ f.target then [f.target - 0x100] else []

/-- What reports ready with the function. -/
def State.frstReady (s : State) (f : Frst) : State :=
  let s := (s.frstClusters f).foldl (fun s c => s.serveCluster c) s
  let t := f.target
  if f.job then s
  else if 0x010 ≤ t ∧ t < 0x018 then s.readyStack (t - 0x010)
  else if 0x020 ≤ t ∧ t < 0x028 then
    ((s.setFlag (rg t 0) 0 true).setFlag (rg t 0) 2 (s.flag (rg t 0) 3)).moveConns
  else s

/-- RESET_READY: once the kernels of the cores it cleared have run. -/
def execResetReady (durationNs : W64) (s : State) : Out :=
  match s.contain.frst with
  | none => .next s
  | some f =>
    if s.contain.kats.any (fun p => (s.frstClusters f).contains (clusterOf p)) then .next s
    else
      let s := { s.frstReady f with contain := { (s.frstReady f).contain with frst := none } }
      let job := if f.job then some f.target else (s.frstClusters f).head?.bind s.jobOf
      .next ((s.setFlag kFrst 15 false).report 0x51 0 (if f.job then fnChip else f.target) job
        { code := s.fld kFrst 23 16, d0 := durationNs.toNat })

/-! Dies and stacks at a rail's reset level (R447). -/

/-- Every cluster of compute die d is reset as by FRST, and the jobs that hold them stop with cause 0x58. -/
def State.dipDie (s : State) (d : Nat) : State :=
  let cs := (List.range 8).map (8 * d + ·)
  let js := s.definedJobs.filter (fun j => cs.any (fun c => (s.clusterMask j).testBit c))
  let s := js.foldl (fun s j => s.stopJob j 0x58 fnPwr) s
  cs.foldl (fun s c => s.resetCluster c) s

/-- Stack n is reset as by FRST, and the jobs with pages in it stop. -/
def State.dipStack (s : State) (n : Nat) : State :=
  let was := s.flag (rg (fnHbm n) 0) 0
  let s := ((s.stackJobs n).foldl (fun s j => s.stopJob j 0x58 fnPwr) s).resetStack n
  if was then s.readyStack n else s

/-! The chip. -/

/-- Pinned holes of the repair table and of fuses are written back (R479). -/
def State.loadHoles (s : State) : State :=
  ((s.bist.fuses ++ s.bist.table).filter (fun r => r.kind == 1)).foldl (fun s r => s.setFld (rg (fnCore r.core) 0x0D8) 5 0 r.row) s

/-- The roles of the grade and the fused repairs are read (R6, R469). -/
def State.loadFuses (s : State) : State :=
  let s := s.boot.fuses.roles.foldl (fun s e => s.setFld (rg (fnCore e.1) 0x0E8) 1 0 e.2) s
  let s := if s.boot.fuses.roles = [] then s else s.setFld (rg fnChip 0x050) 8 0 s.boot.fuses.grade
  s.bist.fuses.foldl (fun s r =>
    if r.kind = 0 then s.loadRowMaps r.core
    else if r.kind = 1 then (s.setFld (rg (fnCore r.core) 0x0D8) 5 0 r.row).setFlag (kPinned r.core) (r.core % 64) true
    else
      let k := rg fnChip 0x050
      let s := if s.role r.core = 0 then s.setFld k 8 0 (s.fld k 8 0 - 1) else s
      s.setFld (rg (fnCore r.core) 0x0E8) 1 0 3) s

/-- Every domain is reset: of the state, TRIPPED and LASTPLL survive while VDD_AON is good (R483, R495), and the fuses. -/
def State.chipReset (s : State) (aonGood : Bool) : State :=
  let z := State.reset
  let t := { z with
    pending := s.pending, free := s.free, clk := s.clk, boot := { boot0 with fuses := s.boot.fuses }
    bist := { bist0 with fuses := s.bist.fuses }, pins := { s.pins with tapHold := false }
    power := { power0 with trip := if aonGood then s.power.trip else none } }
  if aonGood then
    ((t.setFld (rg fnClk 0x008) 31 16 s.boot.fuses.trim.toNat).setFld (rg fnPwr 0x030) 63 63 (s.fld (rg fnPwr 0x030) 63 63)).setFld (rg fnClk 0x010) 63 60 (s.fld (rg fnClk 0x010) 63 60)
  else t.setFld (rg fnClk 0x008) 31 16 s.boot.fuses.trim.toNat

/-- The chip leaves reset: straps in force, fused repairs read, a THERMTRIP of before logged (R469, R483, R504). -/
def State.startBoot (s : State) : State :=
  let s := (((s.setFlag (rg fnMgmt 0) 1 s.pins.mgmt10g).setFlag (rg fnClk 0) 1 s.pins.refsel).setFlag (rg fnClk 0) 8 s.pins.ssc).loadFuses
  let s := match s.power.trip with
    | some (n, tj) =>
      if s.flag (rg fnPwr 0x030) 63 then
        { s with power := { s.power with trip := none } }.note 0x59 2 fnPwr none { code := 4, unit := n, d0 := (BitVec.ofInt 64 tj).toNat } else s
    | none => s
  s.refreshRails

/-- A chip reset that is no RESET_N: the chip boots again with the straps sampled before (R447). -/
def State.rebootChip (s : State) : State := (s.chipReset true).startBoot

/-- Every domain but AON is reset, as a wake from STANDBY resets them (R479, R487, R489): firmware cores 2 and up, and
everything they and the hub dies hold. A core that stays down does so until the chip is reset (R412). -/
def State.resetNonAon (s : State) : State :=
  let z := State.reset
  let aon (k : Nat) : Bool := k / 4096 == fnPwr || k / 4096 == fnSec || k / 4096 == fnMgmt || (k / 4096 == fnClk && (k % 4096 < 0x040 || 0x100 ≤ k % 4096))
  let qps : Tab Qp := s.net.qps.filter (fun e => e.2.port == 8)
  let b := s.boot
  let t := { z with
    pending := s.pending, free := s.free, clk := s.clk, csr := s.csr.filter (fun e => aon e.1)
    boot := { b with waiting := b.waiting.filter (fun w => w.1 < 2), images := [], retryAt := 0 }
    bist := { bist0 with fuses := s.bist.fuses }, pins := s.pins
    net := { net0 with qps := qps, reply := s.net.reply }
    power := { s.power with entry := none, waking := false, refresh := false, paused := false } }
  let t := ((t.setFlag (rg fnSec 0x008) 2 false).wr (rg fnSec 0x010) 0).setStage (min 4 s.stage)
  let t := (t.setFld (rg fnClk 0) 16 10 0).setFlag (rg fnClk 0) 8 s.pins.ssc
  (((t.setFld (rg fnPwr 0x010) 47 32 1600).setPwrState 0).loadFuses).refreshRails

/-- The same, and bring-up goes on from stage 4. -/
def State.restartNonAon (s : State) : State :=
  let s := s.resetNonAon
  if s.flag (rg fnSec 0x008) 1 then s.startRails else s

end Sys2Proof.Machine
end

