-- ==== Sys2Proof/Machine/Clocks.lean ====
section
/-! DEFINITION. The reference and the PLLs (R486 to R490), rails and PMBus (R505 to R512, R521), pins and the TAP (R502
to R507, R519, R520). -/

namespace Sys2Proof.Machine



/-! The reference (R486 to R488). -/

/-- The input in use: 0 crystal, 1 REFCLK. -/
def State.refInput (s : State) : Nat := s.fld kClk 1 1
def State.windowsOf (s : State) (i : Nat) : Nat := tget z0 s.power.windows i
def State.setWindows (s : State) (i n : Nat) : State := { s with power := { s.power with windows := tput z0 s.power.windows i n } }

/-- REFOK and STANDBYREF follow the windows counted. -/
def State.refreshRef (s : State) : State :=
  let i := s.refInput
  ((s.setFlag kClk 0 (decide (64 ≤ s.windowsOf i))).setFlag kClk 2 (decide (64 ≤ s.windowsOf (1 - i)))).refreshAlert

/-- REFERENCE_FAIL: the other input takes over if it is judged stable, and otherwise every domain but AON is reset. -/
def State.referenceFail (s : State) : State :=
  let s := s.bump (rg fnClk 0x010) 47 32 1
  if s.flag kClk 2 then (s.setFld kClk 1 1 (1 - s.refInput)).refreshRef else s.refreshRef.restartNonAon

/-- REFERENCE_WINDOW: one window of an input, with its count. -/
def execReferenceWindow (refclk : Bool) (count : Nat) (s : State) : Out :=
  if !s.running then .next s
  else
    let i := if refclk then 1 else 0
    let judged := i == s.refInput && s.flag kClk 0
    if 1008 ≤ count ∧ count ≤ 1040 then .next (s.setWindows i (min 64 (s.windowsOf i + 1))).refreshRef
    else
      let s := s.setWindows i 0
      .next (if judged then s.referenceFail else s.refreshRef)

/-- IOSC_RETRIM: not while the AON domain runs on IOSC, nor under TRIMHOLD. -/
def execIoscRetrim (trim err : W16) (s : State) : Out :=
  if !s.pwrUp ∨ !s.flag kClk 0 ∨ s.flag (rg fnClk 0x100) 0 then .next s
  else .next (((s.setFld (rg fnClk 0x008) 31 16 trim.toNat).setFld (rg fnClk 0x008) 15 0 err.toNat))

/-! PLLs (R489, Table 17.7). -/

/-- CLK.STATUS bit of a PLL, and its code in LASTPLL. -/
def pllBit : Pll → Nat
  | .aon => 9 | .ref => 10 | .hub => 11 | .core d => 13 + d.val | .hbm => 12
def pllCode : Pll → Nat
  | .aon => 0 | .ref => 1 | .hub => 2 | .core _ => 3 | .hbm => 4

/-- A PLL has its input and its supply. -/
def State.pllFed (s : State) : Pll → Bool
  | .aon => s.running
  | .ref => s.flag kClk 0 && [5, 11, 12].all s.good
  | .hub => s.flag kClk 10 && [5, 11, 12].all s.good
  | .core d => s.flag kClk 10 && s.good d.val && s.good 4
  | .hbm => [8, 9, 10].all s.good && (List.range 4).all (fun d => s.flag kClk (13 + d))

/-- What happens once the AON PLL has locked: after a reset, the boot ROM's known-answer tests, the device key and the
measurement of the ROM; then DEVSECRET is closed. A failing test, which nothing of the state determines (log entry 2), stops
the boot here (Table 14.6, R409). -/
def State.aonLocked (s : State) : State :=
  if s.stage ≠ 0 ∨ s.boot.katAt ≠ 0 then s
  else
    let bad := Config.bootKat s.free
    let s := { s with free := s.free + 1 }
    if bad then { s with boot := { s.boot with katAt := s.clk + 1, katLogs := 1 } }
    else { s with boot := { s.boot with mrom := Config.bootRom, secretOpen := false
                                        devKey := if s.boot.secretOpen then s.boot.fuses.devSecret else s.boot.devKey } }.setStage 1

/-- Every PLL runs. -/
def State.allLocked (s : State) : Bool := (List.range 8).all (fun i => s.flag kClk (9 + i))

/-- A wake from DEEP ends: clamps released, every cluster reset, stacks out of self-refresh, scrub resumed (R479). From
STANDBY everything has been reset, and comes up by its tests. -/
def State.finishWake (s : State) : State :=
  let s := { s with power := { s.power with waking := false, paused := false } }.setPwrState 0
  let s := if !s.power.refresh then s
    else
      let s := { s with power := { s.power with refresh := false } }
      let s := ((List.range 32).foldl (fun s c => s.resetCluster c) s).loadHoles
      (List.range 8).foldl (fun s n => s.readyStack n) s
  s.refreshRails

/-- PLL_LOCKED. -/
def execPllLocked (pll : Pll) (s : State) : Out :=
  if s.flag kClk (pllBit pll) ∨ !s.pllFed pll then .next s
  else
    let s := s.setFlag kClk (pllBit pll) true
    let s := if pll = .aon then s.aonLocked else s
    .next (if s.power.waking && s.allLocked then s.finishWake else s)

/-- PLL_LOCK_LOSS: the AON PLL holds SEC and PWR, any other resets every domain but AON. -/
def execPllLockLoss (pll : Pll) (s : State) : Out :=
  if !s.flag kClk (pllBit pll) then .next s
  else
    let s := (s.bump (rg fnClk 0x010) 31 0 1).setFlag kClk (pllBit pll) false
    .next (if pll = .aon then s else (s.setFld (rg fnClk 0x010) 63 60 (pllCode pll)).restartNonAon)

/-! Regulators (R510 to R512, R521). -/

/-- Nominal voltage in mV (Table 18.6). -/
def railMv (r : Nat) : Nat :=
  if r < 4 then 700 else if r = 4 ∨ r = 5 ∨ r = 11 then 750 else if r = 6 then 800 else if r = 7 ∨ r = 10 then 1800
  else if r = 8 then 1100 else if r = 9 then 400 else 1200

/-- A READ_VOUT, scaled by VOUT_MODE's exponent, lies below 10 % of nominal. -/
def voutLow (r vout mode : Nat) : Bool :=
  let e := sext mode 5
  if 0 ≤ e then decide (vout * 2 ^ e.toNat * 10000 < railMv r) else decide (vout * 10000 < railMv r * 2 ^ (-e).toNat)

def State.setRailFault (s : State) (r : Nat) : State := s.setFlag kRails (16 + r) true

/-- PMBUS_FAILURE: a transaction failed; with the third in a row the rail is faulted and commanded no further. -/
def State.pmbFail (s : State) (r : Nat) : State :=
  let x := s.rail r
  let s := (s.bump (rg fnPwr 0x060) 31 0 1).setFld (rg fnPwr 0x060) 35 32 r
  if x.fails < 2 then s.setRail r { x with fails := x.fails + 1 }
  else ((s.setRail r { x with fails := 0, dead := true }).setRailFault r).refreshRails

/-- A bus transaction with rail r takes place: PWR runs, the rail is PMBus-controlled and not given up. -/
def State.busOk (s : State) (r : Nat) : Bool := s.running && s.pwrUp && railGroup r != 3 && !(s.rail r).dead

/-- STATUS_WORD reports a fault (PMBus: every bit but BUSY, OFF and POWER_GOOD#). -/
def statusFault (v : Nat) : Bool := v &&& 0xF73F != 0

/-- A STATUS_WORD read from rail r; a fault it reports is recorded, and then cleared in the regulator. -/
def State.readStatus (s : State) (r : Nat) (a : PmbAnswer) : State :=
  match a with
  | .failed => s.pmbFail r
  | .value v =>
    let s := s.setRail r { s.rail r with fails := 0, status := v }
    if statusFault v.toNat then (s.setRailFault r).refreshAlert else s

/-- PMBUS_STATUS_POLL. -/
def execPmbusStatusPoll (rail : Fin 13) (answer : PmbAnswer) (s : State) : Out :=
  .next (if s.busOk rail then s.readStatus rail answer else s)

/-- PMB_ALERT: the regulator that the Alert Response Address names is read. -/
def execPmbAlert (rail : Fin 13) (answer : PmbAnswer) (s : State) : Out :=
  .next (if s.busOk rail then s.readStatus rail answer else s)

/-- PMBUS_TELEMETRY_POLL. -/
def execPmbusTelemetryPoll (rail : Fin 13) (answer : PmbAnswer) (s : State) : Out :=
  if !s.busOk rail then .next s
  else match answer with
    | .failed => .next (s.pmbFail rail)
    | .value v => .next (s.setRail rail { s.rail rail with fails := 0, tele := v })

/-- Rail r is commanded no further and passes from the sequence. -/
def State.skipRail (s : State) (r : Nat) : State :=
  { s with power := { s.power with offs := s.power.offs.filter (· != r), ons := s.power.ons.filter (· != r) } }

/-- OPERATION off, until READ_VOUT is low or 20 ms have passed. -/
def State.railOff (s : State) (r vout mode : Nat) : State :=
  let x := s.rail r
  let since := if x.since = 0 then s.clk + 1 else x.since
  let s := { s with power := { s.power with groupOn := sdel (railGroup r) s.power.groupOn } }
  if voutLow r vout mode ∨ since - 1 + 20000000 ≤ s.clk then
    ({ s with power := { s.power with offs := s.power.offs.drop 1 } }.setRail r { x with on := false, since := 0, fails := 0 }).refreshRails
  else (s.setRail r { x with on := false, since := since, fails := 0 }).refreshRails

/-- OPERATION on. -/
def State.railOn (s : State) (r : Nat) : State :=
  let s := { s with power := { s.power with ons := s.power.ons.drop 1, groupOn := sins (railGroup r) s.power.groupOn } }
  (s.setRail r { s.rail r with on := true, since := s.clk + 1, fails := 0 }).refreshRails

/-- Rails of other groups switched on in this sequence are good, or faulted (R510). -/
def State.groupsSettled (s : State) (r : Nat) : Bool :=
  (List.range 13).all (fun q => railGroup q == railGroup r || !(s.rail q).on || s.good q || s.railFault q)

/-- RAIL_SEQUENCE: PWR's next command to a regulator of the bring-up, with what VOUT_MODE, ON_OFF_CONFIG and READ_VOUT
answer. -/
def execRailSequence (rail : Fin 13) (vout mode onoff : PmbAnswer) (s : State) : Out :=
  let r := rail.val
  let off := s.power.offs.head? == some r
  let on := s.power.offs.isEmpty && s.power.ons.head? == some r
  if !(off || on) ∨ !s.running ∨ !s.pwrUp ∨ !s.flag kClk 0 ∨ (on && !s.groupsSettled r) then .next s
  else if (s.rail r).dead then .next (s.skipRail r)
  else match vout, mode, onoff with
    | .value v, .value m, .value c =>
      if m.toNat / 32 % 8 ≠ 0 ∨ !c.toNat.testBit 3 then
        .next (((s.setRail r { s.rail r with dead := true, fails := 0 }).setRailFault r).skipRail r).refreshRails
      else .next (if off then s.railOff r v.toNat (m.toNat % 32) else s.railOn r)
    | _, _, _ => .next (s.pmbFail r)

/-- RAIL_GOOD_TIMEOUT: not good within 20 ms of OPERATION on. -/
def execRailGoodTimeout (rail : Fin 13) (s : State) : Out :=
  let x := s.rail rail
  if !x.on ∨ x.since = 0 ∨ s.good rail ∨ s.railFault rail ∨ s.clk < x.since - 1 + 20000000 then .next s
  else .next (s.setRailFault rail).refreshRails

/-! PWRGOOD pins (R505, R506). -/

def pgNum : PgGroup → Nat
  | .hub => 0 | .cmp => 1 | .hbm => 2

def State.setGroupPin (s : State) (g : PgGroup) (b : Bool) : State :=
  { s with pins := match g with
      | .hub => { s.pins with pgHub := b }
      | .cmp => { s.pins with pgCmp := b }
      | .hbm => { s.pins with pgHbm := b } }

/-- PWRGOOD_RISE. -/
def execPwrgoodRise (g : PgGroup) (s : State) : Out :=
  if s.groupPin (pgNum g) then .next s else .next (s.setGroupPin g true).refreshRails

/-- The rail that the entry of a PWRGOOD fall names: one whose regulator reports a fault in STATUS_WORD, else the group's
lowest. -/
def State.fallenRail (s : State) (g : Nat) : Nat := ((groupRails g).find? (fun r => statusFault (s.rail r).status.toNat)).getD ((groupRails g).headD 0)

/-- PWRGOOD_FALL: a group that is on and has once been good takes the effect of its most severe rail. -/
def execPwrgoodFall (g : PgGroup) (s : State) : Out :=
  let n := pgNum g
  if !s.groupPin n then .next s
  else
    let hit := s.running && s.power.groupOn.contains n && s.power.onceGood.contains n
    let s := s.setGroupPin g false
    if !hit then .next s.refreshRails
    else if n = 0 then .next s.rebootChip
    else
      let r := s.fallenRail n
      let low := ((s.power.warns.find? (fun w => w.rail == r)).map (·.low)).getD 0
      let s := s.report 0x58 2 fnPwr none { code := r, action := if n = 1 then 5 else 4, d0 := low, d2 := 4 }
      let s := if n = 1 then (List.range 4).foldl (fun s d => s.dipDie d) s else (List.range 8).foldl (fun s k => s.dipStack k) s
      .next s.refreshRails

/-- PWRGOOD_AON_FALL. -/
def execPwrgoodAonFall (s : State) : Out :=
  .next ({ s with pins := { s.pins with pgAon := false, thermtripN := true } }.chipReset false)

/-- A test instruction that drives the pins is in force (R520). -/
def TapInstr.isTest : TapInstr → Bool
  | .extest | .extestPulse | .extestTrain => true
  | _ => false

/-- RESET_N_ASSERT. -/
def execResetNAssert (s : State) : Out :=
  if !s.pins.resetN then .next s
  else .next ({ s with pins := { s.pins with resetN := false, thermtripN := true } }.chipReset s.pins.pgAon)

/-- RESET_N_RELEASE, with PWRGOOD_AON high: the straps are sampled, and the chip boots unless a test instruction holds it
(R504, R505, R520). -/
def execResetNRelease (mgmt10g refsel ssc : Bool) (s : State) : Out :=
  if s.pins.resetN && s.pins.pgAon then .next s
  else
    let hold := s.pins.tap.isTest
    let s := { s with pins := { s.pins with resetN := true, pgAon := true, mgmt10g := mgmt10g, refsel := refsel, ssc := ssc, tapHold := hold } }
    .next (if hold then s else s.startBoot)

/-! The TAP (R519, R520). -/

/-- The register between TDI and TDO (Table 18.11): its length and what it holds. -/
def Pins.tapRegister (p : Pins) : Nat × Nat :=
  match p.tap with
  | .idcode => (32, 0x12E5A4B3)
  | .bypass => (1, 0)
  | _ => (17, p.scan.toNat)

/-- The TAP takes an instruction; a chip that a test instruction held in reset boots once the TAP has left it. -/
def State.setTap (s : State) (i : TapInstr) (drive : Bool) : State :=
  let free := s.pins.tapHold && !i.isTest
  let s := { s with pins := { s.pins with tap := i, drive := drive, tapHold := s.pins.tapHold && i.isTest } }
  if free then s.startBoot else s

/-- A test instruction takes effect only while RESET_N is low; else it acts as BYPASS, but for the one that already holds
the chip. -/
def State.setTest (s : State) (i : TapInstr) : State :=
  if !s.pins.resetN then s.setTap i true
  else if s.pins.tapHold && s.pins.tap == i then s
  else s.setTap .bypass false

def execExtest (s : State) : Out := .next (s.setTest .extest)
def execExtestPulse (s : State) : Out := .next (s.setTest .extestPulse)
def execExtestTrain (s : State) : Out := .next (s.setTest .extestTrain)
def execIdcode (s : State) : Out := .next (s.setTap .idcode false)
def execBypass (s : State) : Out := .next (s.setTap .bypass false)
def execTapReset (s : State) : Out := .next (s.setTap .idcode false)
/-- SAMPLE/PRELOAD: the boundary-scan register takes the values of the pins, or what is shifted in. -/
def execSamplePreload (pins : BitVec 17) (s : State) : Out :=
  .next ({ s with pins := { s.pins with scan := pins } }.setTap .samplePreload false)

end Sys2Proof.Machine
end

