-- ==== Sys2Proof/Machine/Power.lean ====
section
/-! DEFINITION. Power states (R474 to R479, R493), throttling, caps and limits (R480 to R482, R494), the thermal response
(R483, R484), supply warnings and reset levels (R445 to R447, R485). -/

namespace Sys2Proof.Machine

/-! CLSLEEP (R475). -/

/-- A cluster's core and stream-thread state is lost; scratchpad, accumulators, bundle memory and mailbox stay. -/
def Core.sleep (c : Core) : Core := { core0 with v := { vcore0 with acc := c.v.acc }, now := c.now, upset := c.upset }

def State.sleepCluster (s : State) (c : Nat) : State :=
  let x := s.cluster c
  let s := (coresOf c).foldl (fun s p => s.setCore p (s.core p).sleep) (s.loseChecks c)
  s.setCluster c { x with threads := [], folds := [], rx := [], stage := none, stageQ := [], checks := [], asleep := true }

def State.wakeCluster (s : State) (c : Nat) : State := s.setCluster c { s.cluster c with asleep := false }

/-- CLUSTER_SLEEP: the cluster belongs to no job, or none of its virtual cores has been bound for 1 ms. -/
def execClusterSleep (c : ClusterId) (s : State) : Out :=
  let x := s.cluster c
  let free := (s.jobOf c).isNone || (x.vcl.isNone && (x.idleAt == 0 || decide (x.idleAt - 1 + 1000000 ≤ s.clk)))
  if x.asleep || x.vcl.isSome || !free || (s.contain.kats.any (fun p => clusterOf p == c.val)) then .next s
  else .next (s.sleepCluster c)

/-- CLUSTER_WAKE: the SCH core binds a program that uses the cluster. -/
def execClusterWake (c : ClusterId) (s : State) : Out :=
  let wanted (j : Nat) : Bool := match (s.job j).pending with
    | some g => (s.job j).binding && (s.takes j (headerOf g.image)).contains c.val
    | none => false
  if (s.cluster c).asleep && s.power.entry.isNone && s.pwrState == 0 && s.definedJobs.any wanted then .next (s.wakeCluster c)
  else .next s

/-! Entry to DEEP and STANDBY (R476, R477). -/

def kStatereq : Nat := rg fnPwr 0x008

/-- Table 17.4: the first refusal that applies to a request for target. -/
def State.stateRefused (s : State) (target : Nat) : Option Nat :=
  let on := target == 0
  if !on && !s.noProgram then some 1
  else if !on && (s.svc.any (fun e => e.2.any (·.phase != 4)) || s.flag (rg fnChip 0x010) 1 || s.flag (rg fnBist 0) 3) then some 2
  else if target == 3 || (target == s.pwrState && s.power.entry.isNone) || (s.pwrState == 3 && !(on && s.power.entry.isSome)) then some 3
  else if !s.pwrUp || !s.power.warns.isEmpty || s.power.hot then some 4
  else none

/-- A refusal sets ERR and counts. -/
def State.refuseState (s : State) (e : Nat) : State :=
  (s.setFld kStatereq 15 8 e).bump (rg fnPwr 0x038) (16 * e - 1) (16 * e - 16) 1

def State.setEntry (s : State) (x : Option StateEntry) : State := { s with power := { s.power with entry := x } }

/-- An abort trigger reaches an entry under way (R477). -/
def State.abortTrigger (s : State) : State := s.setEntry (s.power.entry.map (fun x => { x with trigger := true }))

def pllBits : Nat := 0x1F000
def hubBits : Nat := 0x00C00

/-- Step 2: every cluster sleeps and patrol scrub pauses. -/
def State.entryStep2 (s : State) : State :=
  let s := (List.range 32).foldl (fun s c => if (s.cluster c).asleep then s else s.sleepCluster c) s
  { s with power := { s.power with paused := true } }

/-- Step 3: stacks in self-refresh, or idle. -/
def State.entryStep3 (s : State) (standby : Bool) : State :=
  let s := ((List.range 8).foldl (fun s n => s.setFlag (rg (fnHbm n) 0) 0 false) s).refreshSch
  { s with power := { s.power with refresh := !standby } }

/-- Step 4: clamps set, core and HBM PLLs stopped, and for STANDBY the hub's. -/
def State.entryStep4 (s : State) (standby : Bool) : State :=
  s.wr kClk (s.rd kClk &&& ~~~ (BitVec.ofNat 64 (pllBits + if standby then hubBits else 0)))

/-- Step 5: rails off. What the domains held is lost; DEEP keeps the hub dies and HBM, and a core fenced stays fenced. -/
def State.entryStep5 (s : State) (standby : Bool) : State :=
  if standby then
    let s := s.resetNonAon
    let s := (List.range 13).foldl (fun s r => s.setRail r { s.rail r with on := false, since := 0 }) s
    ({ s with power := { s.power with groupOn := [], offs := [], ons := [] } }.setPwrState 2).refreshRails
  else
    let s := (List.range 32).foldl (fun s c => s.resetCluster c) s
    let s := (List.range 288).foldl (fun s p => s.resetBlock (fnCore p) [0x0E8]) s
    let s := (List.range 8).foldl (fun s n => s.resetBlock (fnHbm n) []) ({ s with contain := { s.contain with kats := [] } })
    let s := s.wr (rg fnSec 0x010) 0
    let s := (List.range 5).foldl (fun s r => s.setRail r { s.rail r with on := false, since := 0 }) s
    ({ s with power := { s.power with groupOn := sdel 1 s.power.groupOn } }.setPwrState 1).refreshRails

/-- A wake from DEEP or STANDBY begins: rails on in the order of Table 17.8. -/
def State.startWake (s : State) (standby : Bool) : State :=
  let s := { s with power := { s.power with waking := true } }
  let s := if standby then s.startRails else { s with power := { s.power with offs := [], ons := [4, 0, 1, 2, 3] } }
  s.setPwrState 3

/-- The state that an abandoned entry goes back to: what its steps did is undone in reverse order. An entry that moved from
DEEP to STANDBY is back in DEEP once its step 4 is undone, and returns to ON by a wake. -/
def State.undoEntry (s : State) (x : StateEntry) : State :=
  let s := s.setFld kClk 16 10 (getField x.clocks 16 10)
  if x.standby && s.power.refresh then ((s.setPwrState 1).setEntry none).startWake false
  else
    let s := x.wasReady.foldl (fun s n => s.setFlag (rg (fnHbm n) 0) 0 true) s
    let s := { s with power := { s.power with refresh := false, paused := false } }
    let s := (List.range 32).foldl (fun s c => if x.slept.contains c then s else s.wakeCluster c) s
    ((s.setPwrState 0).setEntry none).refreshSch

/-- The next step of an entry under way: its abort point first. A trigger that comes once step 5 has begun is served by a
wake (R477). -/
def State.entryTick (s : State) : State :=
  match s.power.entry with
  | none => s
  | some x =>
    if x.step < 5 && x.trigger then
      let (hi, lo) : Nat × Nat := if x.step = 2 then (15, 0) else if x.step = 3 then (31, 16) else (47, 32)
      (s.bump (rg fnPwr 0x040) hi lo 1).undoEntry x
    else
      let y := some { x with step := x.step + 1 }
      if x.step = 2 then (s.entryStep3 x.standby).setEntry y
      else if x.step = 3 then (s.entryStep4 x.standby).setEntry y
      else if x.step = 4 then s.setEntry y
      else
        let s := (s.entryStep5 x.standby).setEntry none
        if x.trigger then s.startWake x.standby else s

/-- A request that Table 17.4 does not refuse starts: its steps 1 and 2; from DEEP to STANDBY, at step 4. -/
def State.startEntry (s : State) (standby : Bool) : State :=
  let x : StateEntry :=
    { standby, step := 2, trigger := false, slept := (List.range 32).filter (fun c => (s.cluster c).asleep)
      wasReady := (List.range 8).filter (fun n => s.flag (rg (fnHbm n) 0) 0), clocks := s.rd kClk }
  if s.pwrState = 1 then ((s.entryStep4 true).setPwrState 3).setEntry (some { x with step := 4 })
  else (s.entryStep2.setPwrState 3).setEntry (some x)

/-- A request for a state. In STANDBY no write that asks for DEEP is taken (R478). -/
def State.requestState (s : State) (target : Nat) : State :=
  match s.stateRefused target with
  | some e => s.refuseState e
  | none =>
    if target = 1 ∧ s.pwrState = 2 then s
    else if target = 0 then (if s.power.entry.isSome then s.abortTrigger else s.startWake (s.pwrState == 2))
    else s.startEntry (target == 2)

def execStatereqOn (s : State) : Out := .next (s.requestState 0)
def execStatereqDeep (s : State) : Out := .next (s.requestState 1)
def execStatereqStandby (s : State) : Out := .next (s.requestState 2)

/-! Hold levels (R480 to R482, R494). -/

/-- Loop H and limiter H of die d; thermal H. -/
def State.loopH (s : State) (d : Nat) : Nat := s.fld (rg fnPwr 0x050) (12 * d + 5) (12 * d)
def State.limH (s : State) (d : Nat) : Nat := s.fld (rg fnPwr 0x050) (12 * d + 11) (12 * d + 6)
def State.thermH (s : State) (d : Nat) : Nat := s.fld (rg fnPwr 0x058) (8 * d + 5) (8 * d)

/-- The effective H of die d, THROTFORCE included. -/
def State.effH (s : State) (d : Nat) : Nat :=
  let k := rg fnPwr 0x108
  max (max (s.loopH d) (max (s.limH d) (s.thermH d))) (if s.flag k 6 then s.fld k 5 0 else 0)

/-- PWR.THROT follows its sources. -/
def State.refreshThrot (s : State) : State := (List.range 4).foldl (fun s d => s.setFld (rg fnPwr 0x018) (8 * d + 5) (8 * d) (s.effH d)) s

def State.setLoopH (s : State) (d n : Nat) : State := s.setFld (rg fnPwr 0x050) (12 * d + 5) (12 * d) (min 63 n)
def State.setLimH (s : State) (d n : Nat) : State := s.setFld (rg fnPwr 0x050) (12 * d + 11) (12 * d + 6) (min 63 n)
def State.setThermH (s : State) (d n : Nat) : State := s.setFld (rg fnPwr 0x058) (8 * d + 5) (8 * d) (min 63 n)

/-- THROTTLE_WINDOW: one clk of a window of die d; in a held one the clk counts here, whatever else holds the cluster
(R281). -/
def execThrottleWindow (d : Fin 4) (clkInWindow : Fin 64) (s : State) : Out :=
  let held := decide (clkInWindow.val < s.effH d)
  .next ((List.range 8).foldl (fun s i =>
    let c := 8 * d.val + i
    if held then
      (s.addHold c .throttle).countHold c 1
    else s.dropHold c .throttle) s)

/-- Average of the estimates of the last 1 ms. -/
def avgWatts (l : List Nat) : Nat := l.foldl (· + ·) 0 / max 1 l.length

/-- Change of one die's loop H at a tick, from a drawn word: from 1 to 8 up while the average over 1 ms lies above the cap,
and otherwise at most 8 either way (R38, R481); how far within that, nothing fixes (log entry 2). -/
def loopMove (above : Bool) (h w : Nat) : Nat := if above then h + 1 + w % 8 else h + w % 17 - 8

/-- CAP_LOOP_TICK: a new estimate, and each die's loop H set against the cap in force. -/
def execCapLoopTick (watts : W16) (s : State) : Out :=
  if !s.pwrUp then .next s
  else
    let l := (watts.toNat :: s.power.watts).take 10
    let s := { s with power := { s.power with watts := l } }.setFld (rg fnPwr 0x010) 31 16 (avgWatts l)
    let above := decide (s.fld (rg fnPwr 0x010) 47 32 < avgWatts l)
    let s := (List.range 4).foldl (fun s d =>
      let (w, s) := s.draw
      s.setLoopH d (loopMove above (s.loopH d) w.toNat)) s
    .next s.refreshThrot

/-- CAP_RECALIBRATE: the regulators' reading; later estimates are made against it. -/
def execCapRecalibrate (watts : W16) (s : State) : Out :=
  if !s.pwrUp then .next s else .next { s with power := { s.power with measured := watts } }

/-- TRIP and RELEASE as read (R494). -/
def State.tripAmps (s : State) : Nat := min 700 (s.fld (rg fnPwr 0x100) 25 16)
def State.releaseAmps (s : State) : Nat := min s.tripAmps (s.fld (rg fnPwr 0x100) 9 0)

/-- LIMITER_TRIP_CHECK. -/
def execLimiterTripCheck (d : Fin 4) (amps : W16) (s : State) : Out :=
  if amps.toNat ≤ s.tripAmps then .next s else .next (s.setLimH d (s.limH d + 8)).refreshThrot

/-- LIMITER_RELEASE_CHECK. -/
def execLimiterReleaseCheck (d : Fin 4) (amps : W16) (s : State) : Out :=
  if s.releaseAmps ≤ amps.toNat then .next s else .next (s.setLimH d (s.limH d - 1)).refreshThrot

/-! Temperature (R483, R484). -/

def t0 : Nat → Int := fun _ => 0
def State.temp (s : State) (n : Nat) : Int := tget t0 s.power.temps n

/-- Sensor n acts on die d. -/
def acts (n d : Nat) : Bool := if n < 64 then n / 16 == d else true
def sensorsOf (d : Nat) : List Nat := (List.range 80).filter (fun n => acts n d)

/-- The hottest of some sensors. -/
def State.hottest (s : State) (l : List Nat) : Nat := l.foldl (fun m n => if s.temp m < s.temp n then n else m) (l.headD 0)

/-- Contrail entry 0x59 (R484). -/
def State.thermNote (s : State) (code sensor : Nat) (tj : Int) : State :=
  s.note 0x59 2 fnPwr none
    { code, unit := sensor, d0 := (BitVec.ofInt 64 tj).toNat, d1 := (List.range 4).foldl (fun x d => x + s.thermH d * 256 ^ d) 0 }

/-- PWR.THERM follows the readings: m°C become 1/16 °C. -/
def State.refreshTherm (s : State) : State :=
  let k := rg fnPwr 0x030
  let now := (s.temp (s.hottest (List.range 80)) * 16) / 1000
  let peak := sext (s.fld k 15 0) 16
  let s := (s.setFld k 31 16 (BitVec.ofInt 16 now).toNat).setFld k 15 0 (BitVec.ofInt 16 (max now peak)).toNat
  let any (t : Int) : Bool := (List.range 80).any (fun n => t ≤ s.temp n)
  (s.setFlag k 62 (any 105000)).setFlag k 61 (any 95000)

def State.setTemp (s : State) (n : Nat) (t : Int) : State := { s with power := { s.power with temps := tput t0 s.power.temps n t } }
def State.setHot (s : State) (b : Bool) : State := { s with power := { s.power with hot := b } }

/-- A sensor at 105 °C or above: thermal H 63 on every die it acts on, and ALERT_N. -/
def State.limitHit (s : State) (n : Nat) : State :=
  let s := (List.range 4).foldl (fun s d => if acts n d then s.setThermH d 63 else s) (s.setHot true)
  (s.thermNote 3 n (s.temp n)).refreshThrot

/-- Entries of one step, a sensor that several dies name once. -/
def State.thermNotes (s : State) (code : Nat) (l : List Nat) : State := l.foldl (fun s n => s.thermNote code n (s.temp n)) s

/-- THERMAL_STEP: 80 readings in m°C; a sensor that has reached 105 °C acts at once, and thermal H of each die rises or falls
by 4. -/
def execThermalStep (readings : List Int) (s : State) : Out :=
  if !s.running then .next s
  else
    let was := (List.range 80).filter (fun n => 105000 ≤ s.temp n)
    let s := ((readings.take 80).zipIdx.foldl (fun s (t, n) => s.setTemp n t) s).refreshTherm
    let s := if (List.range 80).all (fun n => s.temp n < 103000) then s.setHot false else s
    let s := ((List.range 80).filter (fun n => 105000 ≤ s.temp n && !was.contains n)).foldl State.limitHit s
    let rises (d : Nat) : Bool := (sensorsOf d).any (fun n => 95000 ≤ s.temp n)
    let falls (d : Nat) : Bool := (sensorsOf d).all (fun n => s.temp n < 93000)
    let pick (p : Nat → Bool) : List Nat := ((List.range 4).filter p).foldl (fun l d => sins (s.hottest (sensorsOf d)) l) []
    let first := pick (fun d => rises d && s.thermH d == 0)
    let last := pick (fun d => falls d && s.thermH d != 0 && decide (s.thermH d ≤ 4))
    let s := (List.range 4).foldl (fun s d =>
      if rises d then s.setThermH d (s.thermH d + 4) else if falls d then s.setThermH d (s.thermH d - 4) else s) s
    .next ((s.thermNotes 1 first).thermNotes 2 last).refreshThrot.refreshAlert

/-- THERMAL_LIMIT. -/
def execThermalLimit (sensor : Fin 80) (tj : Int) (s : State) : Out :=
  if !s.running ∨ tj < 105000 then .next s
  else .next ((s.setTemp sensor tj).refreshTherm.limitHit sensor).refreshAlert

/-- THERMTRIP: every PLL but the AON PLL stops, and the chip does nothing further until RESET_N. -/
def execThermtrip (sensor : Fin 80) (tj : Int) (s : State) : Out :=
  if !s.running ∨ tj < 115000 then .next s
  else
    let s := ((s.setTemp sensor tj).refreshTherm).setFlag (rg fnPwr 0x030) 63 true
    let s := s.resetNonAon
    let s := { s with power := { s.power with tripped := true, trip := some (sensor.val, tj), offs := [], ons := [] }
                      pins := { s.pins with thermtripN := false } }
    let s := ((s.setFwUp 0 false).setFwUp 1 false).setFlag (rg fnMgmt 0) 0 false
    .next s.refreshRails

/-! Supply warnings (R445 to R447, R485). -/

/-- Compute dies that a rail feeds. -/
def railDies (r : Nat) : List Nat := if r < 4 then [r] else List.range 4

/-- Actions of PWR at an escalation: the loop H of each affected die rises by 16. A warning waits for a PWR core that is
down (Table 14.7). -/
def State.escalate (s : State) (r : Nat) : State :=
  if !s.pwrUp then s
  else
    let s : State := { s with power := { s.power with warns := s.power.warns.map (fun (w : Warn) =>
      if w.rail = r then { w with escalated := true, escAt := s.clk } else w) } }
    ((railDies r).foldl (fun s d => s.setLoopH d (s.loopH d + 16)) s).refreshThrot

/-- A stretch in force on die d. -/
def State.stretched (s : State) (d : Nat) : Bool := s.power.warns.any (fun w => w.stretch && (railDies w.rail).contains d)

/-- A supply warning comes: clocks stretch, or it is escalated at once. -/
def State.warn (s : State) (r stack mv : Nat) : State :=
  let core := decide (r < 5)
  let fresh := core && (railDies r).any (fun d => !s.stretched d)
  let w : Warn := ⟨r, stack, mv, s.clk, core, false, 0, false⟩
  let s := { s with power := { s.power with warns := s.power.warns ++ [w] } }
  let s := if fresh then s.bump (rg fnPwr 0x028) 63 48 1 else s
  ((if core then s else s.escalate r).abortTrigger).refreshRails

/-- A rail's monitor, and for an HBM rail its stack's (R508). -/
def Warn.is (w : Warn) (r stack : Nat) : Bool := w.rail == r && (railGroup r != 2 || w.stack == stack)

/-- SUPPLY_WARNING: a rail below -4 %. -/
def execSupplyWarning (rail : Fin 13) (stack : StackId) (mv : W16) (s : State) : Out :=
  if !s.running then .next s
  else if s.power.warns.any (fun w => w.is rail stack) then
    .next { s with power := { s.power with warns := s.power.warns.map (fun w =>
      if w.is rail stack then { w with low := min w.low mv.toNat } else w) } }
  else .next (s.warn rail stack mv.toNat)

/-- Contrail entry 0x58 of a warning. -/
def State.warnNote (s : State) (w : Warn) (action ns : Nat) (reset : Bool) : State :=
  s.report 0x58 2 fnPwr none
    { code := w.rail, action, d0 := w.low, d1 := ns
      d2 := (if w.stretch then 1 else 0) + (if w.escalated then 2 else 0) + (if reset then 4 else 0) }

/-- STRETCH_END: the rail has been above the warning level for 2 µs; its warnings end and are logged. -/
def execStretchEnd (rail : Fin 13) (durationNs : W64) (s : State) : Out :=
  let ws := s.power.warns.filter (fun w => w.rail == rail.val)
  if ws.isEmpty then .next s
  else
    let s := { s with power := { s.power with warns := s.power.warns.filter (fun w => w.rail != rail.val) } }
    let whole := ws.any (·.stretch) && (railDies rail).all (fun d => !s.stretched d)
    let s := if whole then s.bump (rg fnPwr 0x028) 47 0 durationNs.toNat else s
    .next ((ws.filter (!·.done)).foldl (fun s w => s.warnNote w 0 durationNs.toNat false) s).refreshRails

/-- WARNING_ESCALATION: after 1 ms. -/
def execWarningEscalation (rail : Fin 13) (s : State) : Out :=
  if s.power.warns.any (fun w => w.rail == rail.val && !w.escalated && decide (w.since + 1000000 < s.clk)) then .next (s.escalate rail)
  else .next s

/-- The effect of rail r at its reset level (Table of R447), with the entry that reports it. -/
def State.resetLevel (s : State) (r stack : Nat) (w : Warn) : State :=
  let ns := s.clk - w.since
  let s := { s with power := { s.power with warns := s.power.warns.filter (fun (q : Warn) => !q.is r stack) ++ [{ w with done := true }] } }
  if r < 4 then ((s.warnNote w 5 ns true).dipDie r).refreshRails
  else if r = 4 then ((List.range 4).foldl (fun s d => s.dipDie d) (s.warnNote w 5 ns true)).refreshRails
  else if railGroup r = 2 then ((s.warnNote w 4 ns true).dipStack stack).refreshRails
  else (s.chipReset (r != 6)).startBoot

/-- ESCALATION_TIMEOUT: still present 20 ms after the escalation, PWR applies the reset-level effect. -/
def execEscalationTimeout (rail : Fin 13) (s : State) : Out :=
  if !s.pwrUp then .next s
  else match s.power.warns.find? (fun w => w.rail == rail.val && w.escalated && !w.done && decide (w.escAt + 20000000 ≤ s.clk)) with
    | none => .next s
    | some w =>
      .next (s.resetLevel rail w.stack w)

/-- RAIL_RESET_LEVEL: a rail below -8 %. -/
def execRailResetLevel (rail : Fin 13) (stack : StackId) (mv : W16) (s : State) : Out :=
  if !s.running then .next s
  else
    let w := (s.power.warns.find? (fun w => w.is rail stack)).getD ⟨rail, stack, mv.toNat, s.clk, false, false, 0, false⟩
    .next (s.resetLevel rail stack { w with low := min w.low mv.toNat })

end Sys2Proof.Machine
end

