-- ==== Sys2Proof/Machine/Bist.lean ====
section
/-! DEFINITION. The full test and its repairs (R458 to R462, R466 to R470), fuse repair (R468), row-map writes (R137,
R140), and the test registers of HBM, the page map and the log (R266, R528, R531). -/

namespace Sys2Proof.Machine

/-! The full test (R460 to R462). -/

/-- Parts by number: clusters 0 to 31, the hub memories 32, stacks 33 to 40. -/
def partNum : TestPart → Nat
  | .cluster c => c.val | .hub => 32 | .stack n => 33 + n.val

/-- The part is powered and clocked. -/
def State.partOn (s : State) : TestPart → Bool
  | .cluster c => s.dieOn (c.val / 8) | .hub => s.hubOn | .stack _ => s.flag kClk 12

/-- The sensor that an entry about the part's wait names. -/
def partSensor : TestPart → Nat
  | .cluster c => 16 * (c.val / 8) | .hub => 64 | .stack n => 72 + n.val

/-- BIST_TEST_START: at 95 °C or below; a wait is logged once a second. -/
def execBistTestStart (part : TestPart) (tj : Int) (s : State) : Out :=
  if s.bist.started.contains (partNum part) ∨ !s.partOn part then .next s
  else if tj ≤ 95000 then .next { s with bist := { s.bist with started := sins (partNum part) s.bist.started } }
  else if s.bist.waitAt ≠ 0 ∧ s.clk < s.bist.waitAt - 1 + 1000000000 then .next s
  else .next ({ s with bist := { s.bist with waitAt := s.clk + 1 } }.thermNote 5 (partSensor part) tj)

/-- A fence made by BIST, or by a refused repair, joins the repair table (R467). -/
def State.bistFence (s : State) (p reason : Nat) : State :=
  if 2 ≤ s.role p then s else (s.fenceCore p reason).addRepair ⟨p, 2, 0, 0, false⟩

/-- Failing banks of core p: one becomes its pinned hole. -/
def State.testBanks (s : State) (p : Nat) (bs : List Nat) : State :=
  let k := rg (fnCore p) 0x0D8
  let s := bs.foldl (fun s b => s.lastFail 1 (fnCore p) b 0) s
  match if s.pinned p then bs.filter (· != s.fld k 5 0) else bs with
  | [] => s
  | [b] => if s.pinned p then s.bistFence p 0x30 else (s.setFld k 5 0 b).pinHole p
  | _ => s.bistFence p 0x30

/-- A failing row of core p: mapped out, unless the array would need a third entry. -/
def State.testRow (s : State) (p array row : Nat) : State :=
  let s := s.lastFail 4 (fnCore p) array row
  let l := s.repairRows p array
  if l.contains row then s
  else if 2 ≤ l.length then s.bistFence p 0x42
  else s.addRepair ⟨p, 0, array, row, false⟩

/-- A failing granule counts in its page, which is retired at the limit (R258). -/
def State.testGranule (s : State) (n offset : Nat) : State :=
  let s := s.lastFail 10 (fnHbm n) (bits offset 10 6) 0
  let pg := n * 0x40000 + offset / 0x80000
  let e := bumpPage (s.page pg) 31 16
  let s := s.setPage pg e
  if max 1 (s.fld (rg fnPagemap 0x100) 15 0) ≤ getField e 31 16 && !pageRetired e then
    { s with hbm := { s.hbm with retire := sins pg s.hbm.retire } } else s

/-- A link whose replay buffer fails is fenced, and carried by a partner that works. -/
def State.testLink (s : State) (l : Nat) : State :=
  let s := (s.lastFail 8 (fnTether l) 0 0).fenceLink l 0x30
  if s.linkFailed (partner l) then s
  else (s.setFlag (rg (fnTether l) 0) 3 true).setFlag (rg (fnTether (partner l)) 0) 2 true

/-- A failure that is not a bank's. -/
def State.testFail (s : State) : TestFail → State
  | .bank _ _ => s
  | .row p a r => if 2 ≤ s.role p then s else s.testRow p a r
  | .coreMemory p b => (s.lastFail (if b then 3 else 2) (fnCore p) 0 0).bistFence p 0x30
  | .coreLogic p c => (s.lastFail (if c then 5 else 6) (fnCore p) 0 0).bistFence p 0x42
  | .clusterMemory c => (s.lastFail 7 (fnCluster c) 0 0).fenceCluster c 0x30
  | .replayBuffer l => s.testLink l
  | .hubMemory => (s.lastFail 9 fnBist 0 0).setFlag (rg fnBist 0) 2 true
  | .granule n o => s.testGranule n o

/-- The part to which a failure belongs. -/
def failPart : TestFail → Nat
  | .bank p _ | .row p _ _ | .coreMemory p _ | .coreLogic p _ => p.val / 9
  | .clusterMemory c => c.val
  | .replayBuffer _ | .hubMemory => 32
  | .granule n _ => 33 + n.val

/-- Failing banks of core p among the failures. -/
def banksOf (fs : List TestFail) (p : Nat) : List Nat :=
  fs.filterMap (fun f => match f with
    | .bank q b => if q.val = p then some b else none
    | _ => none)

/-- A part reports ready: a cluster has its kernels still to run, the hub brings SCH up, a stack is clear. -/
def State.partReady (s : State) : TestPart → State
  | .cluster c =>
    let ps := (coresOf c).filter (fun p => decide (s.role p < 2))
    ps.foldl (fun s p => ({ s with contain := { s.contain with kats := sins p s.contain.kats } }.loadRowMaps p)) s
  | .hub =>
    let s := if s.flag (rg fnBist 0) 2 then s else (s.setFlag (rg fnLedger 0) 0 true).setFlag (rg fnLog 0) 0 true
    (s.setFlag (rg fnBist 0) 0 true).startSch
  | .stack n => (s.clearMem (n * 0x2000000000) 0x2000000000).readyStack n

/-- FULL_TEST_DONE. -/
def execFullTestDone (part : TestPart) (fails : List TestFail) (us : W32) (s : State) : Out :=
  let n := partNum part
  if !s.bist.started.contains n ∨ s.bist.done.contains n then .next s
  else
    let fs := fails.filter (fun f => failPart f == n)
    let s := fs.foldl (fun s f => s.testFail f) s
    let s := match part with
      | .cluster c => (coresOf c).foldl (fun (s : State) p => if 2 ≤ s.role p then s else s.testBanks p (banksOf fs p)) s
      | _ => s
    let s := { s.retirePages with bist := { s.retirePages.bist with done := sins n s.retirePages.bist.done } }
    let k := rg fnBist 0x030
    let s := s.setFld k 31 0 (max us.toNat (s.fld k 31 0))
    .next ((s.setFlag (rg fnBist 0) 1 (decide (41 ≤ s.bist.done.length))).partReady part)

/-! Fuse repair (R468). -/

def kFusecmd : Nat := rg fnBist 0x100

/-- FUSECMD.GO: programming starts, or is refused. -/
def State.fuseGo (s : State) : State :=
  if !s.noProgram then s.setFld kFusecmd 15 8 0x01
  else if !s.secReady then s.setFld kFusecmd 15 8 0x02
  else if s.flag (rg fnBist 0) 3 then s.setFld kFusecmd 15 8 0x03
  else (s.setFld kFusecmd 15 8 0).setFlag (rg fnBist 0) 3 true

/-- FUSECMD_GO, an expert-page write. -/
def execFusecmdGo (s : State) : Out := if s.flag (rg fnBist 0x020) 0 && s.fnOn fnBist then .next s.fuseGo else .next s

/-- FUSE_PROGRAM_DONE: every record not yet fused is, or programming failed. -/
def execFuseProgramDone (ok : Bool) (s : State) : Out :=
  if !s.flag (rg fnBist 0) 3 then .next s
  else
    let s := s.setFlag (rg fnBist 0) 3 false
    if !ok then .next (s.setFld kFusecmd 15 8 0x04)
    else
      let l := s.bist.table.filter (!·.fused)
      let s := { s with bist := { s.bist with fuses := s.bist.fuses ++ l.map (fun (r : Repair) => { r with fused := true })
                                              table := s.bist.table.map (fun (r : Repair) => { r with fused := true }) } }
      .next ((s.bump (rg fnBist 0x018) 63 48 l.length).setFld (rg fnBist 0x018) 47 32 0)

/-! Expert-page writes with effects of their own. -/

/-- Soft row repairs of an array that a write takes back leave the table. -/
def State.dropRows (s : State) (p n : Nat) (rows : List Nat) : State :=
  let gone (r : Repair) : Bool := r.core == p && r.kind == 0 && r.array == n && !r.fused && !rows.contains r.row
  let k := rg fnBist 0x018
  let m := (s.bist.table.filter gone).length
  let s := { s with bist := { s.bist with table := s.bist.table.filter (fun r => !gone r) } }
  s.setFld k 47 32 (s.fld k 47 32 - m)

/-- A value that ROWMAPn takes (R140). -/
def rowMapOk (w : W64) : Bool :=
  let l := mapRows w
  l.all (· ≤ 65) && (l.length < 2 || l[0]? != l[1]?)

/-- ROWMAPn of core p is written. -/
def State.writeRowmap (s : State) (p n : Nat) (w : W64) : State :=
  let bad := s.setFlag (rg (fnCore p) 0x040) (16 + n) true
  if !rowMapOk w then bad
  else
    let rows := mapRows w
    let fuse := s.fuseRows p n
    let all := fuse ++ rows.filter (fun r => !fuse.contains r)
    if 2 < all.length then bad.bistFence p 0x42
    else
      let s := s.wr (kRowmap p n) (if fuse.all rows.contains then w &&& 0xFFFF else rowMap all)
      (rows.filter (fun r => !fuse.contains r)).foldl (fun s r => s.addRepair ⟨p, 0, n, r, false⟩) (s.dropRows p n rows)

/-- A write to the expert page of function f takes effect (R18, R473). -/
def State.expertOn (s : State) (f : Nat) : Bool := s.flag (rg f 0x020) 0 && s.fnOn f

/-- ROWMAP_WRITE. -/
def execRowmapWrite (p : CoreId) (array : Fin 4) (value : W64) (s : State) : Out :=
  if s.expertOn (fnCore p) then .next (s.writeRowmap p array value) else .next s

/-- HBMn.INJECT arms one injection (R528). -/
def State.armStack (s : State) (n : Nat) (w : W64) : State :=
  { s with hbm := { s.hbm with armed := tput noInject s.hbm.armed n (some ⟨getField w 36 0 / 64 * 64, w.toNat.testBit 37⟩) } }

/-- HBM_INJECT. -/
def execHbmInject (n : StackId) (value : W64) (s : State) : Out :=
  if s.expertOn (fnHbm n) then .next (s.armStack n value) else .next s

/-- PAGEMAP.ENTRY_DATA (R266): Table 8.5's reserved bits read zero. -/
def State.writeEntry (s : State) (w : W64) : State :=
  let n := s.fld (rg fnPagemap 0x108) 20 0
  if s.noProgram then s.setPage n (w &&& 0xFFE0FFFFFFFF0000) else s.pageFault 3 (pageJob (s.page n)) n

/-- ENTRY_DATA_WRITE. -/
def execEntryDataWrite (value : W64) (s : State) : Out :=
  if s.expertOn fnPagemap then .next (s.writeEntry value) else .next s

/-- LOG.INJECT writes one test entry, whatever MINSEV says (R531). -/
def State.testEntry (s : State) (w : W64) : State := s.logPut { plainEntry s 0xEF 0 fnLog none with d0 := w }

/-- LOG_INJECT. -/
def execLogInject (value : W64) (s : State) : Out :=
  if s.expertOn fnLog then .next (s.testEntry value) else .next s

end Sys2Proof.Machine
end

