-- ==== Sys2Proof/Machine/Regs.lean ====
section
/-! DEFINITION. Every register as a reader finds it and as a write leaves it (R15 to R18, R374, R473): the registers whose
value follows from other state, the writes that act, and for all others the access codes of their tables. -/

namespace Sys2Proof.Machine

/-! Reads. -/

/-- The W64 at byte offset o of some bytes. -/
def word64 (b : List Byte) (o : Nat) : W64 := BitVec.ofNat 64 (fieldLE b o 8)

/-- CORE.ARRSTAT with MAPPED from the row maps in force (R138, R140). -/
def State.readArrstat (s : State) (f : Nat) : W64 :=
  (List.range 4).foldl (fun w n => setField w (2 * n + 9) (2 * n + 8) (mapRows (s.force (kRowmap (f - 0x200) n))).length) (s.rd (rg f 0x040))

/-- CLUSTER.CHKCORE (R428, R454). -/
def State.readChkcore (s : State) (c : Nat) : W64 :=
  let d := (s.servedBy c).getD c
  BitVec.ofNat 64 (d + if d = c then 0 else 32)

/-- SEC.FUSES (R419). -/
def State.readFuses (s : State) : W64 :=
  let f := s.boot.fuses
  BitVec.ofNat 64 (2 ^ 32 + ownerBits s * 2 ^ 24 + f.rollback * 2 ^ 16 + f.revoke.toNat)

/-- REn.STATUS.READY: plan records loaded and streams idle (R346). -/
def State.reReady (s : State) (r : Nat) : Bool :=
  s.flag (rg (fnRe r) 0) 0 && (List.range 8).all (fun i =>
    let x := s.stream (8 * r + i)
    x.ins.all (·.2.isEmpty) && x.beat == 0 && x.outs.all (·.2.isEmpty))

/-- REn.STREAMPEND of the selected stream (R346). -/
def State.readPend (s : State) (r : Nat) : W64 :=
  let x := s.stream (8 * r + s.fld (rg (fnRe r) 0x100) 2 0)
  (List.range 8).foldl (fun w j => setField w (8 * j + 7) (8 * j) (min 255 (tget noIns x.ins j).length)) 0

/-- The registers whose value other state gives. -/
def State.readDerived (s : State) (b : Blk) (f o : Nat) : Option W64 :=
  match b with
  | .ledger =>
    if o = 0x000 then some (setField (s.rd (rg f o)) 25 16 s.ledger.shadow.length)
    else if 0x080 ≤ o ∧ o < 0x100 then
      let j := (o - 0x080) / 8
      some (BitVec.ofNat 64 (s.ledgerCount j * 2 ^ 16 + s.ledgerBase j))
    else if o = 0x110 then some (tget slot0 s.ledger.slots (s.fld (rg f 0x108) 8 0)).l0
    else if o = 0x118 then some (tget slot0 s.ledger.slots (s.fld (rg f 0x108) 8 0)).l1
    else none
  | .log => if o = 0x000 then some (setField (s.rd (rg f o)) 28 16 s.log.entries.length) else none
  | .pagemap => if o = 0x110 then some (s.page (s.fld (rg f 0x108) 20 0)) else none
  | .core => if o = 0x040 then some (s.readArrstat f) else none
  | .cluster => if o = 0x0A0 then some (s.readChkcore (f - 0x100)) else none
  | .eth =>
    let x := s.conn (s.fld (rg f 0x100) 5 0)
    if o = 0x108 then some (BitVec.ofNat 64 (x.next.toNat * 2 ^ 32 + x.acked.toNat))
    else if o = 0x110 then some (BitVec.ofNat 64 (x.state * 2 ^ 32 + x.srtt.toNat)) else none
  | .re =>
    if o = 0x000 then some (if s.reReady (f - 0x050) then 1 else 0)
    else if o = 0x108 then some (s.readPend (f - 0x050)) else none
  | .sec =>
    if o = 0x028 then some s.readFuses
    else if 0x100 ≤ o ∧ o < 0x1000 then some (word64 s.boot.report (o - 0x100)) else none
  | .clk => if o = 0x040 then some s.beat else none
  | _ => none

/-- A read of the register at offset o of function f: zero in a domain that is off, and where no block or register is. -/
def State.readReg (s : State) (f o : Nat) : W64 :=
  match blkOf f with
  | none => 0
  | some b => if !s.fnOn f then 0 else (s.readDerived b f o).getD (s.rd (rg f o))

/-! Writes. -/

/-- The registers of which a write does more than store. -/
def State.writeActs (s : State) (b : Blk) (f o : Nat) (w : W64) : Option State :=
  let bit (i : Nat) : Bool := w.toNat.testBit i
  match b with
  | .chip => if o = 0x040 ∧ bit 13 then some (if bit 14 then s.frstJob (getField w 9 0) else s.frstFn (getField w 9 0)) else none
  | .pwr =>
    let plain := s.wr (rg f o) (accWrite (accOf b o) (s.rd (rg f o)) w)
    if o = 0x008 then some (s.requestState (getField w 1 0))
    else if o = 0x108 then some plain.refreshThrot else none
  | .sec => if o = 0x058 then some (s.takeNonce w) else none
  | .sch =>
    if o = 0x110 then
      let s := if bit 6 then s.restartPair (getField w 5 0) else s
      some (if bit 7 then s.restartLogs else s)
    else none
  | .log => if o = 0x108 then some (s.testEntry w) else none
  | .bist => if o = 0x100 then some (if bit 0 then s.fuseGo else s) else none
  | .hbm => if o = 0x110 then some (s.armStack (f - 0x010) w) else none
  | .pagemap => if o = 0x110 then some (s.writeEntry w) else none
  | .tether =>
    if o = 0x108 then
      let s := if bit 0 then s.injectFrame (f - 0x030) else s
      some (if bit 1 then s.injectFail (f - 0x030) else s)
    else none
  | .eth =>
    if o = 0x118 then
      let s := if bit 0 then s.armPort (f - 0x020) 1 else s
      some (if bit 1 then s.armPort (f - 0x020) 2 else s)
    else none
  | .cluster => if o = 0x108 then some (if bit 0 then s.armFlip (f - 0x100) else s) else none
  | .core => if 0x400 ≤ o ∧ o < 0x420 then some (s.writeRowmap (f - 0x200) ((o - 0x400) / 8) w) else none
  | .ledger | .mgmt | .re | .clk => none

/-- A write of w to the register at offset o of function f: discarded in a domain that is off, and on the expert page
without EXPERT_EN. -/
def State.writeReg (s : State) (f o : Nat) (w : W64) : State :=
  match blkOf f with
  | none => s
  | some b =>
    if !s.fnOn f ∨ (0x100 ≤ o ∧ !s.flag (rg f 0x020) 0) then s
    else (s.writeActs b f o w).getD (s.wr (rg f o) (accWrite (accOf b o) (s.rd (rg f o)) w))

/-- CSR_WRITE: one whole register; an access that is not aligned writes nothing (R15). -/
def execCsrWrite (func : BitVec 10) (offset : BitVec 12) (value : W64) (s : State) : Out :=
  if offset.toNat % 8 = 0 then .next (s.writeReg func.toNat offset.toNat value) else .next s

end Sys2Proof.Machine
end

