-- ==== Sys2Proof/Machine/Rdma.lean ====
section
/-! DEFINITION. RDMA from the controller: memory regions and their checks (R324, R325, R372, R373, R478), accesses to HBM
(R257, R261, R525), to scratchpad windows, to CSR space (R15) and to the doorbell page (R387, R393). -/

namespace Sys2Proof.Machine

/-! Regions (R324). -/

/-- A memory region of the braid: job, or 0xFE the chip. -/
structure Region where
  job   : Nat
  read  : Bool
  write : Bool
  base  : Nat
  len   : Nat

/-- The region that an R_Key names, its tag included. -/
def State.region (s : State) (rkey : Nat) : Option Region :=
  let b := s.rec1 0x0C
  ((List.range (b.length / 32)).find? (fun i =>
      fieldLE b (32 * i) 2 == rkey % 1024 && fieldLE b (32 * i + 2) 3 == rkey / 1024)).map (fun i =>
    let r := fieldLE b (32 * i + 6) 1
    ⟨fieldLE b (32 * i + 5) 1, r.testBit 0, r.testBit 1, fieldLE b (32 * i + 8) 8, fieldLE b (32 * i + 16) 8⟩)

/-- The parts of the device address space (Table 13.1). -/
inductive Space where
  | hbm | window | csr | doorbell
  deriving DecidableEq, Repr

def csrBase : Nat := 0x020000000000
def bellBase : Nat := 0x030000000000

/-- The part in which [a, a + n) lies wholly. -/
def spaceOf (a n : Nat) : Option Space :=
  let inside (lo k : Nat) : Bool := decide (lo ≤ a ∧ a + n ≤ lo + k)
  if inside 0 hbmEnd then some .hbm
  else if inside (window 0) 0x48000000 then some .window
  else if inside csrBase 0x320000 then some .csr
  else if inside bellBase 0x1000 then some .doorbell else none

/-- PWR.STATEREQ as an address. -/
def statereqAddr : Nat := csrBase + 0x1008

/-- The job of an access that its port and its R_Key let through. Without a braid MGMT reads CSR space with R_Key 0; in
DEEP and STANDBY it also takes a write of TARGET = ON. -/
def State.passes (s : State) (e rkey a n : Nat) (data : Option (List Byte)) : Option Nat :=
  let wake := match data with
    | some w => decide (e = 8 ∧ rkey = 0 ∧ a = statereqAddr ∧ n = 8) && fieldLE w 0 1 % 4 == 0 && (s.pwrState == 1 || s.pwrState == 2)
    | none => false
  if wake then some 0xFE
  else if !s.braidLoaded then
    (if e = 8 ∧ rkey = 0 ∧ data.isNone ∧ spaceOf a n = some .csr then some 0xFE else none)
  else match s.region rkey with
    | none => none
    | some r => if r.base ≤ a ∧ a + n ≤ r.base + r.len ∧ (if data.isSome then r.write else r.read) then some r.job else none

/-! HBM (R257, R492, R525). -/

/-- Page p refuses an access of the region's job. -/
def State.pageRefuses (s : State) (job : Nat) (write : Bool) (p : Nat) : Bool :=
  if job = 0xFE then pageValid (s.page p) || pageRetired (s.page p) else !pageAllows (s.page p) job (if write then 55 else 54)

/-- In fixed cadence every granule of a job's access has data slots of its class for it; a granule written in part also
for its read. -/
def State.slotsServe (s : State) (job : Nat) (write : Bool) (a n : Nat) : Bool :=
  !s.fixed || job == 0xFE || (granulePieces a n).all (fun (x, k) =>
    s.hasSlot (stackOf x) (classOf x) write 0 job && (!write || k == 64 || s.hasSlot (stackOf x) (classOf x) false 0 job))

/-- The access is refused: the state with the refusal recorded. -/
def State.hbmRefuses (s : State) (job : Nat) (write : Bool) (a n : Nat) : Option State :=
  match (pagesOf a n).find? (fun p => s.pageRefuses job write p) with
  | some p => some (s.pageFault 1 (if job = 0xFE then 0 else job) p)
  | none =>
    if (granulePieces a n).all (fun (x, _) => s.hbmReady (stackOf x)) && s.slotsServe job write a n then none else some s

/-! Windows (R373, R422, R478). -/

def windowCore (a : Nat) : Nat := (a - window 0) / 0x400000
def windowOff (a : Nat) : Nat := (a - window 0) % 0x400000

/-- A window takes no access of [a, a + n). -/
def State.windowRefuses (s : State) (write : Bool) (a n : Nat) : Bool :=
  let p := windowCore a
  (s.core p).bound.isSome || !s.fnOn (fnCore p) || s.pwrState == 1 || (s.role p == 1 && (s.jobOf (clusterOf p)).isSome) ||
    decide ((if write then 0x200000 else 0x240000) < windowOff a + n)

/-! The doorbell page (R387, R393). -/

/-- Reads return the last value written. -/
def State.readBell (s : State) (o : Nat) : Nat :=
  (if o < 0x200 then s.cp (o / 8) else if o < 0x400 then s.pc ((o - 0x200) / 8)
   else if o = 0x400 then s.rings.evCons else if o = 0x408 then s.rings.ldCons else 0).toNat

/-- A region of this job may write the doorbell at offset o. Offsets above LDDB are no doorbell. -/
def State.bellOwned (s : State) (job o : Nat) : Bool :=
  let p := if o < 0x200 then o / 8 else (o - 0x200) / 8
  if 0x408 < o then true
  else if 0x400 ≤ o ∨ p = 0 then job == 0xFE
  else s.jobOfPair p == some job

/-- CMDDBp: CP, at most 2^n ahead of CC. -/
def State.writeCp (s : State) (p : Nat) (w : W32) : State :=
  let s := { s with rings := { s.rings with cp := tput z32 s.rings.cp p w } }
  if s.cmdSize p < (w - s.cc p).toNat then s.ringFault p 0x01 else s

/-- CPLDBp: PC, from its old value up to PP. -/
def State.writePc (s : State) (p : Nat) (w : W32) : State :=
  let old := s.pc p
  let s := { s with rings := { s.rings with pc := tput z32 s.rings.pc p w } }
  if (s.pp p - old).toNat < (w - old).toNat then s.ringFault p 0x02 else s

/-- EVDB: buffered events go on to the ring as it frees. -/
def State.writeEvCons (s : State) (w : W32) : State :=
  let old := s.rings.evCons
  let bad := decide ((s.rings.evProd - old).toNat < (w - old).toNat)
  let s := { s with rings := { s.rings with evCons := w } }
  if s.rings.evBad then s
  else if bad then { s with rings := { s.rings with evBad := true } }.ringEvent 0 0x04 none
  else s.drainEvents 257

/-- LDDB. -/
def State.writeLdCons (s : State) (w : W32) : State :=
  let old := s.rings.ldCons
  let bad := decide ((s.rings.ldProd - old).toNat < (w - old).toNat)
  let s := { s with rings := { s.rings with ldCons := w } }
  if s.rings.ldBad then s
  else if bad then { s with rings := { s.rings with ldBad := true } }.ringEvent 0 0x05 none
  else s

/-- A write of the doorbell at offset o. -/
def State.writeBell (s : State) (o : Nat) (w : W64) : State :=
  let v : W32 := BitVec.ofNat 32 w.toNat
  if o < 0x200 then s.writeCp (o / 8) v
  else if o < 0x400 then s.writePc ((o - 0x200) / 8) v
  else if o = 0x400 then s.writeEvCons v
  else if o = 0x408 then s.writeLdCons v else s

/-! Accesses. -/

/-- Whole registers from byte address a: their addresses. -/
def regAddrs (a n : Nat) : List Nat := (List.range (n / 8)).map (fun i => a + 8 * i)
def csrFn (a : Nat) : Nat := (a - csrBase) / 4096
def csrOff (a : Nat) : Nat := (a - csrBase) % 4096
def aligned8 (a n : Nat) : Bool := a % 8 == 0 && n % 8 == 0

/-- A write of a region's job; none completes with a remote access error, and the state given records why. -/
def State.rdmaPut (s : State) (job a : Nat) (d : List Byte) : State × Bool :=
  let n := d.length
  match spaceOf a n with
  | none => (s, false)
  | some .hbm =>
    match s.hbmRefuses job true a n with
    | some t => (t, false)
    | none => (s.writeHbm a d, true)
  | some .window => if s.windowRefuses true a n then (s, false) else (s.storeBytes a d, true)
  | some .csr =>
    if !aligned8 a n then (s, false)
    else ((regAddrs a n).foldl (fun s x => s.writeReg (csrFn x) (csrOff x) (word64 d (x - a))) s, true)
  | some .doorbell =>
    if !aligned8 a n || (regAddrs a n).any (fun x => !s.bellOwned job (x - bellBase)) then (s, false)
    else ((regAddrs a n).foldl (fun s x => s.writeBell (x - bellBase) (word64 d (x - a))) s, true)

/-- The bytes of a scratchpad window, unless one is poisoned. -/
def State.windowGet (s : State) (a n : Nat) : State × Option (List Byte) :=
  let s := s.readScratch (windowCore a) ⟨windowOff a, min n (0x200000 - windowOff a)⟩
  (s, if anyMarked s.poison a n then none else some (s.mem.bytes a n))

/-- A read; none completes with a remote access error. -/
def State.rdmaGet (s : State) (job a n : Nat) : State × Option (List Byte) :=
  match spaceOf a n with
  | none => (s, none)
  | some .hbm =>
    match s.hbmRefuses job false a n with
    | some t => (t, none)
    | none =>
      let (s, bs) := s.readHbm a n
      (s, if bs.any (·.2) then none else some (bs.map (·.1)))
  | some .window => if s.windowRefuses false a n then (s, none) else s.windowGet a n
  | some .csr =>
    (s, if aligned8 a n then some ((regAddrs a n).flatMap (fun x => leBytes (s.readReg (csrFn x) (csrOff x)).toNat 8)) else none)
  | some .doorbell =>
    (s, if aligned8 a n then some ((regAddrs a n).flatMap (fun x => leBytes (s.readBell (x - bellBase)) 8)) else none)

/-! Requests on a QP (R323). -/

/-- The QP takes requests on port e. -/
def State.qpTakes (s : State) (e q : Nat) : Bool := s.portReady e 0 && s.qpServed e q && (s.qp q).state == 2

/-- An RDMA Write and its answer. -/
def State.rdmaWrite (s : State) (e q rkey a : Nat) (d : List Byte) : State :=
  match s.passes e rkey a d.length (some d) with
  | none => s.answer e q .accessError
  | some job =>
    let (s, ok) := s.rdmaPut job a d
    s.answer e q (if ok then .ok else .accessError)

/-- A packet of data leaves QP q as its pace allows: the next may leave once this one's time has passed (R322). -/
def State.paceQp (s : State) (q n : Nat) : Nat × State :=
  let x := s.qp q
  let at_ := max s.linkTime x.paceAt
  (at_, s.setQp q { x with paceAt := at_ + x.pace.time n })

/-- The answer to a read, in packets of the path MTU, paced. -/
def State.answerData (s : State) (e q : Nat) (bs : List Byte) : State :=
  let mtu := 1024 * 2 ^ min 2 (s.qp q).mtu
  let n := max 1 (cdiv bs.length mtu)
  ((pieces mtu n bs).zipIdx.foldl (fun s (d, i) =>
    let (at_, s) := s.paceQp q d.length
    s.sendIp e 0 0 (s.qp q).peer true at_ (.roce q (.data d) (i + 1 == n))) s).reply (.data bs)

/-- Reads of QP q whose answers have not all left. -/
def State.readsWaiting (s : State) (e q : Nat) : Nat :=
  ((s.waiting e 0 0).filter (fun f => match f.body with
    | .roce k (.data _) last => k == q && last
    | _ => false)).length

/-- RDMA_WRITE. -/
def execRdmaWrite (e : PortId) (qp : BitVec 12) (rkey : W32) (addr : W64) (data : List Byte) (ceMark : Bool) (s : State) : Out :=
  if !s.portReady e 0 then .next s
  else if !s.qpTakes e qp.toNat then .next (s.reply .discarded)
  else .next ((s.onMark e qp.toNat ceMark).rdmaWrite e qp.toNat rkey.toNat addr.toNat data)

/-- RDMA_WRITE_IMMEDIATE: the write, whose immediate the chip does not use. -/
def execRdmaWriteImmediate (e : PortId) (head : RoceHead) (rkey : W32) (addr : W64) (data : List Byte) (_imm : W32) (s : State) : Out :=
  let q := head.qp.toNat
  if !s.portReady e 0 then .next s
  else if !s.qpTakes e q then .next (s.reply .discarded)
  else .next ((s.onMark e q head.ceMark).rdmaWrite e q rkey.toNat addr.toNat data)

/-- RDMA_READ: a 65th outstanding one is outside Table 11.3. -/
def execRdmaRead (e : PortId) (head : RoceHead) (rkey : W32) (addr : W64) (len : Nat) (s : State) : Out :=
  let q := head.qp.toNat
  if !s.portReady e 0 then .next s
  else if !s.qpTakes e q then .next (s.reply .discarded)
  else
    let s := s.onMark e q head.ceMark
    if 64 ≤ s.readsWaiting e q then .next (s.answer e q .invalid)
    else match s.passes e rkey.toNat addr.toNat len none with
    | none => .next (s.answer e q .accessError)
    | some job =>
      let (s, r) := s.rdmaGet job addr.toNat len
      .next (match r with
        | some bs => s.answerData e q bs
        | none => s.answer e q .accessError)

/-- DOORBELL_WRITE: one 8-byte write of the doorbell page through a region that covers it. -/
def execDoorbellWrite (rkey : W32) (offset : BitVec 12) (value : W64) (s : State) : Out :=
  let a := bellBase + offset.toNat
  let d := leBytes value.toNat 8
  if !s.braidLoaded then .next (s.reply .accessError)
  else match s.passes 0 rkey.toNat a 8 (some d) with
    | none => .next (s.reply .accessError)
    | some job =>
      let (s, ok) := s.rdmaPut job a d
      .next (s.reply (if ok then .ok else .accessError))

end Sys2Proof.Machine
end

