-- ==== Sys2Proof/Machine/Services.lean ====
section
/-! DEFINITION. Service streams (R366 to R369, R371): descriptors and their checks, fetches, checkpoints, Halo snapshots,
their ends. -/

namespace Sys2Proof.Machine

/-! The descriptor (Table 12.4). -/

/-- Pages of [a, a + n) that a service of job j may not touch: the lowest. -/
def State.svcPageBad (s : State) (j a n : Nat) : Option Nat := (pagesOf a n).find? (fun p => !pageAllows (s.page p) j 53)

/-- A range that names no page of HBM has no page that could serve it. -/
def State.svcRangeBad (s : State) (j a n : Nat) : Option Nat :=
  if 0x10000000000 < a + n then some (pageOf a) else s.svcPageBad j a n

/-- Regions of a list. -/
def regionsOf (bs : List Byte) (n : Nat) : List (Nat × Nat × Nat) :=
  (List.range n).map (fun i => (fieldLE bs (32 * i) 8, fieldLE bs (32 * i + 8) 8, fieldLE bs (32 * i + 16) 8))

def regionsOk (bs : List Byte) (n : Nat) : Bool :=
  (List.range n).all (fun i => fieldLE bs (32 * i) 8 % 64 == 0 && fieldLE bs (32 * i + 8) 8 % 64 == 0 && fieldLE bs (32 * i + 24) 8 == 0)

/-- The 64 descriptor bytes of a service of job j. -/
def descOk (s : State) (j : Nat) (d : List Byte) : Bool :=
  let ty := fieldLE d 0 1
  let n := fieldLE d 4 4
  decide (1 ≤ ty ∧ ty ≤ 3) && fieldLE d 1 1 == j && fieldLE d 2 2 < 4096 && s.qpOwner (fieldLE d 2 2) == j &&
    decide (1 ≤ n ∧ n ≤ 4096)

/-- Step n of job j has begun: the splice that begins it, a binding splice or a step boundary, has passed its gates. -/
def State.stepBegun (s : State) (j n : Nat) : Bool :=
  let x := s.job j
  let early := x.phase == .span || x.phase == .quiesce || x.phase == .gates
  decide (n < x.step) || (n == x.step && !s.stopped j &&
    (if x.binding && x.prog.isNone then !early else x.prog.isSome && !(x.stepMark && x.phase == .gates)))

/-- The UPDATE splice of step n + 2, which overwrites what step n left, had begun before the ring was sampled: its gates have
opened (R368). -/
def State.updateBegun (s : State) (j n : Nat) : Bool :=
  let x := s.job j
  decide (n + 2 < x.step) || (n + 2 == x.step && x.updating)

/-- A fresh number for a service, after those in progress. -/
def State.nextSvc (s : State) : Nat := s.svc.foldl (fun n e => max n (e.1 + 1)) 0

/-! Ends (R367 to R370, R393). -/

/-- What a failed service reports besides its completion: event 0x02 (Table 13.15). -/
def State.svcEvent (s : State) (x : Svc) (status : Nat) : State :=
  s.event 0x02 fnSch (some x.job) (leBytes x.id.toNat 8 ++ leBytes status 1)

/-- The completion of a service, or after a restart of its pair its event instead. -/
def State.tellSvc (s : State) (x : Svc) (status : Nat) (result : List Byte) : State :=
  if x.orphan then s.svcEvent x status else s.finish x.pair 0x04 status x.seq x.id result

/-- Service i fails or is abandoned. A failed fetch stays listed: the splice that begins its step keeps waiting. -/
def State.failSvc (s : State) (i : Nat) (x : Svc) (keep : Bool) : State :=
  let s := s.setSvc i (if keep then some { x with phase := 4 } else none)
  let s := (s.bump (rg fnSch 0x040) 15 0 1).tellSvc x 0x0E (s.refusal x.moved)
  if x.orphan then s else s.svcEvent x 0x0E

/-- Service i ends well. -/
def State.endSvc (s : State) (i : Nat) (x : Svc) : State :=
  let (hi, lo) : Nat × Nat := if x.type = 1 then (31, 16) else if x.type = 2 then (47, 32) else (63, 48)
  ((s.setSvc i none).bump (rg fnSch 0x040) hi lo 1).tellSvc x 0 (leBytes x.total 8 ++ leBytes s.beat.toNat 8)

/-- Every service that p picks is abandoned. -/
def State.abandonSvcs (s : State) (p : Svc → Bool) : State :=
  s.svc.foldl (fun s e => match e.2 with
    | some x => if !p x then s else if x.phase = 4 then s.setSvc e.1 none else s.failSvc e.1 x false
    | none => s) s

/-- QP_ERROR_STATE: the services that use the QP fail, at once or, while SCH is down, when it is READY again (R413). -/
def execQpErrorState (qp : BitVec 12) (s : State) : Out :=
  let n := qp.toNat
  let s := s.setQp n { s.qp n with state := 3 }
  if !s.schReady then .next s
  else .next (s.svc.foldl (fun s e => match e.2 with
    | some x => if x.qp = n ∧ x.phase ≠ 4 then s.failSvc e.1 x (x.type == 1) else s
    | none => s) s)

/-! Starts. -/

def State.svcAt (s : State) (i : Nat) : Option Svc := tget noSvc s.svc i

/-- The chip asks for its connection with a REQ if the QP has none (Table 11.3: active for services), from the lowest
READY port of plane A. -/
def State.askQp (s : State) (n : Nat) : State :=
  if (s.qp n).state ≠ 0 then s
  else s.setQp n { s.qp n with state := 1, port := ((List.range 4).find? (fun e => s.portReady e 0)).getD 0 }

def State.moveSvc (s : State) (i : Nat) (x : Svc) : State :=
  (s.setSvc i (some x)).bump (rg fnSch 0x050) 63 0 x.moved

/-- Requests of a service are checked as they are made (R257): with a page gone, the service fails. -/
def State.svcGuard (s : State) (i : Nat) (x : Svc) (rs : List (Nat × Nat × Nat)) (go : State → State) : State :=
  match rs.findSome? (fun (a, n, _) => s.svcRangeBad x.job a n) with
  | some p => (s.pageFault 2 x.job p).failSvc i x (x.type == 1)
  | none => if (s.qp x.qp).state = 3 then s.failSvc i x (x.type == 1) else go s

/-- The RDMA Reads of a fetch: each region from RADDR + ROFF into ADDR. -/
def Svc.reads (x : Svc) : List RdmaOut := x.regions.map (fun (a, n, o) => .read (x.raddr + BitVec.ofNat 64 o) n a)

/-- FETCH_START: no earlier than the seal of STEP - 2. -/
def execFetchStart (svc : Nat) (s : State) : Out :=
  match s.svcAt svc with
  | none => .next s
  | some x =>
    if !s.schReady ∨ x.type ≠ 1 ∨ x.phase ≠ 1 ∨ !(decide (x.step < 2) || (s.sealedAs x.job (x.step - 2)).isSome) then .next s
    else .next (s.svcGuard svc x x.regions (fun s => (s.askQp x.qp).setSvc svc (some { x with phase := 3, out := x.reads })))

/-- Bytes of [a, a + n) as they are sent: a poisoned granule goes as 64 zero bytes and counts. -/
def State.sendRegion (s : State) (a n : Nat) : State × List Byte × Nat :=
  (List.range (n / 64)).foldl (fun (s, l, k) i =>
    let g := a + 64 * i
    let (s, bad) := s.readGranule g
    (s, l ++ (if bad then List.replicate 64 0 else s.mem.bytes g 64), if bad then k + 1 else k)) (s, [], 0)

/-- The manifest (Table 12.5). -/
def manifest (x : Svc) (attempt beat poison : Nat) (entries : List (Nat × Nat × Digest)) : List Byte :=
  leBytes 0x4D465A56 4 ++ leBytes x.type 1 ++ leBytes x.job 1 ++ leBytes attempt 1 ++ [0] ++ leBytes x.step 8 ++ leBytes beat 8 ++
    leBytes entries.length 4 ++ leBytes 0 4 ++ leBytes poison 8 ++ leBytes x.desc.toNat 8 ++ List.replicate 16 0 ++
    entries.flatMap (fun (o, n, d) => leBytes o 8 ++ leBytes n 8 ++ digestBytes d)

/-- Regions are read and written out in list order by RDMA Write to RADDR + ROFF, and then the manifest by RDMA Write with
Immediate to RADDR + MOFF. -/
def State.sendOff (s : State) (i : Nat) (x : Svc) (rs : List (Nat × Nat × Nat)) : State :=
  let (s, es, ws, k) := rs.foldl (fun (s, es, ws, k) (a, n, o) =>
    let (s, bs, z) := s.sendRegion a n
    (s, es ++ [(o, n, sha384 bs)], ws ++ [RdmaOut.write (x.raddr + BitVec.ofNat 64 o) bs], k + z))
    ((s, [], [], 0) : State × List (Nat × Nat × Digest) × List RdmaOut × Nat)
  let x := { x with phase := 3, moved := x.total, zeros := k, began := s.beat.toNat }
  let m := manifest x ((s.sealedAs x.job x.step).getD 0) s.beat.toNat k es
  (s.askQp x.qp).moveSvc i { x with manifest := m, out := ws ++ [.writeImm (x.raddr + x.moff) m x.imm] }

/-- CHECKPOINT_START: at the seal of STEP. -/
def execCheckpointStart (svc : Nat) (s : State) : Out :=
  match s.svcAt svc with
  | none => .next s
  | some x =>
    if !s.schReady ∨ x.type ≠ 2 ∨ x.phase ≠ 1 ∨ !(s.sealedAs x.job x.step).isSome then .next s
    else .next (s.svcGuard svc x x.regions (fun s => s.sendOff svc x x.regions))

/-- HALO_STREAM: the snapshot buffer goes out as one region, once the copy has ended. -/
def execHaloStream (svc : Nat) (s : State) : Out :=
  match s.svcAt svc with
  | none => .next s
  | some x =>
    if !s.schReady ∨ x.type ≠ 3 ∨ x.phase ≠ 3 ∨ x.copied < x.total ∨ x.manifest ≠ [] then .next s
    else
      let r := [(x.snap, x.total, 0)]
      .next (s.svcGuard svc x r (fun s => s.sendOff svc x r))

/-- SCH.HALORATE in force, in Gb/s: 1 to 3,200, any other value reads as 100. -/
def State.haloRate (s : State) : Nat :=
  let n := getField (s.force (rg fnSch 0x108)) 11 0
  if n = 0 ∨ 3200 < n then 100 else n

/-- What an RDMA Read brings: bytes of the storage service, which nothing of the chip determines. -/
def State.fetchWord (s : State) (a : Nat) : State :=
  let bs := (List.range 8).map (fun i => Config.freeValue (s.free + i))
  { s with free := s.free + 8 }.writeGranule a (bs.flatMap (fun (w : W64) => leBytes w.toNat 8)) false

/-- SERVICE_COMPLETE: the last byte of a fetch is in HBM, or the write of a manifest has completed; a service whose QP failed
while SCH was down fails. Completions wait for SCH (R413). -/
def execServiceComplete (svc : Nat) (s : State) : Out :=
  match s.svcAt svc with
  | none => .next s
  | some x =>
    if !s.schReady ∨ x.phase ≠ 3 then .next s
    else if (s.qp x.qp).state = 3 then .next (s.failSvc svc x (x.type == 1))
    else if (s.qp x.qp).state ≠ 2 then .next s
    else if x.type = 1 then
      .next (s.svcGuard svc x x.regions (fun s =>
        let s := x.regions.foldl (fun s (a, n, _) => (List.range (n / 64)).foldl (fun s i => s.fetchWord (a + 64 * i)) s) s
        (s.bump (rg fnSch 0x050) 63 0 x.total).endSvc svc x))
    else if x.manifest = [] ∨ (x.type = 3 ∧ s.beat.toNat < x.began + cdiv (8 * x.total) s.haloRate) then .next s
    else .next (s.endSvc svc x)

end Sys2Proof.Machine
end

