-- ==== Sys2Proof/Machine/BraidApply.lean ====
section
/-! DEFINITION. The load of a braid (R382, Table 13.6), with the pod's and the ports' registers that it sets (R308, R313, R315,
R317, R327, R343, R490). -/

namespace Sys2Proof.Machine

/-! When it applies. -/

/-- No later phase of a splice of job j runs. -/
def State.jobWaits (s : State) (j : Nat) : Bool :=
  let x := s.job j
  s.unspliced j || x.phase == .gates || (x.prog.isNone && (x.phase == .span || x.phase == .quiesce))

/-- SCH runs, the hub memories have passed, and every job waits. -/
def State.loadReady (s : State) : Bool :=
  s.fwUp 2 && s.flag (rg fnBist 0) 0 && !s.flag (rg fnBist 0) 2 && s.definedJobs.all s.jobWaits

/-! What ends. -/

/-- Services and a staged peer-table update complete with FAILED. -/
def State.abandonWork (s : State) : State :=
  let s := s.abandonSvcs (fun _ => true)
  match s.cmds.peer with
  | some u => s.finish 0 0x05 0x0E u.seq u.id (s.refusal 0)
  | none => s

/-- Programs, steps and what runs with them are gone. -/
def State.dropJobs (s : State) : State :=
  let s := s.definedJobs.foldl (fun s j => s.unbind j) s
  let s := (List.range 32).foldl (fun s c =>
    let s := s.loseChecks c
    let x := s.cluster c
    s.setCluster c { cluster0 c with asleep := x.asleep, fenced := x.fenced, chkSlot := x.chkSlot, flip := x.flip, idleAt := x.idleAt }) s
  { s with
    jobs := [], svc := [], netq := [], ledger := ⟨[], []⟩, cmds := ⟨[], none, none, none, []⟩
    hbm := { s.hbm with fifo := [], spillq := [] }
    rings := { rings0 with events := s.rings.events, evLost := s.rings.evLost }
    net := { s.net with groups := [], streams := [], conns := [], asm := [], mdowns := [], mgens := [], newRoot := 0, ptpBad := false } }

/-! What replaces it. -/

/-- V, JOB and rights of every page come from the runs; RET, CE and UE stay. -/
def State.loadPages (s : State) : State :=
  let kept : Tab W64 := (s.hbm.pages.map (fun e => (e.1, e.2 &&& 0x4000FFFFFFFF0000))).filter (fun e => e.2 != 0)
  let s := { s with hbm := { s.hbm with pages := kept } }
  (s.recs 3).foldl (fun s b =>
    (List.range (b.length / 16)).foldl (fun s i =>
      (List.range (fieldLE b (16 * i + 4) 4)).foldl (fun s k =>
        let p := fieldLE b (16 * i) 4 + k
        s.setPage p (setField (s.page p) 63 63 0 ||| BitVec.ofNat 64 (fieldLE b (16 * i + 8) 2 * 2 ^ 48))) s) s) s

/-- The peer table and the generation (R338). -/
def State.loadPeers (s : State) : State :=
  let b := s.rec1 0x0E
  let k := rg fnSch 0x038
  let s := (s.setFld k 63 32 (fieldLE b 12 4)).setFlag k 0 false
  if b = [] then s
  else (List.range (fieldLE b 8 4)).foldl (fun s i =>
    s.writeHbm (s.peerBase + 64 * fieldLE b (16 + 72 * i) 4) ((b.drop (24 + 72 * i)).take 64)) (s.clearMem s.peerBase 0x400000)

/-- Every index of the new rings' index page is 0. -/
def State.clearIndexPage (s : State) : State :=
  let s := (List.range 64).foldl (fun s p => (s.putIndex (8 * p) 0).putIndex (0x200 + 8 * p) 0) s
  (s.putIndex 0x400 0).putIndex 0x408 0

/-- CHIP.BRAID, CHIP.MODE.CHECK. -/
def State.loadChip (s : State) : State :=
  let k := rg fnChip 0x010
  let s := (((s.setFld k 63 32 (s.braid.serial.toNat % 2 ^ 32)).bump k 31 16 1).setFld k 8 4 s.definedJobs.length)
  let s := (s.setFlag k 1 false).setFlag k 0 true
  s.setFld (rg fnChip 0x030) 31 0 0xFFFFFFFF

/-- CLK.PODCFG and PODSTAT; PTP lock stays only on the port of a root's client (R343); the root without PTP is LOCKED at once, at
the pod epoch (R314, R327); a pod of several chips has no spread (R490). -/
def State.loadPod (s : State) : State :=
  let k := rg fnClk 0x050
  let s := (((s.setFld k 47 32 (fieldLE (s.rec1 1) 8 2)).setFld k 11 9 (s.podByte 2 - 1)).setFld k 8 6 (s.podByte 1 - 1)).setFld k 5 3 (s.podByte 0 - 1)
  let rootCoord := coordOf (s.podByte 10) (s.podByte 11) (s.podByte 12)
  let root := s.ownCoord == rootCoord
  let s := (List.range 8).foldl (fun s e =>
    if root && s.podEpoch != 0 && e == s.podByte 48 then s else s.setFlag (rg (fnEth e) 0) 1 false) s
  let s := ((s.setFld kPodstat 8 0 s.ownCoord).setFlag kPodstat 9 root).setFld kPodstat 27 24 (s.hopsTo rootCoord)
  let s := if s.podByte 0 * s.podByte 1 * s.podByte 2 ≤ 1 then s else s.setFlag kClk 8 false
  if !root then s
  else
    let s := (s.setFlag kPodstat 17 false).setAlignLead
    if s.podEpoch = 0 ∧ !s.flag kPodstat 16 then s.startBeat 0 else s

/-- Tether links: those of an axis of extent 1 are UNUSED; a fence ends with the reload (R306, Table 15.4); links in lock are
judged by the new POD record. -/
def State.loadLink (s : State) (l : Nat) : State :=
  let k := rg (fnTether l) 0
  let s := s.setFlag k 5 (!s.cabled l)
  let s := if s.cabled l then s else s.setFlag k 0 false
  let x := s.link l
  let s := s.setLink l { x with failing := none, measured := x.measured && !s.linkFailed l }
  (((s.setFlag k 4 false).setFlag k 3 false).setFlag k 2 false).judgeLink l

/-- SPLIT and PFCEN of a plane port. -/
def State.loadPort (s : State) (e : Nat) : State :=
  let k := rg (fnEth e) 0
  let split := s.portSplit e
  let pfc := fieldLE (s.portRec e 0) 3 1 != 0 || fieldLE (s.portRec e 1) 3 1 != 0
  let s := (s.setFlag k 3 split).setFlag k 4 pfc
  if split then s else s.setFlag k 2 false

/-- Functions of Table 13.18. -/
def blockFunctions : List Nat := (List.range 0x320).filter (fun f => (blkOf f).isSome)

/-- CSRINIT entries, in order, each with its block's EXPERT_EN set (Table 13.6). -/
def State.initRegs (s : State) : State :=
  let s := blockFunctions.foldl (fun s f => s.dropExpert f) s
  (s.recs 0x11).foldl (fun s b =>
    (List.range (b.length / 16)).foldl (fun s i =>
      let f := fieldLE b (16 * i) 2
      ((s.setFlag (rg f 0x020) 0 true).writeReg f (fieldLE b (16 * i + 2) 2) (word64 b (16 * i + 8))).dropExpert f) s) s

/-- Strand 0 reaches every job and the chip. -/
def State.firstStrand (s : State) : State := (s.definedJobs.foldl (fun s j => s.applyCheck j 0) s).setChipMode 0

/-- The braid of an image is in force. -/
def State.putBraid (s : State) (b : List Byte) : State :=
  let rs := match imageRecs b with
    | .ok l => l.map (fun r => (r.type, r.body))
    | .error _ => []
  let n := fieldLE b 0x10 8
  let d := sha384 (b.take n)
  { s with braid := ⟨rs, BitVec.ofNat 64 (fieldLE b 0x20 8), d⟩, boot := { s.boot with mbraid := d, mowner := blockKey b n } }

/-- The load applies. -/
def State.loadBraid (s : State) (p : PendBraid) : State :=
  let s := s.abandonWork.dropJobs.putBraid p.image
  let s := s.loadPages.loadPeers.clearIndexPage.loadChip.loadPod
  let s := (List.range 24).foldl (fun s l => s.loadLink l) s
  let s := (List.range 8).foldl (fun s e => s.loadPort e) s
  let s := (List.range 64).foldl (fun s k => s.reopenConn k) s
  let s := (List.range 8).foldl (fun s r => s.setFlag (rg (fnRe r) 0) 0 true) (s.setFlag (rg fnPagemap 0) 0 true)
  let s := s.initRegs.firstStrand.refreshSch.refreshStage
  let s := if p.cmd then s.complete 0 0x06 0 p.seq p.id (digestBytes s.braid.digest) else s
  s.event 0x06 fnSch none (digestBytes s.braid.digest)

/-- BRAID_LOAD_APPLY: once every job waits, pending shadow entries are written, and with the last of them the load
applies. -/
def execBraidLoadApply (s : State) : Out :=
  match s.cmds.braid with
  | none => .next s
  | some p =>
    if !p.checked ∨ !s.loadReady then .next s
    else
      let s := s.flushRecords.drainShadows (fun _ => true) 1024
      if s.ledger.shadow = [] then .next (s.loadBraid p) else .next s

end Sys2Proof.Machine
end

