-- ==== Sys2Proof/Machine/Commands.lean ====
section
/-! DEFINITION. The ring commands (R366, R340, R381 to R385, R388 to R391, R529, R530, Table 13.11). -/

namespace Sys2Proof.Machine

def Cmd.arg (c : Cmd) (o n : Nat) : Nat := fieldLE c.args o n

/-- The command completes at once with OK and its result. -/
def State.okCmd (s : State) (op : Nat) (c : Cmd) (result : List Byte) : State := s.complete c.pair op 0 c.seq c.id result

/-- The command is refused. -/
def State.noCmd (s : State) (op : Nat) (c : Cmd) (status detail : Nat) : State :=
  s.complete c.pair op status c.seq c.id (s.refusal detail)

/-- [a, a + n) lies in one chip region of the braid (R379). -/
def State.inChipRegion (s : State) (a n : Nat) : Bool :=
  let b := s.rec1 0x0C
  (List.range (b.length / 32)).any (fun i =>
    fieldLE b (32 * i + 5) 1 == 0xFE && fieldLE b (32 * i + 8) 8 ≤ a && a + n ≤ fieldLE b (32 * i + 8) 8 + fieldLE b (32 * i + 16) 8)

/-- The lowest page of [a, a + n) that a job holds: no chip region has it (R379). -/
def State.jobPage (s : State) (a n : Nat) : Option Nat :=
  if hbmEnd < a + n then none else (pagesOf a n).find? (fun p => pageValid (s.page p))

/-! NOP and HELLO (R391, Table 13.14). -/

def nopBody (s : State) (op : Nat) (c : Cmd) : State := s.okCmd op c []

/-- What HELLO reports of the chip. -/
def State.helloResult (s : State) (p : Nat) : List Byte :=
  let k := rg fnChip 0x008
  let v (hi lo : Nat) : List Byte := leBytes (s.fld k hi lo) 1
  v 31 24 ++ v 23 16 ++ v 55 48 ++ v 47 40 ++ v 39 32 ++ v 15 12 ++ v 11 8 ++ v 7 4 ++ v 3 0 ++ leBytes (jobByte (s.jobOfPair p)) 1 ++
    List.replicate 6 0 ++ leBytes s.boot.fuses.uid.toNat 8 ++ leBytes s.braid.serial.toNat 8

def State.setHello (s : State) (p : Nat) (ok differs : Bool) : State :=
  { s with rings := { s.rings with hello := sset p ok s.rings.hello, majorDiff := sset p differs s.rings.majorDiff } }

/-- RMAJOR 1 is accepted, with minor 0; a differing firmware major is logged either way. -/
def helloBody (s : State) (op : Nat) (c : Cmd) : State :=
  let fw := s.fld (rg fnChip 0x008) 55 48
  let differs := c.arg 2 1 != fw
  let s := if differs then s.note 0x66 2 fnSch (s.jobOfPair c.pair) { unit := c.pair, d0 := c.arg 2 1 + 256 * fw } else s
  if c.arg 0 1 ≠ 1 then (s.setHello c.pair false false).complete c.pair op 0x03 c.seq c.id (s.helloResult c.pair)
  else (s.setHello c.pair true differs).okCmd op c (s.helloResult c.pair)

/-! LOADPROG (R153, R268, R389). -/

/-- The lowest page of [a, a + n) that job j does not own; a range outside HBM has none. -/
def State.ownPageBad (s : State) (j a n : Nat) : Option Nat :=
  if 0x10000000000 < a + n then some (pageOf a)
  else (pagesOf a n).find? (fun p => !(pageValid (s.page p) && !pageRetired (s.page p) && pageJob (s.page p) == j))

/-- The image passes its load checks and waits for the load phase of the splice; the completion follows at bind. A pass over the
rings of an unspliced job ends with it: what stands behind it waits for the binding splice's sample (R388). -/
def loadprogBody (s : State) (op : Nat) (c : Cmd) : State :=
  let s := s.abortTrigger
  let j := (s.jobOfPair c.pair).getD 0
  let s := if s.unspliced j then { s with rings := { s.rings with budget := tput z0 s.rings.budget c.pair 0 } } else s
  let a := c.arg 0 8
  let n := c.arg 8 8
  match s.ownPageBad j a n with
  | some p => s.noCmd op c 0x0C p
  | none =>
    let (s, bs) := s.readHbm a n
    let b := bs.map (·.1)
    match (List.range n).find? (fun i => (bs.getD i (0, false)).2) with
    | some i => s.noCmd op c 0x06 i
    | none =>
      match progBad b with
      | some o => s.noCmd op c 0x06 o
      | none =>
        let s := s.setJob j { s.job j with pending := some ⟨a, b, sha384 b⟩ }
        { s with cmds := { s.cmds with loads := tput noLoad s.cmds.loads j (c.pair, c.seq, c.id) } }.await c.pair op c.seq c.id

/-! STRAND (R383 to R385). -/

def keep (n : Nat) : Bool := n == 0xFF

/-- CHECK of strand i is staged for job j, or applies at once if the job has no bound program or no splice of it can come
(R385, R529). -/
def State.stageCheck (s : State) (i j : Nat) : State :=
  if (s.job j).prog.isNone || s.unspliced j then s.applyStaged j i else s.setJob j { s.job j with staged := (s.job j).staged ++ [i] }

def strandBody (s : State) (op : Nat) (c : Cmd) : State :=
  let i := c.arg 0 1
  let mask := c.arg 2 2
  if 32 ≤ i ∨ s.strandRec i = [] then s.noCmd op c 0x04 0x10
  else
    let b := s.strandRec i
    let chip := !(keep (fieldLE b 2 1) && keep (fieldLE b 3 1))
    let s := if chip then s.abortTrigger else s
    if c.pair = 0 ∧ (List.range 16).any (fun j => mask.testBit j && !s.jobDefined j) then s.noCmd op c 0x04 0x12
    else if c.pair ≠ 0 ∧ mask ≠ 0 then s.noCmd op c 0x04 (if mask % 256 = 0 then 0x13 else 0x12)
    else if c.pair ≠ 0 ∧ chip then s.noCmd op c 0x09 0
    else if chip ∧ (s.cmds.chip.isSome ∨ s.cmds.braid.isSome) then s.noCmd op c 0x0A 0
    else if chip ∧ !s.pwrUp then s.noCmd op c 0x0B 0
    else
      let js := if c.pair = 0 then (List.range 16).filter mask.testBit else (s.jobOfPair c.pair).toList
      let js := if keep (fieldLE b 1 1) then [] else js
      let x : PendStrand := ⟨c.pair, c.seq, c.id, i, js, chip⟩
      let s := { s with cmds := { s.cmds with strands := s.cmds.strands ++ [x], chip := if chip then some i else s.cmds.chip } }
      let s := (s.await c.pair op c.seq c.id).settleStrand x
      let s := js.foldl (fun s j => s.stageCheck i j) s
      if chip && s.noProgram then s.applyChip i else s

/-! SERVICE (R366 to R369). -/

/-- A SERVICE is refused, and counts. -/
def State.noSvcCmd (s : State) (op : Nat) (c : Cmd) (status detail : Nat) : State :=
  (s.bump (rg fnSch 0x040) 15 0 1).noCmd op c status detail

/-- A page that the service may not touch. -/
def State.noSvcPage (s : State) (op : Nat) (c : Cmd) (j p : Nat) : State := (s.pageFault 2 j p).noSvcCmd op c 0x0C p

/-- The service that a descriptor asks for. -/
def svcOfDesc (c : Cmd) (d : List Byte) (regions : List (Nat × Nat × Nat)) : Svc :=
  { type := fieldLE d 0 1, job := fieldLE d 1 1, qp := fieldLE d 2 2, step := fieldLE d 8 8, regions
    raddr := BitVec.ofNat 64 (fieldLE d 0x18 8), rkey := BitVec.ofNat 32 (fieldLE d 0x20 4), imm := BitVec.ofNat 32 (fieldLE d 0x24 4)
    moff := BitVec.ofNat 64 (fieldLE d 0x28 8), snap := fieldLE d 0x30 8, desc := BitVec.ofNat 64 (fieldLE d 0x38 8)
    pair := c.pair, seq := c.seq, id := c.id, phase := 1, copied := 0, moved := 0, zeros := 0, manifest := [], began := 0, out := [], orphan := false }

/-- An accepted service; a new fetch takes the place of a failed one for the same step (R367). -/
def State.startSvc (s : State) (op : Nat) (c : Cmd) (x : Svc) : State :=
  let failed := (s.svcOf x.job).filter (fun e => e.2.phase == 4 && e.2.step == x.step && x.type == 1)
  let s := failed.foldl (fun s e => s.setSvc e.1 none) s
  (s.setSvc s.nextSvc (some x)).await c.pair op c.seq c.id

def serviceBody (s : State) (op : Nat) (c : Cmd) : State :=
  let j := (s.jobOfPair c.pair).getD 0
  let a := c.arg 0 8
  match s.svcRangeBad j a 64 with
  | some p => s.noSvcPage op c j p
  | none =>
    let (s, bs) := s.readHbm a 64
    let d := bs.map (·.1)
    let n := fieldLE d 4 4
    if bs.any (·.2) ∨ !descOk s j d then s.noSvcCmd op c 0x04 0x10
    else match s.svcRangeBad j (fieldLE d 0x10 8) (32 * n) with
      | some p => s.noSvcPage op c j p
      | none =>
        let (s, rs) := s.readHbm (fieldLE d 0x10 8) (32 * n)
        let l := rs.map (·.1)
        let x := svcOfDesc c d (regionsOf l n)
        if rs.any (·.2) ∨ !regionsOk l n ∨ (x.type = 3 ∧ x.snap % 64 ≠ 0) then s.noSvcCmd op c 0x04 0x10
        else
          let spans : List (Nat × Nat × Nat) := x.regions ++ (if x.type = 3 then [(x.snap, x.total, 0)] else [])
          match spans.findSome? (fun (a, n, _) => s.svcRangeBad j a n) with
          | some p => s.noSvcPage op c j p
          | none =>
            if (x.type = 1 ∧ s.stepBegun j x.step) ∨ (x.type = 2 ∧ s.updateBegun j x.step) then s.noSvcCmd op c 0x0D (s.job j).step
            else s.startSvc op c x

/-! PEERUPD (R338, R340). -/

/-- Ranks of the ACTIVE entries once the update's entries replace theirs. -/
def State.ranksAfter (s : State) (es : List (Nat × List Byte)) : List (Nat × Nat) :=
  ((s.activePeers.filter (fun i => es.all (fun e => e.1 != i))).map (fun i => (s.peerField i 0 4, s.peerField i 8 2))) ++
    ((es.filter (fun e => fieldLE e.2 0x0A 1 == 1)).map (fun e => (fieldLE e.2 0 4, fieldLE e.2 8 2)))

/-- Entries of a list of n, and whether each is as Table 11.6 has it. -/
def peerEntries (l : List Byte) (n : Nat) : List (Nat × List Byte) :=
  (List.range n).map (fun i => (fieldLE l (72 * i) 4, (l.drop (72 * i + 8)).take 64))
def peerListOk (l : List Byte) (n : Nat) : Bool :=
  (List.range n).all (fun i => fieldLE l (72 * i) 4 < 65536 && fieldLE l (72 * i + 4) 4 == 0 && (peerChecks (fieldLE l) (72 * i + 8)).all (·.2))

def peerupdBody (s : State) (op : Nat) (c : Cmd) : State :=
  let j := c.arg 4 1
  let step := c.arg 8 8
  let a := c.arg 16 8
  let n := c.arg 24 4
  if c.arg 0 4 ≠ s.gen + 1 then s.noCmd op c 0x04 0x10
  else if !s.jobDefined j then s.noCmd op c 0x04 0x14
  else match s.jobPage a (72 * n) with
  | some p => s.noCmd op c 0x0C p
  | none =>
    if hbmEnd < a + 72 * n ∨ !s.inChipRegion a (72 * n) then s.noCmd op c 0x04 0x20
    else
      let (s, bs) := s.readHbm a (72 * n)
      let l := bs.map (·.1)
      let es := peerEntries l n
      if bs.any (·.2) ∨ !peerListOk l n ∨ !ranksApart (s.ranksAfter es) then s.noCmd op c 0x04 0x20
      else if s.cmds.peer.isSome then s.noCmd op c 0x0A 0
      else if s.stepBegun j step then s.noCmd op c 0x0D (s.job j).step
      else
        let g := c.arg 0 4
        let s := { s with cmds := { s.cmds with peer := some ⟨c.seq, c.id, BitVec.ofNat 32 g, j, step, es⟩ } }.setFlag (rg fnSch 0x038) 0 true
        (s.spread (ctlMsg 0x21 g step) none).await c.pair op c.seq c.id

/-! LOADBRAID (R382). -/

def loadbraidBody (s : State) (op : Nat) (c : Cmd) : State :=
  let a := c.arg 0 8
  let n := c.arg 8 8
  match s.jobPage a n with
  | some p => s.noCmd op c 0x0C p
  | none =>
    if hbmEnd < a + n ∨ !s.inChipRegion a n then s.noCmd op c 0x04 0x10
    else if s.cmds.braid.isSome then s.noCmd op c 0x0A 0
    else
      let (s, bs) := s.readHbm a n
      match (List.range n).find? (fun i => (bs.getD i (0, false)).2) with
      | some i => (s.refuseImage 2 0x02 (detailOf 0xFFFFFFFF i)).noCmd op c 0x08 (detailOf 0xFFFFFFFF i)
      | none => ((s.setBraidPending true).await c.pair op c.seq c.id).takeBraid ⟨c.seq, c.id, bs.map (·.1), false, true⟩

/-- The entry of a LOADBRAID that waits stays unprocessed; its image waits for SEC, and CHIP.BRAID.PENDING reads 1 (R404). -/
def State.holdBraid (s : State) (p : Nat) : State :=
  if !s.ringOpen p ∨ !s.braidHeld p ∨ s.headless p ∨ s.cmds.braid.isSome then s
  else
    let e := s.cmdBase p + 64 * ((s.cc p).toNat % max 1 (s.cmdSize p))
    let a := s.mem.le (e + 16) 8
    let n := s.mem.le (e + 24) 8
    if hbmEnd < a + n ∨ !s.inChipRegion a n then s
    else
      let im : ImageKind × List Byte := (.braid, s.mem.bytes a n)
      let s := s.setBraidPending true
      if s.boot.images.contains im then s else { s with boot := { s.boot with images := s.boot.images ++ [im] } }

/-! The rows. -/

def execCmdNop (pair : PairId) (s : State) : Out := s.ringRowStep pair 0x00 nopBody
def execHello (pair : PairId) (s : State) : Out := s.ringRowStep pair 0x01 helloBody
def execLoadprog (pair : PairId) (s : State) : Out := s.ringRowStep pair 0x02 loadprogBody
def execStrand (pair : PairId) (s : State) : Out := s.ringRowStep pair 0x03 strandBody
def execService (pair : PairId) (s : State) : Out := s.ringRowStep pair 0x04 serviceBody
def execPeerupd (pair : PairId) (s : State) : Out := s.ringRowStep pair 0x05 peerupdBody
def execLoadbraid (pair : PairId) (s : State) : Out := (s.holdBraid pair).ringRowStep pair 0x06 loadbraidBody

/-- The command of OP. -/
def cmdBody (s : State) (op : Nat) (c : Cmd) : State :=
  match op with
  | 0x00 => nopBody s op c | 0x01 => helloBody s op c | 0x02 => loadprogBody s op c | 0x03 => strandBody s op c
  | 0x04 => serviceBody s op c | 0x05 => peerupdBody s op c | _ => loadbraidBody s op c

/-- Up to n entries of pair p are processed; the pass ends after a LOADPROG, and before an entry of a controller whose
firmware major differs: that entry's behaviour is undefined (R391), and its row says so. -/
def State.passPair (p : Nat) : Nat → State → State
  | 0, s => s
  | n + 1, s =>
    if !s.ringReady p || s.foreign p then s.holdBraid p
    else
      let last := s.headOp p == 0x02
      let s := s.process p cmdBody
      if last then s else State.passPair p n s

/-- The pass over one pair, which samples its CP. -/
def State.samplePass (s : State) (p : Nat) : State :=
  let n := (s.cp p - s.cc p).toNat
  State.passPair p n (s.samplePair n p)

/-- UNSPLICED_RING_PASS: the waiting entries of the pairs of a job whose splices cannot come, and of pair 0 while every job
is so. -/
def execUnsplicedRingPass (j : JobId) (s : State) : Out :=
  if !s.schReady ∨ !s.unspliced j then .next s
  else .next (((if s.chipUnspliced then [0] else []) ++ s.pairsOf j).foldl (fun s p => s.samplePass p) s)

end Sys2Proof.Machine
end

