-- ==== Sys2Proof/Machine/Vector.lean ====
section
/-! DEFINITION. The V slot (R176, R188 to R197): loads and stores of vector rows, lane arithmetic, special functions,
conversion, reductions, the histogram and the keys. -/

namespace Sys2Proof.Machine

/-- FMT of a VR instruction. -/
def vFmt (w : W64) : Tag := (Tag.ofCode (sf w 31 28)).getD .fp32
def vFn (w : W64) : Nat := sf w 40 37

/-- vin (R189): the element in a lane's low bits. -/
def vin (v : VCore) (t : Tag) (x : W32) : Fl Num := readIn (x.toNat % 2 ^ t.width) t v.ftz

/-- vround (R189) of lane i: tensor id and logical index from g[GS]. -/
def vround (v : VCore) (w : W64) (x : Num) (i : Nat) : Fl Nat :=
  let g := (v.getG (sf w 45 41)).toNat
  roundTag x (vFmt w) (rndCtx v (sf w 34 32) (sf w 35 35 = 1) (sf w 36 36 = 1) (bits g 59 40) ((bits g 39 0 + i) % 2 ^ 40))

/-- A result lane with its flags: poisoned lanes hold 0 (R176). -/
def poisonLane : Fl Lane := ⟨⟨0, true⟩, flPOISON⟩
def cleanLane (x : Nat) (f : Flags) : Fl Lane := ⟨⟨BitVec.ofNat 32 x, false⟩, f⟩

/-- A lane of an operation on operand lanes: poisoned if one of them is, or if it rounds with a poisoned key. -/
def laneOf (ls : List Lane) (bad : Bool) (go : Unit → Fl Nat) : Fl Lane :=
  if ls.any (·.poison) || bad then poisonLane
  else
    let r := go ()
    cleanLane r.val r.flags

/-- Lanes of a VR result, by lane number. -/
def lanes128 (f : Nat → Fl Lane) : List (Fl Lane) := (List.range 128).map f

/-- A V instruction's result joins those in flight: VD and its flags at its latency. -/
def State.vResult (s : State) (p : Nat) (b : Bundle) (w : W64) (ls : List (Fl Lane)) : State :=
  let f := ls.foldl (fun f r => f ||| r.flags) 0
  s.launch p b 2 w (needV b.snap 0 w) (.vreg (sf w 12 8) (ls.map (·.val)) :: flagEff f)

/-- Lane i of the operand that a field names. -/
def opA (v : VCore) (w : W64) (i : Nat) : Lane := v.lane (sf w 17 13) i
def opB (v : VCore) (w : W64) (i : Nat) : Lane := v.lane (sf w 22 18) i
def opC (v : VCore) (w : W64) (i : Nat) : Lane := v.lane (sf w 27 23) i

def negIf (b : Bool) (x : Num) : Num := if b then x.neg else x

/-- Does the instruction's rounding use a poisoned key (R197)? -/
def vBad (v : VCore) (w : W64) : Bool := badKey v (sf w 34 32)

/-- RND = 2 (R98). -/
def vRdn (w : W64) : Bool := sf w 34 32 = 2

/-- Two operands read under FMT, combined, rounded once (R190). -/
def arith2 (v : VCore) (w : W64) (i : Nat) (f : Num → Num → Fl Num) : Fl Lane :=
  laneOf [opA v w i, opB v w i] (vBad v w) (fun _ =>
    let a := vin v (vFmt w) (opA v w i).val
    let b := vin v (vFmt w) (opB v w i).val
    let r := f a.val b.val
    let q := vround v w r.val i
    ⟨q.val, a.flags ||| b.flags ||| r.flags ||| q.flags⟩)

/-- Bit i of FN. -/
def fnBit (w : W64) (i : Nat) : Bool := (vFn w).testBit i

/-- VADD (R190): FN bit 0 negates b, bit 1 negates a. -/
def execVadd (p : CoreId) (s : State) : Out :=
  .next (s.slotStep p 2 (· == 0x10) (fun s b w => s.vResult p b w (lanes128 (fun i =>
    arith2 b.snap w i (fun x y => fadd (negIf (fnBit w 1) x) (negIf (fnBit w 0) y) (vRdn w))))))

/-- VMUL (R190): FN bit 0 negates the product. -/
def execVmul (p : CoreId) (s : State) : Out :=
  .next (s.slotStep p 2 (· == 0x11) (fun s b w => s.vResult p b w (lanes128 (fun i =>
    arith2 b.snap w i (fun x y =>
      let r := fmul x y false
      ⟨negIf (fnBit w 0) r.val, r.flags⟩)))))

/-- VFMA (R190): FN bit 0 negates the product, bit 1 negates c; one rounding. -/
def execVfma (p : CoreId) (s : State) : Out :=
  .next (s.slotStep p 2 (· == 0x12) (fun s b w => s.vResult p b w (lanes128 (fun i =>
    let v := b.snap
    laneOf [opA v w i, opB v w i, opC v w i] (vBad v w) (fun _ =>
      let x := vin v (vFmt w) (opA v w i).val
      let y := vin v (vFmt w) (opB v w i).val
      let z := vin v (vFmt w) (opC v w i).val
      let r := fmul x.val y.val true
      let q := fadd (negIf (fnBit w 0) r.val) (negIf (fnBit w 1) z.val) (vRdn w)
      let o := vround v w q.val i
      ⟨o.val, x.flags ||| y.flags ||| z.flags ||| r.flags ||| q.flags ||| o.flags⟩)))))

/-- The larger or the smaller of two values, a NaN if one is (R192, R99). -/
def pickMax (x y : Num) : Num := if x.isNan || y.isNan then .nan else if numLt x y then y else x
def pickMin (x y : Num) : Num := if x.isNan || y.isNan then .nan else if numLt y x then y else x
def absNum : Num → Num
  | .zero _ => .zero false
  | .fin _ m e => .fin false m e
  | .inf _ => .inf false
  | .nan => .nan
def pickAmax (x y : Num) : Num := pickMax (absNum x) (absNum y)

def execVmax (p : CoreId) (s : State) : Out :=
  .next (s.slotStep p 2 (· == 0x13) (fun s b w => s.vResult p b w (lanes128 (fun i =>
    arith2 b.snap w i (fun x y => ⟨pickMax x y, 0⟩)))))

def execVmin (p : CoreId) (s : State) : Out :=
  .next (s.slotStep p 2 (· == 0x14) (fun s b w => s.vResult p b w (lanes128 (fun i =>
    arith2 b.snap w i (fun x y => ⟨pickMin x y, 0⟩)))))

def execVamax (p : CoreId) (s : State) : Out :=
  .next (s.slotStep p 2 (· == 0x17) (fun s b w => s.vResult p b w (lanes128 (fun i =>
    arith2 b.snap w i (fun x y => ⟨pickAmax x y, 0⟩)))))

/-- The predicates of Table 6.6. -/
def predicate (n : Nat) (x y : Num) : Bool :=
  let un := x.isNan || y.isNan
  let eq := numEq x y
  let lt := !un && !eq && numLt x y
  match n with
  | 0 => eq | 1 => !eq | 2 => lt | 3 => lt || eq | 4 => !un && !eq && !lt | 5 => !un && !lt | 6 => un | _ => !un

/-- VCMP (R192, R99): a quiet NaN raises nothing. -/
def execVcmp (p : CoreId) (s : State) : Out :=
  .next (s.slotStep p 2 (· == 0x15) (fun s b w => s.vResult p b w (lanes128 (fun i =>
    let v := b.snap
    let t := vFmt w
    let rd (x : W32) : Fl Num :=
      let r := vin v t x
      if r.val.isNan && !isSignalling (x.toNat % 2 ^ t.width) t then ⟨r.val, 0⟩ else r
    laneOf [opA v w i, opB v w i] false (fun _ =>
      let x := rd (opA v w i).val
      let y := rd (opB v w i).val
      ⟨if predicate (vFn w) x.val y.val then 1 else 0, x.flags ||| y.flags⟩)))))

/-- VSEL (R190, R176): one clk; the lane not selected does not contribute. -/
def execVsel (p : CoreId) (s : State) : Out :=
  .next (s.slotStep p 2 (· == 0x16) (fun s b w =>
    let v := b.snap
    let ls := lanes128 (fun i =>
      let c := opC v w i
      let x := if c.val.toNat % 2 = 1 then opA v w i else opB v w i
      if c.poison || x.poison then poisonLane else ⟨x, 0⟩)
    let s := s.setV p ((s.core p).v.setLanes (sf w 12 8) (ls.map (·.val)))
    (s.raise p b.pc.toNat (ls.foldl (fun f r => f ||| r.flags) 0)).signalTok p b 2 w))

/-- A special function on every lane (R193). -/
def State.vSpecial (s : State) (p : Nat) (b : Bundle) (w : W64) (f : Sp) : State :=
  s.vResult p b w (lanes128 (fun i =>
    let v := b.snap
    laneOf [opA v w i] (vBad v w) (fun _ =>
      let x := vin v (vFmt w) (opA v w i).val
      let g := (v.getG (sf w 45 41)).toNat
      let r := special f x.val (vFmt w)
        (rndCtx v (sf w 34 32) (sf w 35 35 = 1) (sf w 36 36 = 1) (bits g 59 40) ((bits g 39 0 + i) % 2 ^ 40))
      ⟨r.val, x.flags ||| r.flags⟩)))

def execVexp (p : CoreId) (s : State) : Out :=
  .next (s.slotStep p 2 (· == 0x20) (fun s b w => s.vSpecial p b w .exp))
def execVlog (p : CoreId) (s : State) : Out :=
  .next (s.slotStep p 2 (· == 0x21) (fun s b w => s.vSpecial p b w .log))
def execVrcp (p : CoreId) (s : State) : Out :=
  .next (s.slotStep p 2 (· == 0x22) (fun s b w => s.vSpecial p b w .rcp))
def execVrsq (p : CoreId) (s : State) : Out :=
  .next (s.slotStep p 2 (· == 0x23) (fun s b w => s.vSpecial p b w .rsq))
def execVtanh (p : CoreId) (s : State) : Out :=
  .next (s.slotStep p 2 (· == 0x24) (fun s b w => s.vSpecial p b w .tanh))

/-- VCVT (R194): read under the tag in FN, rounded under FMT. -/
def execVcvt (p : CoreId) (s : State) : Out :=
  .next (s.slotStep p 2 (· == 0x30) (fun s b w => s.vResult p b w (lanes128 (fun i =>
    let v := b.snap
    laneOf [opA v w i] (vBad v w) (fun _ =>
      let t := (Tag.ofCode (vFn w)).getD .fp32
      let x := if t = .e8m0 ∧ (opA v w i).val.toNat % 256 = 255 then ⟨.nan, flNAN⟩ else vin v t (opA v w i).val
      let r := vround v w x.val i
      ⟨r.val, x.flags ||| r.flags⟩)))))

/-- The reduction of some values by FN (R196): SUM, MAX, MIN, AMAX. -/
def reduceNums (fn : Nat) (rdn : Bool) (xs : List Num) : Fl Num :=
  match fn with
  | 1 => ⟨(xs.tail.foldl pickMax (xs.headD .nan)), 0⟩
  | 2 => ⟨(xs.tail.foldl pickMin (xs.headD .nan)), 0⟩
  | 3 => ⟨(xs.tail.foldl pickAmax (absNum (xs.headD .nan))), 0⟩
  | _ => fsum xs rdn

/-- VRED (R196): one rounding, the one code in every lane. -/
def execVred (p : CoreId) (s : State) : Out :=
  .next (s.slotStep p 2 (· == 0x31) (fun s b w =>
    let v := b.snap
    let as := (List.range 128).map (opA v w)
    let bs := if vFn w = 4 then (List.range 128).map (opB v w) else []
    let r := laneOf (as ++ bs) (vBad v w) (fun _ =>
      let xs := as.map (fun l => vin v (vFmt w) l.val)
      let ys := bs.map (fun l => vin v (vFmt w) l.val)
      let ps := if vFn w = 4 then (xs.zip ys).map (fun (x, y) =>
          let m := fmul x.val y.val true
          (⟨m.val, x.flags ||| y.flags ||| m.flags⟩ : Fl Num))
        else xs
      let f := ps.foldl (fun f r => f ||| r.flags) 0
      let q := reduceNums (vFn w) (vRdn w) (ps.map (·.val))
      let o := vround v w q.val 0
      ⟨o.val, f ||| q.flags ||| o.flags⟩)
    s.vResult p b w (lanes128 (fun _ => r))))

/-- VSCAN (R196): lane i reduces lanes 0 to i and rounds on its own. -/
def execVscan (p : CoreId) (s : State) : Out :=
  .next (s.slotStep p 2 (· == 0x32) (fun s b w =>
    let v := b.snap
    s.vResult p b w (lanes128 (fun i =>
      let as := (List.range (i + 1)).map (opA v w)
      laneOf as (vBad v w) (fun _ =>
        let xs := as.map (fun l => vin v (vFmt w) l.val)
        let f := xs.foldl (fun f r => f ||| r.flags) 0
        let q := reduceNums (vFn w) (vRdn w) (xs.map (·.val))
        let o := vround v w q.val i
        ⟨o.val, f ||| q.flags ||| o.flags⟩)))))

/-- VHIST (R197, R105), with the elements written before its clk: counters 0 to 63 into lanes 0 to 63, zero above; CLR clears them. -/
def execVhist (p : CoreId) (s : State) : Out :=
  .next (s.slotStep p 2 (· == 0x33) (fun s b w =>
    let s := s.countDue p (s.core p).now
    let v := (s.core p).v
    let ls := (List.range 128).map (fun i => (⟨if i < 64 then tget z32 v.hist i else 0, false⟩ : Lane))
    let s := if sf w 16 16 = 1 then s.setV p { v with hist := [] } else s
    s.launch p b 2 w (needV b.snap 0 w) [.vreg (sf w 12 8) ls]))

/-- VKEY (R197): the key from lanes 1 and 0; a poisoned lane marks it. -/
def execVkey (p : CoreId) (s : State) : Out :=
  .next (s.slotStep p 2 (· == 0x34) (fun s b w =>
    let l0 := opA b.snap w 0
    let l1 := opA b.snap w 1
    let bad := l0.poison || l1.poison
    let v := (s.core p).v
    let s := s.setV p { v with sk := tput key0 v.sk (sf w 9 8) ⟨l1.val ++ l0.val, bad⟩ }
    (s.raise p b.pc.toNat (if bad then flPOISON else 0)).signalTok p b 2 w))

/-! VLD and VST (R191). -/

/-- A row's elements from ROW x 128 as lanes. -/
def loadLane (m : View) (v : VCore) (t : Td) (w : W64) (e : Nat) : Fl Lane :=
  if t.count ≤ e then ⟨⟨0, false⟩, 0⟩
  else
    let x := m.elem t e
    if x.poison then poisonLane
    else if t.tg.isInt ∧ t.bs = 0 then
      cleanLane (if t.tg = .uint8 then x.code else (BitVec.ofInt 32 (sext x.code t.tg.width)).toNat) 0
    else
      let r := elemVal t.tg (t.bs != 0) v.ftz x
      if badKey v (sf w 32 30) then poisonLane
      else
        let q := roundFp r.val .fp32 (rndCtx v (sf w 32 30) (sf w 33 33 = 1) (sf w 34 34 = 1) t.tid (t.lidx e))
        cleanLane q.val (r.flags ||| q.flags)

def execVld (p : CoreId) (s : State) : Out :=
  .next (s.slotStep p 2 (· == 0x01) (fun s b w =>
    let t := vmTd b.snap w
    let ls := lanes128 (fun i => loadLane (s.scratch p) b.snap t w (128 * sf w 29 23 + i))
    s.vResult p b w ls))

def execVst (p : CoreId) (s : State) : Out :=
  .next (s.slotStep p 2 (· == 0x02) (fun s b w =>
    let v := b.snap
    let t := vmTd v w
    let e0 := 128 * sf w 29 23
    let n := min 128 (t.count - e0)
    let src : Tag := if t.tg.isInt ∧ t.bs = 0 then .int32 else .fp32
    let ins : List (Fl Val) := (List.range n).map (fun i =>
      let l := v.lane (sf w 12 8) i
      if l.poison then ⟨none, flPOISON⟩
      else
        let r := vin v src l.val
        ⟨some r.val, r.flags⟩)
    let f := ins.foldl (fun f r => f ||| r.flags) 0
    let r := storeVals v (sf w 32 30) (sf w 33 33 = 1) (sf w 34 34 = 1) t e0 (ins.map (·.val))
    let f := f ||| r.flags ||| (if badKey v (sf w 32 30) && n != 0 then flPOISON else 0)
    s.launch p b 2 w (needV v (s.ledgerCount (s.jobN p)) w) (s.writeEffs (s.jobN p) t (fun _ => 3) r.val ++ collapseEff r.val ++ flagEff f)))

end Sys2Proof.Machine
end

