-- ==== Sys2Proof/Machine/Dispatch.lean ====
section
/-! DEFINITION. exec: the meaning of each command, on everything but the queue. -/

namespace Sys2Proof.Machine

def exec (i : Instr) (s : State) : Host.Outcome State Fault Refusal :=
  match i with
  | .bundleFetch p => Sys2Proof.Machine.execBundleFetch p s
  | .nop p slot => Sys2Proof.Machine.execNop p slot s
  | .ldi p => Sys2Proof.Machine.execLdi p s
  | .scal p => Sys2Proof.Machine.execScal p s
  | .loop p => Sys2Proof.Machine.execLoop p s
  | .endl p => Sys2Proof.Machine.execEndl p s
  | .br p => Sys2Proof.Machine.execBr p s
  | .brz p => Sys2Proof.Machine.execBrz p s
  | .call p => Sys2Proof.Machine.execCall p s
  | .ret p => Sys2Proof.Machine.execRet p s
  | .tsig p => Sys2Proof.Machine.execTsig p s
  | .twait p => Sys2Proof.Machine.execTwait p s
  | .qwait p => Sys2Proof.Machine.execQwait p s
  | .splice p => Sys2Proof.Machine.execSplice p s
  | .flags p => Sys2Proof.Machine.execFlags p s
  | .halt p => Sys2Proof.Machine.execHalt p s
  | .time p => Sys2Proof.Machine.execTime p s
  | .entropy p => Sys2Proof.Machine.execEntropy p s
  | .ldw p => Sys2Proof.Machine.execLdw p s
  | .ldwT p => Sys2Proof.Machine.execLdwT p s
  | .swapw p => Sys2Proof.Machine.execSwapw p s
  | .mma p => Sys2Proof.Machine.execMma p s
  | .accld p => Sys2Proof.Machine.execAccld p s
  | .accst p => Sys2Proof.Machine.execAccst p s
  | .accclr p => Sys2Proof.Machine.execAccclr p s
  | .accsw p => Sys2Proof.Machine.execAccsw p s
  | .vld p => Sys2Proof.Machine.execVld p s
  | .vst p => Sys2Proof.Machine.execVst p s
  | .vadd p => Sys2Proof.Machine.execVadd p s
  | .vmul p => Sys2Proof.Machine.execVmul p s
  | .vfma p => Sys2Proof.Machine.execVfma p s
  | .vmax p => Sys2Proof.Machine.execVmax p s
  | .vmin p => Sys2Proof.Machine.execVmin p s
  | .vcmp p => Sys2Proof.Machine.execVcmp p s
  | .vsel p => Sys2Proof.Machine.execVsel p s
  | .vamax p => Sys2Proof.Machine.execVamax p s
  | .vexp p => Sys2Proof.Machine.execVexp p s
  | .vlog p => Sys2Proof.Machine.execVlog p s
  | .vrcp p => Sys2Proof.Machine.execVrcp p s
  | .vrsq p => Sys2Proof.Machine.execVrsq p s
  | .vtanh p => Sys2Proof.Machine.execVtanh p s
  | .vcvt p => Sys2Proof.Machine.execVcvt p s
  | .vred p => Sys2Proof.Machine.execVred p s
  | .vscan p => Sys2Proof.Machine.execVscan p s
  | .vhist p => Sys2Proof.Machine.execVhist p s
  | .vkey p => Sys2Proof.Machine.execVkey p s
  | .tmov p => Sys2Proof.Machine.execTmov p s
  | .txp p => Sys2Proof.Machine.execTxp p s
  | .tperm p => Sys2Proof.Machine.execTperm p s
  | .stagingGrant c => Sys2Proof.Machine.execStagingGrant c s
  | .spush p => Sys2Proof.Machine.execSpush p s
  | .spop p => Sys2Proof.Machine.execSpop p s
  | .mbx p => Sys2Proof.Machine.execMbx p s
  | .digest p => Sys2Proof.Machine.execDigest p s
  | .netq p => Sys2Proof.Machine.execNetq p s
  | .netpeek p => Sys2Proof.Machine.execNetpeek p s
  | .saddOrd p => Sys2Proof.Machine.execSaddOrd p s
  | .saddAny p => Sys2Proof.Machine.execSaddAny p s
  | .saddIndexFault p => Sys2Proof.Machine.execSaddIndexFault p s
  | .instructionComplete p => Sys2Proof.Machine.execInstructionComplete p s
  | .waitTimeout p => Sys2Proof.Machine.execWaitTimeout p s
  | .foldMessage c => Sys2Proof.Machine.execFoldMessage c s
  | .ledgerClearDone => Sys2Proof.Machine.execLedgerClearDone s
  | .spliceBegin j => Sys2Proof.Machine.execSpliceBegin j s
  | .quiesceDone j => Sys2Proof.Machine.execQuiesceDone j s
  | .gatesOpen j => Sys2Proof.Machine.execGatesOpen j s
  | .chipModeApply => Sys2Proof.Machine.execChipModeApply s
  | .modeChangeDone j bad => Sys2Proof.Machine.execModeChangeDone j bad s
  | .reservedSlotDone j => Sys2Proof.Machine.execReservedSlotDone j s
  | .swapDone j => Sys2Proof.Machine.execSwapDone j s
  | .loadPhase j => Sys2Proof.Machine.execLoadPhase j s
  | .spanRelease j => Sys2Proof.Machine.execSpanRelease j s
  | .roundBoundary c => Sys2Proof.Machine.execRoundBoundary c s
  | .streamDescriptorStart c thread => Sys2Proof.Machine.execStreamDescriptorStart c thread s
  | .granuleRequest c => Sys2Proof.Machine.execGranuleRequest c s
  | .fifoJoin n pch cls => Sys2Proof.Machine.execFifoJoin n pch cls s
  | .hbmSlotServe n pch pos => Sys2Proof.Machine.execHbmSlotServe n pch pos s
  | .hbmRefresh n pch pos => Sys2Proof.Machine.execHbmRefresh n pch pos s
  | .granuleDelivered c thread => Sys2Proof.Machine.execGranuleDelivered c thread s
  | .outboundEntryRead c thread => Sys2Proof.Machine.execOutboundEntryRead c thread s
  | .spillqWrite q data poison => Sys2Proof.Machine.execSpillqWrite q data poison s
  | .spillqRead q => Sys2Proof.Machine.execSpillqRead q s
  | .plannedEntryRelease c thread => Sys2Proof.Machine.execPlannedEntryRelease c thread s
  | .holdTimeout c => Sys2Proof.Machine.execHoldTimeout c s
  | .tetherFrameTx l => Sys2Proof.Machine.execTetherFrameTx l s
  | .tetherFrameRx l wiring lanes => Sys2Proof.Machine.execTetherFrameRx l wiring lanes s
  | .slotsAvailable l => Sys2Proof.Machine.execSlotsAvailable l s
  | .linkFail l cause => Sys2Proof.Machine.execLinkFail l cause s
  | .lockLostTimeout l => Sys2Proof.Machine.execLockLostTimeout l s
  | .holdoverTimeout => Sys2Proof.Machine.execHoldoverTimeout s
  | .rootTakeover => Sys2Proof.Machine.execRootTakeover s
  | .linkTrainingDone l coord dir index rtt oneway => Sys2Proof.Machine.execLinkTrainingDone l coord dir index rtt oneway s
  | .echo l msg => Sys2Proof.Machine.execEcho l msg s
  | .echoReply l msg => Sys2Proof.Machine.execEchoReply l msg s
  | .gather src msg => Sys2Proof.Machine.execGather src msg s
  | .release src msg => Sys2Proof.Machine.execRelease src msg s
  | .root src msg => Sys2Proof.Machine.execRoot src msg s
  | .pass src msg => Sys2Proof.Machine.execPass src msg s
  | .seal src msg => Sys2Proof.Machine.execSeal src msg s
  | .fail src msg => Sys2Proof.Machine.execFail src msg s
  | .retract src msg => Sys2Proof.Machine.execRetract src msg s
  | .quiesced src msg => Sys2Proof.Machine.execQuiesced src msg s
  | .restart src msg => Sys2Proof.Machine.execRestart src msg s
  | .mdown src msg => Sys2Proof.Machine.execMdown src msg s
  | .mgen src msg => Sys2Proof.Machine.execMgen src msg s
  | .peerSilenceTimeout k => Sys2Proof.Machine.execPeerSilenceTimeout k s
  | .ethFrameRx e sub f => Sys2Proof.Machine.execEthFrameRx e sub f s
  | .pauseFrameRx e tc quanta => Sys2Proof.Machine.execPauseFrameRx e tc quanta s
  | .cnpRx e flow => Sys2Proof.Machine.execCnpRx e flow s
  | .pacingRaise flow => Sys2Proof.Machine.execPacingRaise flow s
  | .icmpEcho e sender => Sys2Proof.Machine.execIcmpEcho e sender s
  | .neighbourResolution e sub msg => Sys2Proof.Machine.execNeighbourResolution e sub msg s
  | .ptpEvent e sub msg => Sys2Proof.Machine.execPtpEvent e sub msg s
  | .lldpTx e sub => Sys2Proof.Machine.execLldpTx e sub s
  | .lldpRx e sub chassis port => Sys2Proof.Machine.execLldpRx e sub chassis port s
  | .rdmaWrite e qp rkey addr data ceMark => Sys2Proof.Machine.execRdmaWrite e qp rkey addr data ceMark s
  | .rdmaWriteImmediate e head rkey addr data imm => Sys2Proof.Machine.execRdmaWriteImmediate e head rkey addr data imm s
  | .rdmaRead e head rkey addr len => Sys2Proof.Machine.execRdmaRead e head rkey addr len s
  | .send e head msg => Sys2Proof.Machine.execSend e head msg s
  | .cmMessage e qp msg => Sys2Proof.Machine.execCmMessage e qp msg s
  | .doorbellWrite rkey offset value => Sys2Proof.Machine.execDoorbellWrite rkey offset value s
  | .hawserTransmit k => Sys2Proof.Machine.execHawserTransmit k s
  | .hawserDataRx e pkt => Sys2Proof.Machine.execHawserDataRx e pkt s
  | .hawserCtrlRx e pkt => Sys2Proof.Machine.execHawserCtrlRx e pkt s
  | .hawserAckRx e pkt => Sys2Proof.Machine.execHawserAckRx e pkt s
  | .hawserHelloRx e bytes ceMark => Sys2Proof.Machine.execHawserHelloRx e bytes ceMark s
  | .hawserAckTimer k => Sys2Proof.Machine.execHawserAckTimer k s
  | .hawserRto k => Sys2Proof.Machine.execHawserRto k s
  | .reBeat r => Sys2Proof.Machine.execReBeat r s
  | .cmdNop pair => Sys2Proof.Machine.execCmdNop pair s
  | .hello pair => Sys2Proof.Machine.execHello pair s
  | .loadprog pair => Sys2Proof.Machine.execLoadprog pair s
  | .strand pair => Sys2Proof.Machine.execStrand pair s
  | .service pair => Sys2Proof.Machine.execService pair s
  | .peerupd pair => Sys2Proof.Machine.execPeerupd pair s
  | .loadbraid pair => Sys2Proof.Machine.execLoadbraid pair s
  | .unsplicedRingPass j => Sys2Proof.Machine.execUnsplicedRingPass j s
  | .braidLoadApply => Sys2Proof.Machine.execBraidLoadApply s
  | .braidFetch file => Sys2Proof.Machine.execBraidFetch file s
  | .imageCheck kind image => Sys2Proof.Machine.execImageCheck kind image s
  | .fetchStart svc => Sys2Proof.Machine.execFetchStart svc s
  | .checkpointStart svc => Sys2Proof.Machine.execCheckpointStart svc s
  | .haloStream svc => Sys2Proof.Machine.execHaloStream svc s
  | .serviceComplete svc => Sys2Proof.Machine.execServiceComplete svc s
  | .netbootAttempt proto answer => Sys2Proof.Machine.execNetbootAttempt proto answer s
  | .netbootTimeout proto => Sys2Proof.Machine.execNetbootTimeout proto s
  | .bundleAccept file keys => Sys2Proof.Machine.execBundleAccept file keys s
  | .watchdogExpiry core => Sys2Proof.Machine.execWatchdogExpiry core s
  | .firmwareCrash core cause => Sys2Proof.Machine.execFirmwareCrash core cause s
  | .firmwareRestart core => Sys2Proof.Machine.execFirmwareRestart core s
  | .reportPost => Sys2Proof.Machine.execReportPost s
  | .nonceWrite value => Sys2Proof.Machine.execNonceWrite value s
  | .shadowReplay c => Sys2Proof.Machine.execShadowReplay c s
  | .shadowCompare c => Sys2Proof.Machine.execShadowCompare c s
  | .stepPassLocal j => Sys2Proof.Machine.execStepPassLocal j s
  | .crossCheck epoch => Sys2Proof.Machine.execCrossCheck epoch s
  | .crossCheckCompare => Sys2Proof.Machine.execCrossCheckCompare s
  | .katRun p failing => Sys2Proof.Machine.execKatRun p failing s
  | .functionReset func => Sys2Proof.Machine.execFunctionReset func s
  | .jobReset j => Sys2Proof.Machine.execJobReset j s
  | .resetReady durationNs => Sys2Proof.Machine.execResetReady durationNs s
  | .rowmapWrite p array value => Sys2Proof.Machine.execRowmapWrite p array value s
  | .hbmInject n value => Sys2Proof.Machine.execHbmInject n value s
  | .entryDataWrite value => Sys2Proof.Machine.execEntryDataWrite value s
  | .tetherInjectFail l => Sys2Proof.Machine.execTetherInjectFail l s
  | .tetherInjectFrame l => Sys2Proof.Machine.execTetherInjectFrame l s
  | .ethInjectCrc e => Sys2Proof.Machine.execEthInjectCrc e s
  | .ethInjectDrop e => Sys2Proof.Machine.execEthInjectDrop e s
  | .ringrstGo pair => Sys2Proof.Machine.execRingrstGo pair s
  | .ringrstLogs => Sys2Proof.Machine.execRingrstLogs s
  | .chkinjectFlip c => Sys2Proof.Machine.execChkinjectFlip c s
  | .logInject value => Sys2Proof.Machine.execLogInject value s
  | .fusecmdGo => Sys2Proof.Machine.execFusecmdGo s
  | .fuseProgramDone ok => Sys2Proof.Machine.execFuseProgramDone ok s
  | .statereqOn => Sys2Proof.Machine.execStatereqOn s
  | .statereqDeep => Sys2Proof.Machine.execStatereqDeep s
  | .statereqStandby => Sys2Proof.Machine.execStatereqStandby s
  | .csrWrite func offset value => Sys2Proof.Machine.execCsrWrite func offset value s
  | .clusterSleep c => Sys2Proof.Machine.execClusterSleep c s
  | .clusterWake c => Sys2Proof.Machine.execClusterWake c s
  | .logDrainIdle => Sys2Proof.Machine.execLogDrainIdle s
  | .supplyWarning rail stack mv => Sys2Proof.Machine.execSupplyWarning rail stack mv s
  | .stretchEnd rail durationNs => Sys2Proof.Machine.execStretchEnd rail durationNs s
  | .warningEscalation rail => Sys2Proof.Machine.execWarningEscalation rail s
  | .escalationTimeout rail => Sys2Proof.Machine.execEscalationTimeout rail s
  | .railResetLevel rail stack mv => Sys2Proof.Machine.execRailResetLevel rail stack mv s
  | .pwrgoodFall g => Sys2Proof.Machine.execPwrgoodFall g s
  | .resetNRelease mgmt10g refsel ssc => Sys2Proof.Machine.execResetNRelease mgmt10g refsel ssc s
  | .resetNAssert => Sys2Proof.Machine.execResetNAssert s
  | .bistTestStart part tj => Sys2Proof.Machine.execBistTestStart part tj s
  | .fullTestDone part fails us => Sys2Proof.Machine.execFullTestDone part fails us s
  | .thermalStep readings => Sys2Proof.Machine.execThermalStep readings s
  | .thermalLimit sensor tj => Sys2Proof.Machine.execThermalLimit sensor tj s
  | .thermtrip sensor tj => Sys2Proof.Machine.execThermtrip sensor tj s
  | .throttleWindow d clkInWindow => Sys2Proof.Machine.execThrottleWindow d clkInWindow s
  | .capLoopTick watts => Sys2Proof.Machine.execCapLoopTick watts s
  | .capRecalibrate watts => Sys2Proof.Machine.execCapRecalibrate watts s
  | .limiterTripCheck d amps => Sys2Proof.Machine.execLimiterTripCheck d amps s
  | .limiterReleaseCheck d amps => Sys2Proof.Machine.execLimiterReleaseCheck d amps s
  | .referenceWindow refclk count => Sys2Proof.Machine.execReferenceWindow refclk count s
  | .ioscRetrim trim err => Sys2Proof.Machine.execIoscRetrim trim err s
  | .pllLockLoss pll => Sys2Proof.Machine.execPllLockLoss pll s
  | .railSequence rail vout mode onoff => Sys2Proof.Machine.execRailSequence rail vout mode onoff s
  | .railGoodTimeout rail => Sys2Proof.Machine.execRailGoodTimeout rail s
  | .pmbusStatusPoll rail answer => Sys2Proof.Machine.execPmbusStatusPoll rail answer s
  | .pmbAlert rail answer => Sys2Proof.Machine.execPmbAlert rail answer s
  | .pmbusTelemetryPoll rail answer => Sys2Proof.Machine.execPmbusTelemetryPoll rail answer s
  | .extest => Sys2Proof.Machine.execExtest s
  | .idcode => Sys2Proof.Machine.execIdcode s
  | .samplePreload pins => Sys2Proof.Machine.execSamplePreload pins s
  | .extestPulse => Sys2Proof.Machine.execExtestPulse s
  | .extestTrain => Sys2Proof.Machine.execExtestTrain s
  | .bypass => Sys2Proof.Machine.execBypass s
  | .tapReset => Sys2Proof.Machine.execTapReset s
  | .pcsLockChange e sub locked => Sys2Proof.Machine.execPcsLockChange e sub locked s
  | .roundSwapDone c => Sys2Proof.Machine.execRoundSwapDone c s
  | .pllLocked pll => Sys2Proof.Machine.execPllLocked pll s
  | .pwrgoodRise g => Sys2Proof.Machine.execPwrgoodRise g s
  | .pwrgoodAonFall => Sys2Proof.Machine.execPwrgoodAonFall s
  | .qpErrorState qp => Sys2Proof.Machine.execQpErrorState qp s

end Sys2Proof.Machine
end

