-- ==== Sys2Proof/Machine/Idle.lean ====
section
/-! DEFINITION. What a step on an empty queue does (log entry 1): one clk passes. Beat time, which counts in ns, moves
on with it from the clk in which the chip locks (R308, R327), and a difference from the parent's is slewed out by 1 ns
per µs (R309). An entry to DEEP or STANDBY takes its next step (R477), and frames that a pause or a pace
has held back leave (R321, R322). -/

namespace Sys2Proof.Machine

/-- Beat time moves on by one clk. -/
def State.tickBeat (s : State) : State :=
  if !s.flag (rg fnClk 0x048) 16 then s
  else if s.net.slew = 0 ∨ s.clk % 1000 ≠ 999 then { s with beat := s.beat + 1 }
  else
    let up := 0 < s.net.slew
    let s := { s with beat := if up then s.beat + 2 else s.beat
                      net := { s.net with slew := if up then s.net.slew - 1 else s.net.slew + 1 } }
    s.bump (rg fnClk 0x068) 63 0 1

/-- A boot that a known-answer test has stopped is logged on MGMT every 64 s (R409). -/
def State.katTick (s : State) : State :=
  if s.boot.katAt = 0 ∨ (s.clk + 1 - s.boot.katAt) % 64000000000 ≠ 0 then s
  else { s with boot := { s.boot with katLogs := s.boot.katLogs + 1 } }

def State.idle (s : State) : State := { s.tickBeat with clk := s.clk + 1 }.entryTick.katTick.flushAll

end Sys2Proof.Machine
end

