-- ==== Sys2Proof/Safety.lean ====
section
/-! DEFINITION. The terms that claims use: a safe step, the state's invariant, and what a slot of a bundle does. -/

namespace Sys2Proof.Machine

/-- The step answers a next state. -/
def Safe (s : State) : Prop := ∃ t, step s = .next t

/-- The memories and the register table are in canonical form, the Contrail buffer holds at most 4,096 entries (R448) and
the event buffer at most 256 (R392). -/
def State.Sound (s : State) : Prop :=
  s.mem.wf = true ∧ s.mbx.wf = true ∧ twf csrReset s.csr = true ∧ s.log.entries.length ≤ 4096 ∧ s.rings.events.length ≤ 256

/-! Slots of a bundle (R155, R158). -/

/-- Slot n of core p's issued bundle b holds an instruction of opcode op that is not done, and the core takes part in
the clk (R163, R475). -/
def State.Issued (s : State) (p n op : Nat) (b : Bundle) : Prop :=
  (s.core p).ib = some b ∧ b.issued = true ∧ opcode (b.slots.getD n 0) = op ∧ b.done.contains n = false ∧ s.ticking p = true

/-- What the slots of bundle b of core p ask for, when its virtual core belongs to job j. -/
def State.asks (s : State) (p j : Nat) (b : Bundle) : List (Nat × Needs) :=
  slotsN.map (fun k => (k, s.slotNeeds p j (s.core p).v k (b.slots.getD k 0)))

/-- The same for a bundle that BUNDLE_FETCH put forward and that has not issued, on a core that runs job j; no completion
is due (R60, R168) and the bundle's wait is within its limit (R165). -/
def State.Fetched (s : State) (p j n op : Nat) (b : Bundle) : Prop :=
  (s.core p).ib = some b ∧ b.issued = false ∧ opcode (b.slots.getD n 0) = op ∧ b.done.contains n = false ∧
    s.ticking p = true ∧ (s.core p).v.run = .running ∧ (s.core p).bound.map (·.1) = some j ∧
    (s.core p).dueNow = false ∧ (s.core p).heldN ≤ s.waitLimit p

/-- The counts of core p take the signals of the clk (R157). -/
def State.settled (s : State) (p : Nat) : State := if (s.core p).v.pend = [] then s else s.setV p (s.core p).v.settle

/-- From s to t core p takes the value c and nothing else changes. -/
def CoreStep (s t : State) (p : Nat) (c : Core) : Prop :=
  t.core p = c ∧ (∀ q, q ≠ p → t.core q = s.core q) ∧ t = { s with cores := t.cores }

/-- Slot n of bundle b is done on core c, whose virtual core is v. -/
def doneSlot (c : Core) (b : Bundle) (n : Nat) (v : VCore) : Core :=
  { c with v := v, ib := some { b with done := sins n b.done } }

/-- Slot n of bundle b is done on core c, and its instruction is in flight. -/
def flying (c : Core) (b : Bundle) (n : Nat) (f : Flight) : Core :=
  { c with fly := c.fly ++ [f], ib := some { b with done := sins n b.done } }

/-! An instruction that joins those in flight (R161, R168, R234, R523). -/

/-- Flight f of slot n of bundle b, issued in core c's clk with needs x and effects eff, due k clk later than Table 5.10
says. -/
def Flight.Of (f : Flight) (c : Core) (b : Bundle) (n : Nat) (x : Needs) (eff : List Eff) (k : Nat) : Prop :=
  f.slot = n ∧ f.op = opcode (b.slots.getD n 0) ∧ f.bundle = b.num ∧ f.pc = b.pc ∧ f.issued = c.now ∧ f.waiting = false ∧
    f.due = c.now + x.lat + k ∧ f.writes = x.writes ∧ f.rd = x.rd ∧ f.wr = x.wr ∧ f.eff = eff.map (Eff.move (c.now + k))

/-- From s to t slot n of bundle b is done and its instruction has joined those in flight of core p. Without operands in
the scratchpad it loses no clk and moves none; with them and alone in the scratchpad it loses the clk of its unaligned
beats and of its bundle's reads; the others only move. -/
def Launched (s t : State) (p n : Nat) (b : Bundle) (x : Needs) (eff : List Eff) : Prop :=
  let c := s.core p
  ∃ (f : Flight) (k : Nat) (moves : List Nat), f.Of c b n x eff k ∧ moves.length = c.fly.length ∧
    (t.core p).fly = List.zipWith (fun g m => g.move m) c.fly moves ++ [f] ∧
    (x.rd = [] → x.wr = [] → k = 0 ∧ (t.core p).fly = c.fly ++ [f]) ∧
    (x.rd ≠ [] ∨ x.wr ≠ [] → c.fly = [] → k = x.slip + b.late.getD n 0) ∧
    (t.core p).ib = some { b with done := sins n b.done }

end Sys2Proof.Machine
end

