-- ==== Sys2Proof/Certificates/Slice0/Obligations.lean ====
section
/-! DEFINITION. The statements about the model. -/

open Sys2Proof Sys2Proof.Machine

/-! The machine as a whole. -/

/-- O1. The command at the front of the queue runs on the rest of the queue; with nothing waiting the block
idles, which is the model's choice (log entry 1). -/
def Obligations.StepRunsTheFrontCommand : Prop :=
  (∀ (c : Instr) (r : List Instr) (s : State), step { s with pending := c :: r } = exec c { s with pending := r }) ∧
    ∀ s : State, s.pending = [] → step s = .next s.idle

/-- O2. A command's effect is on everything but the queue: what waits behind it waits unchanged. -/
def Obligations.ExecLeavesTheQueue : Prop :=
  ∀ (c : Instr) (s t : State), exec c s = .next t → t.pending = s.pending

/-- O3. Every step keeps the invariant. -/
def Obligations.StepKeepsSound : Prop :=
  ∀ s t : State, s.Sound → step s = .next t → t.Sound

/-- O4. The invariant holds at reset. -/
def Obligations.ResetIsSound : Prop := State.reset.Sound

/-- O5. No command is refused, and the one fault is a command of a ring pair whose controller named another firmware
major (R391). -/
def Obligations.OnlyForeignPairsFault : Prop :=
  (∀ (c : Instr) (s : State) (x : Refusal), exec c s ≠ .refused x) ∧
    ∀ (c : Instr) (s : State) (x : Fault), exec c s = .fault x →
      x = .controllerMajor ∧ ∃ pair : PairId, s.foreign pair = true ∧
        (c = .hello pair ∨ c = .loadprog pair ∨ c = .strand pair ∨ c = .service pair ∨ c = .peerupd pair ∨
          c = .loadbraid pair ∨ c = .cmdNop pair)

/-! The core: issue and the C slot. -/

/-- O6. BUNDLE_FETCH (R142, R155, R524): the four words at the PC enter the issue buffer; past the code the core faults with
0x08 and names the last bundle that issued, and a word that fails its check faults it with 0x09 and the failing slots. -/
def Obligations.BundleFetchReadsTheBundleAtThePc : Prop :=
  ∀ (s : State) (p : CoreId),
    let c := s.core p
    let pc := c.v.pc.toNat
    c.bound.isSome → c.v.run = .running → s.ticking p = true → (∀ b, c.ib = some b → b.complete = true) → c.dueNow = false →
    s.onRound p = true →
    (c.v.overrun = false → pc < c.v.codeLen →
      (s.fetchUpsets p pc = (0, 0) → ∃ t, exec (.bundleFetch p) s = .next t ∧
        t.core p = { c.giveBack with
          now := c.now + 1, heldN := 0
          ib := some ⟨c.v.pc, slotsN.map (fun n => BitVec.ofNat 64 (s.mem.le (bundleMem p + 32 * pc + 8 * n) 8)), false, 0, [], c.v, []⟩ } ∧
        (∀ q, q ≠ p.val → t.core q = s.core q) ∧ t = { s with cores := t.cores, upset := t.upset }) ∧
      ((s.fetchUpsets p pc).2 = 0 → ∃ t b, exec (.bundleFetch p) s = .next t ∧ (t.core p).ib = some b ∧ b.pc = c.v.pc ∧
        b.issued = false ∧ b.done = []) ∧
      ((s.fetchUpsets p pc).2 ≠ 0 → ∃ u : State, exec (.bundleFetch p) s = .next (u.coreFault p pc 0x09 (s.fetchUpsets p pc).2))) ∧
    (c.v.overrun = true ∨ c.v.codeLen ≤ pc → exec (.bundleFetch p) s =
      .next ((s.setCore p { c.giveBack with now := c.now + 1 }).coreFault p c.v.lastPc.toNat 0x08 0))

/-- The rows of the slots: slot, opcode, command. -/
def slotRows : List (Nat × Nat × (CoreId → Instr)) :=
  [(0, 0x01, .ldi), (0, 0x02, .scal), (0, 0x03, .loop), (0, 0x04, .endl), (0, 0x05, .br), (0, 0x06, .brz), (0, 0x07, .call),
   (0, 0x08, .ret), (0, 0x09, .tsig), (0, 0x0A, .twait), (0, 0x0B, .qwait), (0, 0x0C, .splice), (0, 0x0D, .flags),
   (0, 0x0E, .halt), (0, 0x0F, .time), (0, 0x10, .entropy),
   (1, 0x01, .ldw), (1, 0x02, .ldwT), (1, 0x03, .swapw), (1, 0x04, .mma), (1, 0x05, .accld), (1, 0x06, .accst),
   (1, 0x07, .accclr), (1, 0x08, .accsw),
   (2, 0x01, .vld), (2, 0x02, .vst), (2, 0x10, .vadd), (2, 0x11, .vmul), (2, 0x12, .vfma), (2, 0x13, .vmax), (2, 0x14, .vmin),
   (2, 0x15, .vcmp), (2, 0x16, .vsel), (2, 0x17, .vamax), (2, 0x20, .vexp), (2, 0x21, .vlog), (2, 0x22, .vrcp),
   (2, 0x23, .vrsq), (2, 0x24, .vtanh), (2, 0x30, .vcvt), (2, 0x31, .vred), (2, 0x32, .vscan), (2, 0x33, .vhist), (2, 0x34, .vkey),
   (3, 0x01, .tmov), (3, 0x02, .txp), (3, 0x03, .tperm), (3, 0x04, .spush), (3, 0x05, .spop), (3, 0x06, .mbx), (3, 0x07, .digest),
   (3, 0x08, .netq), (3, 0x09, .netpeek), (3, 0x0A, .saddOrd), (3, 0x0B, .saddAny)]

/-- O7. The first command of a fetched bundle's slots does with the bundle what its clk does, the signals of the clk reaching
the token counts first: a count beyond 63 faults with 0x05; else what holds the bundle is counted, one clk a command (log
entry 1), the slots that fault stop the core, and a bundle that issues leaves the command as it is on the issued bundle.
While a completion is due, or past the limit of held clk, it waits. -/
def Obligations.FirstSlotCommandIssuesTheBundle : Prop :=
  ∀ (s : State) (p : CoreId) (j : Nat) (b : Bundle), ∀ x ∈ slotRows,
    (s.Fetched p j x.1 x.2.1 b →
      let u := s.settled p
      let c := u.core p
      let ns := u.asks p j b
      let bad := (s.core p).v.overflow (u.twaitTakes p j b)
      (∀ g, bad = some g → exec (x.2.2 p) s = .next (s.coreFault p g.pc 0x05 (2 ^ g.slot))) ∧
      (bad = none →
        (∀ off, u.holdOf p c ns = some off →
          exec (x.2.2 p) s = .next ((u.setCore p { c with now := c.now + 1, heldN := c.heldN + 1 }).bump (rg (fnCore p) off) 47 0 1)) ∧
        (u.holdOf p c ns = none → faultsOf ns = [] → (u.issueBundle p b ns).ticking p = true →
          exec (x.2.2 p) s = exec (x.2.2 p) (u.issueBundle p b ns)) ∧
        (u.holdOf p c ns = none → ∀ f l, faultsOf ns = f :: l →
          let n := ((f :: l).filter (fun g => g.2 == 0x04)).length
          exec (x.2.2 p) s = .next ((if n = 0 then u else u.bump (rg fnLedger 0x018) 31 0 n).coreFault p b.pc.toNat f.2
            (maskOf ((f :: l).map (·.1))))))) ∧
    ((s.core p).ib = some b → b.issued = false → (s.core p).bound.isSome → (s.core p).dueNow = true ∨ s.waitLimit p < (s.core p).heldN →
      exec (x.2.2 p) s = .next s)

/-- O8. A bundle that issues moves the PC on by one, takes its operands from the registers of that clk, subtracts what
its TWAIT asks (R155, R156, R158). -/
def Obligations.IssueMovesThePcOn : Prop :=
  ∀ (s : State) (p : CoreId) (j : Nat) (b : Bundle),
    (∀ y ∈ s.asks p j b, ∀ r ∈ y.2.touch, s.readElems p r.1 r.2.1 r.2.2 = s) →
    let c := s.core p
    let t := s.issueBundle p b (s.asks p j b)
    (t.core p).ib = some { b with issued := true, num := c.issues, snap := c.v, late := slotsN.map (lateOf (s.asks p j b)) } ∧
      (t.core p).v.pc = b.pc + 1 ∧ (t.core p).v.lastPc = b.pc ∧
      (∀ n, (t.core p).v.getG n = c.v.getG n) ∧ t.mem = s.mem ∧
      (((s.asks p j b).map (·.2)).findSome? (·.tok) = none → (t.core p).v.tok = c.v.tok) ∧
      ∀ k n, ((s.asks p j b).map (·.2)).findSome? (·.tok) = some (k, n) →
        ∀ m, (t.core p).v.getTok m = if m = k then c.v.getTok k - n else c.v.getTok m

/-- What LDI, SCAL and FLAGS leave: g[D] or a[D] of the slot word w takes x (g0 discards it), every other register keeps
its value, and nothing else changes. -/
def writesDest (s t : State) (p : Nat) (b : Bundle) (w x : W64) : Prop :=
  CoreStep s t p (doneSlot (s.core p) b 0 { (s.core p).v with g := (t.core p).v.g, a := (t.core p).v.a }) ∧
  (∀ n, (t.core p).v.getG n = if sf w 13 13 = 0 ∧ n = sf w 12 8 ∧ n ≠ 0 then x else (s.core p).v.getG n) ∧
  (∀ n, (t.core p).v.getA n = if sf w 13 13 = 1 ∧ n = sf w 12 8 then x.setWidth 48 else (s.core p).v.getA n)

/-- O9. LDI and SCAL but MUL write their result to g[D] or a[D] and change nothing else (R146): an address register keeps its
low 48 bits, a write into g0 is discarded, and g0 reads zero, as every operand reads it. -/
def Obligations.LdiAndScalWriteTheirDestination : Prop :=
  (∀ (v : VCore) (n : Nat) (x : W64), v.getG 0 = 0 ∧ v.setG 0 x = v ∧ (v.setA n (x.setWidth 48)).getA n = x.setWidth 48) ∧
  ∀ (s : State) (p : CoreId) (b : Bundle),
    let w := b.slots.getD 0 0
    (s.Issued p 0 0x01 b → ∃ t, exec (.ldi p) s = .next t ∧ writesDest s t p b w (BitVec.ofInt 64 (sext (sf w 63 16) 48))) ∧
    (s.Issued p 0 0x02 b → sf w 31 26 ≠ 0x08 →
      ∃ t, exec (.scal p) s = .next t ∧ writesDest s t p b w (scalOp b.snap (sf w 31 26) (scalA b.snap w) (scalB b.snap w)))

/-- The virtual core goes on at bundle t. -/
def jumped (v : VCore) (t : BitVec 13) : VCore := { v with pc := t, overrun := false }

/-- O10. The control transfers (R155, R157): LOOP, ENDL, BR, BRZ, CALL and RET set the PC, LC and the return stack, and
nothing else. -/
def Obligations.ControlTransfersSetThePc : Prop :=
  ∀ (s : State) (p : CoreId) (b : Bundle),
    let w := b.slots.getD 0 0
    let v := (s.core p).v
    let to_ : BitVec 13 := BitVec.ofNat 13 (sf w 20 8)
    let ran (u : State) (v : VCore) : Prop := CoreStep s u p (doneSlot (s.core p) b 0 v)
    let n : W32 := (b.snap.getG (sf w 28 24)).setWidth 32 + BitVec.ofNat 32 (sf w 63 32)
    let l := b.snap.getLc (sf w 23 21) - 1
    (s.Issued p 0 0x03 b → ∃ u, exec (.loop p) s = .next u ∧
      ran u (if n = 0 then jumped (v.setLc (sf w 23 21) n) to_ else v.setLc (sf w 23 21) n)) ∧
    (s.Issued p 0 0x04 b → ∃ u, exec (.endl p) s = .next u ∧
      ran u (if l = 0 then v.setLc (sf w 23 21) l else jumped (v.setLc (sf w 23 21) l) to_)) ∧
    (s.Issued p 0 0x05 b → ∃ u, exec (.br p) s = .next u ∧ ran u (jumped v to_)) ∧
    (s.Issued p 0 0x06 b → ∃ u, exec (.brz p) s = .next u ∧
      ran u (if b.snap.getG (sf w 28 24) = 0 then jumped v to_ else v)) ∧
    (s.Issued p 0 0x07 b → ∃ u, exec (.call p) s = .next u ∧
      ran u (jumped { v with rs := (b.pc + 1) :: v.rs } to_)) ∧
    (s.Issued p 0 0x08 b → ∀ r l, v.rs = r :: l → ∃ u, exec (.ret p) s = .next u ∧ ran u (jumped { v with rs := l } r))

/-- The signal of token k by n, from slot m of bundle b. -/
def sigOf (b : Bundle) (m k n : Nat) : Sig := ⟨k, n, b.num, m, b.pc.toNat⟩

/-- O11. Tokens (R143, R156, R157, R178, R524): TSIG's and TOKC's signals join those of the clk, and the counts take them
together; only what then lies above 63, less what a TWAIT subtracts in the clk, overflows; TWAIT's subtraction is made by
the issue of its bundle; QWAIT and a slot word of NOP do nothing more. -/
def Obligations.TokensAreSignalledAndAwaited : Prop :=
  (∀ (v : VCore) (m : Nat), v.settle.getTok m = v.getTok m + ((v.pend.filter (fun g => g.tok == m)).map (·.n)).sum ∧ v.settle.pend = [] ∧
    ((v.overflow none).isSome = true ↔ ∃ g ∈ v.pend, 63 < v.settle.getTok g.tok) ∧
    ∀ n, (v.overflow (some (m, n))).isSome = true ↔ ∃ g ∈ v.pend, 63 < v.settle.getTok g.tok - (if g.tok = m then n else 0)) ∧
  ∀ (s : State) (p : CoreId) (b : Bundle),
    let w := b.slots.getD 0 0
    let c := s.core p
    let v := c.v
    let k := sf w 13 8
    let n := sf w 21 16
    let sig := { v with pend := v.pend ++ [sigOf b 0 k n] }
    (s.Issued p 0 0x09 b →
      (v.run = .running → ∃ t, exec (.tsig p) s = .next t ∧ CoreStep s t p (doneSlot c b 0 sig)) ∧
      (v.run = .stopped → ∃ t, exec (.tsig p) s = .next t ∧ CoreStep s t p (doneSlot c b 0 v)) ∧
      (v.run ≠ .running → v.run ≠ .stopped →
        (sig.overflow none = none → ∃ t, exec (.tsig p) s = .next t ∧ CoreStep s t p (doneSlot c b 0 sig.settle)) ∧
        ∀ g, sig.overflow none = some g →
          exec (.tsig p) s = .next (((s.setV p sig).coreFault p g.pc 0x05 (2 ^ g.slot)).slotDone p 0))) ∧
    (∀ x : Fin 4, let w := b.slots.getD x 0
      (tokc w = none ∨ v.run = .stopped → s.signalTok p b x w = s) ∧
      ∀ t, tokc w = some t → v.run = .running →
        CoreStep s (s.signalTok p b x w) p { c with v := { v with pend := v.pend ++ [sigOf b x t 1] } }) ∧
    (∀ j, let u := s.settled p
      s.Fetched p j 0 0x0A b → v.overflow (u.twaitTakes p j b) = none → u.holdOf p (u.core p) (u.asks p j b) = none →
      faultsOf (u.asks p j b) = [] → (∀ y ∈ u.asks p j b, ∀ r ∈ y.2.touch, u.readElems p r.1 r.2.1 r.2.2 = u) →
      n ≤ v.visible k ∧ ∃ t, exec (.twait p) s = .next t ∧ (t.core p).v.getTok k = v.visible k - n ∧ (t.core p).v.pend = [] ∧
        ∀ m, m ≠ k → (t.core p).v.getTok m = v.visible m) ∧
    (s.Issued p 0 0x0A b → ∃ t, exec (.twait p) s = .next t ∧ CoreStep s t p (doneSlot c b 0 v)) ∧
    (s.Issued p 0 0x0B b → ∃ t, exec (.qwait p) s = .next t ∧ CoreStep s t p (doneSlot c b 0 v)) ∧
    (∀ x : Fin 4, s.Issued p x 0x00 b → ∃ t, exec (.nop p x) s = .next t ∧ CoreStep s t p (doneSlot c b x v))

/-- O12. SPLICE arrives at its entry and HALT halts (R181, R182), the signals of the clk counted; memory stays. -/
def Obligations.SpliceArrivesAndHaltHalts : Prop :=
  ∀ (s : State) (p : CoreId) (b : Bundle) (j vc : Nat),
    let w := b.slots.getD 0 0
    let v := (s.core p).v
    v.run = .running → (s.core p).bound = some (j, vc) → v.overflow none = none →
    (s.Issued p 0 0x0C b → ∃ t, exec (.splice p) s = .next t ∧ (t.core p).v.run = .arrived (sf w 31 16) (sf w 8 8 == 1) ∧
      (t.job j).firstSidx = some ((s.job j).firstSidx.getD (sf w 31 16)) ∧
      (t.job j).stepMark = ((s.job j).stepMark || sf w 8 8 == 1) ∧ (t.core p).v.g = v.g ∧ (t.core p).v.tok = v.settle.tok ∧
      t.mem = s.mem) ∧
    (s.Issued p 0 0x0E b → ∃ t, exec (.halt p) s = .next t ∧ (t.core p).v.run = .halted ∧ (t.core p).v.g = v.g ∧
      (t.core p).v.tok = v.settle.tok ∧ t.mem = s.mem ∧ t.jobs = s.jobs)

/-- O13. FLAGS takes the sticky flags into D and clears those of its mask, and a new HBASE counts from the next clk on (R102,
R105, R148); SCAL MUL, TIME and ENTROPY are in flight for 3, 2 and 16 clk (Table 5.10), TIME with the beat time, ENTROPY
with a value that nothing fixes (the model's draw, log entry 2), both marking the step as varying (R52, R183). -/
def Obligations.FlagsTimeAndEntropy : Prop :=
  ∀ (s : State) (p : CoreId) (b : Bundle),
    let w := b.slots.getD 0 0
    let u := if (sf w 31 26).testBit 1 then s.countDue p ((s.core p).now + 1) else s
    let v := (u.core p).v
    let clear := BitVec.ofNat 8 (sf w 39 32) &&& b.snap.nflags.setWidth 8
    let flight (t : State) (lat : Nat) (x : W64) : Prop := ∃ f : Flight,
      t.core p = flying (s.core p) b 0 f ∧ f.due = (s.core p).now + lat ∧
      f.eff = [if sf w 13 13 = 1 then .areg (sf w 12 8) (x.setWidth 48) else .greg (sf w 12 8) x]
    (s.Issued p 0 0x0D b → ∃ t, exec (.flags p) s = .next t ∧
      CoreStep s t p (doneSlot (u.core p) b 0 (({ v with
        nflags := v.nflags &&& ~~~ (clear.setWidth _)
        ftz := if (sf w 31 26).testBit 0 then sf w 48 48 == 1 else v.ftz
        hbase := if (sf w 31 26).testBit 1 then BitVec.ofNat 8 (sf w 47 40) else v.hbase } : VCore).setDest
          (sf w 13 13 == 1) (sf w 12 8) (b.snap.nflags.setWidth 64)))) ∧
    (s.Issued p 0 0x02 b → sf w 31 26 = 0x08 → ∃ t, exec (.scal p) s = .next t ∧ flight t 3 (scalA b.snap w * scalB b.snap w) ∧
      t = { s with cores := t.cores }) ∧
    (∀ j vc, (s.core p).bound = some (j, vc) →
      (s.Issued p 0 0x0F b → ∃ t, exec (.time p) s = .next t ∧ flight t 2 s.beat ∧ (t.job j).vary = true ∧
        t = { s with cores := t.cores, jobs := t.jobs }) ∧
      (s.Issued p 0 0x10 b → ∃ t, exec (.entropy p) s = .next t ∧ flight t 16 (Config.freeValue s.free) ∧ (t.job j).vary = true ∧
        t = { s with cores := t.cores, jobs := t.jobs, free := s.free + 1 }))

/-- O14. SWAPW inverts the current-weights bits of AMASK, ACCSW the active-tile bits, each signalling its token at once, and
ACCCLR sets the tiles it names to (+0, +0) without poison (R111, R122, R156); memory stays. -/
def Obligations.SwitchesAndClears : Prop :=
  ∀ (s : State) (p : CoreId) (b : Bundle),
    let w := b.slots.getD 1 0
    let v := (s.core p).v
    let mask := BitVec.ofNat 4 (sf w 11 8)
    let ends (u : State) : State := ((u.signalTok p b 1 w).closeSpan p b 1).slotDone p 1
    (s.Issued p 1 0x03 b → ∃ u, exec (.swapw p) s = .next (ends u) ∧ (u.core p).v.curw = v.curw ^^^ mask ∧
      (u.core p).v.active = v.active ∧ (u.core p).v.acc = v.acc ∧ (u.core p).v.wt = v.wt ∧ u.mem = s.mem ∧
      (tokc w = none → ((ends u).core p).v.curw = v.curw ^^^ mask ∧ ((ends u).core p).v.active = v.active ∧
        ((ends u).core p).v.acc = v.acc ∧ ((ends u).core p).v.wt = v.wt ∧ (ends u).mem = s.mem)) ∧
    (s.Issued p 1 0x08 b → ∃ u, exec (.accsw p) s = .next (ends u) ∧ (u.core p).v.active = v.active ^^^ mask ∧
      (u.core p).v.curw = v.curw ∧ (u.core p).v.acc = v.acc ∧ u.mem = s.mem ∧
      (tokc w = none → ((ends u).core p).v.active = v.active ^^^ mask ∧ ((ends u).core p).v.curw = v.curw ∧
        ((ends u).core p).v.acc = v.acc ∧ (ends u).mem = s.mem)) ∧
    (s.Issued p 1 0x07 b → ∃ t, exec (.accclr p) s = .next t ∧
      (∀ k row col, k < 8 → (sf w 15 8).testBit k = true → row < 128 → col < 64 →
        (t.core p).v.pair k row col = ⟨0, 0, false⟩) ∧ t.mem = s.mem ∧ (t.core p).v.g = v.g)

/-- An A, V or M instruction of slot n that joins those in flight, due lat clk on but for its slips, with the effects it
will have; the registers and the memories stay. -/
def joins (s t : State) (p n : Nat) (b : Bundle) (x : Needs) (lat : Nat) (eff : List Eff) : Prop :=
  x.lat = lat ∧ Launched s t p n b x eff ∧ (t.core p).v.g = (s.core p).v.g ∧ (t.core p).v.a = (s.core p).v.a ∧
    (t.core p).v.v = (s.core p).v.v ∧ t.mem = s.mem ∧ t.mbx = s.mbx

/-- O15. A weight load is in flight for 68 clk, LDW.T for XL more, and binds its tile to the register of array ARR that is
not in use (R111, R112, Table 5.10); an ACCLD sets the pairs of its region and is in flight for 6 clk and one a row
(two in RAW mode) with the flags it raises (R123, R125). -/
def Obligations.WeightAndAccumulatorLoads : Prop :=
  ∀ (s : State) (p : CoreId) (b : Bundle),
    let w := b.slots.getD 1 0
    let v := b.snap
    let t := v.tdArv (sf w 14 10) (sf w 26 26 = 1) (sf w 25 22)
    let n := sf w 9 8
    let u := aaTd v w
    let ncol := sf w 37 31
    let ps := loadPairs (s.scratch p) v u (sf w 38 38 = 1) (sf w 30 23 * ncol)
    (s.Issued p 1 0x01 b → ∃ x, exec (.ldw p) s = .next x ∧
      joins s x p 1 b (needLdw v w false) 68 [.weights n (1 - v.current n) (loadTile (s.scratch p) t (sf w 21 15) false)]) ∧
    (s.Issued p 1 0x02 b → ∃ x, exec (.ldwT p) s = .next x ∧
      joins s x p 1 b (needLdw v w true) (68 + xl) [.weights n (1 - v.current n) (loadTile (s.scratch p) t (sf w 21 15) true)]) ∧
    (s.Issued p 1 0x05 b → ∃ x, exec (.accld p) s = .next x ∧
      joins s x p 1 b (needAccld v w) (6 + (if sf w 38 38 = 1 then 2 else 1) * sf w 30 23)
        (flagEff (ps.foldl (fun f r => f ||| r.flags) 0)) ∧
      ∀ row col, row < sf w 30 23 → col < ncol → ncol ≤ 64 → sf w 22 16 + sf w 30 23 ≤ 128 →
        (x.core p).v.pair (sf w 10 8) (sf w 22 16 + row) col = (ps.getD (row * ncol + col) ⟨⟨0, 0, false⟩, 0⟩).val)

/-- O16. An MMA updates the rows of each array's active tile by its pass, none if KLEN is 0, counts in the MMA counter
and is in flight for 80 clk and its rows (R107, R119, R126, Table 5.10); an ACCST writes what its region holds, row i in
its clk (R105, R124). -/
def Obligations.MmaUpdatesItsRowsAndAccstStoresThem : Prop :=
  ∀ (s : State) (p : CoreId) (b : Bundle),
    let w := b.slots.getD 1 0
    let v := b.snap
    let t := v.tdArv (sf w 16 12) (sf w 44 44 = 1) (sf w 43 40)
    let klen := sf w 39 32
    let before (n i : Nat) : List Pair := (List.range 64).map (fun c => (s.core p).v.pair (v.activeTile n) (sf w 23 17 + i) c)
    let row (n i : Nat) : Fl (List Pair) :=
      passRow t.tg (t.bs != 0) (v.weight n (v.current n)) (actRow (s.scratch p) t klen i) (before n i)
    let r := storePairs v (s.core p).v (aaTd v w) w
    (s.core p).upset = [] →
    (s.Issued p 1 0x04 b → sf w 23 17 + sf w 31 24 ≤ 128 → ∃ x fl, exec (.mma p) s = .next x ∧
      joins s x p 1 b (needMma v w) (80 + paceOf t.tg * sf w 31 24) (flagEff fl ++ [.count 0x048 47 0 1]) ∧
      ∀ n ∈ arraysOf (sf w 11 8), ∀ i c, i < sf w 31 24 → c < 64 → (x.core p).v.pair (v.activeTile n) (sf w 23 17 + i) c =
        if klen = 0 then (s.core p).v.pair (v.activeTile n) (sf w 23 17 + i) c else (row n i).val.getD c ⟨0, 0, false⟩) ∧
    (s.Issued p 1 0x06 b → ∃ x, exec (.accst p) s = .next x ∧
      joins s x p 1 b (needAccst v (s.ledgerCount (s.jobN p)) w) (6 + (if sf w 38 38 = 1 then 2 else 1) * sf w 30 23)
        (s.writeEffs (s.jobN p) (aaTd v w) (fun e => 6 + e / max 1 (sf w 37 31)) r.val ++ collapseEff r.val ++ flagEff r.flags))

/-- The result of a V instruction in flight: 128 lanes for VD, each with its flags. -/
def vJoins (s t : State) (p : Nat) (b : Bundle) (lat : Nat) (lane : Nat → Fl Lane) : Prop :=
  let w := b.slots.getD 2 0
  ∃ fl, joins s t p 2 b (needV b.snap 0 w) lat (.vreg (sf w 12 8) ((List.range 128).map (fun i => (lane i).val)) :: flagEff fl) ∧
    fl = (List.range 128).foldl (fun f i => f ||| (lane i).flags) 0 ∧ (∀ q, q ≠ p → t.core q = s.core q) ∧
    t = { s with cores := t.cores, csr := t.csr } ∧ ((needV b.snap 0 w).rd = [] → t.csr = s.csr)

/-- O17. VADD, VMUL, VMAX, VMIN and VAMAX in flight for their clk (Table 5.10): a lane is poisoned when an operand's lane or
the key it rounds with is, and else holds the operation's exact value rounded once (R176, R189, R190, R192, R197). -/
def Obligations.LaneArithmetic : Prop :=
  ∀ (s : State) (p : CoreId) (b : Bundle),
    let w := b.slots.getD 2 0
    let v := b.snap
    let val (i n : Nat) : Fl Machine.Num := readIn ((v.lane n i).val.toNat % 2 ^ (vFmt w).width) (vFmt w) v.ftz
    ∀ x ∈ [((0x10, 4, .vadd, fun x y => fadd (negIf (fnBit w 1) x) (negIf (fnBit w 0) y) (vRdn w)) :
              Nat × Nat × (CoreId → Instr) × (Machine.Num → Machine.Num → Fl Machine.Num)),
            (0x11, 4, .vmul, fun x y => ⟨negIf (fnBit w 0) (fmul x y false).val, (fmul x y false).flags⟩),
            (0x13, 2, .vmax, fun x y => ⟨pickMax x y, 0⟩), (0x14, 2, .vmin, fun x y => ⟨pickMin x y, 0⟩),
            (0x17, 2, .vamax, fun x y => ⟨pickAmax x y, 0⟩)],
      s.Issued p 2 x.1 b → ∃ t lane, exec (x.2.2.1 p) s = .next t ∧ vJoins s t p b x.2.1 lane ∧ ∀ i, i < 128 →
        let l := v.lane (sf w 17 13) i
        let m := v.lane (sf w 22 18) i
        let r := x.2.2.2 (val i (sf w 17 13)).val (val i (sf w 22 18)).val
        (lane i).val = if l.poison || m.poison || badKey v (sf w 34 32) then ⟨0, true⟩
          else ⟨BitVec.ofNat 32 (vround v w r.val i).val, false⟩

/-- O18. VFMA rounds product and sum once; VCMP answers 1 or 0; the special functions, VCVT, VRED and VSCAN (R190, R192 to
R196); each for its clk (Table 5.10), a lane poisoned when an operand or the key is. -/
def Obligations.FusedComparedAndReducedLanes : Prop :=
  ∀ (s : State) (p : CoreId) (b : Bundle),
    let w := b.slots.getD 2 0
    let v := b.snap
    let bad := badKey v (sf w 34 32)
    let rd (t : Tag) (l : Lane) : Machine.Num := (readIn (l.val.toNat % 2 ^ t.width) t v.ftz).val
    let A (i : Nat) := v.lane (sf w 17 13) i
    let B (i : Nat) := v.lane (sf w 22 18) i
    let C (i : Nat) := v.lane (sf w 27 23) i
    let f := vFmt w
    let clean (x : Nat) : Lane := ⟨BitVec.ofNat 32 x, false⟩
    let out (op lat : Nat) (c : CoreId → Instr) (lane : Nat → Lane) : Prop :=
      s.Issued p 2 op b → ∃ t g, exec (c p) s = .next t ∧ vJoins s t p b lat g ∧ ∀ i, i < 128 → (g i).val = lane i
    out 0x12 4 .vfma (fun i => if (A i).poison || (B i).poison || (C i).poison || bad then ⟨0, true⟩ else
      clean (vround v w (fadd (negIf (fnBit w 0) (fmul (rd f (A i)) (rd f (B i)) true).val) (negIf (fnBit w 1) (rd f (C i))) (vRdn w)).val i).val) ∧
    out 0x15 2 .vcmp (fun i => if (A i).poison || (B i).poison then ⟨0, true⟩ else
      clean (if predicate (vFn w) (rd f (A i)) (rd f (B i)) then 1 else 0)) ∧
    (∀ x ∈ [((0x20, 12, .vexp, .exp) : Nat × Nat × (CoreId → Instr) × Sp), (0x21, 12, .vlog, .log), (0x22, 8, .vrcp, .rcp),
            (0x23, 8, .vrsq, .rsq), (0x24, 12, .vtanh, .tanh)],
      out x.1 x.2.1 x.2.2.1 (fun i => if (A i).poison || bad then ⟨0, true⟩ else
        clean (special x.2.2.2 (rd f (A i)) f (rndCtx v (sf w 34 32) (sf w 35 35 = 1) (sf w 36 36 = 1)
          (bits (v.getG (sf w 45 41)).toNat 59 40) ((bits (v.getG (sf w 45 41)).toNat 39 0 + i) % 2 ^ 40))).val)) ∧
    (∀ t, Tag.ofCode (vFn w) = some t → out 0x30 3 .vcvt (fun i => if (A i).poison || bad then ⟨0, true⟩ else
      clean (vround v w (if t = .e8m0 ∧ (A i).val.toNat % 256 = 255 then .nan else rd t (A i)) i).val)) ∧
    (vFn w < 4 → out 0x31 9 .vred (fun _ =>
      if ((List.range 128).map A).any (·.poison) || bad then ⟨0, true⟩ else
        clean (vround v w (reduceNums (vFn w) (vRdn w) ((List.range 128).map (fun i => rd f (A i)))).val 0).val)) ∧
    (vFn w = 4 → out 0x31 9 .vred (fun _ =>
      if ((List.range 128).map A ++ (List.range 128).map B).any (·.poison) || bad then ⟨0, true⟩ else
        clean (vround v w (fsum ((List.range 128).map (fun i => (fmul (rd f (A i)) (rd f (B i)) true).val)) (vRdn w)).val 0).val)) ∧
    out 0x32 11 .vscan (fun i => if ((List.range (i + 1)).map A).any (·.poison) || bad then ⟨0, true⟩ else
      clean (vround v w (reduceNums (vFn w) (vRdn w) ((List.range (i + 1)).map (fun k => rd f (A k)))).val i).val)

/-- O19. VLD reads a row of its descriptor and VST writes one, its elements rounded; VHIST reads, and clears, the histogram
counters with the elements written before its clk; VSEL and VKEY act in their own clk, a poisoned operand leaves a poisoned
lane or key and raises POISON, and signal their token at once (R105, R156, R176, R190, R191, R197). -/
def Obligations.RowsHistogramSelectAndKeys : Prop :=
  ∀ (s : State) (p : CoreId) (b : Bundle),
    let w := b.slots.getD 2 0
    let c := s.core p
    let v := b.snap
    let td := vmTd v w
    let e0 := 128 * sf w 29 23
    let n := min 128 (td.count - e0)
    let src : Tag := if td.tg.isInt ∧ td.bs = 0 then .int32 else .fp32
    let l (n i : Nat) := v.lane n i
    let val (i : Nat) : Fl Machine.Num := readIn ((l (sf w 12 8) i).val.toNat % 2 ^ src.width) src v.ftz
    let r := storeVals v (sf w 32 30) (sf w 33 33 = 1) (sf w 34 34 = 1) td e0
      ((List.range n).map (fun i => if (l (sf w 12 8) i).poison then none else some (val i).val))
    let fl := (List.range n).foldl (fun f i => f ||| if (l (sf w 12 8) i).poison then flPOISON else (val i).flags) 0 ||| r.flags |||
      (if badKey v (sf w 32 30) && n != 0 then flPOISON else 0)
    let u := s.countDue p c.now
    let sel (i : Nat) := if (l (sf w 27 23) i).val.toNat % 2 = 1 then l (sf w 17 13) i else l (sf w 22 18) i
    let dark (i : Nat) := (l (sf w 27 23) i).poison || (sel i).poison
    let k0 := l (sf w 17 13) 0
    let k1 := l (sf w 17 13) 1
    let ends (x : State) (f : Flags) : State := ((x.raise p b.pc.toNat f).signalTok p b 2 w).slotDone p 2
    (s.Issued p 2 0x01 b → ∃ t, exec (.vld p) s = .next t ∧ vJoins s t p b 5 (fun i => loadLane (s.scratch p) v td w (e0 + i))) ∧
    (s.Issued p 2 0x02 b → ∃ t, exec (.vst p) s = .next t ∧ joins s t p 2 b (needV v (s.ledgerCount (s.jobN p)) w) 4
      (s.writeEffs (s.jobN p) td (fun _ => 3) r.val ++ collapseEff r.val ++ flagEff fl) ∧
      (td.bs = 0 → r.val.map (·.bit) = (List.range n).map (fun i => (td.bit (e0 + i)).toNat))) ∧
    (s.Issued p 2 0x33 b → ∃ t, exec (.vhist p) s = .next t ∧
      joins u t p 2 b (needV v 0 w) 2 [.vreg (sf w 12 8) ((List.range 128).map (fun i => ⟨if i < 64 then tget z32 (u.core p).v.hist i else 0, false⟩))] ∧
      (t.core p).v.hist = if sf w 16 16 = 1 then [] else (u.core p).v.hist) ∧
    ((∀ f ∈ c.fly, ∀ k x, Eff.hist k x ∈ f.eff → f.waiting = true ∨ c.now ≤ k) → u.core p = c) ∧
    (∀ f k x, c.fly = [f] → f.eff = [.hist k x] → f.waiting = false → k < c.now →
      u.core p = { c with v := c.v.countHist x, fly := [{ f with eff := [] }] }) ∧
    (s.Issued p 2 0x16 b →
      (∃ x, exec (.vsel p) s = .next (ends x ((List.range 128).foldl (fun f i => f ||| if dark i then flPOISON else 0) 0)) ∧
        CoreStep s x p { c with v := { c.v with v := (x.core p).v.v } } ∧
        ∀ i, i < 128 → (x.core p).v.lane (sf w 12 8) i = if dark i then ⟨0, true⟩ else sel i) ∧
      (tokc w = none → (∀ i, i < 128 → dark i = false) → ∃ t, exec (.vsel p) s = .next t ∧
        CoreStep s t p (doneSlot c b 2 { c.v with v := (t.core p).v.v }) ∧ ∀ i, i < 128 → (t.core p).v.lane (sf w 12 8) i = sel i)) ∧
    (s.Issued p 2 0x34 b →
      (∃ x, exec (.vkey p) s = .next (ends x (if k0.poison || k1.poison then flPOISON else 0)) ∧
        CoreStep s x p { c with v := { c.v with sk := (x.core p).v.sk } } ∧
        (x.core p).v.key (sf w 9 8) = ⟨k1.val ++ k0.val, k0.poison || k1.poison⟩ ∧
        ∀ k, k ≠ sf w 9 8 → (x.core p).v.key k = c.v.key k) ∧
      (tokc w = none → k0.poison = false → k1.poison = false → ∃ t, exec (.vkey p) s = .next t ∧
        CoreStep s t p (doneSlot c b 2 { c.v with sk := (t.core p).v.sk }) ∧
        (t.core p).v.key (sf w 9 8) = ⟨k1.val ++ k0.val, false⟩ ∧ ∀ k, k ≠ sf w 9 8 → (t.core p).v.key k = c.v.key k))

/-- An M instruction whose overlap needs the staging buffer (R221 to R224): it is in flight, waits, will be due no sooner
than Tables 5.10 and 7.5 say, and its request stands in the staging queue of its cluster. -/
def staged (t : State) (p : Nat) (b : Bundle) (x : Needs) (path : Path) : Prop :=
  ∃ (f : Flight) (r : StageReq), f ∈ (t.core p).fly ∧ f.slot = 3 ∧ f.bundle = b.num ∧ f.op = opcode (b.slots.getD 3 0) ∧
    f.waiting = true ∧ f.issued + x.lat + path.added ≤ f.due ∧ r ∈ (t.cluster (clusterOf p)).stageQ ∧ r.core = p ∧
    r.bundle = b.num ∧ r.slot = 3 ∧ (r.spill = true ↔ ∃ n, path = .spilled n)

/-- O20. The copies of the M slot (R195, R199, R200, R201): TMOV, TXP and TPERM without an overlap to resolve write what
moveWrites gives and are in flight for 4 clk, the beats of the source and, but for TMOV, XL; with one they wait for the
staging buffer; MBX copies bit by bit, alone at the mailbox in 8 clk and one a line; DIGEST folds; NETPEEK reads the network
queue's fill and makes the step vary (R203). -/
def Obligations.CopiesOfTheMSlot : Prop :=
  ∀ (s : State) (p : CoreId) (b : Bundle) (j vc : Nat),
    let w := b.slots.getD 3 0
    let c := s.core p
    let v := b.snap
    let a := mtSrc v w
    let d := mtDst v w
    let r := moveWrites (s.scratch p) v a d w
    let out := sf w 43 43 = 1
    let ws := (List.range a.count).flatMap (fun e => copyElem (decide out) (if out then s.scratch p
      else s.mailboxView p (c.now + boxReadAt, a.span.addr)) a d e e)
    let n := (s.nq (sf w 27 22)).length
    c.bound = some (j, vc) →
    (∀ x ∈ [((0x01, .tmov, 0) : Nat × (CoreId → Instr) × Nat), (0x02, .txp, xl), (0x03, .tperm, xl)], s.Issued p 3 x.1 b →
      (s.pathM p v w = .direct → ∃ t, exec (x.2.1 p) s = .next t ∧
        joins s t p 3 b (needMove v (s.ledgerCount j) w) (4 + beats a.span.len + x.2.2)
          (s.writeEffs j d (fun e => 4 + x.2.2 + e * beats a.span.len / max 1 a.count) r.val ++ collapseEff r.val ++ flagEff r.flags)) ∧
      (s.pathM p v w ≠ .direct → ∃ t, exec (x.2.1 p) s = .next t ∧ staged t p b (needMove v (s.ledgerCount j) w) (s.pathM p v w))) ∧
    (s.Issued p 3 0x06 b → (out ∨ s.readMbx (clusterOf p) a = s) →
      (∃ t f, exec (.mbx p) s = .next t ∧ f ∈ (t.core p).fly ∧ f.slot = 3 ∧ f.bundle = b.num ∧ f.op = 0x06 ∧
        c.now + 8 + cdiv a.span.len 64 ≤ f.due ∧ t.mem = s.mem ∧ t.mbx = s.mbx) ∧
      ((∀ q ∈ coresOf (clusterOf p), q ≠ p → ∀ g ∈ (s.core q).fly, g.op ≠ 0x06) →
        (∀ g ∈ c.fly, g.bundle = b.num → g.slot ≠ 3) → ¬ out → ∃ t, exec (.mbx p) s = .next t ∧
          joins s t p 3 b (needMbx v (s.ledgerCount j) w) (8 + cdiv a.span.len 64)
            (s.writeEffs j d (fun e => 8 + e * cdiv a.span.len 64 / max 1 a.count) ws ++ collapseEff ws)) ∧
      (out → c.fly = [] → (∀ q ∈ coresOf (clusterOf p), q ≠ p → (s.core q).fly = []) → ∃ t f, exec (.mbx p) s = .next t ∧
        (t.core p).fly = [f] ∧ f.box = some (f.due - 8 - cdiv a.span.len 64 + boxWriteAt, d.span.addr) ∧
        f.due = c.now + 8 + cdiv a.span.len 64 + (needMbx v (s.ledgerCount j) w).slip + b.late.getD 3 0)) ∧
    (s.Issued p 3 0x07 b → ∃ t, exec (.digest p) s = .next t ∧
      joins s t p 3 b (needM v (s.ledgerCount j) (fun _ => true) w) (3 + beats a.span.len)
        (s.foldOf j a ((List.range a.count).flatMap (fun e => copyElem false (s.scratch p) a a e e)))) ∧
    (s.Issued p 3 0x09 b → ∃ t, exec (.netpeek p) s = .next t ∧ (t.job j).vary = true ∧
      joins s t p 3 b (needM v 0 (fun _ => true) w) 4 [.greg (sf w 21 17) (BitVec.ofNat 64 ((32 - n) + n * 65536))])

/-- O21. Scatter-adds (R204, R205, R218): without an overlap to resolve SADD.ORD adds in ascending source order, SADD.ANY in
some order that nothing fixes and makes the step vary, both counting the collisions; a poisoned index poisons the whole
destination; an index out of range keeps the instruction in flight until SADD_INDEX_FAULT. With an overlap they wait for the
staging buffer. -/
def Obligations.ScatterAddsInTheirOrder : Prop :=
  ∀ (s : State) (p : CoreId) (b : Bundle) (j vc : Nat),
    let w := b.slots.getD 3 0
    let v := b.snap
    let a := saddS v w
    let d := saddD v w
    let src := s.scratch p
    let x := needSadd v (s.ledgerCount j) w
    let ix := (List.range a.count).map (fun k => src.elem (saddI v w) k)
    let to_ (order : List Nat) (e : Nat) : List Nat := order.filter (fun k => (ix.getD k ⟨0, false, 0⟩).code == e)
    let at_ (order : List Nat) (e : Nat) := scatterElem src v a d w e (to_ order e)
    let hit := (ix.map (·.code)).foldl (fun l c => sins c l) []
    let wr (order : List Nat) := hit.map (fun e => elemWrite false d e (at_ order e).val.1 127 (at_ order e).val.2)
    let fl (order : List Nat) : Flags := hit.foldl (fun f e => f ||| (at_ order e).flags) 0
    let many (order : List Nat) : Nat := hit.foldl (fun n e => n + ((to_ order e).length - 1)) 0
    let adds (t : State) (lat : Nat) (order : List Nat) : Prop := joins s t p 3 b x lat
      (s.writeEffs j d (fun _ => lat - 1) (wr order) ++ flagEff (fl order) ++ if many order = 0 then [] else [.count 0x0B0 47 0 (many order)])
    let dark := (List.range d.count).map (fun e => elemWrite false d e 0 127 true)
    let wide := ix.any (fun y => sext y.code 32 < 0 || (d.count : Int) ≤ sext y.code 32)
    (s.core p).bound = some (j, vc) →
    (s.pathM p v w = .direct →
      (ix.any (·.poison) = false → wide = false → (∀ n i, s.readElems p d n i = s) →
        (s.Issued p 3 0x0A b → ∃ t, exec (.saddOrd p) s = .next t ∧ adds t (12 + cdiv a.count 16) (List.range a.count)) ∧
        (s.Issued p 3 0x0B b → ∃ t order, exec (.saddAny p) s = .next t ∧ order.Perm (List.range a.count) ∧
          (t.job j).vary = true ∧ adds t (8 + cdiv a.count 64) order)) ∧
      (∀ y ∈ [((0x0A, 12 + cdiv a.count 16, cdiv a.count 16, .saddOrd) : Nat × Nat × Nat × (CoreId → Instr)),
              (0x0B, 8 + cdiv a.count 64, cdiv a.count 64, .saddAny)], s.Issued p 3 y.1 b →
        (ix.any (·.poison) = true → ∃ t, exec (y.2.2.2 p) s = .next t ∧
          joins s t p 3 b x y.2.1 (s.writeEffs j d (fun _ => y.2.1 - 1) dark ++ flagEff flPOISON)) ∧
        (ix.any (·.poison) = false → wide = true → ∃ t, exec (y.2.2.2 p) s = .next t ∧
          joins s t p 3 b { x with lat := 2 + y.2.2.1 } (2 + y.2.2.1) [.badIndex]))) ∧
    (s.pathM p v w ≠ .direct →
      (s.Issued p 3 0x0A b → ∃ t, exec (.saddOrd p) s = .next t ∧ staged t p b { x with lat := 2 } (s.pathM p v w)) ∧
      (s.Issued p 3 0x0B b → ∃ t, exec (.saddAny p) s = .next t ∧ staged t p b { x with lat := 2 } (s.pathM p v w)))

/-- O22. SPUSH and NETQ append a byte range to their queue, a network queue's entry being eligible 48 ns on (R202, R203,
R301); SPOP puts the head entry's address into its descriptor's BASE and gives back the area popped before once no
instruction in flight reads it (R202, R244); each signals its token at once (R156). -/
def Obligations.QueueInstructions : Prop :=
  ∀ (s : State) (p : CoreId) (b : Bundle),
    let w := b.slots.getD 3 0
    let c := s.core p
    let v := c.v
    let n := sf w 11 8
    let q := v.queue n
    let at_ (k : Nat) : Nat := q.area + k % (max 1 q.depth) * q.entry
    let last : Span := ⟨at_ (q.popped - 1), q.entry⟩
    let m := sf w 27 22
    let ends (u : State) : State := (u.signalTok p b 3 w).slotDone p 3
    (s.Issued p 3 0x04 b → ∃ u, exec (.spush p) s = .next (ends u) ∧
      CoreStep s u p { c with v := v.setQueue n { q with out := q.out ++ [(mqTd b.snap w).span] } } ∧
      (tokc w = none → CoreStep s (ends u) p (doneSlot c b 3 (v.setQueue n { q with out := q.out ++ [(mqTd b.snap w).span] })))) ∧
    (s.Issued p 3 0x05 b → ∃ u, exec (.spop p) s = .next (ends u) ∧
      CoreStep s u p { c with v := { v with td := (u.core p).v.td, sq := (u.core p).v.sq } } ∧
      ((u.core p).v.desc (sf w 16 12)).toNat % 2 ^ 64 = at_ q.popped % 2 ^ 64 ∧
      (∀ k, k ≠ n → (u.core p).v.queue k = v.queue k) ∧
      (let r := (u.core p).v.queue n
       r.popped = q.popped + 1 ∧ r.held = true ∧ r.out = q.out ∧ r.visible = q.visible ∧
        (q.back = [] → q.held = false → r.credits = q.credits ∧ r.back = []) ∧
        (q.back = [] → q.held = true → (∀ f ∈ c.fly, ∀ y ∈ f.rd, last.meets y = false) → r.credits = q.credits + 1 ∧ r.back = []) ∧
        (q.back = [] → q.held = true → (∃ f ∈ c.fly, ∃ y ∈ f.rd, last.meets y = true) → r.credits = q.credits ∧ r.back = [last.addr]))) ∧
    (s.Issued p 3 0x08 b → ∃ u, exec (.netq p) s = .next (ends u) ∧
      u.nq m = s.nq m ++ [⟨p, (mqTd b.snap w).span, s.beat.toNat + 48, 0⟩] ∧ (∀ k, k ≠ m → u.nq k = s.nq k) ∧
      u = { s with netq := u.netq } ∧ (tokc w = none → ((ends u).core p).v = v ∧ ends u = { s with cores := (ends u).cores, netq := u.netq }))

/-- O23. A core's fault is recorded in CORE.FAULT if none is recorded, and reported with the stop of its job (R166, R170,
R524): SADD_INDEX_FAULT with code 0x02 and slot mask 8, WAIT_TIMEOUT with code 0x06. Flags that an instruction raises stay
in NFLAGS, and POISON stops its job (R100, R433). -/
def Obligations.CoreFaultIsRecordedOnceAndStopsTheJob : Prop :=
  ∀ (s : State) (p : CoreId) (j vc : Nat), (s.core p).bound = some (j, vc) →
    let c := s.core p
    let k := rg (fnCore p) 0x0A0
    (∀ pc code mask, pc < 8192 → code < 256 → mask < 16 →
      (s.flag k 40 = true → s.coreFault p pc code mask =
        s.reportStop 0x20 (fnCore p) j { code, unit := mask, addr := pc, d0 := vc }) ∧
      (s.flag k 40 = false → ∃ x : W64, x.toNat.testBit 40 = true ∧ getField x 39 36 = mask ∧ getField x 31 24 = code ∧
        getField x 12 0 = pc ∧ s.coreFault p pc code mask =
          (((s.setFlag k 40 true).setFld k 39 36 mask).setFld k 31 24 code |>.setFld k 12 0 pc).reportStop 0x20 (fnCore p) j
            { code, unit := mask, addr := pc, d0 := vc } ∧
        (((s.setFlag k 40 true).setFld k 39 36 mask).setFld k 31 24 code |>.setFld k 12 0 pc).rd k = x)) ∧
    (∀ f, c.fly.find? (fun f => f.eff == [.badIndex]) = some f → f.waiting = false → s.ticking p = true → ∃ u : State,
      exec (.saddIndexFault p) s = .next (u.coreFault p f.pc.toNat 0x02 0x8) ∧ u.mem = s.mem ∧ u.csr = s.csr ∧
      (u.core p).fly = c.fly.filter (fun h => !(h.bundle == f.bundle && h.slot == f.slot))) ∧
    (∀ b, c.ib = some b → b.issued = false → c.v.run = .running → s.waitLimit p < c.heldN →
      exec (.waitTimeout p) s = .next (s.coreFault p b.pc.toNat 0x06 0)) ∧
    ∀ (pc : Nat) (f : Flags), let u := s.setV p { c.v with nflags := c.v.nflags ||| f }
      s.raise p pc f = if f &&& flPOISON = 0 then u else u.reportStop 0x26 (fnCore p) j { unit := vc, addr := pc, d0 := p }

/-- O24. The stop of a job sets its bit of CHIP.JOBSTOP, and no core of it goes on; a job that has stopped stays as it is
(R435). -/
def Obligations.StoppedJobRunsNoCore : Prop :=
  ∀ (s : State) (j cause func : Nat), j < 16 →
    (s.stopped j = true → s.stopJob j cause func = s) ∧
    (s.stopJob j cause func).stopped j = true ∧
    (s.stopped j = false → ∀ p ∈ s.coresOfJob j, ((s.stopJob j cause func).core p).v.run ≠ .running)

/-- O25. INSTRUCTION_COMPLETE makes the effects of the next instruction to complete, takes it from those in flight and
signals its token: a register's value, the bytes of an element's write and no others, a fold message; a full fold queue
keeps it, and on a running core nothing completes before its clk (R60, R156, R168). -/
def Obligations.CompletionMakesTheEffects : Prop :=
  ∀ (s : State) (p : CoreId) (f : Flight), nextFlight (s.core p).fly = some f → s.ticking p = true →
    (∀ b, (s.core p).ib = some b → b.issued = true → b.complete = true) →
    (∀ r, (s.cluster (clusterOf p)).stage = some r → ¬ (r.core = p ∧ r.bundle = f.bundle ∧ r.slot = f.slot)) →
    let k := clusterOf p
    let c := { ({ s.core p with
      fly := (s.core p).fly.filter (fun g => !(g.bundle == f.bundle && g.slot == f.slot)) } : Core).giveBack with
        now := max (s.core p).now f.due }
    let ends (u : State) : State := match f.tok with
      | none => u
      | some t => if (u.core p).v.run = .stopped then u else u.signal p ⟨t, 1, f.bundle, f.slot, f.pc.toNat⟩
    let gives (E : State → Prop) : Prop := ∃ u, exec (.instructionComplete p) s = .next (ends u) ∧ E u
    ((s.core p).v.run = .running → (s.core p).now < f.due → exec (.instructionComplete p) s = .next s) ∧
    ((s.core p).v.run ≠ .running ∨ f.due ≤ (s.core p).now →
      (∀ d x, f.eff = [.greg d x] → gives (fun u => CoreStep s u p { c with v := c.v.setG d x })) ∧
      (∀ d x, f.eff = [.areg d x] → gives (fun u => CoreStep s u p { c with v := c.v.setA d x })) ∧
      (∀ r l, f.eff = [.vreg r l] → gives (fun u => CoreStep s u p { c with v := c.v.setLanes r l })) ∧
      (∀ n r x, f.eff = [.weights n r x] → n < 4 → r < 2 → gives (fun u => (u.core p).v.weight n r = some x ∧ u = { s with cores := u.cores })) ∧
      (∀ bit w code q, f.eff = [.put false bit w code q] → gives (fun u =>
        (∀ a, a < window p + bit / 8 ∨ window p + bit / 8 + (bit % 8 + w + 7) / 8 ≤ a → u.mem.byte a = s.mem.byte a) ∧
        (bit % 8 = 0 → w = 8 → u.mem.byte (window p + bit / 8) = BitVec.ofNat 8 code) ∧
        u = { s with mem := u.mem, poison := u.poison, cores := u.cores } ∧ u.core p = c)) ∧
      (∀ n l0 l1 m q full, f.eff = [.fold n l0 l1 m q full] →
        ((s.cluster k).folds.length < 32 → gives (fun u =>
          (u.cluster k).folds = (s.cluster k).folds ++ [⟨s.jobN p, n, l0, l1, m, q, full⟩] ∧ u.core p = c)) ∧
        (32 ≤ (s.cluster k).folds.length → exec (.instructionComplete p) s = .next (s.bump (rg fnLedger 0x008) 47 0 1))))

/-- O26. The staging buffer (R223): free, it goes to the first waiting instruction, which then no longer waits; each other one
waits a clk more, which its core counts in STAGEWAIT; nothing moves while the cluster is held or asleep, and its completion
frees the buffer. -/
def Obligations.StagingBufferIsGrantedInOrder : Prop :=
  ∀ (s : State) (c : ClusterId),
    let x := s.cluster c
    (x.hold ≠ [] ∨ x.asleep = true → exec (.stagingGrant c) s = .next s) ∧
    (x.hold = [] → x.asleep = false →
      (∀ r rest, x.stage = none → x.stageQ = r :: rest → ∃ t, exec (.stagingGrant c) s = .next t ∧ (t.cluster c).stage = some r ∧
        (t.cluster c).stageQ = rest ∧ (∀ f ∈ (t.core r.core).fly, f.bundle = r.bundle → f.slot = r.slot → f.waiting = false) ∧
        (∀ q, q ≠ r.core → (∀ y ∈ rest, y.core ≠ q) → t.core q = s.core q) ∧
        t = { s with cores := t.cores, clusters := t.clusters, csr := t.csr } ∧ (rest = [] → t.csr = s.csr)) ∧
      (∀ y r, x.stage = some y → x.stageQ = [r] → ∃ t, exec (.stagingGrant c) s = .next t ∧ t.core r.core = r.delay (s.core r.core) ∧
        (∀ q, q ≠ r.core → t.core q = s.core q) ∧ t = { s with cores := t.cores, csr := t.csr } ∧
        (∀ i, i ≠ rg (fnCore r.core) 0x0C8 → t.rd i = s.rd i) ∧
        t.rd (rg (fnCore r.core) 0x0C8) = (s.bump (rg (fnCore r.core) 0x0C8) 47 0 1).rd (rg (fnCore r.core) 0x0C8) ∧
        ∀ f ∈ (s.core r.core).fly, f.bundle = r.bundle → f.slot = r.slot → f.move 1 ∈ (t.core r.core).fly)) ∧
    ∀ (p : CoreId) (f : Flight) (r : StageReq), x.stage = some r → clusterOf p = c.val → r.core = p.val → r.bundle = f.bundle →
      r.slot = f.slot → (s.freeStage p f) = s.setCluster c { x with stage := none }

/-- O27. The ledger applies a fold message to its slot while it is READY (R68): lanes and count add, the marks join, slot 0 is
never written; while READY is 0 the message stays in its queue; LEDGER_CLEAR_DONE, once the chip is out of reset and the hub
runs, clears every slot and sets READY. -/
def Obligations.LedgerAppliesFoldMessages : Prop :=
  (∀ (s : State) (c : ClusterId) (m : FoldMsg) (r : List FoldMsg), (s.cluster c).folds = m :: r → s.flag (rg fnLedger 0) 0 = true →
    ∃ t, exec (.foldMessage c) s = .next t ∧ (t.cluster c).folds = r ∧ t.mem = s.mem ∧ t.cores = s.cores ∧
      (∀ n, tget slot0 t.ledger.slots n = if n = m.slot ∧ n ≠ 0 then
          (let x := tget slot0 s.ledger.slots n
           { l0 := x.l0 + m.l0, l1 := x.l1 + m.l1, count := x.count + BitVec.ofNat 64 m.count,
             poison := x.poison || m.poison, full := x.full || m.full })
        else tget slot0 s.ledger.slots n)) ∧
  (∀ (s : State) (c : ClusterId), s.flag (rg fnLedger 0) 0 = false → exec (.foldMessage c) s = .next s) ∧
  (∀ s : State, s.flag (rg fnLedger 0) 0 = false → s.running = true → s.hubOn = true → ∃ t, exec .ledgerClearDone s = .next t ∧
    t.ledger = ⟨[], []⟩ ∧ t.flag (rg fnLedger 0) 0 = true ∧ t.mem = s.mem ∧ t.cores = s.cores) ∧
  ∀ s : State, s.flag (rg fnLedger 0) 0 = true ∨ s.running = false ∨ s.hubOn = false → exec .ledgerClearDone s = .next s

/-! Splices. -/

/-- O28. SPLICE_BEGIN (R53, R277, R278): with every virtual core arrived or halted at one entry the splice of that entry
begins, with none running, or all halted, and a program waiting the binding splice under entry 0 begins, and a virtual core still
running keeps the span; different entries stop the job, and so does a splice that has no SCH to run it. -/
def Obligations.SpliceBeginsWhenAllHaveArrived : Prop :=
  ∀ (s : State) (j : JobId),
    let x := s.job j
    let n := x.firstSidx.getD 0
    let begins (sidx : Nat) (binding : Bool) : Prop := ∃ t, exec (.spliceBegin j) s = .next t ∧ (t.job j).phase = .quiesce ∧
      (t.job j).sidx = sidx ∧ (t.job j).binding = binding ∧ (t.job j).waited = 0 ∧ (t.job j).step = x.step ∧ t.cores = s.cores
    x.phase = .span → s.stopped j = false → x.retract = none →
    (s.mismatched j = true → exec (.spliceBegin j) s = .next (s.bindStop j 0x14 n)) ∧
    (s.mismatched j = false → x.prog.isSome → s.allHalted j = false →
      ((s.runsOf j).all (fun r => r.isArrived || r.isHalted) = false → exec (.spliceBegin j) s = .next s) ∧
      ((s.runsOf j).all (fun r => r.isArrived || r.isHalted) = true →
        (s.boundClusters j).any (fun c => (s.cluster c).swapping) = false → s.boot.dead.contains 2 = false →
        ((s.openSplice j n false).stuckOf j (s.boundClusters j) true = none → begins n false)) ∧
      ((s.runsOf j).all (fun r => r.isArrived || r.isHalted) = true →
        (s.boundClusters j).any (fun c => (s.cluster c).swapping) = false → s.boot.dead.contains 2 = true →
        exec (.spliceBegin j) s = .next (s.reportStop 0x60 fnSch j { unit := 2 }))) ∧
    (s.mismatched j = false → x.prog = none ∨ s.allHalted j = true →
      (x.pending.isSome → begins 0 true) ∧ (x.pending = none → exec (.spliceBegin j) s = .next s))

/-- O29. QUIESCE_DONE (R53, R62, R278): what has not ended keeps the splice and is counted in SPLICEWAIT from the 33rd clk on, a
command being one clk (log entry 1); a quiet job goes on to the gates, and at a step boundary to the next step with attempt 0, the
step that ends waiting for its seal. -/
def Obligations.QuiesceEndsTheSpan : Prop :=
  ∀ (s : State) (j : JobId),
    let x := s.job j
    x.phase = .quiesce → s.stopped j = false → s.stuckOf j (s.boundClusters j) true = none →
    (s.quiet j = false → ∃ t, exec (.quiesceDone j) s = .next t ∧ t.job j = { x with waited := x.waited + 1 } ∧
      t.rd (rg fnSch 0x010) = (s.spliceWait (if x.waited < 32 then 0 else 1)).rd (rg fnSch 0x010) ∧ t.cores = s.cores) ∧
    (s.quiet j = true → ∃ t, exec (.quiesceDone j) s = .next t ∧ (t.job j).phase = .gates ∧ (t.job j).sidx = x.sidx ∧
      (x.stepMark = false → (t.job j).step = x.step ∧ (t.job j).attempt = x.attempt ∧ (t.job j).ordinal = x.ordinal + 1) ∧
      (x.stepMark = true → (t.job j).step = x.step + 1 ∧ (t.job j).attempt = 0 ∧ (t.job j).vary = false ∧
        (t.job j).unsealed = some (x.step, x.attempt) ∧ (t.job j).unsealedVary = x.vary))

/-- O30. The phases between the drain and the load (Table 9.4, R278, R385): closed gates keep the splice and are counted, one clk
a command (log entry 1), open ones lead to the mode change, which a pending chip mode keeps; a dead SCH stops the job; the chip
mode applies when every job stands there or splices no more; then the reserved slot, the swap back to round 0, and the load. -/
def Obligations.SplicePhasesFollowEachOther : Prop :=
  ∀ (s : State) (j : JobId),
    let x := s.job j
    let u := s.serveGates j
    let y := u.job j
    s.stopped j = false →
    (x.phase = .gates → s.boot.dead.contains 2 = true → exec (.gatesOpen j) s = .next (s.reportStop 0x60 fnSch j { unit := 2 })) ∧
    (x.phase = .gates → s.boot.dead.contains 2 = false → u.gatesClosed j = true ∨ u.servicesHold j = true → ∃ t, exec (.gatesOpen j) s = .next t ∧
      t.job j = { y with gateClk := y.gateClk + 1 } ∧ t.rd (rg fnSch 0x010) = (u.spliceWait 1).rd (rg fnSch 0x010)) ∧
    (x.phase = .gates → s.boot.dead.contains 2 = false → u.gatesClosed j = false → u.servicesHold j = false →
      ∃ t, exec (.gatesOpen j) s = .next t ∧
        t.job j = { y with phase := .modeChange, applying := y.staged.length, updating := (u.entry j).update || y.updating }) ∧
    (∀ bad, x.phase = .modeChange → s.cmds.chip.isSome → x.prog.isSome → exec (.modeChangeDone j bad) s = .next (s.spliceWait 1)) ∧
    (∀ bad, x.phase = .modeChange → s.cmds.chip = none ∨ x.prog = none → ∃ t, exec (.modeChangeDone j bad) s = .next t ∧
      (t.job j).phase = .reserved ∧ (t.job j).step = x.step ∧ t.clusters = s.clusters) ∧
    (x.phase = .reserved → exec (.reservedSlotDone j) s = .next (s.setJob j { x with phase := .swap })) ∧
    (x.phase = .swap → ∃ t, exec (.swapDone j) s = .next t ∧ (t.job j).phase = .load ∧
      ∀ c ∈ s.boundClusters j, (t.cluster c).round = 0) ∧
    (∀ i, s.cmds.chip = some i → s.pwrUp = true →
      s.definedJobs.all (fun k => (s.job k).prog.isNone || s.unspliced k || (s.job k).phase == .modeChange) = true →
      ∃ t, exec .chipModeApply s = .next t ∧ t.cmds.chip = none ∧ t.cores = s.cores ∧
        (fieldLE (s.strandRec i) 2 1 < 2 → t.fld (rg fnChip 0x030) 32 32 = fieldLE (s.strandRec i) 2 1) ∧
        (fieldLE (s.strandRec i) 3 1 < 4 → t.fld (rg fnChip 0x030) 35 34 = fieldLE (s.strandRec i) 3 1))

/-- O31. LOAD_PHASE and SPAN_RELEASE (Table 9.4, R279, R253): a program that stays and may be bound is loaded; the release
puts every virtual core that has not halted in its next span: in open cadence at once, in fixed cadence at the next frame
boundary, at an aligned splice or a restart from the release beat on. -/
def Obligations.LoadAndReleaseStartTheSpan : Prop :=
  ∀ (s : State) (j : JobId),
    let x := s.job j
    let w := (256 - (s.clk - s.hbm.frameAt) % 256) % 256
    let released (ticks : Nat) : Prop := ∃ t, exec (.spanRelease j) s = .next t ∧ (t.job j).phase = .span ∧
      (t.job j).release = none ∧ (t.job j).firstSidx = none ∧ (t.job j).step = x.step ∧ t.clk = s.clk + ticks ∧
      (∀ p ∈ s.coresOfJob j, (t.core p).v.run = if (s.core p).v.run.isHalted then .halted else .running)
    s.stopped j = false →
    (x.phase = .load → x.pending = none → x.prog = none ∨ x.binding = true → exec (.loadPhase j) s =
      .next ((s.setJob j { x with phase := .span, binding := false }).applyStrands j x.applying)) ∧
    (∀ g, x.phase = .load → x.pending = none → x.prog = some g → x.binding = false → s.moved j = false →
      (∀ e, s.bindBad j g.image = some e → exec (.loadPhase j) s = .next (s.bindStop j e x.sidx)) ∧
      (s.bindBad j g.image = none → x.aligned = false → ∃ t, exec (.loadPhase j) s = .next t ∧ (t.job j).phase = .align ∧
        (t.job j).started = true ∧ (t.job j).prog = some g ∧ t.mem = s.mem)) ∧
    (x.phase = .align → (∀ p ∈ s.coresOfJob j, (s.core p).fly = []) →
      (s.tetherOk j = false → exec (.spanRelease j) s = .next (s.spliceWait 1)) ∧
      (s.tetherOk j = true → x.release = none → x.aligned = false → s.fixed = false → released 0) ∧
      (s.tetherOk j = true → x.release = none → x.aligned = false → s.fixed = true → released w) ∧
      (s.tetherOk j = true → x.release = none → x.aligned = true →
        exec (.spanRelease j) s = .next ((s.tryGather (s.group j)).spliceWait 1)) ∧
      (s.tetherOk j = true → ∀ b, x.release = some b → b ≤ s.beat.toNat → released 0) ∧
      (s.tetherOk j = true → ∀ b, x.release = some b → s.beat.toNat < b →
        exec (.spanRelease j) s = .next (if x.retract.isSome then s else s.spliceWait 1)))

/-- O32. ROUND_BOUNDARY and ROUND_SWAP_DONE (R272, R273, R526): when the virtual cores of a cluster's round have arrived or
halted and are quiet, the cluster goes to its next round that has a virtual core to run; the swap ends and the round
starts. -/
def Obligations.RoundsFollowWithinASpan : Prop :=
  ∀ (s : State) (c : ClusterId),
    (∀ j r, s.jobOf c = some j → s.nextRound j c = some r → (s.job j).phase = .span → s.stopped j = false →
      (s.cluster c).swapping = false →
      (∀ p ∈ s.roundCores j c, (s.core p).v.run.isArrived || (s.core p).v.run.isHalted) →
      s.stuckOf j [c] false = none → s.roundQuiet j c = true →
      ∃ t, exec (.roundBoundary c) s = .next t ∧ (t.cluster c).swapping = true ∧ (t.cluster c).round = r ∧
        (∀ d, d ≠ c.val → (t.cluster d).round = (s.cluster d).round)) ∧
    ((s.cluster c).swapping = true → ∃ t, exec (.roundSwapDone c) s = .next t ∧ (t.cluster c).swapping = false ∧
      (t.cluster c).round = (s.cluster c).round ∧ t.mem = s.mem ∧ t.jobs = s.jobs ∧
      (∀ p ∈ coresOf c, (t.core p).now = 0) ∧ ∀ p, (t.core p).v.g = (s.core p).v.g)

/-! Streams and HBM. -/

/-- O33. A stream descriptor starts, or is rejected with a stream fault that stops its thread and its job (R239, R242, R257);
a thread issues a granule request within its credits (R244, R247), one that goes on in an entry that has its credit without
another where none is left, and at most 8 a clk; an outbound entry whose last byte
has been read leaves its queue (R245). -/
def Obligations.StreamsStartRequestAndReturnCredits : Prop :=
  ∀ (s : State) (c : ClusterId) (n : Fin 64) (j : Nat),
    let t := s.thread c n
    s.jobOf c = some j →
    (∀ r l, t.list = r :: l → t.started = false → t.stopped = false → s.flowing j c t.outbound = true →
      ∀ p, s.coreFor j c (sdOf r).vcore = some p →
      (s.rejects j (sdOf r) = none → exec (.streamDescriptorStart c n) s = .next (s.setThread c n
        (let u := { t with started := true, asked := 0, done := 0, buf := [], pour := [], planned := 0
                           outQ := if (sdOf r).out ∧ !t.outQ.contains (p, (sdOf r).sq) then t.outQ ++ [(p, (sdOf r).sq)] else t.outQ }
         if (sdOf r).total = 0 then u.finish else u))) ∧
      (∀ code page, s.rejects j (sdOf r) = some (code, page) → ∃ u, exec (.streamDescriptorStart c n) s = .next u ∧
        (u.thread c n).stopped = true ∧ u.stopped j = true)) ∧
    exec (.granuleRequest c) s = .next (let u := s.requests j c 8
      u.setCluster c { u.cluster c with ticks := (u.cluster c).ticks + 1 }) ∧
    (∀ seq d p, t.running = some d → s.coreFor j c d.vcore = some p → d.out = false → d.net = false → t.stopped = false →
      t.asked < d.total → (s.cluster c).outstanding < 2048 → s.flowing j c t.outbound = true →
      let q := (s.core p).v.queue d.sq
      let k := (d.piece t.asked).2
      let new := cdiv (t.asked + k) q.entry - cdiv t.asked q.entry
      (q.credits = 0 → t.asked % q.entry = 0 → s.requestOne j c n seq = none) ∧
      (q.credits ≠ 0 ∨ t.asked % q.entry ≠ 0 → ∃ u, s.requestOne j c n seq = some u ∧
        ((u.core p).v.queue d.sq) = { q with credits := q.credits - min new q.credits, begun := q.begun + min new q.credits } ∧
        (u.thread c n).asked = t.asked + k ∧ (u.thread c n).flight = t.flight + 1 ∧ u.mem = s.mem)) ∧
    (let head := t.outQ.find? (fun e => ((s.core e.1).v.queue e.2).headRead);
      (head = none → exec (.outboundEntryRead c n) s = .next s) ∧
      ∀ p q, head = some (p, q) →
        let was := (s.core p).v.queue q
        ((s.cluster c).hold ≠ [] ∨ (s.cluster c).asleep = true → exec (.outboundEntryRead c n) s = .next s) ∧
        ((s.cluster c).hold = [] → (s.cluster c).asleep = false → ∃ u e l, exec (.outboundEntryRead c n) s = .next u ∧
          was.out = e :: l ∧ ((u.core p).v.queue q).out = l ∧ ((u.core p).v.queue q).readOff = was.readOff - e.len ∧
          u = { s with cores := u.cores } ∧ ∀ k, k ≠ p → u.core k = s.core k))

/-- O34. HBM serves its FIFOs in order (R253 to R256, R525): a thread's oldest request joins its FIFO, in fixed cadence a
request for which no slot is planned is a stream fault; a data slot serves the head of its class if its owner code
matches (any head in open cadence), reading a granule for the thread or storing its bytes; a partial write takes a read
slot first; a refresh counts, and one that a re-phase postponed with it. -/
def Obligations.HbmServesItsFifosInOrder : Prop :=
  ∀ (s : State) (n : StackId) (pch : Fin 32), s.hbmReady n = true →
    (∀ (cls : Fin 32) (r : Request), s.joinNext n pch cls = some r → (s.fifo n pch cls).length < 32 →
      (s.fixed = false ∨ s.servable r = true → ∃ t, exec (.fifoJoin n pch cls) s = .next t ∧
        t.fifo n pch cls = s.fifo n pch cls ++ [r] ∧
        (t.thread r.cluster r.thread).waiting = (s.thread r.cluster r.thread).waiting.drop 1 ∧
        t = { s with clusters := t.clusters, hbm := t.hbm }) ∧
      (s.fixed = true → s.servable r = false →
        exec (.fifoJoin n pch cls) s = .next (s.streamFault r.job r.cluster r.thread 0x05 (pageOf r.addr % 2 ^ 26)))) ∧
    (∀ (pos : Fin 192) (cls owner : Nat) (r : Request) (rest : List Request), s.slotAt n pos = (0, cls, owner) → s.fifo n pch cls = r :: rest →
      let serves (w : Bool) : Prop := s.fixed = false ∨ ownerServes owner w r.use r.job = true
      (r.write = false → serves false → ∃ t, exec (.hbmSlotServe n pch pos) s = .next t ∧ t.fifo n pch cls = rest ∧
        t.mem = s.mem ∧ ∃ q ∈ (t.thread r.cluster r.thread).served, q.pos = r.pos ∧ q.data = s.mem.bytes r.addr r.len) ∧
      (r.write = true → r.merged = true → serves true → ∃ t, exec (.hbmSlotServe n pch pos) s = .next t ∧
        t.fifo n pch cls = rest ∧ t.mem = s.mem.store r.addr r.data) ∧
      (r.write = true → r.merged = false → serves false → ∃ t, exec (.hbmSlotServe n pch pos) s = .next t ∧
        t.fifo n pch cls = { r with merged := true } :: rest ∧ t.mem = s.mem)) ∧
    (∀ pos : Fin 192, s.fixed = false ∨ (s.slotAt n pos).1 = 1 → ∃ t, exec (.hbmRefresh n pch pos) s = .next t ∧
      let k := 32 * n.val + pch.val
      tget z0 t.hbm.refreshes k = tget z0 s.hbm.refreshes k + 1 + min (tget z0 s.hbm.owed k) 1 ∧
      tget z0 t.hbm.owed k = tget z0 s.hbm.owed k - 1 ∧ t = { s with hbm := t.hbm, csr := t.csr })

/-- O35. What a stream or a planned network entry delivers (R241, R244, R280 to R284): granules in stream order reach the
entry being filled of their queue, in the scratchpad of the thread's core, and no other byte; an entry that is not there
in its planned clk holds the cluster, one clk a command of the entry missed first (log entry 1), one that is there leaves the
receive buffer and frees the cluster of its hold; a hold beyond HOLDLIMIT stops the job. -/
def Obligations.DeliveryFillsTheQueueInOrder : Prop :=
  ∀ (s : State) (c : ClusterId) (n : Fin 64) (j p : Nat) (d : Sd),
    let t := s.thread c n
    let x := s.cluster c
    let q := (s.core p).v.queue d.sq
    let w := window p + q.area + q.visible % (max 1 q.depth) * q.entry + q.fill
    s.jobOf c = some j → t.running = some d → s.coreFor j c d.vcore = some p →
    (∀ r l, t.served = r :: l → t.pour = [] → r.pos = t.done → s.flowing j c t.outbound = true → d.out = false → d.net = false →
      d.xch = false → t.done + r.len < d.total → q.fill + r.data.length < q.entry →
      r.data.length ≤ (q.begun - q.visible) * q.entry - q.fill + q.credits * q.entry →
      ∃ u, exec (.granuleDelivered c n) s = .next u ∧ (u.thread c n).done = t.done + r.len ∧ (u.thread c n).served = l ∧
        ((u.core p).v.queue d.sq).fill = q.fill + r.data.length ∧
        (∀ i, i < r.data.length → u.mem.byte (w + i) = r.data.getD i 0) ∧
        ∀ a, a < w ∨ w + r.data.length ≤ a → u.mem.byte a = s.mem.byte a) ∧
    (∀ f e l, t.plan = (f, e) :: l → d.net = true → t.stopped = false →
      (s.job j).phase = .span ∨ ((s.job j).phase = .quiesce ∧ t.outbound = true) → x.asleep = false →
      x.hold.contains .throttle = false → (0 < q.credits ∨ q.depth = 0) →
      let why : HoldWhy := if s.fromPlane j d.rq then .plane n.val else .tether n.val
      (x.rx.find? (fun y => y.thread == n.val && y.rq == d.rq) = none →
        x.hold = [] ∨ x.hold.contains why = true ∨ x.rx.any (fun y => y.rq == d.rq) = false →
        ∃ u, exec (.plannedEntryRelease c n) s = .next u ∧ (u.cluster c).hold.contains why = true ∧
        (u.cluster c).holdClk = x.holdClk + (if (x.hold ++ [why]).head? = some why then 1 else 0) ∧ u.mem = s.mem ∧ u.cores = s.cores) ∧
      (∀ y, x.rx.find? (fun y => y.thread == n.val && y.rq == d.rq) = some y → x.hold = [] ∨ x.hold.contains why = true →
        t.done + q.entry < d.total → ∃ u, exec (.plannedEntryRelease c n) s = .next u ∧ (u.cluster c).rx = x.rx.erase y ∧
        (u.cluster c).hold.contains why = false ∧
        (u.thread c n).planned = t.planned + 1 ∧ ((u.core p).v.queue d.sq).begun = q.begun + 1)) ∧
    (x.hold ≠ [] → s.holdLimit c < x.holdClk → exec (.holdTimeout c) s = .next
      (s.reportStop 0x24 (fnCluster c) j { code := 0, unit := c, d0 := x.holdClk / 1000 }))

/-- O36. A spill queue in use takes a granule at P, or waits and counts when it is full, and gives the granule at Q while it
is below the commit point C (R249, R250). -/
def Obligations.SpillQueuesKeepTheirOrder : Prop :=
  ∀ (s : State) (q : Fin 128) (data : List Byte) (poison : Bool),
    let x := s.spill q
    s.spillSize q ≠ 0 →
    (s.spillFull q = true → exec (.spillqWrite q data poison) s = .next (s.setSpill q { x with full := x.full + 1 })) ∧
    (s.spillFull q = false → data.length = 64 → ∃ t, exec (.spillqWrite q data poison) s = .next t ∧
      t.spill q = { x with p := x.p + 1 } ∧ t.mem = s.mem.store (s.spillAt q x.p) data ∧ ∀ k, k ≠ q.val → t.spill k = s.spill k) ∧
    (ahead x.q x.c = 0 → exec (.spillqRead q) s = .next s) ∧
    (ahead x.q x.c ≠ 0 → ∃ t, exec (.spillqRead q) s = .next t ∧ (t.spill q).q = x.q + 1 ∧
      (t.spill q).last = s.mem.bytes (s.spillAt q x.q) 64 ∧ (t.spill q).p = x.p ∧ (t.spill q).c = x.c ∧ t.mem = s.mem)

/-! The tether. -/

/-- O37. TETHER_FRAME_TX (R297, R298, R301, R303, R314): at a time that is a multiple of 64 a READY link sends the oldest
frame to resend, marked REPLAY, or else a new frame with the next FSEQ, up to five waiting control messages and 50 slots,
and keeps it for a resend; a link in training sends frames without slots, with an ECHO while it measures its delay; each goes
out as the coded symbols of its eight lanes. Between those times nothing is sent. A chip that is not LOCKED counts its own
ns (log entry 34). -/
def Obligations.TetherSendsFramesInSequence : Prop :=
  ∀ (s : State) (l : LinkId),
    let x := s.link l
    let now := s.linkTime
    let wire (f : Frame) : List (List Pam4) := toLanes x.scrTx (codedBytes (protectedBytes f x.corrupt))
    (now % 64 ≠ 0 ∨ x.failing.isSome ∨ x.sentAt = now + 1 → exec (.tetherFrameTx l) s = .next s) ∧
    (now % 64 = 0 → x.failing = none → x.sentAt ≠ now + 1 →
      (s.linkReady l = false → s.linkTrains l = false → exec (.tetherFrameTx l) s = .next s) ∧
      (s.linkTrains l = true → ∃ t f, exec (.tetherFrameTx l) s = .next t ∧ (t.link l).out = some f ∧ f.fseq = x.txSeq ∧
        f.slots = List.replicate 50 emptySlot ∧ (t.link l).txSeq = x.txSeq + 1 ∧ (t.link l).lanes = wire f ∧ t = { s with net := t.net } ∧
        (s.flag (rg (fnTether l) 0) 1 = true → s.rec1 1 ≠ [] → x.measured = false →
          ∃ m ∈ f.ctl, m.is 0x01 = true ∧ m.hi = BitVec.ofNat 64 now ∧ m.at 1 1 = l.val)) ∧
      (s.linkReady l = true →
        (∀ q, x.sent.find? (fun q => x.resend.head? == some q.frame.fseq) = some q →
          let f := { q.frame with replay := true, ack := x.rxSeq, nak := x.nak }
          ∃ t, exec (.tetherFrameTx l) s = .next t ∧ (t.link l).out = some f ∧ (t.link l).lanes = wire f ∧
            (t.link l).txSeq = x.txSeq ∧ t = { s with net := t.net, csr := t.csr }) ∧
        (x.sent.find? (fun q => x.resend.head? == some q.frame.fseq) = none → s.linkCarrying l = false → x.frameTime ≤ now →
          ∃ t f, exec (.tetherFrameTx l) s = .next t ∧ (t.link l).out = some f ∧ (t.link l).lanes = wire f ∧
            f.fseq = x.txSeq ∧ f.ack = x.rxSeq ∧ f.nak = x.nak ∧ f.replay = false ∧ f.carry = false ∧
            f.ctl = (x.ctl.take 5).map (stampCtl now) ∧
            f.beat = BitVec.ofNat 64 (if s.flag kPodstat 16 then min now (s.nextTime l x.frameTime now) else 0) ∧
            f.slots.length = 50 ∧ (t.link l).txSeq = x.txSeq + 1 ∧ (t.link l).ctl = x.ctl.drop 5 ∧ t.mem = s.mem)))

/-- O38. TETHER_FRAME_RX and SLOTS_AVAILABLE (R297, R302, R303): the symbols of the lanes are decoded; a frame that fails asks
for a resend; one in order is acknowledged and kept until its slots are available; one beyond the next FSEQ asks for a
resend; the slots of the oldest available frame join their entries, earlier times first, and in one clk ascending links. -/
def Obligations.TetherReceivesFramesInOrder : Prop :=
  ∀ (s : State) (l : LinkId) (w : Wiring) (lanes : List (List Pam4)),
    let x := s.link l
    (s.linkFailed l = true ∨ s.flag (rg (fnTether l) 0) 5 = true → exec (.tetherFrameRx l w lanes) s = .next s) ∧
    (s.linkFailed l = false → s.flag (rg (fnTether l) 0) 5 = false →
      (∃ t, exec (.tetherFrameRx l w lanes) s = .next t ∧ (t.link l).scrRx = lanesNext x.scrRx (s.rxLanes l w lanes) ∧
        (t.link l).wiring = s.wiringOf l w) ∧
      (s.readFrame l w lanes = none → ∃ t, exec (.tetherFrameRx l w lanes) s = .next t ∧ (t.link l).good = 0 ∧
        (t.link l).bad = min 4 (x.bad + 1) ∧ (s.linkReady l = true → (t.link l).nak = true) ∧ (t.link l).rxSeq = x.rxSeq ∧
        t = { s with net := t.net, csr := t.csr }) ∧
      (∀ n f, s.readFrame l w lanes = some (n, f) →
        let due := f.beat.toNat + s.fld (rg fnClk 0x050) 47 32
        (s.linkReady l = false → (∀ m ∈ f.ctl, m.is 0x01 = false ∧ m.is 0x02 = false) →
          ∃ t, exec (.tetherFrameRx l w lanes) s = .next t ∧ (t.link l).bad = 0 ∧ (t.link l).lockSeq = f.fseq ∧
            t = { s with net := t.net, csr := t.csr }) ∧
        (s.linkReady l = true → f.nak = false → x.nak = false →
          (f.fseq = x.rxSeq + 1 → f.carry = false → f.ctl = [] → x.lastTime ≤ f.beat.toNat →
            ∃ t, exec (.tetherFrameRx l w lanes) s = .next t ∧ (t.link l).rxSeq = f.fseq ∧ (t.link l).acked = f.ack ∧
              (t.link l).arrived = x.arrived ++ [⟨max s.beat.toNat due, decide (due < s.beat.toNat), f⟩] ∧ t.mem = s.mem ∧ t.jobs = s.jobs) ∧
          (f.fseq ≠ x.rxSeq + 1 → f.fseq ≠ x.rxSeq → (f.fseq - x.rxSeq).toNat < 32768 →
            ∃ t, exec (.tetherFrameRx l w lanes) s = .next t ∧ (t.link l).nak = true ∧ (t.link l).rxSeq = x.rxSeq ∧
              (t.link l).arrived = x.arrived ∧ t.mem = s.mem)))) ∧
    (x.arrived = [] → exec (.slotsAvailable l) s = .next s) ∧
    (∀ a r, x.arrived = a :: r →
      (s.beat.toNat < a.avail → exec (.slotsAvailable l) s = .next s) ∧
      (a.avail ≤ s.beat.toNat → (∀ b ∈ r.head?, a.avail < b.avail) →
        (∀ k : LinkId, k ≠ l → ∀ b ∈ (s.link k).arrived.head?, a.avail < b.avail ∨ (a.avail = b.avail ∧ l < k)) →
        exec (.slotsAvailable l) s = .next (s.writeFrame l)) ∧
      (∀ k : LinkId, ∀ b q, a.avail ≤ s.beat.toNat → k < l → (s.link k).arrived = b :: q → b.avail ≤ a.avail →
        (∀ d ∈ q.head?, a.avail < d.avail) → (∀ d ∈ r.head?, a.avail < d.avail) →
        (∀ i : LinkId, i ≠ l → i ≠ k → (s.link i).arrived = []) → exec (.slotsAvailable l) s = .next ((s.writeFrame k).writeFrame l))) ∧
    (∀ a r q, x.arrived = a :: r → a.frame.slots = [q] → q.v = true → q.last = false →
      let k := l.val * 4096 + (if q.re then 2048 else 0) + q.job.toNat * 64 + q.rq.toNat
      ((s.writeFrame l).link l).arrived = r ∧ (s.writeFrame l).mem = s.mem ∧
        tget noMarked (s.writeFrame l).net.asm k = tget noMarked s.net.asm k ++ q.data.mapIdx (fun i b => (b, q.pmask.toNat.testBit (i / 8))))

/-- O39. A link that fails is fenced, and its partner carries it, or, where the partner has failed or the link was carrying it,
every job with a slot on the pair stops (R304, R306, R307); LOCK_LOST_TIMEOUT is a cause of failure (R304); INJECT's bits fail
a link, READY or not, or corrupt its next frame while the expert page is open (R316). -/
def Obligations.LinkFailureIsCarriedOrStopsJobs : Prop :=
  ∀ (s : State) (l : LinkId),
    let p := partner l
    (∀ cause : Fin 4,
      ((s.link l).failing ≠ some cause.val ∨ s.linkFailed l = true → exec (.linkFail l cause) s = .next s) ∧
      ((s.link l).failing = some cause.val → s.linkFailed l = false → ∃ t, exec (.linkFail l cause) s = .next t ∧
        t.linkFailed l = true ∧ t.linkReady l = false ∧ t.linkReady p = s.linkReady p ∧
        (s.linkFailed p = false → s.linkCarrying l = false → t.linkCarried l = true ∧ t.linkCarrying p = true) ∧
        (s.linkFailed p = true ∨ s.linkCarrying l = true → t.linkCarried l = false ∧ t.linkCarrying p = false ∧
          ∀ j ∈ s.definedJobs, j ∈ s.slotJobs l ∨ j ∈ s.slotJobs p → t.stopped j = true))) ∧
    (s.linkReady l = true → (s.link l).failing = none → (s.link l).lostAt ≠ 0 →
      ((s.link l).lostAt - 1 + 1000 < s.linkTime →
        exec (.lockLostTimeout l) s = .next (s.setLink l { s.link l with failing := some 3 })) ∧
      (s.linkTime ≤ (s.link l).lostAt - 1 + 1000 → exec (.lockLostTimeout l) s = .next s)) ∧
    (s.flag (rg (fnTether l) 0x020) 0 = true → exec (.tetherInjectFrame l) s = .next (s.setLink l { s.link l with corrupt := true }) ∧
      ∃ t, exec (.tetherInjectFail l) s = .next t ∧ t.linkFailed l = true ∧ (s.linkFailed l = true → t = s) ∧
        (s.linkFailed l = false → t.linkReady l = false)) ∧
    (s.flag (rg (fnTether l) 0x020) 0 = false → exec (.tetherInjectFrame l) s = .next s ∧ exec (.tetherInjectFail l) s = .next s)

/-- O40. LINK_TRAINING_DONE makes a link that has frame lock and its 64 echoes READY exactly if its peer obeys the cabling rule
and its delay both limits, and logs the error otherwise (R296, R314), where the command names what the echoes gave (the model's
choice, log entry 34);
HOLDOVER_TIMEOUT fences every link of the chip, ROOT_TAKEOVER makes the standby root the root (R310). -/
def Obligations.TrainingHoldoverAndTakeover : Prop :=
  ∀ s : State,
    (∀ (l : LinkId) (coord : BitVec 9) (dir : BitVec 3) (index : BitVec 2) (rtt oneway : W16),
      let d := linkDir l
      let peer := rg (fnTether l) 0x048
      let ns := s.fld (rg (fnTether l) 0x040) 15 0
      let sound := s.fld peer 8 0 = s.neighbourCoord d ∧ s.fld peer 11 9 = (if d % 2 = 0 then d + 1 else d - 1) ∧
        s.fld peer 13 12 = linkIndex l ∧ ns ≤ 416 ∧ ns + 192 ≤ s.fld (rg fnClk 0x050) 47 32
      let trained := s.linkTrains l = true ∧ s.flag (rg (fnTether l) 0) 1 = true ∧ (s.link l).measured = true ∧ s.rec1 1 ≠ [] ∧
        s.cabled l = true ∧ s.trainedAs l coord dir index rtt oneway = true
      (¬trained → exec (.linkTrainingDone l coord dir index rtt oneway) s = .next s) ∧
      (trained → ∃ t, exec (.linkTrainingDone l coord dir index rtt oneway) s = .next t ∧ (t.linkReady l = true ↔ sound) ∧
        (¬sound → t.rd (rg fnLog 0x008) = (s.bump (rg fnLog 0x008) 63 0 1).rd (rg fnLog 0x008) ∨ 4096 ≤ s.log.entries.length) ∧
        t.mem = s.mem ∧ t.jobs = s.jobs)) ∧
    (s.flag kPodstat 17 = true → s.net.holdover ≠ 0 → s.net.holdover - 1 + 10000000 ≤ s.beat.toNat →
      ∃ t, exec .holdoverTimeout s = .next t ∧ t.net.holdover = 0 ∧
        ∀ l : LinkId, s.flag (rg (fnTether l) 0) 5 = false → t.linkFailed l = true ∧ (s.linkFailed l = false → t.linkReady l = false)) ∧
    (s.rec1 1 ≠ [] → s.podByte 18 = 0xFF → s.isRoot = false → s.flag kPodstat 16 = true → ∃ t, exec .rootTakeover s = .next t ∧
      t.isRoot = true ∧ t.flag kPodstat 17 = false ∧ t.net.holdover = 0 ∧ t.jobs = s.jobs)

/-! Control messages. -/

/-- O41. The messages of the links (R310 to R312): an ECHO is answered on its link and names the peer, an ECHOREPLY adds a round
trip, and 64 of them the delay; a GATHER or RELEASE with another SEQ stops the group's jobs, a GATHER that leaves one missing
is kept, a RELEASE gives every waiting member its release beat, a ROOT from the chip's parent in the second tree makes it
follow the new root, locked to that parent. -/
def Obligations.LinkMessagesTakeEffect : Prop :=
  ∀ (s : State) (l : LinkId) (src : MsgSrc) (m : CtlMsg),
    let x := s.link l
    let g := m.group
    let y := s.grp g
    let trip := s.linkTime - m.hi.toNat - m.at 4 4
    (m.is 0x01 = true → ∃ t, exec (.echo l m) s = .next t ∧ t = { s with net := t.net, csr := t.csr } ∧ (t.link l).ctl = x.ctl ++
        [ctlMsg 0x02 (l + 256 * s.ownCoord + 2 ^ 24 * (s.linkTime % 2 ^ 32)) m.hi.toNat] ∧
      t.fld (rg (fnTether l) 0x048) 8 0 = m.at 2 2 % 512) ∧
    (m.is 0x02 = true → x.echoes.length < 63 → exec (.echoReply l m) s =
      .next ((s.seePeer l (m.at 1 1) (m.at 2 2)).setLink l { x with echoes := x.echoes ++ [trip] })) ∧
    (m.is 0x02 = true → x.echoes.length = 63 → ∃ t, exec (.echoReply l m) s = .next t ∧ (t.link l).echoes = [] ∧ (t.link l).measured = true ∧
      let sum := x.echoes.foldl (· + ·) 0 + trip
      t.fld (rg (fnTether l) 0x040) 31 16 = (sum + 32) / 64 % 65536 ∧ t.fld (rg (fnTether l) 0x040) 15 0 = (sum + 64) / 128 % 65536) ∧
    (src.isLink = true → m.at 2 2 ≠ y.seq.toNat →
      (m.is 0x03 = true → exec (.gather src m) s = .next (s.stopGroup g 0x16 (·.sidx))) ∧
      (m.is 0x04 = true → exec (.release src m) s = .next (s.stopGroup g 0x16 (·.sidx)))) ∧
    (src.isLink = true → m.at 2 2 = y.seq.toNat → m.is 0x03 = true →
      (s.childDirs g).all (sins src.num y.gathered).contains = false → exec (.gather src m) s =
        .next (s.setGrp g { y with gathered := sins src.num y.gathered, ready := max y.ready m.hi.toNat })) ∧
    (src.isLink = true → m.at 2 2 = y.seq.toNat → m.is 0x03 = true → (s.childDirs g).all (sins src.num y.gathered).contains = true →
      y.sentG = false → (s.members g).all (fun j => (s.job j).phase == .align && (s.job j).aligned && (s.job j).release.isNone) = true →
      ¬((s.members g).isEmpty = true ∧ (s.childDirs g).isEmpty = true) → s.isRoot = false → ∃ u : State, exec (.gather src m) s =
        .next (u.sendParent (ctlMsg 0x03 (g + 256 * y.seq.toNat) (max y.ready m.hi.toNat))) ∧ (u.grp g).sentG = true ∧
        u = { s with net := u.net }) ∧
    (src.isLink = true → m.at 2 2 = y.seq.toNat → m.is 0x04 = true → s.beat.toNat ≤ m.hi.toNat →
      ∃ t, exec (.release src m) s = .next t ∧ (t.grp g).seq = y.seq + 1 ∧ (t.grp g).gathered = [] ∧
        (∀ j ∈ s.members g, (s.job j).phase = .align → (s.job j).aligned = true → (s.job j).release = none →
          (t.job j).release = some m.hi.toNat) ∧ t.cores = s.cores) ∧
    (m.is 0x05 = true → src.isLink = true →
      let root := m.at 2 2 % 512 + 1
      (s.net.newRoot = root ∨ s.podByte 18 ≠ src.num → exec (.root src m) s = .next s) ∧
      (s.net.newRoot ≠ root → s.podByte 18 = src.num → ∃ t, exec (.root src m) s = .next t ∧ t.isRoot = false ∧ t.net.newRoot = root ∧
        t.net.holdover = 0 ∧ t.jobs = s.jobs ∧ t.cores = s.cores ∧
        ∀ q, (bundleLinks (s.podByte 18)).find? s.linkReady = some q → t.fld kPodstat 23 19 = q ∧ t.flag kPodstat 18 = true))

/-- O42. Seal and retract (R437 to R441): PASSes are collected for their step, and with the last one PASS goes up; SEAL closes
the members' step; FAIL, RETRACT and SEAL that come too late are counted and ignored; a FAIL goes up once; RETRACT stops
the members that run the step and clears their ledger ranges; QUIESCED is collected; RESTART puts a job back to the step
with the next attempt. -/
def Obligations.StepsAreSealedOrRetracted : Prop :=
  ∀ (s : State) (src : MsgSrc) (m : CtlMsg),
    let g := m.group
    let n := m.step
    let a := m.attempt
    let y := s.grp g
    let c := stepCode n a
    let got := sins src.num (if y.step = n ∧ y.attempt = a then y.passed else [])
    (s.sealStale g n a = true →
      (m.is 0x10 = true → exec (.pass src m) s = .next s) ∧ (m.is 0x11 = true → exec (.seal src m) s = .next s.ignoreSeal) ∧
      (m.is 0x12 = true → exec (.fail src m) s = .next s.ignoreSeal) ∧ (m.is 0x13 = true → exec (.retract src m) s = .next s.ignoreSeal)) ∧
    (s.sealStale g n a = false →
      (m.is 0x10 = true →
        (∃ t, exec (.pass src m) s = .next t ∧ (t.grp g).step = n ∧ (t.grp g).attempt = a) ∧
        (src.isLink = true → (s.childDirs g).all got.contains = false → ∃ t, exec (.pass src m) s = .next t ∧
          (t.grp g).passed = got ∧ (t.grp g).step = n ∧ (t.grp g).attempt = a ∧ t = { s with net := t.net }) ∧
        (src.isLink = true → (s.childDirs g).all got.contains = true → (y.step = n → y.attempt = a → y.sentP = false) →
          (s.members g).all (fun j => (s.job j).unsealed == some (n, a) && (s.job j).passed) = true → s.isRoot = false →
          ∃ u : State, exec (.pass src m) s = .next (u.sendParent (stepMsg 0x10 g n a)) ∧ (u.grp g).passed = got ∧ (u.grp g).sentP = true ∧
            u = { s with net := u.net })) ∧
      (m.is 0x11 = true → ∃ t, exec (.seal src m) s = .next t ∧ (t.grp g).sealed = n + 1 ∧ t.cores = s.cores ∧
        ∀ j ∈ s.groupJobs g, (s.job j).unsealed = some (n, a) →
          (t.job j).unsealed = none ∧ (t.job j).sealed = (n, a) :: (s.job j).sealed) ∧
      (m.is 0x12 = true →
        (s.asSealRoot src = true → y.answered = c → exec (.fail src m) s = .next (s.noteRoot src g)) ∧
        (s.asSealRoot src = false ∨ y.answered ≠ c → ∃ t, exec (.fail src m) s = .next t ∧ (t.grp g).failed = c) ∧
        (src.isLink = true → s.isSealRoot = false → s.isRoot = false → y.failed ≠ c →
          exec (.fail src m) s = .next ((s.setGrp g { y with failed := c, origin := m.at 3 3 }).sendParent (failMsg g n a (m.at 3 3)))) ∧
        (s.asSealRoot src = false → y.failed = c → src.isLink = true → exec (.fail src m) s = .next s)) ∧
      (m.is 0x13 = true →
        (∃ t, exec (.retract src m) s = .next t ∧ (t.grp g).retracted = c) ∧
        ((∀ j ∈ s.groupJobs g, s.runsStep j n a = false) → s.quietGroup g = false → ∃ t,
          exec (.retract src m) s = .next t ∧ (t.grp g).retracted = c ∧ t = { s with net := t.net }) ∧
        (s.isSealRoot = false → s.isRoot = false → a < 254 → ∃ t, exec (.retract src m) s = .next t ∧
          ∀ j ∈ s.groupJobs g, s.runsStep j n a = true → (t.job j).retract = some a ∧ (t.job j).phase = .span ∧
            (t.job j).step = (s.job j).step ∧
            ∀ i, i < s.ledgerCount j → tget slot0 t.ledger.slots (s.ledgerBase j + i) = slot0 (s.ledgerBase j + i)))) ∧
    (m.is 0x14 = true →
      (y.retracted ≠ c → y.answered ≠ c → exec (.quiesced src m) s = .next s) ∧
      (y.retracted = c ∨ y.answered = c → ∃ t, exec (.quiesced src m) s = .next t ∧ src.num ∈ (t.grp g).quiesced) ∧
      (src.isLink = true → y.retracted = c → y.sentQ = false → s.isSealRoot = false →
        (s.childDirs g).all (sins src.num y.quiesced).contains = false → exec (.quiesced src m) s =
          .next (s.setGrp g { y with quiesced := sins src.num y.quiesced }))) ∧
    (m.is 0x15 = true →
      (y.retracted = 0 → exec (.restart src m) s = .next s) ∧
      (∀ k b, y.retracted = stepCode k b → m.attempt = b + 1 → m.at 3 5 = k % 2 ^ 40 → ∃ t, exec (.restart src m) s = .next t ∧
        ∀ j ∈ s.groupJobs g, (s.job j).retract = some b → s.stopped j = false → (s.job j).phase = .span →
          (t.job j).step = k ∧ (t.job j).attempt = b + 1))

/-- O43. Membership (R339, R340): an MDOWN not seen before makes the entry that it names SUSPECT unless it is DOWN, and
goes on; MGEN announces a generation's step once; an open connection that has been silent for 8 ms makes its peer
SUSPECT. -/
def Obligations.MembershipMessagesMarkPeers : Prop :=
  ∀ (s : State) (src : MsgSrc) (m : CtlMsg),
    (m.is 0x20 = true → s.net.mdowns.contains m = true → exec (.mdown src m) s = .next s) ∧
    (m.is 0x20 = true → s.net.mdowns.contains m = false → ∃ t, exec (.mdown src m) s = .next t ∧ t.net.mdowns = s.net.mdowns ++ [m] ∧
      t.jobs = s.jobs ∧ t.cores = s.cores ∧
      (∀ i, s.peerOf (m.at 1 3) = some i → s.peerState i ≠ 3 → s.peerState i ≠ 2 → s.rings.events.length < 256 → s.schReady = false →
        t.peerState i = 2)) ∧
    (m.is 0x21 = true → s.gen < m.at 1 4 → s.net.mgens.contains (m.at 1 4, m.hi.toNat) = false → exec (.mgen src m) s =
      .next { s with net := { s.net with mgens := s.net.mgens ++ [(m.at 1 4, m.hi.toNat)] } }) ∧
    (m.is 0x21 = true → m.at 1 4 ≤ s.gen ∨ s.net.mgens.contains (m.at 1 4, m.hi.toNat) = true → exec (.mgen src m) s = .next s) ∧
    (∀ k : ConnId, s.connUsed k = true → (s.conn k).state = 1 →
      ((s.conn k).heard + 8000000 ≤ s.linkTime → ∃ t, exec (.peerSilenceTimeout k) s = .next t ∧ (t.conn k).state = 2 ∧
        t.jobs = s.jobs ∧ t.cores = s.cores) ∧
      (s.linkTime < (s.conn k).heard + 8000000 → exec (.peerSilenceTimeout k) s = .next s))

/-! Ethernet. -/

/-- The frame that left sub-port sub of port e carries body in class tc, from the port's own address to mac. -/
def wentOut (s t : State) (e sub tc : Nat) (mac : BitVec 48) (body : TxBody) : Prop :=
  ∃ f, tget noSent t.net.sent (2 * e + sub) = some f ∧ f.body = body ∧ f.tc = tc ∧ f.src = s.macOf e sub ∧ f.dst = some mac ∧
    f.vlan = fieldLE (s.portRec e sub) 4 2

/-- O44. A frame is counted, and dropped exactly if its FCS, its MAC, its VLAN, its length or its protocol is not the port's
(R319, R320), and a RoCEv2 request that Table 11.3 does not have is refused (R323); a pause holds its class if the class has PFC
(R321); INJECT arms its error while the expert page is open (R344); a port is READY while its PCS is locked. -/
def Obligations.PortsTakeFramesAndPauses : Prop :=
  (∀ (s : State) (e : PortId) (sub : Fin 2) (f : EthFrame),
    (s.portReady e sub = false → exec (.ethFrameRx e sub f) s = .next s) ∧
    (s.portReady e sub = true →
      let ok := f.fcsOk && s.macOk e sub f.dst && vlanOk (fieldLE (s.portRec e sub) 4 2) f && decide (64 ≤ f.len ∧ f.len ≤ 9216) &&
        s.takesBody e f.body
      ∃ t, exec (.ethFrameRx e sub f) s = .next t ∧
        t.rd (rg (fnPort e) 0x040) = (s.countRx e).rd (rg (fnPort e) 0x040) ∧
        t.rd (rg (fnPort e) 0x050) = (if ok then s else s.countDrop e).rd (rg (fnPort e) 0x050) ∧
        t.mem = s.mem ∧ t.jobs = s.jobs ∧
        (∀ q op, ok = true → f.body = .roce q op → (s.qp q.toNat).state = 2 → roceKnown op.toNat = false → t.net.reply = .invalid))) ∧
  (∀ (s : State) (e : PortId) (sub : Fin 2) (tc : Fin 4) (q : W16),
    (e.val = 8 ∨ s.portReady e sub = false → exec (.pauseFrameRx e ⟨sub, tc⟩ q) s = .next s) ∧
    (e.val ≠ 8 → s.portReady e sub = true → ∃ t, exec (.pauseFrameRx e ⟨sub, tc⟩ q) s = .next t ∧
      t.rd (rg (fnEth e) 0x070) = (s.bump (rg (fnEth e) 0x070) 63 32 1).rd (rg (fnEth e) 0x070) ∧
      (∀ c, c < 4 → t.classPaused e sub c = if c = tc.val ∧ s.pfcOn e sub tc = true then
        q != 0 && decide (0 < cdiv (q.toNat * 512 * 1000000000) (s.lineRate e)) else s.classPaused e sub c) ∧
      (s.pfcOn e sub tc = true → ∀ f ∈ t.waiting e sub tc, t.canLeave e sub f = false) ∧ t = { s with net := t.net, csr := t.csr })) ∧
  (∀ (s : State) (e : Fin 8),
    (s.flag (rg (fnEth e) 0x020) 0 = true → ∃ t u, exec (.ethInjectDrop e) s = .next t ∧ exec (.ethInjectCrc e) s = .next u ∧
      tget z0 t.net.inject e = tget z0 s.net.inject e ||| 1 ∧ tget z0 u.net.inject e = tget z0 s.net.inject e ||| 2 ∧
      t = { s with net := t.net } ∧ u = { s with net := u.net }) ∧
    (s.flag (rg (fnEth e) 0x020) 0 = false → exec (.ethInjectDrop e) s = .next s ∧ exec (.ethInjectCrc e) s = .next s)) ∧
  (∀ (s : State) (e : PortId) (locked : Bool), locked = false ∨ s.flag (rg fnClk 0) (if e.val = 8 then 0 else 11) = true →
    (∃ t, exec (.pcsLockChange e 0 locked) s = .next t ∧ t.portReady e 0 = locked ∧ t.mem = s.mem ∧ t.jobs = s.jobs) ∧
    (e.val ≠ 8 → s.flag (rg (fnEth e) 0) 3 = true → ∃ t, exec (.pcsLockChange e 1 locked) s = .next t ∧ t.portReady e 1 = locked ∧
      t = { s with csr := t.csr }))

/-- O45. Rates and answers of the ports (R320, R322, R326 to R328): a CNP cuts its flow's rate to three quarters unless one did
within 50 µs, a raise adds a 32nd of the line rate after 100 µs without a cut; echoes and LLDPDUs leave in class TC3; a
neighbour's mapping is kept and its question answered; the root locks its beat time to PTP within 1 µs and slews to it up to
1 ms; a new LLDP neighbour is logged. -/
def Obligations.PortsPaceAnswerAndKeepTime : Prop :=
  (∀ (s : State) (e : PortId) (n : BitVec 12) (k : ConnId),
    let x := (s.qp n.toNat).pace
    let now := s.linkTime
    let rate := s.lineRate (s.qp n.toNat).port
    let last := max x.cut x.tick
    (∃ t, exec (.cnpRx e (.qp n)) s = .next t ∧ t = { s with net := t.net, csr := t.csr } ∧
      (x.cut ≠ 0 → now < x.cut - 1 + 50000 → (t.qp n.toNat).pace = x) ∧
      (x.cut = 0 ∨ x.cut - 1 + 50000 ≤ now → (t.qp n.toNat).pace =
        if 3 * x.num < 1000000000 * 4 ^ (x.k + 1) then { x with num := 1000000000, k := 0, cut := now + 1 }
        else { x with num := 3 * x.num, k := x.k + 1, cut := now + 1 })) ∧
    (∃ t, exec (.pacingRaise (.qp n)) s = .next t ∧ t = { s with net := t.net } ∧
      (last ≠ 0 → now < last - 1 + 100000 → (t.qp n.toNat).pace = x) ∧
      (last = 0 ∨ last - 1 + 100000 ≤ now → (t.qp n.toNat).pace =
        if rate * 4 ^ x.k ≤ x.num + rate / 32 * 4 ^ x.k then { x with num := rate, k := 0, tick := now + 1 }
        else { x with num := x.num + rate / 32 * 4 ^ x.k, tick := now + 1 })) ∧
    exec (.cnpRx e (.conn k)) s = .next (s.setConn k { s.conn k with pace := (s.conn k).pace.cutAt now }) ∧
    exec (.pacingRaise (.conn k)) s = .next (s.setConn k { s.conn k with
      pace := (s.conn k).pace.raise (s.lineRate (s.conn k).port) now })) ∧
  (∀ (s : State) (e : PortId) (sub : Fin 2),
    (s.portReady e sub = false → (∀ a, exec (.icmpEcho e ⟨sub, a⟩) s = .next s) ∧ exec (.lldpTx e sub) s = .next s ∧
      (∀ m, exec (.neighbourResolution e sub m) s = .next s) ∧ (∀ m, exec (.ptpEvent e sub m) s = .next s) ∧
      ∀ x y, exec (.lldpRx e sub x y) s = .next s) ∧
    (s.portReady e sub = true →
      (∀ a, ∃ t, exec (.icmpEcho e ⟨sub, a⟩) s = .next t ∧ t = { s with net := t.net, csr := t.csr } ∧
        ∀ mac, s.neighbour e (s.nextHop e sub a) = some mac → s.classPaused e sub 3 = false → wentOut s t e sub 3 mac .echo) ∧
      (∃ t, exec (.lldpTx e sub) s = .next t ∧ t = { s with net := t.net, csr := t.csr } ∧
        (s.classPaused e sub 3 = false → wentOut s t e sub 3 0x0180C200000E (.lldp (s.lldpdu e sub)))) ∧
      (∀ m : NeighbourMsg, ∃ t, exec (.neighbourResolution e sub m) s = .next t ∧
        (if 4 ≤ e.val ∧ e.val < 8 then t.net.cacheB else t.net.cacheA).getLast? = some (m.addr, m.mac) ∧ t.mem = s.mem ∧ t.jobs = s.jobs ∧
        (m.request = true → s.classPaused e sub 3 = false →
          wentOut s t e sub 3 m.mac (.neighbour (s.portAddr e sub (isV4 m.addr))))) ∧
      (∀ chassis port, tget noLldp s.net.lldp (2 * e.val + sub.val) ≠ (chassis, port) → ∃ t, exec (.lldpRx e sub chassis port) s = .next t ∧
        tget noLldp t.net.lldp (2 * e.val + sub.val) = (chassis, port) ∧ t.mem = s.mem ∧ t.jobs = s.jobs) ∧
      (∀ m : PtpMsg,
        let at_ := s.ptpStamp e sub m
        let now := m.origin + m.delay
        let off : Int := (at_.toNat : Int) - now.toNat
        let mine : Int := (now.toNat : Int) - s.podEpoch
        let client := s.podEpoch ≠ 0 ∧ s.isRoot = true ∧ e.val = s.podByte 48 ∧ e.val < 4 ∧ sub.val = 0
        ∃ t, exec (.ptpEvent e sub m) s = .next t ∧ tget noStamp t.net.stamps (2 * e.val + sub.val) = (at_, m.oneStep) ∧ t.mem = s.mem ∧
          (m.sent = true ∨ ¬client → t.beat = s.beat) ∧
          (m.sent = true → s.classPaused e sub 3 = false → wentOut s t e sub 3 0x011B19000000 (.ptp m.oneStep at_)) ∧
          (m.sent = false → client → s.net.ptpBad = false →
            (s.flag kPodstat 16 = false → off.natAbs < 1000 → t.flag kPodstat 16 = true ∧ t.beat = BitVec.ofInt 64 mine ∧
              t.flag (rg (fnEth e) 0) 1 = true) ∧
            (s.flag kPodstat 16 = true → off.natAbs ≤ 1000000 → t.beat = s.beat ∧ t.net.slew = mine - s.beat.toNat) ∧
            (s.flag kPodstat 16 = true → 1000000 < off.natAbs → t.net.ptpBad = true ∧ t.beat = s.beat)))))

/-! RDMA, connections and services. -/

/-- O46. RDMA (R323 to R325, R372, R373, R387): an access that no R_Key, page or slot lets through is answered with a remote
access error and changes no byte; a write stores its bytes and no others, a read answers the bytes of a register or of
memory without waiting errors, a 65th outstanding read is refused, and the doorbell page takes the index of the pairs that the
region owns. -/
def Obligations.RdmaStoresReadsAndRingsDoorbells : Prop :=
  ∀ (s : State) (e : PortId) (qp : BitVec 12) (rkey : W32) (addr : W64) (data : List Byte) (imm : W32) (ce : Bool),
    let a := addr.toNat
    let n := data.length
    let q := qp.toNat
    let refused (i : Instr) (r : Reply) : Prop := ∃ t, exec i s = .next t ∧ t.net.reply = r ∧ t = { s with net := t.net, csr := t.csr }
    exec (.rdmaWriteImmediate e ⟨qp, ce⟩ rkey addr data imm) s = exec (.rdmaWrite e qp rkey addr data ce) s ∧
    (s.portReady e 0 = false → ∀ len,
      exec (.rdmaWrite e qp rkey addr data ce) s = .next s ∧ exec (.rdmaRead e ⟨qp, ce⟩ rkey addr len) s = .next s) ∧
    (s.portReady e 0 = true → s.qpTakes e q = false → ∀ len, exec (.rdmaWrite e qp rkey addr data ce) s = .next (s.reply .discarded) ∧
      exec (.rdmaRead e ⟨qp, ce⟩ rkey addr len) s = .next (s.reply .discarded)) ∧
    (s.qpTakes e q = true →
      (s.passes e rkey.toNat a n (some data) = none → refused (.rdmaWrite e qp rkey addr data ce) .accessError) ∧
      (∀ job, s.passes e rkey.toNat a n (some data) = some job →
        (spaceOf a n = none ∨ (spaceOf a n = some .window ∧ s.windowRefuses true a n = true) →
          refused (.rdmaWrite e qp rkey addr data ce) .accessError) ∧
        ((spaceOf a n = some .hbm ∧ s.hbmRefuses job true a n = none) ∨ (spaceOf a n = some .window ∧ s.windowRefuses true a n = false) →
          ∃ t, exec (.rdmaWrite e qp rkey addr data ce) s = .next t ∧ t.net.reply = .ok ∧
            (∀ i, i < n → t.mem.byte (a + i) = data.getD i 0) ∧ (∀ b, b < a ∨ a + n ≤ b → t.mem.byte b = s.mem.byte b) ∧
            t.cores = s.cores ∧ t.jobs = s.jobs)) ∧
      (∀ len,
        (64 ≤ s.readsWaiting e q → refused (.rdmaRead e ⟨qp, ce⟩ rkey addr len) .invalid) ∧
        (s.readsWaiting e q < 64 →
          (s.passes e rkey.toNat a len none = none → refused (.rdmaRead e ⟨qp, ce⟩ rkey addr len) .accessError) ∧
          (∀ job, s.passes e rkey.toNat a len none = some job →
            (spaceOf a len = some .hbm → s.hbmRefuses job false a len = none → s.upset = [] → s.poison = [] →
              ∃ t, exec (.rdmaRead e ⟨qp, ce⟩ rkey addr len) s = .next t ∧ t.net.reply = .data (s.mem.bytes a len) ∧ t.mem = s.mem) ∧
            (spaceOf a len = some .csr → len = 8 → a % 8 = 0 → ce = false → ∃ t, exec (.rdmaRead e ⟨qp, ce⟩ rkey addr len) s = .next t ∧
              t.net.reply = .data (leBytes (s.readReg (csrFn a) (csrOff a)).toNat 8) ∧ t.mem = s.mem))))) ∧
    (∀ (o : BitVec 12) (v : W64), (s.braidLoaded = false → exec (.doorbellWrite rkey o v) s = .next (s.reply .accessError)) ∧
      (s.braidLoaded = true → o.toNat % 8 = 0 →
        (s.passes 0 rkey.toNat (bellBase + o.toNat) 8 (some (leBytes v.toNat 8)) = none →
          exec (.doorbellWrite rkey o v) s = .next (s.reply .accessError)) ∧
        (∀ job, s.passes 0 rkey.toNat (bellBase + o.toNat) 8 (some (leBytes v.toNat 8)) = some job →
          (s.bellOwned job o.toNat = false → exec (.doorbellWrite rkey o v) s = .next (s.reply .accessError)) ∧
          (s.bellOwned job o.toNat = true → o.toNat < 0x200 → ∃ t, exec (.doorbellWrite rkey o v) s = .next t ∧ t.net.reply = .ok ∧
            t.cp (o.toNat / 8) = v.setWidth 32 ∧ (∀ p, p ≠ o.toNat / 8 → t.cp p = s.cp p) ∧ t.cores = s.cores ∧ t.jobs = s.jobs))))

/-- O47. QPs (R323, R325) and services (R366 to R369): the messages of QP1 connect and disconnect a QP, a SEND is answered
once it is connected; a fetch begins with the seal of the step before the last, a checkpoint with that of its own, a Halo
stream once its copy has ended; a service ends when its data and manifest are across: all this
while SCH is READY. -/
def Obligations.ConnectionsAndServices : Prop :=
  (∀ (s : State) (e : PortId) (qp : BitVec 12) (data : List Byte) (peer : BitVec 128),
    let q := qp.toNat
    let x := s.qp q
    let cm (m : CmKind) : Instr := .cmMessage e qp ⟨m, peer⟩
    (s.portReady e 0 = false → (∀ m, exec (cm m) s = .next s) ∧ ∀ inv ce, exec (.send e ⟨qp, ce⟩ ⟨data, inv⟩) s = .next s) ∧
    (s.portReady e 0 = true →
      (s.qpServed e q = false → ∀ m, ∃ t, exec (cm m) s = .next t ∧ t.net.reply = .invalid ∧ t = { s with net := t.net, csr := t.csr }) ∧
      (s.qpServed e q = true →
        (∀ mtu, ∃ t, exec (cm (.req mtu)) s = .next t ∧ t.qp q = { x with state := 1, port := e, peer, mtu } ∧ t.net.reply = .ok) ∧
        (∀ m ∈ [CmKind.rep, .rtu], (x.state ≠ 1 → exec (cm m) s = .next (s.reply .discarded)) ∧
          (x.state = 1 → ∃ t, exec (cm m) s = .next t ∧ (t.qp q).state = 2 ∧ (t.qp q).pace = openPace (s.lineRate e) s.linkTime)) ∧
        (∀ m ∈ [CmKind.rej, .dreq, .drep], ∃ t, exec (cm m) s = .next t ∧ t.qp q = qp0 q)) ∧
      (∀ inv ce, (x.state ≠ 2 → exec (.send e ⟨qp, ce⟩ ⟨data, inv⟩) s = .next (s.reply .discarded)) ∧
        (x.state = 2 → ∃ t, exec (.send e ⟨qp, ce⟩ ⟨data, inv⟩) s = .next t ∧ t.net.reply = (if inv then .invalid else .ok) ∧
          t = { s with net := t.net, csr := t.csr }))) ∧
    (∃ t, exec (.qpErrorState qp) s = .next t ∧ (t.qp q).state = 3 ∧ t.jobs = s.jobs ∧
      ((∀ y ∈ s.svc, ∀ x, y.2 = some x → x.qp ≠ q) → t = { s with net := t.net }))) ∧
  (∀ (s : State) (i : Nat), s.svcAt i = none ∨ s.schReady = false → exec (.fetchStart i) s = .next s ∧ exec (.checkpointStart i) s = .next s ∧
    exec (.haloStream i) s = .next s ∧ exec (.serviceComplete i) s = .next s) ∧
  (∀ (s : State) (i : Nat) (x : Svc), s.svcAt i = some x → s.schReady = true →
    let sealed (n : Nat) : Prop := (s.sealedAs x.job n).isSome
    ((s.qp x.qp).state ≠ 3 → (∀ r ∈ x.regions, s.svcRangeBad x.job r.1 r.2.1 = none) →
      (x.type = 1 → x.phase = 1 → (x.step < 2 ∨ sealed (x.step - 2)) → ∃ t, exec (.fetchStart i) s = .next t ∧
        t.svcAt i = some { x with phase := 3, out := x.regions.map (fun r => .read (x.raddr + BitVec.ofNat 64 r.2.2) r.2.1 r.1) } ∧
        t.mem = s.mem) ∧
      (x.type = 2 → x.phase = 1 → sealed x.step → ∃ t y, exec (.checkpointStart i) s = .next t ∧ t.svcAt i = some y ∧
        y.phase = 3 ∧ y.moved = x.total ∧ fieldLE y.manifest 0 4 = 0x4D465A56 ∧ y.out.length = x.regions.length + 1 ∧
        y.out.getLast? = some (.writeImm (x.raddr + x.moff) y.manifest x.imm) ∧ t.mem = s.mem) ∧
      (x.type = 1 → x.phase = 3 → (s.qp x.qp).state = 2 → ∃ t, exec (.serviceComplete i) s = .next t ∧ t.svcAt i = none ∧ t.cores = s.cores)) ∧
    (x.type = 3 → x.phase = 3 → x.total ≤ x.copied → x.manifest = [] → (s.qp x.qp).state ≠ 3 → s.svcRangeBad x.job x.snap x.total = none →
      ∃ t y, exec (.haloStream i) s = .next t ∧ t.svcAt i = some y ∧ y.moved = x.total ∧ fieldLE y.manifest 0 4 = 0x4D465A56 ∧
        y.out.getLast? = some (.writeImm (x.raddr + x.moff) y.manifest x.imm) ∧ t.mem = s.mem) ∧
    (x.phase = 3 → (s.qp x.qp).state = 3 → exec (.serviceComplete i) s = .next (s.failSvc i x (x.type == 1))) ∧
    (2 ≤ x.type → x.type < 4 → x.phase = 3 → (s.qp x.qp).state = 2 → x.manifest ≠ [] →
      (x.type = 3 → x.began + cdiv (8 * x.total) s.haloRate ≤ s.beat.toNat) → ∃ t, exec (.serviceComplete i) s = .next t ∧
        t.svcAt i = none ∧ t.jobs = s.jobs ∧ t.cores = s.cores))

/-! Hawser and the reduction engines. -/

/-- O48. The sender of a Hawser connection (R331, R333): a closed one sends HELLO; an open one sends its next packet while the
window, its pace and PFC allow it; an ACK advances past what it covers and a NAK goes back; after RTO it resends, at the
eighth in a row the connection is DOWN; ACKs leave when due; the eighth answered HELLO opens the connection. -/
def Obligations.HawserSendsWithinItsWindow : Prop :=
  ∀ (s : State) (k : ConnId) (e : PortId) (bytes : List Byte) (ce : Bool),
    let x := s.conn k
    let now := s.linkTime
    (s.connUsed k = false ∨ x.state = 3 ∨ s.portReady x.port 0 = false → exec (.hawserTransmit k) s = .next s) ∧
    (s.connUsed k = true → s.portReady x.port 0 = true →
      (x.state = 0 → s.classPaused x.port 0 3 = true → exec (.hawserTransmit k) s = .next s) ∧
      (x.state = 0 → s.classPaused x.port 0 3 = false → ∃ t, exec (.hawserTransmit k) s = .next t ∧
        (t.conn k).out = some (4, s.barePacket k false false) ∧ (t.conn k).helloAt = now + 1 ∧ t = { s with net := t.net, csr := t.csr }) ∧
      (x.state = 1 ∨ x.state = 2 → x.ctl = [] →
        (∀ i, i < 64 → (s.planByte i 3).testBit 2 = false ∨ s.planByte i 0x0D ≠ k.val) →
        (x.packets.find? (fun p => p.psn == x.next) = none → exec (.hawserTransmit k) s = .next s) ∧
        (∀ p, x.packets.find? (fun p => p.psn == x.next) = some p →
          let held := min (s.connWin k) x.winadv ≤ (x.next - x.acked).toNat ∨ (p.ctrl = false ∧ now < x.paceAt) ∨
            s.classPaused x.port 0 (if p.ctrl then 3 else 2) = true
          (held → exec (.hawserTransmit k) s = .next s) ∧
          (¬held → tget z0 s.net.inject x.port = 0 → ∃ t y, exec (.hawserTransmit k) s = .next t ∧ (t.conn k).next = x.next + 1 ∧
            (t.conn k).out = some (if p.ctrl then 3 else 1, y) ∧ y.psn = p.psn ∧ y.ackpsn = x.expect ∧ y.retx = decide (0 < p.times) ∧
            y.beat = s.beat ∧ y.crcOk = true ∧ t.mem = s.mem ∧ t.jobs = s.jobs)))) ∧
    (s.hwTake e 2 bytes ce = none → exec (.hawserAckRx e ⟨bytes, ce⟩) s = .next s) ∧
    (∀ n pkt, s.hwTake e 2 bytes ce = some (n, pkt) →
      (pkt.crcOk = false ∨ (s.conn n).state = 0 → exec (.hawserAckRx e ⟨bytes, ce⟩) s = .next s) ∧
      (pkt.crcOk = true → (s.conn n).state ≠ 0 → n < 64 → ∃ t, exec (.hawserAckRx e ⟨bytes, ce⟩) s = .next t ∧ (t.conn n).heard = now ∧
        (t.conn n).winadv = pkt.winadv.toNat ∧
        (0 < (pkt.ackpsn - (s.conn n).acked).toNat → (pkt.ackpsn - (s.conn n).acked).toNat ≤ ((s.conn n).built - (s.conn n).acked).toNat →
          (t.conn n).acked = pkt.ackpsn ∧ (t.conn n).timeouts = 0) ∧
        (t.conn n).pace = (if pkt.ceEcho then (s.conn n).pace.cutAt now else (s.conn n).pace) ∧
        (pkt.nak = true → (t.conn n).next = (t.conn n).acked) ∧ t = { s with net := t.net, hbm := t.hbm })) ∧
    (s.hwTake e 4 bytes ce = none → exec (.hawserHelloRx e bytes ce) s = .next s) ∧
    (∀ n pkt, s.hwTake e 4 bytes ce = some (n, pkt) →
      let y := s.conn n
      (pkt.crcOk = false → exec (.hawserHelloRx e bytes ce) s = .next s) ∧
      (pkt.crcOk = true → ∃ t, exec (.hawserHelloRx e bytes ce) s = .next t ∧ (t.conn n).far = pkt.sconn ∧ (t.conn n).heard = now ∧
        (y.state ≠ 0 ∨ y.helloAt = 0 → (t.conn n).state = y.state ∧ (t.conn n).hellos = y.hellos) ∧
        (y.state = 0 → y.helloAt ≠ 0 → y.hellos < 8 → (t.conn n).hellos = y.hellos + 1 ∧
          (t.conn n).state = (if y.hellos = 7 then 1 else 0) ∧
          (y.hellos = 7 → (t.conn n).srtt = BitVec.ofNat 32 ((y.rttSum + (now - (y.helloAt - 1))) / 8) ∧
            (t.conn n).pace = openPace (s.lineRate y.port) now)))) ∧
    (s.connOpen k = false ∨ x.packets = [] ∨ now < x.qAt + x.rto → exec (.hawserRto k) s = .next s) ∧
    (s.connOpen k = true → x.packets ≠ [] → x.qAt + x.rto ≤ now → ∃ t, exec (.hawserRto k) s = .next t ∧
      (t.conn k).next = x.acked ∧ (t.conn k).state = (if x.timeouts < 7 then x.state else 3)) ∧
    (s.connOpen k = false ∨ now < x.ackAt → exec (.hawserAckTimer k) s = .next s) ∧
    (s.connOpen k = true → x.ackAt ≤ now →
      (s.classPaused x.port 0 3 = false → ∃ t, exec (.hawserAckTimer k) s = .next t ∧ (t.conn k).ackAt = now + 1000000 ∧
        (t.conn k).out = some (2, s.barePacket k x.ceEcho x.nakDue)) ∧
      (s.classPaused x.port 0 3 = true → ∃ t, exec (.hawserAckTimer k) s = .next t ∧ (t.conn k).ackAt = x.ackAt ∧
        (t.conn k).nakDue = x.nakDue ∧ t = { s with net := t.net }))

/-- O49. The receiver of a connection (R332, R333, R441) and a beat of an engine (R335 to R337): a packet whose CRC, PSN,
generation or room is wrong leaves the expected PSN and is counted, and nothing of it stays in the receive queue; the next one
is accepted, a DATA packet joining its stream's entry; a stream whose inputs have all arrived combines 256 output bytes a
beat, and with the last beat gives its entry out. -/
def Obligations.HawserReceivesInOrderAndEnginesCombine : Prop :=
  (∀ (s : State) (e : PortId) (bytes : List Byte) (ce : Bool),
    ∀ x ∈ [((1 : Nat), Instr.hawserDataRx e ⟨bytes, ce⟩), (3, .hawserCtrlRx e ⟨bytes, ce⟩)],
      (s.hwTake e x.1 bytes ce = none → exec x.2 s = .next s) ∧
      ∀ k pkt, s.hwTake e x.1 bytes ce = some (k, pkt) → k < 64 →
        let y := s.conn k
        (y.state = 0 → exec x.2 s = .next s) ∧
        (y.state ≠ 0 →
          (pkt.crcOk = false ∨ pkt.psn ≠ y.expect ∨ pkt.gen.toNat ≠ s.gen → ∃ t, exec x.2 s = .next t ∧ (t.conn k).expect = y.expect ∧
            (t.conn k).part = y.part ∧ (t.spill (recvQ k)).p = (s.spill (recvQ k)).c ∧ t.jobs = s.jobs ∧ t.cores = s.cores) ∧
          (pkt.crcOk = true → pkt.psn = y.expect → pkt.gen.toNat = s.gen → s.hwStale pkt = true → ∃ t, exec x.2 s = .next t ∧
            (t.conn k).expect = y.expect + 1 ∧ (t.conn k).part = y.part ∧ t.jobs = s.jobs ∧ t.cores = s.cores) ∧
          (pkt.crcOk = true → pkt.psn = y.expect → pkt.gen.toNat = s.gen → s.hwStale pkt = false → s.hwRoom k pkt = true →
            (x.1 = 1 → ∃ t, exec x.2 s = .next t ∧ (t.conn k).expect = y.expect + 1 ∧ t.jobs = s.jobs ∧ t.cores = s.cores ∧
              (tget noMarked (t.conn k).part pkt.stream.toNat).length =
                (if pkt.last then 0 else (tget noMarked y.part pkt.stream.toNat).length + pkt.payload.length) ∧
              ∀ i, i ≠ pkt.stream.toNat → tget noMarked (t.conn k).part i = tget noMarked y.part i) ∧
            (x.1 = 3 → pkt.payload = [] → ∃ t, exec x.2 s = .next t ∧ (t.conn k).expect = y.expect + 1 ∧
              (t.conn k).part = y.part ∧ t.jobs = s.jobs ∧ t.cores = s.cores)))) ∧
  (∀ (s : State) (r : Fin 8), (∀ q, q < 64 → s.nqStream q = none) →
    (∀ k, k < 8 → (tget noOuts (s.stream (8 * r + k)).outs 64) = []) →
    let next := ((List.range 8).map (8 * r.val + ·)).findSome? (fun k => (s.heads k).map (fun l => (k, l)))
    (next = none → exec (.reBeat r) s = .next s) ∧
    ∀ (i : Nat) (l : List Marked), next = some (i, l) →
      (l.any (fun m => m.length != (l.headD []).length) = false →
        (256 * ((s.stream i).beat + 1) < outLen (s.planByte i 1) (l.headD []).length →
          ∃ t, exec (.reBeat r) s = .next t ∧ (t.stream i).beat = (s.stream i).beat + 1 ∧ (t.stream i).ins = (s.stream i).ins ∧
            (s.planByte i 1 = 0 → (t.stream i).acc = (s.stream i).acc ++ (l.headD []).at (256 * (s.stream i).beat) 256) ∧
            t.mem = s.mem ∧ t.jobs = s.jobs) ∧
        (outLen (s.planByte i 1) (l.headD []).length ≤ 256 * ((s.stream i).beat + 1) →
          ∃ t, exec (.reBeat r) s = .next t ∧ (t.stream i).beat = 0 ∧ (t.stream i).acc = [] ∧
            ∀ j, j < s.planIns i → tget noIns (t.stream i).ins j = (tget noIns (s.stream i).ins j).drop 1)) ∧
      (l.any (fun m => m.length != (l.headD []).length) = true → exec (.reBeat r) s = .next (s.reFault i)))

/-! The rings. -/

/-- The command rows of Table 13.11. -/
def ringRows : List (Nat × (PairId → Instr) × (State → Nat → Cmd → State)) :=
  [(0x00, .cmdNop, nopBody), (0x01, .hello, helloBody), (0x02, .loadprog, loadprogBody), (0x03, .strand, strandBody),
   (0x04, .service, serviceBody), (0x05, .peerupd, peerupdBody), (0x06, .loadbraid, loadbraidBody)]

/-- O50. A command row runs the entry at CC of its pair (R388 to R391, R530): read without error and in sequence, CC moves
past it; it is refused with the first check that fails, and else has its command's effect; another SEQ faults the
ring; an entry of another command waits for its row, and a LOADBRAID whose image waits for SEC stays unprocessed (R404). -/
def Obligations.RingCommandsRunTheEntryAtCc : Prop :=
  ∀ (s : State) (pair : PairId), ∀ x ∈ ringRows,
    let k := s.cc pair
    let a := s.cmdBase pair + 64 * (k.toNat % max 1 (s.cmdSize pair))
    let e := s.mem.bytes a 64
    let u := s.consume pair
    let id := BitVec.ofNat 64 (fieldLE e 8 8)
    let no (status detail : Nat) : State :=
      (if x.1 = 4 then u.bump (rg fnSch 0x040) 15 0 1 else u).complete pair x.1 status (fieldLE e 4 4) id (u.refusal detail)
    (s.ringReady pair = false → exec (x.2.1 pair) s = .next (if x.1 = 6 then s.holdBraid pair else s)) ∧
    (s.headOp pair ≠ x.1 → s.headless pair = false → exec (x.2.1 pair) s = .next s) ∧
    (s.ringReady pair = true → s.headOp pair = x.1 → s.foreign pair = false → s.upset = [] → s.poison = [] →
      (fieldLE e 4 4 ≠ k.toNat → exec (x.2.1 pair) s = .next (s.ringFault pair 0x03)) ∧
      (fieldLE e 4 4 = k.toNat →
        (1 < x.1 → s.rings.hello.contains pair.val = false → exec (x.2.1 pair) s = .next (no 0x02 0)) ∧
        (x.1 ≤ 1 ∨ s.rings.hello.contains pair.val = true →
          (pairAllows pair x.1 = false → exec (x.2.1 pair) s = .next (no 0x05 0)) ∧
          (pairAllows pair x.1 = true →
            (∀ o, zeroBad e (argNamed x.1) = some o → exec (x.2.1 pair) s = .next (no 0x04 o)) ∧
            (zeroBad e (argNamed x.1) = none → exec (x.2.1 pair) s = .next (x.2.2 u x.1 ⟨pair, fieldLE e 4 4, id, e.drop 16⟩))))))

/-- O51. What the commands of the rings leave (R268, R340, R366, R382, R385, R389, R391, R393, R395, R529): a completion
for each that ends at once; HELLO opens its pair; an image that passes its load checks waits for its splice, a strand for
its jobs' next splice; an accepted service, peer-table update or braid is kept, an update of another generation and a braid
image in a job's pages are refused; restarts begin at index 0; an unspliced job's pass processes its pairs. -/
def Obligations.RingCommandsTakeEffect : Prop :=
  (∀ (s : State) (op : Nat) (c : Cmd), s.rings.faulted.contains c.pair = false → s.cplSize c.pair ≠ 0 →
    ((nopBody s op c).pp c.pair = s.pp c.pair + 1 ∧ (nopBody s op c).jobs = s.jobs ∧ (nopBody s op c).cores = s.cores) ∧
    ((helloBody s op c).pp c.pair = s.pp c.pair + 1 ∧ (helloBody s op c).jobs = s.jobs ∧
      ((helloBody s op c).rings.hello.contains c.pair = true ↔ c.arg 0 1 = 1)) ∧
    (∀ j, s.jobOfPair c.pair = some j → s.ownPageBad j (c.arg 0 8) (c.arg 8 8) = none → s.upset = [] → s.poison = [] →
      let b := s.mem.bytes (c.arg 0 8) (c.arg 8 8)
      (∀ o, progBad b = some o → (loadprogBody s op c).pp c.pair = s.pp c.pair + 1 ∧ (loadprogBody s op c).jobs = s.jobs) ∧
      (progBad b = none → ((loadprogBody s op c).job j).pending = some ⟨c.arg 0 8, b, sha384 b⟩ ∧
        ((loadprogBody s op c).job j).prog = (s.job j).prog ∧ (loadprogBody s op c).pp c.pair = s.pp c.pair)) ∧
    (∀ j, j < 16 → c.pair = 0 → c.arg 0 1 < 32 → s.strandRec (c.arg 0 1) ≠ [] → fieldLE (s.strandRec (c.arg 0 1)) 1 1 ≠ 0xFF →
      fieldLE (s.strandRec (c.arg 0 1)) 2 1 = 0xFF → fieldLE (s.strandRec (c.arg 0 1)) 3 1 = 0xFF → c.arg 2 2 = 2 ^ j →
      s.jobDefined j = true → (s.job j).prog.isSome → s.unspliced j = false →
      ((strandBody s op c).job j).staged = (s.job j).staged ++ [c.arg 0 1] ∧ (strandBody s op c).pp c.pair = s.pp c.pair) ∧
    (∀ x, (s.svcOf x.job).filter (fun e => e.2.phase == 4) = [] → (s.startSvc op c x).svcAt s.nextSvc = some x ∧
      (s.startSvc op c x).rings.waiting = s.rings.waiting ++ [⟨c.pair, op, c.seq, c.id⟩]) ∧
    (s.upset = [] → s.poison = [] →
      let j := (s.jobOfPair c.pair).getD 0
      let d := s.mem.bytes (c.arg 0 8) 64
      let n := fieldLE d 4 4
      let l := s.mem.bytes (fieldLE d 0x10 8) (32 * n)
      let x := svcOfDesc c d (regionsOf l n)
      s.svcRangeBad j (c.arg 0 8) 64 = none → descOk s j d = true → s.svcRangeBad j (fieldLE d 0x10 8) (32 * n) = none →
      regionsOk l n = true → (∀ r ∈ x.regions, s.svcRangeBad j r.1 r.2.1 = none) →
      (x.type = 3 → x.snap % 64 = 0 ∧ s.svcRangeBad j x.snap x.total = none) → s.stepBegun j x.step = false →
      s.updateBegun j x.step = false → serviceBody s op c = s.startSvc op c x) ∧
    (c.arg 0 4 ≠ s.gen + 1 → peerupdBody s op c = s.noCmd op c 0x04 0x10) ∧
    (s.upset = [] → s.poison = [] →
      let a := c.arg 16 8
      let n := c.arg 24 4
      let l := s.mem.bytes a (72 * n)
      c.arg 0 4 = s.gen + 1 → s.jobDefined (c.arg 4 1) = true → s.jobPage a (72 * n) = none → a + 72 * n ≤ hbmEnd →
      s.inChipRegion a (72 * n) = true → peerListOk l n = true → ranksApart (s.ranksAfter (peerEntries l n)) = true →
      s.cmds.peer = none → s.stepBegun (c.arg 4 1) (c.arg 8 8) = false →
        (peerupdBody s op c).cmds.peer = some ⟨c.seq, c.id, BitVec.ofNat 32 (c.arg 0 4), c.arg 4 1, c.arg 8 8, peerEntries l n⟩ ∧
        (peerupdBody s op c).rings.waiting = s.rings.waiting ++ [⟨c.pair, op, c.seq, c.id⟩]) ∧
    (∀ p, s.jobPage (c.arg 0 8) (c.arg 8 8) = some p → loadbraidBody s op c = s.noCmd op c 0x0C p) ∧
    (s.upset = [] → s.poison = [] → s.jobPage (c.arg 0 8) (c.arg 8 8) = none → c.arg 0 8 + c.arg 8 8 ≤ hbmEnd →
      s.inChipRegion (c.arg 0 8) (c.arg 8 8) = true → s.cmds.braid = none → s.secReady = false →
        (loadbraidBody s op c).cmds.braid = some ⟨c.seq, c.id, s.mem.bytes (c.arg 0 8) (c.arg 8 8), false, true⟩ ∧
        (loadbraidBody s op c).rings.waiting = s.rings.waiting ++ [⟨c.pair, op, c.seq, c.id⟩])) ∧
  (∀ (s : State) (pair : PairId), s.flag (rg fnSch 0x020) 0 = false →
    exec (.ringrstGo pair) s = .next s ∧ exec .ringrstLogs s = .next s) ∧
  (∀ (s : State) (pair : PairId), s.flag (rg fnSch 0x020) 0 = true → ∃ t u,
    exec (.ringrstGo pair) s = .next t ∧ t.cc pair = 0 ∧ t.cp pair = 0 ∧ t.pp pair = 0 ∧ t.pc pair = 0 ∧
      t.rings.hello.contains pair.val = false ∧ t.rings.faulted.contains pair.val = false ∧ t.jobs = s.jobs ∧
    exec .ringrstLogs s = .next u ∧ u.rings.ldProd = 0 ∧ u.rings.ldCons = 0 ∧ u.rings.evCons = 0 ∧ u.jobs = s.jobs) ∧
  (∀ (s : State) (j : JobId), s.schReady = false ∨ s.unspliced j = false → exec (.unsplicedRingPass j) s = .next s) ∧
  (∀ (s : State) (j : JobId), s.schReady = true → s.unspliced j = true → exec (.unsplicedRingPass j) s =
    .next (((if s.chipUnspliced then [0] else []) ++ s.pairsOf j).foldl (fun s p => s.samplePass p) s))

/-! Boot and firmware. -/

/-- O52. Boot (R342, R381, R382, R398, R399, R403, R404): an attempt without an answer is timed out after 4 s and repeated after
a pause that doubles up to 64 s; an accepted bundle is measured and runs SEC and PWR, a refused one is reported and fetched
again; images wait for SEC in the order in which
they reach it; a braid is fetched under its name, checked, and applied once every job waits. -/
def Obligations.BootFetchesChecksAndLoads : Prop :=
  ∀ s : State,
    (∀ proto answer, s.bootWants (protoNum proto) = false → exec (.netbootAttempt proto answer) s = .next s) ∧
    (∀ proto, s.bootWants (protoNum proto) = true →
      let n := protoNum proto
      (∃ t a, exec (.netbootAttempt proto none) s = .next t ∧ tget z0 t.boot.tries n = s.clk + 1 ∧ t.boot.ask = some a ∧
        a.vendor = (if n = 2 then [] else vendorClass) ∧ a.blksize = (if n = 2 then 8192 else 0) ∧
        a.file = (if n = 2 then (s.boot.lease.map (·.file)).getD [] else []) ∧ t = { s with boot := t.boot }) ∧
      (∀ a server file name, proto = .dhcp4 → ∃ t, exec (.netbootAttempt proto (some (.lease4 a server file name))) s = .next t ∧
        t.boot.lease4 = some ⟨BitVec.ofNat 128 (0xFFFF00000000 + a.toNat), server, file, name⟩ ∧ t.flag (rg fnMgmt 0) 2 = true ∧
        tget z0 t.boot.tries n = 0 ∧ t = { s with boot := t.boot, csr := t.csr }) ∧
      (∀ a url name, proto = .dhcp6 → ∃ t, exec (.netbootAttempt proto (some (.lease6 a url name))) s = .next t ∧
        (tftpScheme.isPrefixOf url = true → t.boot.lease6 = some ⟨a, [], url, name⟩ ∧ t.flag (rg fnMgmt 0) 2 = true) ∧
        (tftpScheme.isPrefixOf url = false → t.boot.lease6 = s.boot.lease6)) ∧
      (∀ blk size, proto = .tftp → ∃ t, exec (.netbootAttempt proto (some (.file blk size))) s = .next t ∧ t.boot.fetched = true ∧
        t.boot.blksize = min 8192 (blk.getD 512) ∧ (s.stage = 1 → t.stage = 2))) ∧
    (∀ proto, tget z0 s.boot.tries (protoNum proto) = 0 ∨ s.clk < tget z0 s.boot.tries (protoNum proto) - 1 + 4000000000 →
      exec (.netbootTimeout proto) s = .next s) ∧
    (∀ proto, tget z0 s.boot.tries (protoNum proto) ≠ 0 → tget z0 s.boot.tries (protoNum proto) - 1 + 4000000000 ≤ s.clk →
      let p := s.bootPause (protoNum proto)
      ∃ t, exec (.netbootTimeout proto) s = .next t ∧ tget z0 t.boot.tries (protoNum proto) = 0 ∧
        tget z0 t.boot.nextTry (protoNum proto) = s.clk + p * 1000000000 ∧ tget z0 t.boot.backoff (protoNum proto) = min 64 (2 * p)) ∧
    (∀ file keys, s.boot.fetched = false → exec (.bundleAccept file keys) s = .next s) ∧
    (∀ file keys, s.boot.fetched = true →
      (∀ c o, s.bundleBad file = some (c, o) → ∃ t, exec (.bundleAccept file keys) s = .next t ∧ t.fld (rg fnSec 0x038) 15 8 = 1 ∧
        t.fld (rg fnSec 0x038) 7 0 = c % 256 ∧ t.boot.buffer = s.boot.buffer ∧ (s.stage = 2 → t.stage = 1)) ∧
      (s.bundleBad file = none → s.boot.refetch = false → ∃ t, exec (.bundleAccept file none) s = .next t ∧ t.boot.buffer = file ∧
        t.boot.mfw = sha384 (file.take (fieldLE file 0x10 8)) ∧ t.stage = 4 ∧ t.fwUp 0 = true ∧ t.fwUp 1 = true ∧
        t.power.ons = railOrder)) ∧
    (∀ b, s.fwUp 2 = true → s.flag (rg fnBist 0) 2 = false → s.flag (rg fnChip 0x010) 0 = false → s.cmds.braid = none →
      s.boot.retryAt ≤ s.clk → tget z0 s.boot.nextTry 2 ≤ s.clk → s.flag (rg fnMgmt 0) 2 = true → ∃ t u,
      exec (.braidFetch none) s = .next t ∧ s.clk < tget z0 t.boot.nextTry 2 ∧ t.cmds = s.cmds ∧
        t.boot.ask.map (·.file) = some s.boot.braidName ∧
      exec (.braidFetch (some b)) s = .next u ∧
        (s.secReady = false → s.boot.images = [] → u.cmds.braid = some ⟨0, 0, b, false, false⟩ ∧ u.boot.images = [(.braid, b)]) ∧
        (s.secReady = true → s.boot.images = [] → u.cmds.braid = match s.braidBad b with
          | none => some ⟨0, 0, b, true, false⟩
          | some _ => none)) ∧
    (∀ kind image,
      (∀ y l, s.boot.images = y :: l → y ≠ (kind, image) → exec (.imageCheck kind image) s =
        .next { s with boot := { s.boot with images := s.boot.images ++ [(kind, image)] } }) ∧
      (s.boot.images = [] → s.secReady = false → exec (.imageCheck kind image) s =
        .next { s with boot := { s.boot with images := [(kind, image)] } })) ∧
    (∀ image, s.secReady = true → s.boot.images = [] →
      (s.keyBad image = none → exec (.imageCheck .key image) s = .next s) ∧
      (∀ c d, s.keyBad image = some (c, d) → exec (.imageCheck .key image) s = .next (s.refuseImage 3 c d)) ∧
      (s.bundleBad image = none → exec (.imageCheck .bundle image) s = .next s) ∧
      (∀ c d, s.bundleBad image = some (c, d) → exec (.imageCheck .bundle image) s = .next (s.refuseImage 1 c d))) ∧
    (s.cmds.braid = none → exec .braidLoadApply s = .next s) ∧
    (∀ p, s.cmds.braid = some p → p.checked = false ∨ s.loadReady = false → exec .braidLoadApply s = .next s) ∧
    (∀ p, s.cmds.braid = some p → p.checked = true → s.loadReady = true → s.ledger.shadow = [] →
      exec .braidLoadApply s = .next (s.flushRecords.loadBraid p)) ∧
    (∀ b, (s.putBraid b).braid.serial = BitVec.ofNat 64 (fieldLE b 0x20 8) ∧
      (s.putBraid b).braid.digest = sha384 (b.take (fieldLE b 0x10 8)) ∧ (s.putBraid b).boot.mbraid = (s.putBraid b).braid.digest)

/-- O53. Firmware cores and attestation (R410 to R418): a core that crashes waits for its restart, with the eighth crash in
60 s it stays down; a watchdog's expiry is a crash; a restart from a good boot buffer runs the core and counts; NONCE3
takes the nonce and asks for a report, which is posted with the next SEQ. -/
def Obligations.FirmwareRestartsAndReports : Prop :=
  ∀ (s : State) (core : FwCore) (cause : CrashCause),
    let n := fwNum core
    (s.fwUp n = false → exec (.firmwareCrash core cause) s = .next s) ∧
    (s.fwUp n = true → ∃ t, exec (.firmwareCrash core cause) s = .next t ∧ t.fwUp n = false ∧
      ((s.recentCrashes n).length < 7 → t.boot.waiting = s.boot.waiting ++ [(n, crashNum cause, s.clk)] ∧ t.boot.dead = s.boot.dead) ∧
      (7 ≤ (s.recentCrashes n).length → t.boot.dead.contains n = true ∧ t.boot.waiting = s.boot.waiting)) ∧
    exec (.watchdogExpiry core) s = exec (.firmwareCrash core .watchdog) s ∧
    (s.boot.waiting.find? (fun w => w.1 == n) = none ∨ s.nextRestart n = false → exec (.firmwareRestart core) s = .next s) ∧
    (∀ y, s.boot.waiting.find? (fun w => w.1 == n) = some y → s.nextRestart n = true → s.bufferGood = false →
      exec (.firmwareRestart core) s = .next { s with boot := { s.boot with refetch := true } }) ∧
    (∀ c at_, s.boot.waiting.find? (fun w => w.1 == n) = some (n, c, at_) → s.nextRestart n = true → s.bufferGood = true → ∃ t,
      exec (.firmwareRestart core) s = .next t ∧ t.fwUp n = true ∧ t.boot.waiting = s.boot.waiting.filter (fun w => w.1 != n) ∧
        t.boot.restarted = true ∧ t.rd (rg fnSec 0x018) = (s.bump (rg fnSec 0x018) (restartField n).1 (restartField n).2 1).rd (rg fnSec 0x018)) ∧
    (∀ v : W64, ∃ t, exec (.nonceWrite v) s = .next t ∧ t.boot.asked = true ∧
      t.boot.nonce = [s.rd (rg fnSec 0x040), s.rd (rg fnSec 0x048), s.rd (rg fnSec 0x050), v] ∧ t = { s with boot := t.boot, csr := t.csr }) ∧
    (s.secReady = true → s.boot.asked = true → ∃ t, exec .reportPost s = .next t ∧ t.boot.asked = false ∧
      t.rd (rg fnSec 0x030) = s.rd (rg fnSec 0x030) + 1 ∧ t.boot.report.take 384 = s.reportHead (s.rd (rg fnSec 0x030) + 1).toNat ∧
      t.mem = s.mem)

/-! Checks. -/

/-- O54. Checks of the arrays (R425 to R431, R434, R455): a check core replays one ended fill after another and compares what its
ACCSTs sent, a mismatch makes both cores suspect; a step that waits for nothing passes locally; a cross-check takes a digest of
every participant, and three or more that disagree fence the minority; kernels that differ fence their core. A cross-check comes
at a multiple of 10 ms of beat time, once. -/
def Obligations.ChecksFindAndFenceBadCores : Prop :=
  (∀ (s : State) (c : ClusterId), (s.checkCore c).isSome →
    (∀ slot q, s.contain.digests = [] → (s.cluster c).nextReplay = some (slot, q) → ∃ t, exec (.shadowReplay c) s = .next t ∧
      (t.cluster c).chkSlot = (slot + 1) % 9 ∧ (t.cluster c).checks = (s.cluster c).checks.map (fun z =>
        if z = q then { q with replayed := true, result := replay q.fill.items, fill := { q.fill with items := [] } } else z) ∧
      t = { s with clusters := t.clusters }) ∧
    (∀ q, (s.cluster c).checks.find? (fun q => q.replayed && !q.sent.isEmpty) = some q → ∃ t, exec (.shadowCompare c) s = .next t ∧
      (q.differ (s.cluster c).flip = [] → t.contain.suspects = s.contain.suspects ∧ (t.cluster c).flip = false ∧ t.jobs = s.jobs ∧ t.cores = s.cores) ∧
      (q.differ (s.cluster c).flip ≠ [] → q.mismatch = false → s.runsStep q.fill.job q.fill.step q.fill.attempt = false →
        t.suspect q.core = true ∧ t.jobs = s.jobs)) ∧
    (∀ d, s.flag (rg (fnCluster c) 0x020) 0 = true → s.servedBy c = some d →
      exec (.chkinjectFlip c) s = .next (s.setCluster d { s.cluster d with flip := true })) ∧
    (s.flag (rg (fnCluster c) 0x020) 0 = false ∨ s.servedBy c = none → exec (.chkinjectFlip c) s = .next s)) ∧
  (∀ (s : State) (j : JobId) (n a : Nat), (s.job j).unsealed = some (n, a) → (s.job j).failed = false → s.stopped j = false →
    (s.job j).retract = none → ((s.job j).passed = true ∨ s.unresolved j n a = false) →
    let g := s.group j
    let y := s.grp g
    exec (.stepPassLocal j) s = .next ((s.setJob j { s.job j with passed := true }).tryPass g n a) ∧
    ((s.childDirs g).all (if y.step = n ∧ y.attempt = a then y.passed else []).contains = false →
      ∃ t, exec (.stepPassLocal j) s = .next t ∧ (t.job j).passed = true ∧ t.cores = s.cores)) ∧
  (∀ (s : State), s.schReady = true →
    (∀ epoch : W64, s.beat.toNat ≠ 10000000 * epoch.toNat ∨ s.contain.crossed = epoch.toNat + 1 → exec (.crossCheck epoch) s = .next s) ∧
    (∀ epoch : W64, s.beat.toNat = 10000000 * epoch.toNat → s.contain.crossed ≠ epoch.toNat + 1 → s.contain.digests = [] →
      ∃ t, exec (.crossCheck epoch) s = .next t ∧ t.contain.epoch = epoch.toNat ∧ t.contain.crossed = epoch.toNat + 1 ∧
        t.contain.digests.map (·.1) = s.participants ∧ t.mem = s.mem ∧ t.cores = s.cores) ∧
    (s.contain.digests ≠ [] → 3 ≤ s.contain.digests.length → ∃ t, exec .crossCheckCompare s = .next t ∧
      (s.contain.digests.all (fun e => e.2 == (s.contain.digests.headD (0, 0)).2) = true →
        t.contain.digests = [] ∧ t = { s with contain := t.contain }) ∧
      (∀ d p, majority s.contain.digests = some d → (s.contain.digests.filter (fun e => e.2 != d)).map (·.1) = [p] → p < 288 → s.role p = 0 →
        t.role p = 3))) ∧
  (∀ (s : State) (p : CoreId), s.role p = 0 → s.katOccasion p = true → s.contain.suspects = [] →
    (∀ g, g < 16 → (s.grp g).retracted = 0) →
    (∀ k, ∃ t, exec (.katRun p (some k)) s = .next t ∧ t.role p = 3) ∧
    (∃ t, exec (.katRun p none) s = .next t ∧ t.role p = 0 ∧ t.suspect p = false ∧ t.contain.kats.contains p.val = false))

/-! Resets, registers and self-test. -/

/-- O55. A reset of a function or a job is refused while one is under way or for the reason of Table 15.5, and else is
BUSY: a core is cleared with its memories, a job with its stop and its step; RESET_READY ends it (R444, R452). -/
def Obligations.ResetsClearTheirTarget : Prop :=
  ∀ s : State, s.Sound →
    (∀ f : BitVec 10, s.fnOn fnChip = true →
      (s.flag kFrst 15 = true → exec (.functionReset f) s = .next (s.frstErr 0x01)) ∧
      (∀ e, s.flag kFrst 15 = false → s.frstRefused f.toNat = some e → ∃ t, exec (.functionReset f) s = .next t ∧
        t.fld kFrst 23 16 = e % 256 ∧ t.flag kFrst 15 = false ∧ t = { s with csr := t.csr }) ∧
      (∀ p : CoreId, f.toNat = fnCore p → s.flag kFrst 15 = false → ∃ t, exec (.functionReset f) s = .next t ∧
        t.flag kFrst 15 = true ∧ t.contain.frst = some ⟨fnCore p, false⟩ ∧ t.core p = core0 ∧
        ∀ a, window p ≤ a → a < window p + 0x400000 → t.mem.byte a = 0)) ∧
    (∀ j : JobId, s.fnOn fnChip = true → s.flag kFrst 15 = false →
      (s.jobDefined j = false → ∃ t, exec (.jobReset j) s = .next t ∧ t.fld kFrst 23 16 = 0x02 ∧ t = { s with csr := t.csr }) ∧
      (s.jobDefined j = true → ∃ t, exec (.jobReset j) s = .next t ∧ t.flag kFrst 15 = true ∧ t.contain.frst = some ⟨j, true⟩ ∧
        (t.job j).prog = none ∧ (t.job j).step = 0 ∧ (t.job j).phase = .span ∧ t.stopped j = false)) ∧
    (∀ (ns : W64) (f : Frst), s.contain.frst = some f →
      (s.contain.kats.any (fun p => (s.frstClusters f).contains (clusterOf p)) = true → exec (.resetReady ns) s = .next s) ∧
      (s.contain.kats.any (fun p => (s.frstClusters f).contains (clusterOf p)) = false → ∃ t, exec (.resetReady ns) s = .next t ∧
        t.contain.frst = none ∧ t.flag kFrst 15 = false ∧ ∀ j, (t.job j).prog = (s.job j).prog ∧ (t.job j).step = (s.job j).step))

/-- O56. Register writes (R15 to R18, R473) and the writes that act: bits take the written value, clear on 1 or stay, as their
access codes say, and no other register changes; without EXPERT_EN the expert page takes nothing; row maps, test entries,
page entries and HBM injections are taken as R140, R531, R266 and R528 say. -/
def Obligations.RegisterWritesFollowTheirAccessCodes : Prop :=
  (∀ (s : State) (f : BitVec 10) (o : BitVec 12) (w : W64),
    (o.toNat % 8 ≠ 0 → exec (.csrWrite f o w) s = .next s) ∧
    (∀ b, blkOf f.toNat = some b → o.toNat % 8 = 0 →
      (s.fnOn f.toNat = false ∨ (0x100 ≤ o.toNat ∧ s.flag (rg f.toNat 0x020) 0 = false) → exec (.csrWrite f o w) s = .next s) ∧
      (s.fnOn f.toNat = true → o.toNat < 0x100 ∨ s.flag (rg f.toNat 0x020) 0 = true → s.writeActs b f.toNat o.toNat w = none →
        ∃ t, exec (.csrWrite f o w) s = .next t ∧ t = { s with csr := t.csr } ∧ (∀ k, k ≠ rg f.toNat o.toNat → t.rd k = s.rd k) ∧
          ∀ i, i < 64 → (t.rd (rg f.toNat o.toNat)).toNat.testBit i =
            (if (accOf b o.toNat).w1c.testBit i && w.toNat.testBit i then false
             else if (accOf b o.toNat).rw.testBit i then w.toNat.testBit i else (s.rd (rg f.toNat o.toNat)).toNat.testBit i)))) ∧
  (∀ (s : State) (p : CoreId) (n : Fin 4) (w : W64),
    (s.expertOn (fnCore p) = false → exec (.rowmapWrite p n w) s = .next s) ∧
    (s.expertOn (fnCore p) = true → rowMapOk w = false →
      exec (.rowmapWrite p n w) s = .next (s.setFlag (rg (fnCore p) 0x040) (16 + n) true)) ∧
    (s.expertOn (fnCore p) = true → rowMapOk w = true → s.fuseRows p n = [] → ∃ t, exec (.rowmapWrite p n w) s = .next t ∧
      t.rd (kRowmap p n) = w &&& 0xFFFF ∧ t.cores = s.cores ∧ t.mem = s.mem)) ∧
  (∀ (s : State) (w : W64),
    (s.expertOn fnLog = true → s.log.entries.length < 4096 → ∃ t, exec (.logInject w) s = .next t ∧
      t.log.entries = s.log.entries ++ [{ plainEntry s 0xEF 0 fnLog none with d0 := w, lostN := min 65535 s.log.lostRun }] ∧ t.mem = s.mem) ∧
    (s.expertOn fnPagemap = true → s.noProgram = true →
      exec (.entryDataWrite w) s = .next (s.setPage (s.fld (rg fnPagemap 0x108) 20 0) (w &&& 0xFFE0FFFFFFFF0000))) ∧
    (s.expertOn fnPagemap = true → s.noProgram = false → ∃ t, exec (.entryDataWrite w) s = .next t ∧ t.hbm = s.hbm ∧
      t.fld (rg fnPagemap 0x010) 55 52 = 3) ∧
    (∀ n : StackId, s.expertOn (fnHbm n) = true → ∃ t, exec (.hbmInject n w) s = .next t ∧
      tget noInject t.hbm.armed n = some ⟨getField w 36 0 / 64 * 64, w.toNat.testBit 37⟩ ∧ t = { s with hbm := t.hbm }))

/-- O57. Self-test and fuse repair (R460 to R462, R468): a part's test starts at 95 °C or below and its end without a failure
brings the part on; FUSECMD refuses while a program is bound, SEC is down or it is BUSY, and with its end every record is
fused. -/
def Obligations.SelfTestAndFuses : Prop :=
  ∀ s : State,
    (∀ (part : TestPart) (tj : Int), s.bist.started.contains (partNum part) = false → s.partOn part = true → tj ≤ 95000 →
      exec (.bistTestStart part tj) s = .next { s with bist := { s.bist with started := sins (partNum part) s.bist.started } }) ∧
    (∀ (n : StackId) us, s.bist.started.contains (33 + n.val) = true → s.bist.done.contains (33 + n.val) = false →
      ∃ t, exec (.fullTestDone (.stack n) [] us) s = .next t ∧ t.bist.done.contains (33 + n.val) = true ∧ t.hbmReady n = true) ∧
    (∀ (c : ClusterId) us, s.bist.started.contains c.val = true → s.bist.done.contains c.val = false →
      ∃ t, exec (.fullTestDone (.cluster c) [] us) s = .next t ∧ t.bist.done.contains c.val = true ∧
        ∀ p ∈ coresOf c, s.role p < 2 → t.contain.kats.contains p = true) ∧
    (s.flag (rg fnBist 0x020) 0 = true → s.fnOn fnBist = true → ∃ t, exec .fusecmdGo s = .next t ∧
      (t.flag (rg fnBist 0) 3 = true ↔ s.flag (rg fnBist 0) 3 = true ∨ (s.noProgram = true ∧ s.secReady = true)) ∧
      t.fld kFusecmd 15 8 = (if s.noProgram = false then 1 else if s.secReady = false then 2 else if s.flag (rg fnBist 0) 3 then 3 else 0) ∧
      t = { s with csr := t.csr }) ∧
    (s.flag (rg fnBist 0) 3 = true → ∃ t u, exec (.fuseProgramDone true) s = .next t ∧ (∀ r ∈ t.bist.table, r.fused = true) ∧
      t.flag (rg fnBist 0) 3 = false ∧ exec (.fuseProgramDone false) s = .next u ∧ u.bist = s.bist ∧ u.fld kFusecmd 15 8 = 4 ∧
      u.flag (rg fnBist 0) 3 = false)

/-! Power, clocks and pins. -/

/-- O58. Power states (R474 to R477, R448): a request that Table 17.4 refuses names the first refusal that applies, an accepted
one for DEEP or STANDBY puts every cluster to sleep and takes its next step with each idle clk, one for ON aborts an entry under
way, which from DEEP to STANDBY ends in a wake, or wakes the chip. A cluster sleeps on its own while nothing is bound to it, and
wakes for a bind. With no job spliced the log drains. -/
def Obligations.PowerStatesAreEnteredAndLeft : Prop :=
  ∀ s : State,
    (s.noProgram = false → s.stateRefused 1 = some 1 ∧ s.stateRefused 2 = some 1) ∧
    (∀ e, s.stateRefused 0 = some e → ∃ t, exec .statereqOn s = .next t ∧ t.fld kStatereq 15 8 = e ∧ t = { s with csr := t.csr }) ∧
    (∀ e, s.stateRefused 1 = some e → ∃ t, exec .statereqDeep s = .next t ∧ t.fld kStatereq 15 8 = e ∧ t = { s with csr := t.csr }) ∧
    (∀ e, s.stateRefused 2 = some e → ∃ t, exec .statereqStandby s = .next t ∧ t.fld kStatereq 15 8 = e ∧ t = { s with csr := t.csr }) ∧
    (s.stateRefused 1 = none → s.pwrState = 0 → ∃ t, exec .statereqDeep s = .next t ∧ t.pwrState = 3 ∧ t.power.paused = true ∧
      (∃ x, t.power.entry = some x ∧ x.standby = false ∧ x.step = 2 ∧ x.trigger = false) ∧ ∀ c, c < 32 → (t.cluster c).asleep = true) ∧
    (s.stateRefused 2 = none → s.pwrState = 0 → ∃ t, exec .statereqStandby s = .next t ∧ t.pwrState = 3 ∧ t.power.paused = true ∧
      (∃ x, t.power.entry = some x ∧ x.standby = true ∧ x.step = 2 ∧ x.trigger = false) ∧ ∀ c, c < 32 → (t.cluster c).asleep = true) ∧
    (s.stateRefused 2 = none → s.pwrState = 1 → ∃ t, exec .statereqStandby s = .next t ∧ t.pwrState = 3 ∧ t.cores = s.cores ∧
      (∃ x, t.power.entry = some x ∧ x.standby = true ∧ x.step = 4) ∧ ∀ i, 10 ≤ i → i < 17 → t.flag kClk i = false) ∧
    (s.stateRefused 0 = none →
      (∀ x, s.power.entry = some x → exec .statereqOn s = .next (s.setEntry (some { x with trigger := true }))) ∧
      (s.power.entry = none → ∃ t, exec .statereqOn s = .next t ∧ t.power.waking = true ∧ t.pwrState = 3 ∧ t.cores = s.cores ∧
        (s.pwrState = 2 → t.power.offs = railOrder.reverse ∧ t.power.ons = railOrder) ∧
        (s.pwrState = 1 → t.power.offs = [] ∧ t.power.ons = [4, 0, 1, 2, 3]))) ∧
    (∀ x, s.pending = [] → s.power.entry = some x → ∃ t, step s = .next t ∧
      (x.trigger = true → x.step < 5 → (x.standby = false ∨ s.power.refresh = false) → t.power.entry = none ∧ t.pwrState = 0 ∧
        t.power.paused = false ∧ ∀ c, c < 32 → x.slept.contains c = false → (t.cluster c).asleep = false) ∧
      (x.trigger = true → x.step < 5 → x.standby = true → s.power.refresh = true → t.power.entry = none ∧ t.pwrState = 3 ∧
        t.power.waking = true ∧ t.power.offs = [] ∧ t.power.ons = [4, 0, 1, 2, 3]) ∧
      (x.trigger = false → x.step = 4 → t.power.entry = some { x with step := 5 }) ∧
      (x.trigger = false → x.step = 5 → t.power.entry = none ∧ t.pwrState = (if x.standby then 2 else 1))) ∧
    (∀ c : ClusterId,
      ((s.cluster c).asleep = false → (s.cluster c).vcl = none → s.jobOf c = none →
        s.contain.kats.any (fun p => clusterOf p == c.val) = false → ∃ t, exec (.clusterSleep c) s = .next t ∧
          (t.cluster c).asleep = true ∧ (t.cluster c).threads = [] ∧ (∀ p ∈ coresOf c, t.core p = (s.core p).sleep) ∧
          (∀ p, clusterOf p ≠ c → t.core p = s.core p) ∧ t.mem = s.mem ∧ t.mbx = s.mbx ∧ t.jobs = s.jobs) ∧
      (∀ j g, (s.cluster c).asleep = true → s.power.entry = none → s.pwrState = 0 → j ∈ s.definedJobs → (s.job j).binding = true →
        (s.job j).pending = some g → (s.takes j (headerOf g.image)).contains c.val = true →
          exec (.clusterWake c) s = .next (s.setCluster c { s.cluster c with asleep := false }))) ∧
    (s.chipUnspliced = false → exec .logDrainIdle s = .next s) ∧
    (∀ e r, s.chipUnspliced = true → s.log.records = [] → s.ledger.shadow = [] → s.log.entries = e :: r → s.ldRoom ≠ 0 →
      exec .logDrainIdle s = .next ({ s with log := { s.log with entries := r } }.ldPut (logBytes e)))

/-- O59. Supply, temperature and caps (R445 to R447, R480 to R485, R494): a warning is kept with its lowest reading until it
ends; an escalation raises loop H by 16; at its reset level a core rail clears its die, a rail of the hub the chip;
thermal H moves by 4 and is 63 at 105 °C; at 115 °C every PLL but one stops; the caps' H moves by 8 at most, up while the average lies
above the cap (DESIGN CHOICE of log entry 2: how far is open), a limiter's by 8 up and 1 down. -/
def Obligations.SupplyHeatAndCapsAreAnswered : Prop :=
  ∀ s : State,
    (∀ (rail : Fin 13) (stack : StackId) (mv : W16), s.running = true →
      (s.power.warns.any (fun w => w.is rail stack) = true → exec (.supplyWarning rail stack mv) s =
        .next { s with power := { s.power with warns := s.power.warns.map (fun w =>
          if w.is rail stack then { w with low := min w.low mv.toNat } else w) } }) ∧
      (s.power.warns.any (fun w => w.is rail stack) = false → ∃ t, exec (.supplyWarning rail stack mv) s = .next t ∧
        (rail.val < 5 → t.power.warns = s.power.warns ++ [⟨rail, stack, mv.toNat, s.clk, true, false, 0, false⟩]) ∧
        (5 ≤ rail.val → ∃ w ∈ t.power.warns, w.rail = rail ∧ w.low = mv.toNat ∧ w.stretch = false ∧ w.escalated = s.pwrUp) ∧
        t.jobs = s.jobs ∧ t.cores = s.cores ∧ (∀ x, t.power.entry = some x → x.trigger = true))) ∧
    (∀ (rail : Fin 13) (ns : W64),
      (s.power.warns.all (fun w => w.rail != rail.val) = true → exec (.stretchEnd rail ns) s = .next s) ∧
      (s.power.warns.all (fun w => w.rail != rail.val) = false → ∃ t, exec (.stretchEnd rail ns) s = .next t ∧
        t.power.warns = s.power.warns.filter (fun w => w.rail != rail.val) ∧ t.jobs = s.jobs ∧ t.cores = s.cores)) ∧
    (∀ (rail : Fin 13) (w : Warn), w ∈ s.power.warns → w.rail = rail → w.escalated = false → w.since + 1000000 < s.clk →
      (s.pwrUp = false → exec (.warningEscalation rail) s = .next s) ∧
      (s.pwrUp = true → ∃ t, exec (.warningEscalation rail) s = .next t ∧ (∀ v ∈ t.power.warns, v.rail = rail → v.escalated = true) ∧
        (∀ d ∈ railDies rail, t.loopH d = min 63 (s.loopH d + 16)) ∧ t.jobs = s.jobs)) ∧
    (∀ (rail : Fin 13) (w : Warn), s.pwrUp = true → s.power.warns.find? (fun w =>
      w.rail == rail.val && w.escalated && !w.done && decide (w.escAt + 20000000 ≤ s.clk)) = some w →
        exec (.escalationTimeout rail) s = .next (s.resetLevel rail w.stack w)) ∧
    (∀ (rail : Fin 13) (stack : StackId) (mv : W16), s.running = true → ∃ t, exec (.railResetLevel rail stack mv) s = .next t ∧
      (rail.val < 4 → ∀ p : CoreId, p.val / 72 = rail → t.core p = core0 ∧
        ∀ a, window p ≤ a → a < window p + 0x400000 → t.mem.byte a = 0) ∧
      (rail.val = 4 → ∀ p : CoreId, t.core p = core0) ∧
      (railGroup rail = 2 → t.power.warns.any (fun w => w.is rail stack && w.done) = true) ∧
      (5 ≤ rail.val → railGroup rail ≠ 2 → t.cores = [] ∧ t.jobs = [] ∧ t.mem = [] ∧ t.pending = s.pending)) ∧
    (∀ l : List Int, s.running = true → l.length = 80 → l.all (fun r => decide (r < 105000)) = true → ∃ t,
      exec (.thermalStep l) s = .next t ∧ (∀ n, n < 80 → t.temp n = l.getD n 0) ∧
        (l.all (fun r => decide (r < 103000)) = true → t.power.hot = false) ∧
        ∀ d, d < 4 → t.thermH d = if (sensorsOf d).any (fun n => decide (95000 ≤ l.getD n 0)) then min 63 (s.thermH d + 4)
          else if (sensorsOf d).all (fun n => decide (l.getD n 0 < 93000)) then s.thermH d - 4 else s.thermH d) ∧
    (∀ (l : List Int) (n : Fin 80), s.running = true → l.length = 80 → 105000 ≤ l.getD n 0 → s.temp n < 105000 → ∃ t,
      exec (.thermalStep l) s = .next t ∧ t.temp n = l.getD n 0 ∧ t.power.hot = true ∧ ∀ d, d < 4 → acts n d = true → t.thermH d = 63) ∧
    (∀ (sensor : Fin 80) (tj : Int), s.running = true → 105000 ≤ tj → ∃ t, exec (.thermalLimit sensor tj) s = .next t ∧
      t.temp sensor = tj ∧ t.power.hot = true ∧ (∀ d, d < 4 → t.thermH d = if acts sensor d then 63 else s.thermH d) ∧ t.jobs = s.jobs) ∧
    (∀ (sensor : Fin 80) (tj : Int), s.running = true → 115000 ≤ tj → s.Sound → (∀ r ∈ s.bist.fuses, r.core < 288) → ∃ t,
      exec (.thermtrip sensor tj) s = .next t ∧ t.running = false ∧ t.pins.thermtripN = false ∧ t.flag (rg fnPwr 0x030) 63 = true ∧
        (∀ i, 10 ≤ i → i < 17 → t.flag kClk i = false) ∧ t.fwUp 0 = false ∧ t.fwUp 1 = false ∧ t.cores = [] ∧ t.jobs = []) ∧
    (∀ (d : Fin 4) (n : Fin 64), ∃ t, exec (.throttleWindow d n) s = .next t ∧
      (∀ c : Nat, c / 8 = d → ((t.cluster c).hold.contains .throttle = true ↔ n.val < s.effH d)) ∧
      (∀ c : Nat, c / 8 ≠ d → t.cluster c = s.cluster c) ∧ t.cores = s.cores ∧ t.jobs = s.jobs) ∧
    (∀ watts : W16, s.pwrUp = true → ∃ t, exec (.capLoopTick watts) s = .next t ∧
      t.power.watts = (watts.toNat :: s.power.watts).take 10 ∧ t.fld (rg fnPwr 0x010) 31 16 = avgWatts t.power.watts % 65536 ∧
        (∀ d, d < 4 → s.loopH d ≤ t.loopH d + 8 ∧ t.loopH d ≤ s.loopH d + 8) ∧
        (s.fld (rg fnPwr 0x010) 47 32 < avgWatts t.power.watts → ∀ d, d < 4 → min 63 (s.loopH d + 1) ≤ t.loopH d) ∧
        ∀ d, d < 4 → t.fld (rg fnPwr 0x018) (8 * d + 5) (8 * d) = t.effH d) ∧
    (∀ watts : W16, s.pwrUp = true →
      exec (.capRecalibrate watts) s = .next { s with power := { s.power with measured := watts } }) ∧
    (∀ (d : Fin 4) (amps : W16),
      (amps.toNat ≤ s.tripAmps → exec (.limiterTripCheck d amps) s = .next s) ∧
      (s.tripAmps < amps.toNat → ∃ t, exec (.limiterTripCheck d amps) s = .next t ∧ t.limH d = min 63 (s.limH d + 8) ∧
        (∀ e : Fin 4, e ≠ d → t.limH e = s.limH e) ∧ t = { s with csr := t.csr }) ∧
      (s.releaseAmps ≤ amps.toNat → exec (.limiterReleaseCheck d amps) s = .next s) ∧
      (amps.toNat < s.releaseAmps → ∃ t, exec (.limiterReleaseCheck d amps) s = .next t ∧ t.limH d = s.limH d - 1 ∧
        (∀ e : Fin 4, e ≠ d → t.limH e = s.limH e) ∧ t = { s with csr := t.csr }))

/-- O60. Clocks, rails, pins and the TAP (R486 to R489, R504 to R512, R519, R520): 64 windows in a row judge an input stable and
a bad one drops it, with the other taking over if it is stable; a PLL's loss resets the chip beyond AON; regulators are
commanded in their order and given up after three failures; RESET_N and PWRGOOD pins reset and boot the chip; a test
instruction takes effect only while RESET_N is low. -/
def Obligations.ClocksRailsAndPinsAreFollowed : Prop :=
  ∀ s : State, s.Sound → (∀ r ∈ s.bist.fuses, r.core < 288) →
    (∀ (refclk : Bool) (count : Nat), s.running = true →
      let i := if refclk then 1 else 0
      ∃ t, exec (.referenceWindow refclk count) s = .next t ∧
        (1008 ≤ count → count ≤ 1040 → t.windowsOf i = min 64 (s.windowsOf i + 1) ∧ t.refInput = s.refInput ∧
          t.flag kClk 0 = decide (64 ≤ t.windowsOf t.refInput) ∧ t.flag kClk 2 = decide (64 ≤ t.windowsOf (1 - t.refInput))) ∧
        (count < 1008 ∨ 1040 < count → t.windowsOf i = 0 ∧
          (i = s.refInput → s.flag kClk 0 = true → s.flag kClk 2 = true → t.refInput = 1 - i ∧ t.cores = s.cores) ∧
          (i = s.refInput → s.flag kClk 0 = true → s.flag kClk 2 = false → t.flag kClk 0 = false ∧ t.cores = [] ∧ t.jobs = []))) ∧
    (∀ trim err : W16, s.pwrUp = true → s.flag kClk 0 = true → s.flag (rg fnClk 0x100) 0 = false → ∃ t,
      exec (.ioscRetrim trim err) s = .next t ∧ t.fld (rg fnClk 0x008) 31 16 = trim.toNat ∧
        t.fld (rg fnClk 0x008) 15 0 = err.toNat ∧ t = { s with csr := t.csr }) ∧
    (∀ pll : Pll, s.flag kClk (pllBit pll) = false → s.pllFed pll = true → ∃ t, exec (.pllLocked pll) s = .next t ∧
      (s.power.waking = false → t.flag kClk (pllBit pll) = true ∧ t.cores = s.cores ∧
        (pll = .aon → s.stage = 0 → s.boot.katAt = 0 →
          (Config.bootKat s.free = false → t.stage = 1 ∧ t.boot.mrom = Config.bootRom ∧ t.boot.secretOpen = false) ∧
          (Config.bootKat s.free = true → t.stage = 0 ∧ t.boot.katAt = s.clk + 1))) ∧
      (s.power.waking = true → (∀ i, i < 8 → i + 9 ≠ pllBit pll → s.flag kClk (9 + i) = true) →
        t.power.waking = false ∧ t.pwrState = 0)) ∧
    (∀ pll : Pll, s.flag kClk (pllBit pll) = true → ∃ t, exec (.pllLockLoss pll) s = .next t ∧ t.flag kClk (pllBit pll) = false ∧
      (pll = .aon → t = { s with csr := t.csr }) ∧
      (pll ≠ .aon → t.fld (rg fnClk 0x010) 63 60 = pllCode pll ∧ t.cores = [] ∧ t.jobs = [] ∧ t.flag kClk 9 = s.flag kClk 9)) ∧
    (∀ (rail : Fin 13) (v m c : W16), s.busOk rail = true → s.flag kClk 0 = true → m.toNat / 32 % 8 = 0 → c.toNat.testBit 3 = true →
      (s.power.offs = [] → s.power.ons.head? = some rail.val → s.groupsSettled rail = true → ∃ t,
        exec (.railSequence rail (.value v) (.value m) (.value c)) s = .next t ∧ t.power.ons = s.power.ons.drop 1 ∧
          (t.rail rail).on = true) ∧
      (s.power.offs.head? = some rail.val → voutLow rail v.toNat (m.toNat % 32) = true → ∃ t,
        exec (.railSequence rail (.value v) (.value m) (.value c)) s = .next t ∧ t.power.offs = s.power.offs.drop 1 ∧
          (t.rail rail).on = false)) ∧
    (∀ rail : Fin 13, (s.rail rail).on = true → (s.rail rail).since ≠ 0 → s.good rail = false → s.railFault rail = false →
      (s.rail rail).since - 1 + 20000000 ≤ s.clk → ∃ t, exec (.railGoodTimeout rail) s = .next t ∧ t.railFault rail = true ∧ t.cores = s.cores) ∧
    (∀ (rail : Fin 13), s.busOk rail = true →
      (∀ v : W16, ∃ t u, exec (.pmbusStatusPoll rail (.value v)) s = .next t ∧ (t.rail rail).status = v ∧
        (t.railFault rail = true ↔ s.railFault rail = true ∨ statusFault v.toNat = true) ∧
        exec (.pmbusTelemetryPoll rail (.value v)) s = .next u ∧ (u.rail rail).tele = v ∧ u = { s with power := u.power }) ∧
      (∃ t, exec (.pmbusStatusPoll rail .failed) s = .next t ∧ exec (.pmbusTelemetryPoll rail .failed) s = .next t ∧
        ((s.rail rail).fails < 2 → (t.rail rail).fails = (s.rail rail).fails + 1) ∧
        (2 ≤ (s.rail rail).fails → (t.rail rail).dead = true ∧ t.railFault rail = true)) ∧
      ∀ a, exec (.pmbAlert rail a) s = exec (.pmbusStatusPoll rail a) s) ∧
    (∀ g : PgGroup,
      (s.groupPin (pgNum g) = false → ∃ t, exec (.pwrgoodRise g) s = .next t ∧ t.groupPin (pgNum g) = true ∧ t.cores = s.cores) ∧
      (s.groupPin (pgNum g) = true → ∃ t, exec (.pwrgoodFall g) s = .next t ∧ t.groupPin (pgNum g) = false ∧
        (s.power.groupOn.contains (pgNum g) = false → t.cores = s.cores ∧ t.jobs = s.jobs) ∧
        (s.running = true → s.power.groupOn.contains (pgNum g) = true → s.power.onceGood.contains (pgNum g) = true →
          (g = .hub → t.cores = [] ∧ t.jobs = []) ∧ (g = .cmp → ∀ p : CoreId, t.core p = core0)))) ∧
    (∃ t, exec .pwrgoodAonFall s = .next t ∧ t.running = false ∧ t.cores = [] ∧ t.jobs = [] ∧ t.mem = [] ∧ t.pins.thermtripN = true) ∧
    (s.pins.resetN = true → ∃ t, exec .resetNAssert s = .next t ∧ t.running = false ∧ t.cores = [] ∧ t.jobs = [] ∧ t.mem = [] ∧
      t.boot.fuses = s.boot.fuses ∧ t.pins.thermtripN = true) ∧
    (∀ a b c : Bool, s.pins.resetN = false → ∃ t, exec (.resetNRelease a b c) s = .next t ∧ t.pins.resetN = true ∧
      t.pins.mgmt10g = a ∧ t.pins.refsel = b ∧ t.pins.ssc = c ∧
      (s.pins.tap.isTest = true → t.running = false ∧ t = { s with pins := t.pins }) ∧
      (s.pins.tap.isTest = false → t.flag (rg fnMgmt 0) 1 = a ∧ t.flag kClk 1 = b ∧ t.flag kClk 8 = c)) ∧
    (∃ t u v, exec .extest s = .next t ∧ exec .extestPulse s = .next u ∧ exec .extestTrain s = .next v ∧
      (s.pins.resetN = false → (t.pins.tap, u.pins.tap, v.pins.tap) = (.extest, .extestPulse, .extestTrain) ∧
        t = { s with pins := t.pins } ∧ u = { s with pins := u.pins } ∧ v = { s with pins := v.pins }) ∧
      (s.pins.resetN = true → s.pins.tapHold = false → (t.pins.tap, u.pins.tap, v.pins.tap) = (.bypass, .bypass, .bypass) ∧
        t = { s with pins := t.pins } ∧ u = t ∧ v = t)) ∧
    (∀ x : BitVec 17, s.pins.tapHold = false → ∃ t u v w, exec .idcode s = .next t ∧ exec .bypass s = .next u ∧
      exec (.samplePreload x) s = .next v ∧ exec .tapReset s = .next w ∧ w = t ∧ v.pins.scan = x ∧
      (t.pins.tap, u.pins.tap, v.pins.tap) = (.idcode, .bypass, .samplePreload) ∧
      (t.pins.tapRegister, u.pins.tapRegister, v.pins.tapRegister) = ((32, 0x12E5A4B3), (1, 0), (17, x.toNat)) ∧
      t = { s with pins := t.pins } ∧ u = { s with pins := u.pins } ∧ v = { s with pins := v.pins })
end

