-- ==== Sys2Proof/Laws/Tab.lean ====
section
/-! SUPPORT. What the table operations do: reading after writing, and that writes keep the canonical form. -/

namespace Sys2Proof.Machine

variable {α : Type} {d : Nat → α}

theorem tget_dropWhile {t : Tab α} {k j : Nat} (h : k < j) : tget d (t.dropWhile (fun e => e.1 ≤ k)) j = tget d t j := by
  induction t with
  | nil => rfl
  | cons x r ih =>
    obtain ⟨a, w⟩ := x
    by_cases c : a ≤ k
    · simp only [List.dropWhile_cons, c, decide_true, if_true, ih, tget]
      rw [if_neg (by omega), if_neg (by omega)]
    · simp [c]

theorem tget_dropWhile_le {t : Tab α} {k j : Nat} (h : j ≤ k) : tget d (t.dropWhile (fun e => e.1 ≤ k)) j = d j := by
  induction t with
  | nil => rfl
  | cons x r ih =>
    obtain ⟨a, w⟩ := x
    by_cases c : a ≤ k
    · simp [c, ih]
    · simp only [List.dropWhile_cons, c, decide_false, Bool.false_eq_true, if_false, tget]
      rw [if_neg (by omega), if_pos (by omega)]

variable [DecidableEq α] {t : Tab α} {k : Nat} {v : α}

/-- Reading the key just written gives the value written. -/
@[simp] theorem tget_tput_same : tget d (tput d t k v) k = v := by
  induction t with
  | nil => by_cases c : v = d k <;> simp [tput, tget, c]
  | cons x r ih =>
    obtain ⟨j, w⟩ := x
    simp only [tput]
    by_cases c : v = d k
    · rcases Nat.lt_trichotomy k j with h | h | h
      · simp [tget, c, h, Nat.ne_of_gt h]
      · subst h; simp [c, tget_dropWhile_le]
      · simp [tget, show ¬ k < j by omega, show ¬ k = j by omega, show ¬ j = k by omega, ih]
    · rcases Nat.lt_trichotomy k j with h | h | h
      · simp [tget, c, h]
      · subst h; simp [tget, c]
      · simp [tget, show ¬ k < j by omega, show ¬ k = j by omega, show ¬ j = k by omega, ih]

/-- A write leaves every other key as it was. -/
theorem tget_tput_ne {j : Nat} (h : j ≠ k) : tget d (tput d t k v) j = tget d t j := by
  induction t with
  | nil => by_cases c : v = d k <;> simp [tput, tget, c, h.symm]
  | cons x r ih =>
    obtain ⟨i, w⟩ := x
    simp only [tput]
    rcases Nat.lt_trichotomy k i with g | g | g
    · by_cases c : v = d k
      · simp [g, c]
      · simp only [g, if_true, c, if_false, tget, h.symm]
        split
        · rw [if_neg (by omega), if_pos (by omega)]
        · rfl
    · subst g
      by_cases c : v = d k
      · simp only [Nat.lt_irrefl, if_false, if_true, c, tget, h.symm]
        by_cases m : j < k
        · simp [m, tget_dropWhile_le (show j ≤ k by omega)]
        · simp [m, tget_dropWhile (show k < j by omega)]
      · simp [c, tget, h.symm]
    · simp only [show ¬ k < i by omega, show ¬ k = i by omega, if_false, tget, ih]

theorem tget_tput {j : Nat} : tget d (tput d t k v) j = if j = k then v else tget d t j := by
  by_cases h : j = k
  · subst h; simp
  · simp [h, tget_tput_ne h]

theorem twfFrom_mono {l : Option Nat} {t : Tab α} (h : twfFrom d l t = true) : twfFrom d none t = true := by
  cases t with
  | nil => rfl
  | cons x r => cases l <;> simp_all [twfFrom]

theorem twfFrom_weaken {l m : Nat} {t : Tab α} (h : twfFrom d (some l) t = true) (g : m ≤ l) : twfFrom d (some m) t = true := by
  cases t with
  | nil => rfl
  | cons x r => simp_all [twfFrom]; omega

theorem dropWhile_of_wf {l : Nat} {t : Tab α} (h : twfFrom d (some l) t = true) :
    t.dropWhile (fun e => e.1 ≤ l) = t := by
  cases t with
  | nil => rfl
  | cons x r => simp_all [twfFrom]

theorem tput_wfFrom {l : Option Nat} (h : twfFrom d l t = true) (g : ∀ m, l = some m → m < k) :
    twfFrom d l (tput d t k v) = true := by
  induction t generalizing l with
  | nil =>
    by_cases c : v = d k
    · simp [tput, c, twfFrom]
    · cases l <;> simp_all [tput, twfFrom]
  | cons x r ih =>
    obtain ⟨j, w⟩ := x
    have hj : twfFrom d (some j) r = true := by cases l <;> simp_all [twfFrom]
    simp only [tput]
    rcases Nat.lt_trichotomy k j with q | q | q
    · by_cases c : v = d k
      · simp [q, c, h]
      · cases l <;> simp_all [twfFrom]
    · subst q
      by_cases c : v = d k
      · simp only [Nat.lt_irrefl, if_false, if_true, c, dropWhile_of_wf hj]
        cases l with
        | none => exact twfFrom_mono hj
        | some m => exact twfFrom_weaken hj (Nat.le_of_lt (g m rfl))
      · cases l <;> simp_all [twfFrom]
    · have := ih hj (by intro m e; injection e with e; omega)
      cases l <;> simp_all [twfFrom, show ¬ k < j by omega, show ¬ k = j by omega]

/-- A write keeps the canonical form. -/
theorem tput_wf (h : twf d t = true) : twf d (tput d t k v) = true := tput_wfFrom h (by simp)

theorem tputAll_wf {l : List (Nat × α)} (h : twf d t = true) : twf d (tputAll d t l) = true := by
  induction l generalizing t with
  | nil => exact h
  | cons x r ih => exact ih (tput_wf h)

theorem filter_wfFrom {p : Nat × α → Bool} {l : Option Nat} (h : twfFrom d l t = true) : twfFrom d l (t.filter p) = true := by
  induction t generalizing l with
  | nil => rfl
  | cons x r ih =>
    obtain ⟨j, w⟩ := x
    have hj : twfFrom d (some j) r = true := by cases l <;> simp_all [twfFrom]
    by_cases c : p (j, w)
    · have := ih hj
      cases l <;> simp_all [twfFrom]
    · rw [List.filter_cons_of_neg c]
      cases l with
      | none => exact twfFrom_mono (ih hj)
      | some m => exact twfFrom_weaken (ih hj) (by simp_all [twfFrom]; omega)

/-- Dropping entries keeps the canonical form. -/
theorem filter_wf {p : Nat × α → Bool} (h : twf d t = true) : twf d (t.filter p) = true := filter_wfFrom h

theorem tclear_wf {lo n : Nat} (h : twf d t = true) : twf d (tclear t lo n) = true := filter_wf h

omit [DecidableEq α] in
/-- A cleared key reads as the default. -/
theorem tget_tclear {lo n j : Nat} (h : lo ≤ j) (g : j < lo + n) : tget d (tclear t lo n) j = d j := by
  induction t with
  | nil => rfl
  | cons x r ih =>
    obtain ⟨i, w⟩ := x
    by_cases c : i < lo ∨ lo + n ≤ i
    · rw [tclear, List.filter_cons_of_pos (by simpa using c), tget]
      rw [if_neg (by omega)]
      split
      · rfl
      · exact ih
    · rw [tclear, List.filter_cons_of_neg (by simpa using c)]
      exact ih

/-! Memory. -/

theorem Mem.wf_setByte {m : Mem} {a : Nat} {b : Byte} (h : m.wf = true) : (m.setByte a b).wf = true := tput_wf h

theorem Mem.wf_store {m : Mem} {a : Nat} {bs : List Byte} (h : m.wf = true) : (m.store a bs).wf = true := by
  induction bs generalizing m a with
  | nil => exact h
  | cons b r ih => exact ih (Mem.wf_setByte h)

theorem Mem.byte_setByte {m : Mem} {a c : Nat} {b : Byte} :
    (m.setByte a b).byte c = if c = a then b else m.byte c := tget_tput

/-- A byte outside the stored bytes reads as before. -/
theorem Mem.byte_store_of_lt {m : Mem} {a c : Nat} {bs : List Byte} (h : c < a) : (m.store a bs).byte c = m.byte c := by
  induction bs generalizing m a with
  | nil => rfl
  | cons b r ih => rw [Mem.store, ih (by omega), Mem.byte_setByte, if_neg (by omega)]

theorem Mem.byte_store_of_ge {m : Mem} {a c : Nat} {bs : List Byte} (h : a + bs.length ≤ c) :
    (m.store a bs).byte c = m.byte c := by
  induction bs generalizing m a with
  | nil => rfl
  | cons b r ih =>
    simp only [List.length_cons] at h
    rw [Mem.store, ih (by omega), Mem.byte_setByte, if_neg (by omega)]

/-- A stored byte reads as it was stored. -/
theorem Mem.byte_store_in {m : Mem} {a i : Nat} {bs : List Byte} (h : i < bs.length) :
    (m.store a bs).byte (a + i) = bs[i] := by
  induction bs generalizing m a i with
  | nil => simp at h
  | cons b r ih =>
    cases i with
    | zero => rw [Mem.store, Mem.byte_store_of_lt (by omega), Mem.byte_setByte]; simp
    | succ n =>
      rw [Mem.store, show a + (n + 1) = a + 1 + n by omega, ih (by simpa using h)]
      simp

end Sys2Proof.Machine
end

