-- ==== Sys2Proof/Laws/State.lean ====
section
/-! SUPPORT. What each update of State leaves of every field, and what its readers read afterwards. -/

namespace Sys2Proof.Machine

variable {s : State}

@[simp] theorem State.wr_pending {k : Nat} {v : W64} : (s.wr k v).pending = s.pending := rfl
@[simp] theorem State.wr_free {k : Nat} {v : W64} : (s.wr k v).free = s.free := rfl
@[simp] theorem State.wr_clk {k : Nat} {v : W64} : (s.wr k v).clk = s.clk := rfl
@[simp] theorem State.wr_beat {k : Nat} {v : W64} : (s.wr k v).beat = s.beat := rfl
@[simp] theorem State.wr_inForce {k : Nat} {v : W64} : (s.wr k v).inForce = s.inForce := rfl
@[simp] theorem State.wr_mem {k : Nat} {v : W64} : (s.wr k v).mem = s.mem := rfl
@[simp] theorem State.wr_poison {k : Nat} {v : W64} : (s.wr k v).poison = s.poison := rfl
@[simp] theorem State.wr_upset {k : Nat} {v : W64} : (s.wr k v).upset = s.upset := rfl
@[simp] theorem State.wr_mbx {k : Nat} {v : W64} : (s.wr k v).mbx = s.mbx := rfl
@[simp] theorem State.wr_mbxPoison {k : Nat} {v : W64} : (s.wr k v).mbxPoison = s.mbxPoison := rfl
@[simp] theorem State.wr_cores {k : Nat} {v : W64} : (s.wr k v).cores = s.cores := rfl
@[simp] theorem State.wr_clusters {k : Nat} {v : W64} : (s.wr k v).clusters = s.clusters := rfl
@[simp] theorem State.wr_jobs {k : Nat} {v : W64} : (s.wr k v).jobs = s.jobs := rfl
@[simp] theorem State.wr_ledger {k : Nat} {v : W64} : (s.wr k v).ledger = s.ledger := rfl
@[simp] theorem State.wr_hbm {k : Nat} {v : W64} : (s.wr k v).hbm = s.hbm := rfl
@[simp] theorem State.wr_log {k : Nat} {v : W64} : (s.wr k v).log = s.log := rfl
@[simp] theorem State.wr_ceLog {k : Nat} {v : W64} : (s.wr k v).ceLog = s.ceLog := rfl
@[simp] theorem State.wr_rings {k : Nat} {v : W64} : (s.wr k v).rings = s.rings := rfl
@[simp] theorem State.wr_netq {k : Nat} {v : W64} : (s.wr k v).netq = s.netq := rfl
@[simp] theorem State.wr_braid {k : Nat} {v : W64} : (s.wr k v).braid = s.braid := rfl
@[simp] theorem State.wr_net {k : Nat} {v : W64} : (s.wr k v).net = s.net := rfl
@[simp] theorem State.wr_svc {k : Nat} {v : W64} : (s.wr k v).svc = s.svc := rfl
@[simp] theorem State.wr_cmds {k : Nat} {v : W64} : (s.wr k v).cmds = s.cmds := rfl
@[simp] theorem State.wr_boot {k : Nat} {v : W64} : (s.wr k v).boot = s.boot := rfl
@[simp] theorem State.wr_contain {k : Nat} {v : W64} : (s.wr k v).contain = s.contain := rfl
@[simp] theorem State.wr_bist {k : Nat} {v : W64} : (s.wr k v).bist = s.bist := rfl
@[simp] theorem State.wr_power {k : Nat} {v : W64} : (s.wr k v).power = s.power := rfl
@[simp] theorem State.wr_pins {k : Nat} {v : W64} : (s.wr k v).pins = s.pins := rfl

@[simp] theorem State.setCore_pending {p : Nat} {c : Core} : (s.setCore p c).pending = s.pending := rfl
@[simp] theorem State.setCore_free {p : Nat} {c : Core} : (s.setCore p c).free = s.free := rfl
@[simp] theorem State.setCore_clk {p : Nat} {c : Core} : (s.setCore p c).clk = s.clk := rfl
@[simp] theorem State.setCore_beat {p : Nat} {c : Core} : (s.setCore p c).beat = s.beat := rfl
@[simp] theorem State.setCore_csr {p : Nat} {c : Core} : (s.setCore p c).csr = s.csr := rfl
@[simp] theorem State.setCore_inForce {p : Nat} {c : Core} : (s.setCore p c).inForce = s.inForce := rfl
@[simp] theorem State.setCore_mem {p : Nat} {c : Core} : (s.setCore p c).mem = s.mem := rfl
@[simp] theorem State.setCore_poison {p : Nat} {c : Core} : (s.setCore p c).poison = s.poison := rfl
@[simp] theorem State.setCore_upset {p : Nat} {c : Core} : (s.setCore p c).upset = s.upset := rfl
@[simp] theorem State.setCore_mbx {p : Nat} {c : Core} : (s.setCore p c).mbx = s.mbx := rfl
@[simp] theorem State.setCore_mbxPoison {p : Nat} {c : Core} : (s.setCore p c).mbxPoison = s.mbxPoison := rfl
@[simp] theorem State.setCore_clusters {p : Nat} {c : Core} : (s.setCore p c).clusters = s.clusters := rfl
@[simp] theorem State.setCore_jobs {p : Nat} {c : Core} : (s.setCore p c).jobs = s.jobs := rfl
@[simp] theorem State.setCore_ledger {p : Nat} {c : Core} : (s.setCore p c).ledger = s.ledger := rfl
@[simp] theorem State.setCore_hbm {p : Nat} {c : Core} : (s.setCore p c).hbm = s.hbm := rfl
@[simp] theorem State.setCore_log {p : Nat} {c : Core} : (s.setCore p c).log = s.log := rfl
@[simp] theorem State.setCore_ceLog {p : Nat} {c : Core} : (s.setCore p c).ceLog = s.ceLog := rfl
@[simp] theorem State.setCore_rings {p : Nat} {c : Core} : (s.setCore p c).rings = s.rings := rfl
@[simp] theorem State.setCore_netq {p : Nat} {c : Core} : (s.setCore p c).netq = s.netq := rfl
@[simp] theorem State.setCore_braid {p : Nat} {c : Core} : (s.setCore p c).braid = s.braid := rfl
@[simp] theorem State.setCore_net {p : Nat} {c : Core} : (s.setCore p c).net = s.net := rfl
@[simp] theorem State.setCore_svc {p : Nat} {c : Core} : (s.setCore p c).svc = s.svc := rfl
@[simp] theorem State.setCore_cmds {p : Nat} {c : Core} : (s.setCore p c).cmds = s.cmds := rfl
@[simp] theorem State.setCore_boot {p : Nat} {c : Core} : (s.setCore p c).boot = s.boot := rfl
@[simp] theorem State.setCore_contain {p : Nat} {c : Core} : (s.setCore p c).contain = s.contain := rfl
@[simp] theorem State.setCore_bist {p : Nat} {c : Core} : (s.setCore p c).bist = s.bist := rfl
@[simp] theorem State.setCore_power {p : Nat} {c : Core} : (s.setCore p c).power = s.power := rfl
@[simp] theorem State.setCore_pins {p : Nat} {c : Core} : (s.setCore p c).pins = s.pins := rfl

@[simp] theorem State.setCluster_pending {c : Nat} {x : Cluster} : (s.setCluster c x).pending = s.pending := rfl
@[simp] theorem State.setCluster_free {c : Nat} {x : Cluster} : (s.setCluster c x).free = s.free := rfl
@[simp] theorem State.setCluster_clk {c : Nat} {x : Cluster} : (s.setCluster c x).clk = s.clk := rfl
@[simp] theorem State.setCluster_beat {c : Nat} {x : Cluster} : (s.setCluster c x).beat = s.beat := rfl
@[simp] theorem State.setCluster_csr {c : Nat} {x : Cluster} : (s.setCluster c x).csr = s.csr := rfl
@[simp] theorem State.setCluster_inForce {c : Nat} {x : Cluster} : (s.setCluster c x).inForce = s.inForce := rfl
@[simp] theorem State.setCluster_mem {c : Nat} {x : Cluster} : (s.setCluster c x).mem = s.mem := rfl
@[simp] theorem State.setCluster_poison {c : Nat} {x : Cluster} : (s.setCluster c x).poison = s.poison := rfl
@[simp] theorem State.setCluster_upset {c : Nat} {x : Cluster} : (s.setCluster c x).upset = s.upset := rfl
@[simp] theorem State.setCluster_mbx {c : Nat} {x : Cluster} : (s.setCluster c x).mbx = s.mbx := rfl
@[simp] theorem State.setCluster_mbxPoison {c : Nat} {x : Cluster} : (s.setCluster c x).mbxPoison = s.mbxPoison := rfl
@[simp] theorem State.setCluster_cores {c : Nat} {x : Cluster} : (s.setCluster c x).cores = s.cores := rfl
@[simp] theorem State.setCluster_jobs {c : Nat} {x : Cluster} : (s.setCluster c x).jobs = s.jobs := rfl
@[simp] theorem State.setCluster_ledger {c : Nat} {x : Cluster} : (s.setCluster c x).ledger = s.ledger := rfl
@[simp] theorem State.setCluster_hbm {c : Nat} {x : Cluster} : (s.setCluster c x).hbm = s.hbm := rfl
@[simp] theorem State.setCluster_log {c : Nat} {x : Cluster} : (s.setCluster c x).log = s.log := rfl
@[simp] theorem State.setCluster_ceLog {c : Nat} {x : Cluster} : (s.setCluster c x).ceLog = s.ceLog := rfl
@[simp] theorem State.setCluster_rings {c : Nat} {x : Cluster} : (s.setCluster c x).rings = s.rings := rfl
@[simp] theorem State.setCluster_netq {c : Nat} {x : Cluster} : (s.setCluster c x).netq = s.netq := rfl
@[simp] theorem State.setCluster_braid {c : Nat} {x : Cluster} : (s.setCluster c x).braid = s.braid := rfl
@[simp] theorem State.setCluster_net {c : Nat} {x : Cluster} : (s.setCluster c x).net = s.net := rfl
@[simp] theorem State.setCluster_svc {c : Nat} {x : Cluster} : (s.setCluster c x).svc = s.svc := rfl
@[simp] theorem State.setCluster_cmds {c : Nat} {x : Cluster} : (s.setCluster c x).cmds = s.cmds := rfl
@[simp] theorem State.setCluster_boot {c : Nat} {x : Cluster} : (s.setCluster c x).boot = s.boot := rfl
@[simp] theorem State.setCluster_contain {c : Nat} {x : Cluster} : (s.setCluster c x).contain = s.contain := rfl
@[simp] theorem State.setCluster_bist {c : Nat} {x : Cluster} : (s.setCluster c x).bist = s.bist := rfl
@[simp] theorem State.setCluster_power {c : Nat} {x : Cluster} : (s.setCluster c x).power = s.power := rfl
@[simp] theorem State.setCluster_pins {c : Nat} {x : Cluster} : (s.setCluster c x).pins = s.pins := rfl

@[simp] theorem State.setJob_pending {j : Nat} {x : Job} : (s.setJob j x).pending = s.pending := rfl
@[simp] theorem State.setJob_free {j : Nat} {x : Job} : (s.setJob j x).free = s.free := rfl
@[simp] theorem State.setJob_clk {j : Nat} {x : Job} : (s.setJob j x).clk = s.clk := rfl
@[simp] theorem State.setJob_beat {j : Nat} {x : Job} : (s.setJob j x).beat = s.beat := rfl
@[simp] theorem State.setJob_csr {j : Nat} {x : Job} : (s.setJob j x).csr = s.csr := rfl
@[simp] theorem State.setJob_inForce {j : Nat} {x : Job} : (s.setJob j x).inForce = s.inForce := rfl
@[simp] theorem State.setJob_mem {j : Nat} {x : Job} : (s.setJob j x).mem = s.mem := rfl
@[simp] theorem State.setJob_poison {j : Nat} {x : Job} : (s.setJob j x).poison = s.poison := rfl
@[simp] theorem State.setJob_upset {j : Nat} {x : Job} : (s.setJob j x).upset = s.upset := rfl
@[simp] theorem State.setJob_mbx {j : Nat} {x : Job} : (s.setJob j x).mbx = s.mbx := rfl
@[simp] theorem State.setJob_mbxPoison {j : Nat} {x : Job} : (s.setJob j x).mbxPoison = s.mbxPoison := rfl
@[simp] theorem State.setJob_cores {j : Nat} {x : Job} : (s.setJob j x).cores = s.cores := rfl
@[simp] theorem State.setJob_clusters {j : Nat} {x : Job} : (s.setJob j x).clusters = s.clusters := rfl
@[simp] theorem State.setJob_ledger {j : Nat} {x : Job} : (s.setJob j x).ledger = s.ledger := rfl
@[simp] theorem State.setJob_hbm {j : Nat} {x : Job} : (s.setJob j x).hbm = s.hbm := rfl
@[simp] theorem State.setJob_log {j : Nat} {x : Job} : (s.setJob j x).log = s.log := rfl
@[simp] theorem State.setJob_ceLog {j : Nat} {x : Job} : (s.setJob j x).ceLog = s.ceLog := rfl
@[simp] theorem State.setJob_rings {j : Nat} {x : Job} : (s.setJob j x).rings = s.rings := rfl
@[simp] theorem State.setJob_netq {j : Nat} {x : Job} : (s.setJob j x).netq = s.netq := rfl
@[simp] theorem State.setJob_braid {j : Nat} {x : Job} : (s.setJob j x).braid = s.braid := rfl
@[simp] theorem State.setJob_net {j : Nat} {x : Job} : (s.setJob j x).net = s.net := rfl
@[simp] theorem State.setJob_svc {j : Nat} {x : Job} : (s.setJob j x).svc = s.svc := rfl
@[simp] theorem State.setJob_cmds {j : Nat} {x : Job} : (s.setJob j x).cmds = s.cmds := rfl
@[simp] theorem State.setJob_boot {j : Nat} {x : Job} : (s.setJob j x).boot = s.boot := rfl
@[simp] theorem State.setJob_contain {j : Nat} {x : Job} : (s.setJob j x).contain = s.contain := rfl
@[simp] theorem State.setJob_bist {j : Nat} {x : Job} : (s.setJob j x).bist = s.bist := rfl
@[simp] theorem State.setJob_power {j : Nat} {x : Job} : (s.setJob j x).power = s.power := rfl
@[simp] theorem State.setJob_pins {j : Nat} {x : Job} : (s.setJob j x).pins = s.pins := rfl

@[simp] theorem State.setNq_pending {q : Nat} {l : List NetEntry} : (s.setNq q l).pending = s.pending := rfl
@[simp] theorem State.setNq_free {q : Nat} {l : List NetEntry} : (s.setNq q l).free = s.free := rfl
@[simp] theorem State.setNq_clk {q : Nat} {l : List NetEntry} : (s.setNq q l).clk = s.clk := rfl
@[simp] theorem State.setNq_beat {q : Nat} {l : List NetEntry} : (s.setNq q l).beat = s.beat := rfl
@[simp] theorem State.setNq_csr {q : Nat} {l : List NetEntry} : (s.setNq q l).csr = s.csr := rfl
@[simp] theorem State.setNq_inForce {q : Nat} {l : List NetEntry} : (s.setNq q l).inForce = s.inForce := rfl
@[simp] theorem State.setNq_mem {q : Nat} {l : List NetEntry} : (s.setNq q l).mem = s.mem := rfl
@[simp] theorem State.setNq_poison {q : Nat} {l : List NetEntry} : (s.setNq q l).poison = s.poison := rfl
@[simp] theorem State.setNq_upset {q : Nat} {l : List NetEntry} : (s.setNq q l).upset = s.upset := rfl
@[simp] theorem State.setNq_mbx {q : Nat} {l : List NetEntry} : (s.setNq q l).mbx = s.mbx := rfl
@[simp] theorem State.setNq_mbxPoison {q : Nat} {l : List NetEntry} : (s.setNq q l).mbxPoison = s.mbxPoison := rfl
@[simp] theorem State.setNq_cores {q : Nat} {l : List NetEntry} : (s.setNq q l).cores = s.cores := rfl
@[simp] theorem State.setNq_clusters {q : Nat} {l : List NetEntry} : (s.setNq q l).clusters = s.clusters := rfl
@[simp] theorem State.setNq_jobs {q : Nat} {l : List NetEntry} : (s.setNq q l).jobs = s.jobs := rfl
@[simp] theorem State.setNq_ledger {q : Nat} {l : List NetEntry} : (s.setNq q l).ledger = s.ledger := rfl
@[simp] theorem State.setNq_hbm {q : Nat} {l : List NetEntry} : (s.setNq q l).hbm = s.hbm := rfl
@[simp] theorem State.setNq_log {q : Nat} {l : List NetEntry} : (s.setNq q l).log = s.log := rfl
@[simp] theorem State.setNq_ceLog {q : Nat} {l : List NetEntry} : (s.setNq q l).ceLog = s.ceLog := rfl
@[simp] theorem State.setNq_rings {q : Nat} {l : List NetEntry} : (s.setNq q l).rings = s.rings := rfl
@[simp] theorem State.setNq_braid {q : Nat} {l : List NetEntry} : (s.setNq q l).braid = s.braid := rfl
@[simp] theorem State.setNq_net {q : Nat} {l : List NetEntry} : (s.setNq q l).net = s.net := rfl
@[simp] theorem State.setNq_svc {q : Nat} {l : List NetEntry} : (s.setNq q l).svc = s.svc := rfl
@[simp] theorem State.setNq_cmds {q : Nat} {l : List NetEntry} : (s.setNq q l).cmds = s.cmds := rfl
@[simp] theorem State.setNq_boot {q : Nat} {l : List NetEntry} : (s.setNq q l).boot = s.boot := rfl
@[simp] theorem State.setNq_contain {q : Nat} {l : List NetEntry} : (s.setNq q l).contain = s.contain := rfl
@[simp] theorem State.setNq_bist {q : Nat} {l : List NetEntry} : (s.setNq q l).bist = s.bist := rfl
@[simp] theorem State.setNq_power {q : Nat} {l : List NetEntry} : (s.setNq q l).power = s.power := rfl
@[simp] theorem State.setNq_pins {q : Nat} {l : List NetEntry} : (s.setNq q l).pins = s.pins := rfl

@[simp] theorem State.setMem_pending {m : Mem} : (s.setMem m).pending = s.pending := rfl
@[simp] theorem State.setMem_free {m : Mem} : (s.setMem m).free = s.free := rfl
@[simp] theorem State.setMem_clk {m : Mem} : (s.setMem m).clk = s.clk := rfl
@[simp] theorem State.setMem_beat {m : Mem} : (s.setMem m).beat = s.beat := rfl
@[simp] theorem State.setMem_csr {m : Mem} : (s.setMem m).csr = s.csr := rfl
@[simp] theorem State.setMem_inForce {m : Mem} : (s.setMem m).inForce = s.inForce := rfl
@[simp] theorem State.setMem_poison {m : Mem} : (s.setMem m).poison = s.poison := rfl
@[simp] theorem State.setMem_upset {m : Mem} : (s.setMem m).upset = s.upset := rfl
@[simp] theorem State.setMem_mbx {m : Mem} : (s.setMem m).mbx = s.mbx := rfl
@[simp] theorem State.setMem_mbxPoison {m : Mem} : (s.setMem m).mbxPoison = s.mbxPoison := rfl
@[simp] theorem State.setMem_cores {m : Mem} : (s.setMem m).cores = s.cores := rfl
@[simp] theorem State.setMem_clusters {m : Mem} : (s.setMem m).clusters = s.clusters := rfl
@[simp] theorem State.setMem_jobs {m : Mem} : (s.setMem m).jobs = s.jobs := rfl
@[simp] theorem State.setMem_ledger {m : Mem} : (s.setMem m).ledger = s.ledger := rfl
@[simp] theorem State.setMem_hbm {m : Mem} : (s.setMem m).hbm = s.hbm := rfl
@[simp] theorem State.setMem_log {m : Mem} : (s.setMem m).log = s.log := rfl
@[simp] theorem State.setMem_ceLog {m : Mem} : (s.setMem m).ceLog = s.ceLog := rfl
@[simp] theorem State.setMem_rings {m : Mem} : (s.setMem m).rings = s.rings := rfl
@[simp] theorem State.setMem_netq {m : Mem} : (s.setMem m).netq = s.netq := rfl
@[simp] theorem State.setMem_braid {m : Mem} : (s.setMem m).braid = s.braid := rfl
@[simp] theorem State.setMem_net {m : Mem} : (s.setMem m).net = s.net := rfl
@[simp] theorem State.setMem_svc {m : Mem} : (s.setMem m).svc = s.svc := rfl
@[simp] theorem State.setMem_cmds {m : Mem} : (s.setMem m).cmds = s.cmds := rfl
@[simp] theorem State.setMem_boot {m : Mem} : (s.setMem m).boot = s.boot := rfl
@[simp] theorem State.setMem_contain {m : Mem} : (s.setMem m).contain = s.contain := rfl
@[simp] theorem State.setMem_bist {m : Mem} : (s.setMem m).bist = s.bist := rfl
@[simp] theorem State.setMem_power {m : Mem} : (s.setMem m).power = s.power := rfl
@[simp] theorem State.setMem_pins {m : Mem} : (s.setMem m).pins = s.pins := rfl

@[simp] theorem State.setV_pending {p : Nat} {v : VCore} : (s.setV p v).pending = s.pending := rfl
@[simp] theorem State.setV_free {p : Nat} {v : VCore} : (s.setV p v).free = s.free := rfl
@[simp] theorem State.setV_clk {p : Nat} {v : VCore} : (s.setV p v).clk = s.clk := rfl
@[simp] theorem State.setV_beat {p : Nat} {v : VCore} : (s.setV p v).beat = s.beat := rfl
@[simp] theorem State.setV_csr {p : Nat} {v : VCore} : (s.setV p v).csr = s.csr := rfl
@[simp] theorem State.setV_inForce {p : Nat} {v : VCore} : (s.setV p v).inForce = s.inForce := rfl
@[simp] theorem State.setV_mem {p : Nat} {v : VCore} : (s.setV p v).mem = s.mem := rfl
@[simp] theorem State.setV_poison {p : Nat} {v : VCore} : (s.setV p v).poison = s.poison := rfl
@[simp] theorem State.setV_upset {p : Nat} {v : VCore} : (s.setV p v).upset = s.upset := rfl
@[simp] theorem State.setV_mbx {p : Nat} {v : VCore} : (s.setV p v).mbx = s.mbx := rfl
@[simp] theorem State.setV_mbxPoison {p : Nat} {v : VCore} : (s.setV p v).mbxPoison = s.mbxPoison := rfl
@[simp] theorem State.setV_clusters {p : Nat} {v : VCore} : (s.setV p v).clusters = s.clusters := rfl
@[simp] theorem State.setV_jobs {p : Nat} {v : VCore} : (s.setV p v).jobs = s.jobs := rfl
@[simp] theorem State.setV_ledger {p : Nat} {v : VCore} : (s.setV p v).ledger = s.ledger := rfl
@[simp] theorem State.setV_hbm {p : Nat} {v : VCore} : (s.setV p v).hbm = s.hbm := rfl
@[simp] theorem State.setV_log {p : Nat} {v : VCore} : (s.setV p v).log = s.log := rfl
@[simp] theorem State.setV_ceLog {p : Nat} {v : VCore} : (s.setV p v).ceLog = s.ceLog := rfl
@[simp] theorem State.setV_rings {p : Nat} {v : VCore} : (s.setV p v).rings = s.rings := rfl
@[simp] theorem State.setV_netq {p : Nat} {v : VCore} : (s.setV p v).netq = s.netq := rfl
@[simp] theorem State.setV_braid {p : Nat} {v : VCore} : (s.setV p v).braid = s.braid := rfl
@[simp] theorem State.setV_net {p : Nat} {v : VCore} : (s.setV p v).net = s.net := rfl
@[simp] theorem State.setV_svc {p : Nat} {v : VCore} : (s.setV p v).svc = s.svc := rfl
@[simp] theorem State.setV_cmds {p : Nat} {v : VCore} : (s.setV p v).cmds = s.cmds := rfl
@[simp] theorem State.setV_boot {p : Nat} {v : VCore} : (s.setV p v).boot = s.boot := rfl
@[simp] theorem State.setV_contain {p : Nat} {v : VCore} : (s.setV p v).contain = s.contain := rfl
@[simp] theorem State.setV_bist {p : Nat} {v : VCore} : (s.setV p v).bist = s.bist := rfl
@[simp] theorem State.setV_power {p : Nat} {v : VCore} : (s.setV p v).power = s.power := rfl
@[simp] theorem State.setV_pins {p : Nat} {v : VCore} : (s.setV p v).pins = s.pins := rfl

@[simp] theorem State.core_wr {k : Nat} {v : W64} {i : Nat} : (s.wr k v).core i = s.core i := rfl
@[simp] theorem State.cluster_wr {k : Nat} {v : W64} {i : Nat} : (s.wr k v).cluster i = s.cluster i := rfl
@[simp] theorem State.job_wr {k : Nat} {v : W64} {i : Nat} : (s.wr k v).job i = s.job i := rfl
@[simp] theorem State.nq_wr {k : Nat} {v : W64} {i : Nat} : (s.wr k v).nq i = s.nq i := rfl
@[simp] theorem State.force_wr {k : Nat} {v : W64} {i : Nat} : (s.wr k v).force i = s.force i := rfl

@[simp] theorem State.rd_setCore {p : Nat} {c : Core} {i : Nat} : (s.setCore p c).rd i = s.rd i := rfl
@[simp] theorem State.cluster_setCore {p : Nat} {c : Core} {i : Nat} : (s.setCore p c).cluster i = s.cluster i := rfl
@[simp] theorem State.job_setCore {p : Nat} {c : Core} {i : Nat} : (s.setCore p c).job i = s.job i := rfl
@[simp] theorem State.nq_setCore {p : Nat} {c : Core} {i : Nat} : (s.setCore p c).nq i = s.nq i := rfl
@[simp] theorem State.force_setCore {p : Nat} {c : Core} {i : Nat} : (s.setCore p c).force i = s.force i := rfl

@[simp] theorem State.rd_setCluster {c : Nat} {x : Cluster} {i : Nat} : (s.setCluster c x).rd i = s.rd i := rfl
@[simp] theorem State.core_setCluster {c : Nat} {x : Cluster} {i : Nat} : (s.setCluster c x).core i = s.core i := rfl
@[simp] theorem State.job_setCluster {c : Nat} {x : Cluster} {i : Nat} : (s.setCluster c x).job i = s.job i := rfl
@[simp] theorem State.nq_setCluster {c : Nat} {x : Cluster} {i : Nat} : (s.setCluster c x).nq i = s.nq i := rfl
@[simp] theorem State.force_setCluster {c : Nat} {x : Cluster} {i : Nat} : (s.setCluster c x).force i = s.force i := rfl

@[simp] theorem State.rd_setJob {j : Nat} {x : Job} {i : Nat} : (s.setJob j x).rd i = s.rd i := rfl
@[simp] theorem State.core_setJob {j : Nat} {x : Job} {i : Nat} : (s.setJob j x).core i = s.core i := rfl
@[simp] theorem State.cluster_setJob {j : Nat} {x : Job} {i : Nat} : (s.setJob j x).cluster i = s.cluster i := rfl
@[simp] theorem State.nq_setJob {j : Nat} {x : Job} {i : Nat} : (s.setJob j x).nq i = s.nq i := rfl
@[simp] theorem State.force_setJob {j : Nat} {x : Job} {i : Nat} : (s.setJob j x).force i = s.force i := rfl

@[simp] theorem State.rd_setNq {q : Nat} {l : List NetEntry} {i : Nat} : (s.setNq q l).rd i = s.rd i := rfl
@[simp] theorem State.core_setNq {q : Nat} {l : List NetEntry} {i : Nat} : (s.setNq q l).core i = s.core i := rfl
@[simp] theorem State.cluster_setNq {q : Nat} {l : List NetEntry} {i : Nat} : (s.setNq q l).cluster i = s.cluster i := rfl
@[simp] theorem State.job_setNq {q : Nat} {l : List NetEntry} {i : Nat} : (s.setNq q l).job i = s.job i := rfl
@[simp] theorem State.force_setNq {q : Nat} {l : List NetEntry} {i : Nat} : (s.setNq q l).force i = s.force i := rfl

@[simp] theorem State.rd_setMem {m : Mem} {i : Nat} : (s.setMem m).rd i = s.rd i := rfl
@[simp] theorem State.core_setMem {m : Mem} {i : Nat} : (s.setMem m).core i = s.core i := rfl
@[simp] theorem State.cluster_setMem {m : Mem} {i : Nat} : (s.setMem m).cluster i = s.cluster i := rfl
@[simp] theorem State.job_setMem {m : Mem} {i : Nat} : (s.setMem m).job i = s.job i := rfl
@[simp] theorem State.nq_setMem {m : Mem} {i : Nat} : (s.setMem m).nq i = s.nq i := rfl
@[simp] theorem State.force_setMem {m : Mem} {i : Nat} : (s.setMem m).force i = s.force i := rfl

@[simp] theorem State.rd_setV {p : Nat} {v : VCore} {i : Nat} : (s.setV p v).rd i = s.rd i := rfl
@[simp] theorem State.cluster_setV {p : Nat} {v : VCore} {i : Nat} : (s.setV p v).cluster i = s.cluster i := rfl
@[simp] theorem State.job_setV {p : Nat} {v : VCore} {i : Nat} : (s.setV p v).job i = s.job i := rfl
@[simp] theorem State.nq_setV {p : Nat} {v : VCore} {i : Nat} : (s.setV p v).nq i = s.nq i := rfl
@[simp] theorem State.force_setV {p : Nat} {v : VCore} {i : Nat} : (s.setV p v).force i = s.force i := rfl

@[simp] theorem State.rd_wr_same {k : Nat} {v : W64} : (s.wr k v).rd k = v := tget_tput_same
theorem State.rd_wr_ne {k : Nat} {v : W64} {i : Nat} (h : i ≠ k) : (s.wr k v).rd i = s.rd i := tget_tput_ne h
theorem State.rd_wr {k : Nat} {v : W64} {i : Nat} : (s.wr k v).rd i = if i = k then v else s.rd i := tget_tput
@[simp] theorem State.core_setCore_same {p : Nat} {c : Core} : (s.setCore p c).core p = c := tget_tput_same
theorem State.core_setCore_ne {p : Nat} {c : Core} {i : Nat} (h : i ≠ p) : (s.setCore p c).core i = s.core i := tget_tput_ne h
theorem State.core_setCore {p : Nat} {c : Core} {i : Nat} : (s.setCore p c).core i = if i = p then c else s.core i := tget_tput
@[simp] theorem State.cluster_setCluster_same {c : Nat} {x : Cluster} : (s.setCluster c x).cluster c = x := tget_tput_same
theorem State.cluster_setCluster_ne {c : Nat} {x : Cluster} {i : Nat} (h : i ≠ c) : (s.setCluster c x).cluster i = s.cluster i := tget_tput_ne h
theorem State.cluster_setCluster {c : Nat} {x : Cluster} {i : Nat} : (s.setCluster c x).cluster i = if i = c then x else s.cluster i := tget_tput
@[simp] theorem State.job_setJob_same {j : Nat} {x : Job} : (s.setJob j x).job j = x := tget_tput_same
theorem State.job_setJob_ne {j : Nat} {x : Job} {i : Nat} (h : i ≠ j) : (s.setJob j x).job i = s.job i := tget_tput_ne h
theorem State.job_setJob {j : Nat} {x : Job} {i : Nat} : (s.setJob j x).job i = if i = j then x else s.job i := tget_tput
@[simp] theorem State.nq_setNq_same {q : Nat} {l : List NetEntry} : (s.setNq q l).nq q = l := tget_tput_same
theorem State.nq_setNq_ne {q : Nat} {l : List NetEntry} {i : Nat} (h : i ≠ q) : (s.setNq q l).nq i = s.nq i := tget_tput_ne h
theorem State.nq_setNq {q : Nat} {l : List NetEntry} {i : Nat} : (s.setNq q l).nq i = if i = q then l else s.nq i := tget_tput
@[simp] theorem State.core_setV_same {p : Nat} {v : VCore} : (s.setV p v).core p = { s.core p with v := v } := tget_tput_same
theorem State.core_setV_ne {p i : Nat} {v : VCore} (h : i ≠ p) : (s.setV p v).core i = s.core i := tget_tput_ne h
@[simp] theorem State.draw_pending : s.draw.2.pending = s.pending := rfl
@[simp] theorem State.draw_clk : s.draw.2.clk = s.clk := rfl
@[simp] theorem State.draw_beat : s.draw.2.beat = s.beat := rfl
@[simp] theorem State.draw_csr : s.draw.2.csr = s.csr := rfl
@[simp] theorem State.draw_inForce : s.draw.2.inForce = s.inForce := rfl
@[simp] theorem State.draw_mem : s.draw.2.mem = s.mem := rfl
@[simp] theorem State.draw_poison : s.draw.2.poison = s.poison := rfl
@[simp] theorem State.draw_upset : s.draw.2.upset = s.upset := rfl
@[simp] theorem State.draw_mbx : s.draw.2.mbx = s.mbx := rfl
@[simp] theorem State.draw_mbxPoison : s.draw.2.mbxPoison = s.mbxPoison := rfl
@[simp] theorem State.draw_cores : s.draw.2.cores = s.cores := rfl
@[simp] theorem State.draw_clusters : s.draw.2.clusters = s.clusters := rfl
@[simp] theorem State.draw_jobs : s.draw.2.jobs = s.jobs := rfl
@[simp] theorem State.draw_ledger : s.draw.2.ledger = s.ledger := rfl
@[simp] theorem State.draw_hbm : s.draw.2.hbm = s.hbm := rfl
@[simp] theorem State.draw_log : s.draw.2.log = s.log := rfl
@[simp] theorem State.draw_ceLog : s.draw.2.ceLog = s.ceLog := rfl
@[simp] theorem State.draw_rings : s.draw.2.rings = s.rings := rfl
@[simp] theorem State.draw_netq : s.draw.2.netq = s.netq := rfl
@[simp] theorem State.draw_braid : s.draw.2.braid = s.braid := rfl
@[simp] theorem State.draw_net : s.draw.2.net = s.net := rfl
@[simp] theorem State.draw_svc : s.draw.2.svc = s.svc := rfl
@[simp] theorem State.draw_cmds : s.draw.2.cmds = s.cmds := rfl
@[simp] theorem State.draw_boot : s.draw.2.boot = s.boot := rfl
@[simp] theorem State.draw_contain : s.draw.2.contain = s.contain := rfl
@[simp] theorem State.draw_bist : s.draw.2.bist = s.bist := rfl
@[simp] theorem State.draw_power : s.draw.2.power = s.power := rfl
@[simp] theorem State.draw_pins : s.draw.2.pins = s.pins := rfl

/-! Registers of a virtual core (R146, R154). -/

variable {v : VCore}

@[simp] theorem VCore.getG_zero : v.getG 0 = 0 := rfl
theorem VCore.getG_setG {n m : Nat} {x : W64} : (v.setG n x).getG m = if m = n ∧ n ≠ 0 then x else v.getG m := by
  unfold VCore.setG VCore.getG
  by_cases h : n = 0
  · simp [h]
  · by_cases k : m = 0
    · simp [h, k, Ne.symm h]
    · simp [h, k, tget_tput]
theorem VCore.getA_setA {n m : Nat} {x : BitVec 48} : (v.setA n x).getA m = if m = n then x else v.getA m := tget_tput
theorem VCore.getLc_setLc {n m : Nat} {x : W32} : (v.setLc n x).getLc m = if m = n then x else v.getLc m := tget_tput
theorem VCore.getTok_setTok {n m x : Nat} : (v.setTok n x).getTok m = if m = n then x else v.getTok m := tget_tput
theorem VCore.queue_setQueue {n m : Nat} {x : SQueue} : (v.setQueue n x).queue m = if m = n then x else v.queue m := tget_tput
@[simp] theorem VCore.getA_setG {n m : Nat} {x : W64} : (v.setG n x).getA m = v.getA m := by
  unfold VCore.setG; split <;> rfl
@[simp] theorem VCore.getG_setA {n m : Nat} {x : BitVec 48} : (v.setA n x).getG m = v.getG m := rfl

end Sys2Proof.Machine
end

