-- ==== Sys2Proof/Laws/Fills.lean ====
section
/-! SUPPORT. The shadow tap of core p touches the fills of its virtual core, the checks of a cluster and registers. -/

namespace Sys2Proof.Machine

/-- From s to t only core p's fills, the clusters and the registers differ. -/
structure TapOnly (p : Nat) (s t : State) : Prop where
  own   : t.core p = { s.core p with v := { (s.core p).v with
            fillNo := (t.core p).v.fillNo, fills := (t.core p).v.fills, ended := (t.core p).v.ended } }
  other : ∀ q, q ≠ p → t.core q = s.core q
  rest  : t = { s with cores := t.cores, csr := t.csr, clusters := t.clusters }

variable {p : Nat} {s t u : State}

theorem TapOnly.refl : TapOnly p s s := ⟨rfl, fun _ _ => rfl, rfl⟩

theorem TapOnly.trans (a : TapOnly p s t) (b : TapOnly p t u) : TapOnly p s u := by
  refine ⟨?_, fun q hq => (b.other q hq).trans (a.other q hq), ?_⟩
  · have h := b.own
    rw [a.own] at h
    exact h
  · have h := b.rest
    rw [a.rest] at h
    exact h

theorem TapOnly.fills {v : VCore} (h : TapOnly p s t)
    (e : v = { (t.core p).v with fillNo := v.fillNo, fills := v.fills, ended := v.ended }) : TapOnly p s (t.setV p v) := by
  refine h.trans ⟨?_, fun q hq => State.core_setV_ne hq, rfl⟩
  rw [State.core_setV_same]
  exact congrArg (fun v => { t.core p with v := v }) e

theorem TapOnly.wr {k : Nat} {v : W64} (h : TapOnly p s t) : TapOnly p s (t.wr k v) := h.trans ⟨rfl, fun _ _ => rfl, rfl⟩
theorem TapOnly.bump {k hi lo n : Nat} (h : TapOnly p s t) : TapOnly p s (t.bump k hi lo n) := h.wr
theorem TapOnly.setCluster {c : Nat} {x : Cluster} (h : TapOnly p s t) : TapOnly p s (t.setCluster c x) :=
  h.trans ⟨rfl, fun _ _ => rfl, rfl⟩

theorem TapOnly.foldl {α : Type} {f : State → α → State} {l : List α} (hf : ∀ t x, TapOnly p s t → TapOnly p s (f t x))
    (h : TapOnly p s t) : TapOnly p s (l.foldl f t) := by
  induction l generalizing t with
  | nil => exact h
  | cons x l ih => exact ih (hf t x h)

theorem TapOnly.abandon {k : Nat} (h : TapOnly p s t) : TapOnly p s (t.abandon p k) := by
  unfold State.abandon
  split
  · exact h
  · split
    · exact h
    · exact (h.fills rfl).bump

theorem TapOnly.onFill {k : Nat} {g : Fill → Fill} (h : TapOnly p s t) : TapOnly p s (t.onFill p k g) := by
  unfold State.onFill
  split
  · exact h
  · exact h.fills rfl

theorem TapOnly.capture {k : Nat} {x : Capture} (h : TapOnly p s t) : TapOnly p s (t.capture p k x) := by
  unfold State.capture
  split
  · exact h
  · split
    · exact h
    · split
      · exact h.abandon
      · exact h.fills rfl

theorem TapOnly.beginFill {k : Nat} (h : TapOnly p s t) : TapOnly p s (t.beginFill p k) := by
  unfold State.beginFill
  split
  · exact h
  · dsimp only
    split
    · split
      · exact (TapOnly.bump (h.fills rfl)).abandon
      · exact TapOnly.bump (h.fills rfl)
    · exact h.fills rfl

theorem TapOnly.endFill {k : Nat} (h : TapOnly p s t) : TapOnly p s (t.endFill p k) := by
  unfold State.endFill
  dsimp only
  split
  · exact h.fills rfl
  · split
    · exact h.fills rfl
    · split
      · exact TapOnly.bump (h.fills rfl)
      · split
        · exact TapOnly.bump (h.fills rfl)
        · exact TapOnly.setCluster (h.fills rfl)

theorem TapOnly.endAll (h : TapOnly p s t) : TapOnly p s (Machine.endFills t p) := by
  unfold Machine.endFills
  exact TapOnly.foldl (fun _ _ k => k.endFill) h

theorem TapOnly.spoilRows {k row0 rows : Nat} (h : TapOnly p s t) : TapOnly p s (t.spoilRows p k row0 rows) := by
  unfold State.spoilRows
  split
  · exact h
  · dsimp only
    split
    · exact h
    · exact h.setCluster

theorem TapOnly.tapLoad {k row0 rows : Nat} (h : TapOnly p s t) : TapOnly p s (t.tapLoad p k row0 rows) := h.onFill.spoilRows

theorem TapOnly.tapStore {k row0 rows : Nat} (h : TapOnly p s t) : TapOnly p s (t.tapStore p k row0 rows) := by
  unfold State.tapStore
  dsimp only
  split
  · exact h
  · split
    · exact h
    · exact h.setCluster

theorem TapOnly.tapMma {k row0 klen bs : Nat} {w : Option WTile} {ta : Tag} {rows : List ActRow} {before : List (List Pair)}
    {q : Bool} (h : TapOnly p s t) : TapOnly p s (t.tapMma p k w row0 klen ta bs rows before q) := by
  unfold State.tapMma
  split
  · exact h
  · split
    · exact h
    · split
      · exact h.abandon
      · dsimp only
        refine (TapOnly.capture (TapOnly.foldl (fun t x k => ?_) ?_)).onFill
        · obtain ⟨r, ps⟩ := x
          dsimp only
          split
          · exact k
          · exact k.capture
        · split
          · exact h.capture.onFill
          · exact h

theorem TapOnly.closeSpan {b : Bundle} {n : Nat} (h : TapOnly p s t) : TapOnly p s (t.closeSpan p b n) := by
  unfold State.closeSpan
  extract_lets c other
  split
  · exact h.endAll
  · exact h

end Sys2Proof.Machine
end

