-- ==== Sys2Proof/Laws/Keeps.lean ====
section
/-! SUPPORT. What every command keeps, said once as a relation between the state before and the state after, with the
rules by which operations compose. Every operation of the machine has one lemma <operation>_keeps under Laws/. -/

namespace Sys2Proof.Machine

/-- From s to t: the waiting commands stay, the memories and the register table keep their canonical form, the Contrail
buffer stays within 4,096 entries (R448) and the event buffer within 256 (R392). -/
structure Keeps (s t : State) : Prop where
  pending : t.pending = s.pending
  mem : s.mem.wf = true → t.mem.wf = true
  mbx : s.mbx.wf = true → t.mbx.wf = true
  csr : twf csrReset s.csr = true → twf csrReset t.csr = true
  log : s.log.entries.length ≤ 4096 → t.log.entries.length ≤ 4096
  events : s.rings.events.length ≤ 256 → t.rings.events.length ≤ 256

/-- The same of what a command answers. -/
structure KeepsOut (s : State) (o : Out) : Prop where
  out : ∀ t, o = .next t → Keeps s t

theorem Keeps.refl (s : State) : Keeps s s := ⟨rfl, id, id, id, id, id⟩

theorem Keeps.trans {r s t : State} (a : Keeps r s) (b : Keeps s t) : Keeps r t :=
  ⟨b.pending.trans a.pending, b.mem ∘ a.mem, b.mbx ∘ a.mbx, b.csr ∘ a.csr, b.log ∘ a.log, b.events ∘ a.events⟩

theorem keepsOut_next {r s : State} (h : Keeps r s) : KeepsOut r (.next s) := by
  constructor; intro t e; cases e; exact h

theorem keepsOut_fault {r : State} {f : Fault} : KeepsOut r (.fault f) := by
  constructor; intro t e; cases e

theorem Keeps.ite {r a b : State} {c : Prop} [Decidable c] (h : Keeps r a) (g : Keeps r b) : Keeps r (if c then a else b) := by
  split <;> assumption

theorem keepsOut_ite {r : State} {a b : Out} {c : Prop} [Decidable c] (h : KeepsOut r a) (g : KeepsOut r b) :
    KeepsOut r (if c then a else b) := by
  split <;> assumption

/-- A record update that leaves the queue: what it does to the other five is asked for. -/
theorem Keeps.upd {r u : State} (h : Keeps r u) {free clk : Nat} {beat : W64} {csr inForce : Tab W64} {mem : Mem} {poison : List Nat}
    {upset : Tab Nat} {mbx : Mem} {mbxPoison : List Nat} {cores : Tab Core} {clusters : Tab Cluster} {jobs : Tab Job}
    {ledger : Ledger} {hbm : Hbm} {log : LogBuf} {ceLog : Tab (Nat × Nat)} {rings : Rings} {netq : Tab (List NetEntry)}
    {braid : Braid} {net : Net} {svc : Tab (Option Svc)} {cmds : Cmds} {boot : Boot} {contain : Contain} {bist : Bist}
    {power : Power} {pins : Pins}
    (hm : u.mem.wf = true → mem.wf = true) (hb : u.mbx.wf = true → mbx.wf = true)
    (hc : twf csrReset u.csr = true → twf csrReset csr = true)
    (hl : u.log.entries.length ≤ 4096 → log.entries.length ≤ 4096)
    (he : u.rings.events.length ≤ 256 → rings.events.length ≤ 256) :
    Keeps r ⟨u.pending, free, clk, beat, csr, inForce, mem, poison, upset, mbx, mbxPoison, cores, clusters, jobs, ledger,
      hbm, log, ceLog, rings, netq, braid, net, svc, cmds, boot, contain, bist, power, pins⟩ :=
  h.trans ⟨rfl, hm, hb, hc, hl, he⟩

theorem foldl_keeps {α : Type} {r s : State} {f : State → α → State} {l : List α} (hf : ∀ t x, Keeps r t → Keeps r (f t x))
    (h : Keeps r s) : Keeps r (l.foldl f s) := by
  induction l generalizing s with
  | nil => exact h
  | cons x l ih => exact ih (hf s x h)

theorem foldr_keeps {α : Type} {r s : State} {f : α → State → State} {l : List α} (hf : ∀ x t, Keeps r t → Keeps r (f x t))
    (h : Keeps r s) : Keeps r (l.foldr f s) := by
  induction l with
  | nil => exact h
  | cons x l ih => exact hf x _ ih

/-- The same where the state goes through the list with something beside it. -/
theorem foldl_fst_keeps {α β : Type} {r : State} {f : State × β → α → State × β} {l : List α} {z : State × β}
    (hf : ∀ t b x, Keeps r t → Keeps r (f (t, b) x).1) (h : Keeps r z.1) : Keeps r (l.foldl f z).1 := by
  induction l generalizing z with
  | nil => exact h
  | cons x l ih => exact ih (hf z.1 z.2 x h)

theorem keeps_of_fst {β : Type} {r t : State} {x : State × β} {b : β} (e : x = (t, b)) (h : Keeps r x.1) : Keeps r t := by
  subst e; exact h

theorem keeps_of_snd {β : Type} {r t : State} {x : β × State} {b : β} (e : x = (b, t)) (h : Keeps r x.2) : Keeps r t := by
  subst e; exact h

end Sys2Proof.Machine
end

