-- ==== Sys2Proof/Laws/KeepsOps.lean ====
section
/-! SUPPORT. What the operations of Machine/Ops.lean keep. -/

namespace Sys2Proof.Machine

theorem State.setCore_keeps {r s : State} {p : Nat} {c : Core} (h : Keeps r s) :
    Keeps r (State.setCore s p c) := by
  unfold State.setCore
  repeat' first
    | with_reducible exact h | with_reducible refine Keeps.upd ?_ id id id id id

theorem State.setV_keeps {r s : State} {p : Nat} {v : VCore} (h : Keeps r s) :
    Keeps r (State.setV s p v) := by
  unfold State.setV
  repeat' first
    | with_reducible exact h | with_reducible refine State.setCore_keeps ?_

theorem State.wr_keeps {r s : State} {k : Nat} {v : W64} (h : Keeps r s) : Keeps r (s.wr k v) :=
  h.upd id id tput_wf id id

theorem State.setFld_keeps {r s : State} {k : Nat} {hi : Nat} {lo : Nat} {v : Nat} (h : Keeps r s) :
    Keeps r (State.setFld s k hi lo v) := by
  unfold State.setFld
  repeat' first
    | with_reducible exact h | with_reducible refine State.wr_keeps ?_

theorem State.setFlag_keeps {r s : State} {k : Nat} {i : Nat} {b : Bool} (h : Keeps r s) :
    Keeps r (State.setFlag s k i b) := by
  unfold State.setFlag
  repeat' first
    | with_reducible exact h | with_reducible refine State.setFld_keeps ?_

theorem State.setCluster_keeps {r s : State} {c : Nat} {x : Cluster} (h : Keeps r s) :
    Keeps r (State.setCluster s c x) := by
  unfold State.setCluster
  repeat' first
    | with_reducible exact h | with_reducible refine Keeps.upd ?_ id id id id id

theorem State.setNq_keeps {r s : State} {q : Nat} {l : List NetEntry} (h : Keeps r s) :
    Keeps r (State.setNq s q l) := by
  unfold State.setNq
  repeat' first
    | with_reducible exact h | with_reducible refine Keeps.upd ?_ id id id id id

theorem State.setJob_keeps {r s : State} {j : Nat} {x : Job} (h : Keeps r s) :
    Keeps r (State.setJob s j x) := by
  unfold State.setJob
  repeat' first
    | with_reducible exact h | with_reducible refine Keeps.upd ?_ id id id id id

theorem State.bump_keeps {r s : State} {k : Nat} {hi : Nat} {lo : Nat} {n : Nat} (h : Keeps r s) :
    Keeps r (State.bump s k hi lo n) := by
  unfold State.bump
  repeat' first
    | with_reducible exact h | with_reducible refine State.setFld_keeps ?_

theorem State.logPut_keeps {r s : State} {e : LogEntry} (h : Keeps r s) : Keeps r (s.logPut e) := by
  unfold State.logPut
  dsimp only
  split
  · exact State.bump_keeps (h.upd id id id (fun _ => by simp; omega) id)
  · split
    · rename_i g
      have l : (s.log.entries.eraseP (fun x => decide (x.sev ≤ 1))).length + 1 = s.log.entries.length := by
        obtain ⟨x, hx, hp⟩ := List.any_eq_true.1 g.2
        have := List.length_eraseP_of_mem (p := fun x : LogEntry => decide (x.sev ≤ 1)) hx hp
        have := List.length_pos_of_mem hx
        omega
      exact State.bump_keeps (State.bump_keeps (h.upd id id id (fun k => by simp; omega) id))
    · exact State.bump_keeps (h.upd id id id id id)

theorem State.logWrite_keeps {r s : State} {e : LogEntry} (h : Keeps r s) : Keeps r (s.logWrite e) :=
  Keeps.ite h (State.logPut_keeps h)

theorem State.note_keeps {r s : State} {type : Nat} {sev : Nat} {func : Nat} {job : Option Nat} {b : Body} (h : Keeps r s) :
    Keeps r (State.note s type sev func job b) := by
  unfold State.note
  repeat' first
    | with_reducible exact h | with_reducible refine State.logWrite_keeps ?_

theorem State.corrected_keeps {r s : State} {func memory : Nat} {job : Option Nat} (h : Keeps r s) :
    Keeps r (s.corrected func memory job) := by
  unfold State.corrected
  dsimp only
  exact Keeps.ite (State.note_keeps (h.upd id id id id id)) (h.upd id id id id id)

theorem State.report_keeps {r s : State} {type : Nat} {sev : Nat} {func : Nat} {job : Option Nat} {b : Body} (h : Keeps r s) :
    Keeps r (State.report s type sev func job b) := by
  unfold State.report
  repeat' first
    | with_reducible exact h | with_reducible refine State.logWrite_keeps ?_

theorem State.uncorrected_keeps {r s : State} {func : Nat} {memory : Nat} {job : Option Nat} {unit : Nat} {addr : Nat} (h : Keeps r s) :
    Keeps r (State.uncorrected s func memory job unit addr) := by
  unfold State.uncorrected
  repeat' first
    | with_reducible exact h | with_reducible refine State.report_keeps ?_

theorem State.draw_keeps {r s : State} (h : Keeps r s) :
    Keeps r (State.draw s).2 := by
  unfold State.draw
  repeat' first
    | with_reducible exact h | dsimp only | with_reducible refine Keeps.upd ?_ id id id id id

theorem State.countBank_keeps {r s : State} {p : Nat} {n : Nat} (h : Keeps r s) :
    Keeps r (State.countBank s p n) := by
  unfold State.countBank
  repeat' first
    | with_reducible exact h | with_reducible refine State.bump_keeps ?_ | with_reducible refine Keeps.ite ?_ ?_

theorem State.storeBytes_keeps {r s : State} {a : Nat} {bs : List Byte} (h : Keeps r s) : Keeps r (s.storeBytes a bs) :=
  h.upd Mem.wf_store id id id id

theorem State.setMem_keeps {r s : State} {m : Mem} (g : m.wf = true) (h : Keeps r s) : Keeps r (s.setMem m) :=
  h.upd (fun _ => g) id id id id

end Sys2Proof.Machine
end

