-- ==== Sys2Proof/Laws/KeepsHbmOps.lean ====
section
/-! SUPPORT. What the operations of Machine/HbmOps.lean keep. -/

namespace Sys2Proof.Machine

theorem State.setPage_keeps {r s : State} {n : Nat} {e : W64} (h : Keeps r s) :
    Keeps r (State.setPage s n e) := by
  unfold State.setPage
  repeat' first
    | with_reducible exact h | with_reducible refine Keeps.upd ?_ id id id id id

theorem State.readGranule_keeps {r s : State} {g : Nat} (h : Keeps r s) :
    Keeps r (State.readGranule s g).1 := by
  unfold State.readGranule
  repeat' first
    | with_reducible exact h | with_reducible refine State.corrected_keeps ?_
    | with_reducible refine State.setPage_keeps ?_ | with_reducible refine State.bump_keeps ?_
    | with_reducible refine State.uncorrected_keeps ?_ | split | with_reducible refine Keeps.upd ?_ id id id id id

theorem State.sealGranule_keeps {r s : State} {g : Nat} {poison : Bool} (h : Keeps r s) :
    Keeps r (State.sealGranule s g poison) := by
  unfold State.sealGranule
  repeat' first
    | with_reducible exact h | split | dsimp only | with_reducible refine Keeps.upd ?_ id id id id id

theorem State.writeGranule_keeps {r s : State} {a : Nat} {bs : List Byte} {poison : Bool} (h : Keeps r s) :
    Keeps r (s.writeGranule a bs poison) := by
  have g : Keeps r (if bs.length < 64 then
      (s.bump (rg (fnHbm (a / 64 * 64 / 0x2000000000)) 0x068) 63 0 1).readGranule (a / 64 * 64) else (s, false)).1 := by
    split
    · exact State.readGranule_keeps (State.bump_keeps h)
    · exact h
  exact State.sealGranule_keeps (g.upd Mem.wf_store id id id id)

theorem State.writeHbm_keeps {r s : State} {a : Nat} {bs : List Byte} (h : Keeps r s) :
    Keeps r (State.writeHbm s a bs) := by
  unfold State.writeHbm
  repeat' first
    | with_reducible exact h | with_reducible assumption | with_reducible refine State.writeGranule_keeps ?_
    | with_reducible refine foldl_keeps ?_ ?_ | intro _

theorem State.readHbm_keeps {r s : State} {a : Nat} {n : Nat} (h : Keeps r s) :
    Keeps r (State.readHbm s a n).1 := by
  unfold State.readHbm
  repeat' first
    | with_reducible exact h | with_reducible assumption | with_reducible refine State.readGranule_keeps ?_
    | with_reducible refine foldl_fst_keeps ?_ ?_ | intro _

theorem State.pageFault_keeps {r s : State} {src : Nat} {job : Nat} {page : Nat} (h : Keeps r s) :
    Keeps r (State.pageFault s src job page) := by
  unfold State.pageFault
  repeat' first
    | with_reducible exact h | with_reducible refine State.setFld_keeps ?_ | with_reducible refine State.bump_keeps ?_

end Sys2Proof.Machine
end

