-- ==== Sys2Proof/Laws/KeepsStop.lean ====
section
/-! SUPPORT. What the operations of Machine/Stop.lean keep. -/

namespace Sys2Proof.Machine

theorem State.setRxBytes_keeps {r s : State} {c : Nat} {n : Nat} (h : Keeps r s) :
    Keeps r (State.setRxBytes s c n) := by
  unfold State.setRxBytes
  repeat' first
    | with_reducible exact h | with_reducible refine State.setCluster_keeps ?_
    | with_reducible refine State.setFld_keeps ?_

theorem State.quietJob_keeps {r s : State} {j : Nat} (h : Keeps r s) :
    Keeps r (State.quietJob s j) := by
  unfold State.quietJob
  repeat' first
    | with_reducible exact h | with_reducible assumption | with_reducible refine State.setCore_keeps ?_
    | with_reducible refine State.setRxBytes_keeps ?_ | with_reducible refine State.setCluster_keeps ?_
    | with_reducible refine State.setNq_keeps ?_ | with_reducible refine foldl_keeps ?_ ?_ | intro _
    | with_reducible refine Keeps.ite ?_ ?_ | with_reducible refine Keeps.upd ?_ id id id id id

theorem State.putIndex_keeps {r s : State} {o : Nat} {v : W32} (h : Keeps r s) :
    Keeps r (State.putIndex s o v) := by
  unfold State.putIndex
  repeat' first
    | with_reducible exact h | with_reducible refine State.writeHbm_keeps ?_

theorem State.drainEvents_keeps {r s : State} {n : Nat} (h : Keeps r s) : Keeps r (s.drainEvents n) := by
  induction n generalizing s with
  | zero => exact h
  | succ n ih =>
    unfold State.drainEvents
    split
    · exact h
    · rename_i e l q
      refine Keeps.ite h (ih (State.putIndex_keeps (h.trans ?_)))
      generalize hg : s.writeHbm _ _ = u
      have g : Keeps s u := hg ▸ State.writeHbm_keeps (Keeps.refl s)
      exact ⟨g.pending, g.mem, g.mbx, g.csr, g.log, fun k => by rw [q] at k; exact Nat.le_of_succ_le k⟩

theorem State.event_keeps {r s : State} {type func : Nat} {job : Option Nat} {detail : List Byte} (h : Keeps r s) :
    Keeps r (s.event type func job detail) := by
  unfold State.event
  split
  · exact State.drainEvents_keeps (h.upd id id id id (fun _ => by simp; omega))
  · exact State.bump_keeps (h.upd id id id id id)

theorem State.applyCheck_keeps {r s : State} {j : Nat} {i : Nat} (h : Keeps r s) :
    Keeps r (State.applyCheck s j i) := by
  unfold State.applyCheck
  repeat' first
    | with_reducible exact h | with_reducible refine State.setFld_keeps ?_
    | with_reducible refine State.setJob_keeps ?_ | with_reducible refine Keeps.ite ?_ ?_

theorem State.complete_keeps {r s : State} {p op status seq : Nat} {id_ : W64} {result : List Byte} (h : Keeps r s) :
    Keeps r (s.complete p op status seq id_ result) := by
  unfold State.complete
  split
  · exact h
  · exact State.putIndex_keeps ((State.writeHbm_keeps h).upd id id id id id)

theorem State.finish_keeps {r s : State} {p op status seq : Nat} {id_ : W64} {result : List Byte} (h : Keeps r s) :
    Keeps r (s.finish p op status seq id_ result) := by
  unfold State.finish
  split
  · exact State.complete_keeps (h.upd id id id id id)
  · exact h

theorem State.settleStrand_keeps {r s : State} {x : PendStrand} (h : Keeps r s) :
    Keeps r (State.settleStrand s x) := by
  unfold State.settleStrand
  repeat' first
    | with_reducible exact h | with_reducible refine State.finish_keeps ?_ | with_reducible refine Keeps.ite ?_ ?_
    | with_reducible refine Keeps.upd ?_ id id id id id

theorem State.applyStaged_keeps {r s : State} {j : Nat} {i : Nat} (h : Keeps r s) :
    Keeps r (State.applyStaged s j i) := by
  unfold State.applyStaged
  repeat' first
    | with_reducible exact h | with_reducible refine State.applyCheck_keeps ?_
    | with_reducible refine State.settleStrand_keeps ?_ | split | dsimp only
    | with_reducible refine Keeps.upd ?_ id id id id id

theorem State.applyStrands_keeps {r s : State} {j : Nat} {n : Nat} (h : Keeps r s) :
    Keeps r (State.applyStrands s j n) := by
  unfold State.applyStrands
  repeat' first
    | with_reducible exact h | with_reducible assumption | with_reducible refine State.applyStaged_keeps ?_
    | with_reducible refine State.setJob_keeps ?_ | with_reducible refine foldl_keeps ?_ ?_ | intro _

theorem State.stopJob_keeps {r s : State} {j : Nat} {cause : Nat} {func : Nat} (h : Keeps r s) :
    Keeps r (State.stopJob s j cause func) := by
  unfold State.stopJob
  repeat' first
    | with_reducible exact h | with_reducible refine State.quietJob_keeps ?_
    | with_reducible refine State.setJob_keeps ?_ | with_reducible refine State.setFld_keeps ?_
    | with_reducible refine State.setFlag_keeps ?_ | with_reducible refine State.event_keeps ?_
    | with_reducible refine State.applyStrands_keeps ?_ | with_reducible refine Keeps.ite ?_ ?_

theorem State.reportStop_keeps {r s : State} {type : Nat} {func : Nat} {j : Nat} {b : Body} (h : Keeps r s) :
    Keeps r (State.reportStop s type func j b) := by
  unfold State.reportStop
  repeat' first
    | with_reducible exact h | with_reducible refine State.stopJob_keeps ?_
    | with_reducible refine State.report_keeps ?_

theorem State.await_keeps {r s : State} {p op seq : Nat} {id_ : W64} (h : Keeps r s) : Keeps r (s.await p op seq id_) :=
  h.upd id id id id id

end Sys2Proof.Machine
end

