-- ==== Sys2Proof/Laws/KeepsFence.lean ====
section
/-! SUPPORT. What the operations of Machine/Fence.lean keep. -/

namespace Sys2Proof.Machine

theorem State.fenceNote_keeps {r s : State} {kind : Nat} {idx : Nat} {func : Nat} {job : Option Nat} {reason : Nat} {addr : Nat} {here : Nat} (h : Keeps r s) :
    Keeps r (State.fenceNote s kind idx func job reason addr here) := by
  unfold State.fenceNote
  repeat' first
    | with_reducible exact h | with_reducible refine State.report_keeps ?_
    | with_reducible refine State.event_keeps ?_

theorem State.recordBind_keeps {r s : State} {j : Nat} {code : Nat} {sidx : Nat} (h : Keeps r s) :
    Keeps r (State.recordBind s j code sidx) := by
  unfold State.recordBind
  repeat' first
    | with_reducible exact h | with_reducible refine State.setFld_keeps ?_
    | with_reducible refine State.setFlag_keeps ?_ | with_reducible refine Keeps.ite ?_ ?_ | dsimp only

theorem State.bindStop_keeps {r s : State} {j : Nat} {code : Nat} {sidx : Nat} (h : Keeps r s) :
    Keeps r (State.bindStop s j code sidx) := by
  unfold State.bindStop
  repeat' first
    | with_reducible exact h | with_reducible refine State.reportStop_keeps ?_
    | with_reducible refine State.recordBind_keeps ?_

theorem State.fenceCluster_keeps {r s : State} {c : Nat} {reason : Nat} (h : Keeps r s) :
    Keeps r (State.fenceCluster s c reason) := by
  unfold State.fenceCluster
  repeat' first
    | with_reducible exact h | with_reducible refine State.fenceNote_keeps ?_
    | with_reducible refine State.setCluster_keeps ?_ | with_reducible refine State.bindStop_keeps ?_ | split
    | dsimp only

theorem State.fenceCore_keeps {r s : State} {p : Nat} {reason : Nat} (h : Keeps r s) :
    Keeps r (State.fenceCore s p reason) := by
  unfold State.fenceCore
  repeat' first
    | with_reducible exact h | with_reducible refine State.setFlag_keeps ?_
    | with_reducible refine State.setFld_keeps ?_ | with_reducible refine State.bump_keeps ?_
    | with_reducible refine State.fenceNote_keeps ?_ | with_reducible refine State.fenceCluster_keeps ?_
    | with_reducible refine Keeps.ite ?_ ?_ | dsimp only

theorem State.countUe_keeps {r s : State} {p : Nat} (h : Keeps r s) :
    Keeps r (State.countUe s p) := by
  unfold State.countUe
  repeat' first
    | with_reducible exact h | with_reducible refine State.fenceCore_keeps ?_ | with_reducible refine Keeps.ite ?_ ?_
    | dsimp only | with_reducible refine Keeps.upd ?_ id id id id id

end Sys2Proof.Machine
end

