-- ==== Sys2Proof/Laws/KeepsFlags.lean ====
section
/-! SUPPORT. What the operations of Machine/Flags.lean keep. -/

namespace Sys2Proof.Machine

theorem State.coreFault_keeps {r s : State} {p : Nat} {pc : Nat} {code : Nat} {mask : Nat} (h : Keeps r s) :
    Keeps r (State.coreFault s p pc code mask) := by
  unfold State.coreFault
  repeat' first
    | with_reducible exact h | with_reducible refine State.setFld_keeps ?_
    | with_reducible refine State.setFlag_keeps ?_ | with_reducible refine State.reportStop_keeps ?_ | split
    | dsimp only

theorem State.clearUpset_keeps {r s : State} {a : Nat} (h : Keeps r s) :
    Keeps r (State.clearUpset s a) := by
  unfold State.clearUpset
  repeat' first
    | with_reducible exact h | with_reducible refine Keeps.upd ?_ id id id id id

theorem State.findPad_keeps {r s : State} {p : Nat} {read : Nat → Bool} (h : Keeps r s) :
    Keeps r (State.findPad s p read) := by
  unfold State.findPad
  repeat' first
    | with_reducible exact h | with_reducible assumption | with_reducible refine State.clearUpset_keeps ?_
    | with_reducible refine State.corrected_keeps ?_ | with_reducible refine State.bump_keeps ?_
    | with_reducible refine State.countUe_keeps ?_ | with_reducible refine State.uncorrected_keeps ?_
    | with_reducible refine foldl_keeps ?_ ?_ | intro _ | split | with_reducible refine Keeps.upd ?_ id id id id id

theorem State.readElems_keeps {r s : State} {p : Nat} {t : Td} {n : Nat} {ix : Nat → Nat} (h : Keeps r s) :
    Keeps r (State.readElems s p t n ix) := by
  unfold State.readElems
  repeat' first
    | with_reducible exact h | with_reducible refine State.findPad_keeps ?_

theorem State.readScratch_keeps {r s : State} {p : Nat} {r' : Span} (h : Keeps r s) :
    Keeps r (State.readScratch s p r') := by
  unfold State.readScratch
  repeat' first
    | with_reducible exact h | with_reducible refine State.findPad_keeps ?_

theorem State.readAcc_keeps {r s : State} {p : Nat} {tile : Nat} {row0 : Nat} {rows : Nat} {ncol : Nat} (h : Keeps r s) :
    Keeps r (State.readAcc s p tile row0 rows ncol) := by
  unfold State.readAcc
  repeat' first
    | with_reducible exact h | with_reducible assumption | with_reducible refine State.corrected_keeps ?_
    | with_reducible refine State.bump_keeps ?_ | with_reducible refine State.setCore_keeps ?_
    | with_reducible refine State.countUe_keeps ?_ | with_reducible refine State.report_keeps ?_
    | with_reducible refine foldl_keeps ?_ ?_ | intro _ | split

theorem State.raise_keeps {r s : State} {p : Nat} {pc : Nat} {f : Flags} (h : Keeps r s) :
    Keeps r (State.raise s p pc f) := by
  unfold State.raise
  repeat' first
    | with_reducible exact h | with_reducible refine State.setV_keeps ?_
    | with_reducible refine State.reportStop_keeps ?_ | split | dsimp only

theorem State.readMbx_keeps {r s : State} {c : Nat} {t : Td} (h : Keeps r s) :
    Keeps r (State.readMbx s c t) := by
  unfold State.readMbx
  repeat' first
    | with_reducible exact h | with_reducible assumption | with_reducible refine State.clearUpset_keeps ?_
    | with_reducible refine State.corrected_keeps ?_ | with_reducible refine State.bump_keeps ?_
    | with_reducible refine State.uncorrected_keeps ?_ | with_reducible refine foldl_keeps ?_ ?_ | intro _ | split
    | with_reducible refine Keeps.upd ?_ id id id id id

theorem State.setVary_keeps {r s : State} {p : Nat} (h : Keeps r s) :
    Keeps r (State.setVary s p) := by
  unfold State.setVary
  repeat' first
    | with_reducible exact h | with_reducible refine State.setJob_keeps ?_ | split

end Sys2Proof.Machine
end

