-- ==== Sys2Proof/Laws/KeepsIssue.lean ====
section
/-! SUPPORT. What the operations of Machine/Issue.lean keep. -/

namespace Sys2Proof.Machine

theorem State.slotDone_keeps {r s : State} {p : Nat} {n : Nat} (h : Keeps r s) :
    Keeps r (State.slotDone s p n) := by
  unfold State.slotDone
  repeat' first
    | with_reducible exact h | with_reducible refine State.setCore_keeps ?_

theorem State.readSlots_keeps {r s : State} {p : Nat} {ns : List (Nat × Needs)} (h : Keeps r s) :
    Keeps r (State.readSlots s p ns) := by
  unfold State.readSlots
  repeat' first
    | with_reducible exact h | with_reducible assumption | with_reducible refine State.readElems_keeps ?_
    | with_reducible refine foldl_keeps ?_ ?_ | intro _

theorem State.issueBundle_keeps {r s : State} {p : Nat} {b : Bundle} {ns : List (Nat × Needs)} (h : Keeps r s) :
    Keeps r (State.issueBundle s p b ns) := by
  unfold State.issueBundle
  repeat' first
    | with_reducible exact h | with_reducible refine State.readSlots_keeps ?_
    | with_reducible refine State.bump_keeps ?_ | with_reducible refine State.setCore_keeps ?_

theorem State.decideIssue_keeps {r s : State} {p : Nat} {j : Nat} {b : Bundle} (h : Keeps r s) :
    Keeps r (State.decideIssue s p j b).1 := by
  unfold State.decideIssue
  repeat' first
    | with_reducible exact h | with_reducible refine State.bump_keeps ?_
    | with_reducible refine State.setCore_keeps ?_ | with_reducible refine State.issueBundle_keeps ?_
    | with_reducible refine State.coreFault_keeps ?_ | split | dsimp only

theorem State.tryIssue_keeps {r s : State} {p : Nat} {b : Bundle} (h : Keeps r s) :
    Keeps r (State.tryIssue s p b).1 := by
  unfold State.tryIssue
  repeat' first
    | with_reducible exact h | with_reducible refine State.setV_keeps ?_
    | with_reducible refine State.coreFault_keeps ?_ | with_reducible refine State.decideIssue_keeps ?_ | split
    | dsimp only

theorem State.slotStep_keeps {r s : State} {p : Nat} {n : Nat} {ok : Nat → Bool} {body : State → Bundle → W64 → State} (hf : ∀ t b w, Keeps r t → Keeps r (body t b w))
    (h : Keeps r s) :
    Keeps r (State.slotStep s p n ok body) := by
  unfold State.slotStep
  repeat' first
    | with_reducible exact h | with_reducible refine hf _ _ _ ?_ | with_reducible refine State.slotDone_keeps ?_
    | with_reducible refine State.tryIssue_keeps ?_
    | with_reducible refine keeps_of_fst (by with_reducible assumption) ?_ | split | dsimp only

theorem State.countDue_keeps {r s : State} {p : Nat} {n : Nat} (h : Keeps r s) :
    Keeps r (State.countDue s p n) := by
  unfold State.countDue
  repeat' first
    | with_reducible exact h | with_reducible refine State.setCore_keeps ?_

theorem State.launch_keeps {r s : State} {p : Nat} {b : Bundle} {slot : Nat} {w : W64} {n : Needs} {eff : List Eff} {late : optParam Nat 0} {waiting : optParam Bool false} (h : Keeps r s) :
    Keeps r (State.launch s p b slot w n eff late waiting) := by
  unfold State.launch
  repeat' first
    | with_reducible exact h | with_reducible refine State.setCore_keeps ?_
    | with_reducible refine State.countBank_keeps ?_ | split

theorem State.settleTok_keeps {r s : State} {p : Nat} (h : Keeps r s) :
    Keeps r (State.settleTok s p) := by
  unfold State.settleTok
  repeat' first
    | with_reducible exact h | with_reducible refine State.coreFault_keeps ?_
    | with_reducible refine State.setV_keeps ?_ | split | dsimp only

theorem State.signal_keeps {r s : State} {p : Nat} {g : Sig} (h : Keeps r s) :
    Keeps r (State.signal s p g) := by
  unfold State.signal
  repeat' first
    | with_reducible exact h | with_reducible refine State.setV_keeps ?_
    | with_reducible refine State.settleTok_keeps ?_ | with_reducible refine Keeps.ite ?_ ?_ | dsimp only

theorem State.signalTok_keeps {r s : State} {p : Nat} {b : Bundle} {slot : Nat} {w : W64} (h : Keeps r s) :
    Keeps r (State.signalTok s p b slot w) := by
  unfold State.signalTok
  repeat' first
    | with_reducible exact h | with_reducible refine State.signal_keeps ?_ | split

end Sys2Proof.Machine
end

