-- ==== Sys2Proof/Laws/KeepsShadow.lean ====
section
/-! SUPPORT. What the operations of Machine/Shadow.lean keep. -/

namespace Sys2Proof.Machine

theorem State.endFill_keeps {r s : State} {p : Nat} {k : Nat} (h : Keeps r s) :
    Keeps r (State.endFill s p k) := by
  unfold State.endFill
  repeat' first
    | with_reducible exact h | with_reducible refine State.setV_keeps ?_ | with_reducible refine State.bump_keeps ?_
    | with_reducible refine State.setCluster_keeps ?_ | split | dsimp only

theorem endFills_keeps {r s : State} {p : Nat} (h : Keeps r s) :
    Keeps r (endFills s p) := by
  unfold endFills
  repeat' first
    | with_reducible exact h | with_reducible assumption | with_reducible refine State.endFill_keeps ?_
    | with_reducible refine foldl_keeps ?_ ?_ | intro _

theorem State.setFills_keeps {r s : State} {p : Nat} {l : List Fill} (h : Keeps r s) :
    Keeps r (State.setFills s p l) := by
  unfold State.setFills
  repeat' first
    | with_reducible exact h | with_reducible refine State.setV_keeps ?_

theorem State.abandon_keeps {r s : State} {p : Nat} {k : Nat} (h : Keeps r s) :
    Keeps r (State.abandon s p k) := by
  unfold State.abandon
  repeat' first
    | with_reducible exact h | with_reducible refine State.bump_keeps ?_
    | with_reducible refine State.setFills_keeps ?_ | split

theorem State.beginFill_keeps {r s : State} {p : Nat} {k : Nat} (h : Keeps r s) :
    Keeps r (State.beginFill s p k) := by
  unfold State.beginFill
  repeat' first
    | with_reducible exact h | with_reducible refine State.bump_keeps ?_ | with_reducible refine State.setV_keeps ?_
    | with_reducible refine State.abandon_keeps ?_ | split | dsimp only

theorem State.capture_keeps {r s : State} {p : Nat} {k : Nat} {x : Capture} (h : Keeps r s) :
    Keeps r (State.capture s p k x) := by
  unfold State.capture
  repeat' first
    | with_reducible exact h | with_reducible refine State.abandon_keeps ?_
    | with_reducible refine State.setFills_keeps ?_ | split

theorem State.onFill_keeps {r s : State} {p : Nat} {k : Nat} {g : Fill → Fill} (h : Keeps r s) :
    Keeps r (State.onFill s p k g) := by
  unfold State.onFill
  repeat' first
    | with_reducible exact h | with_reducible refine State.setFills_keeps ?_ | split

theorem State.tapMma_keeps {r s : State} {p : Nat} {k : Nat} {w : Option WTile} {row0 : Nat} {klen : Nat} {ta : Tag} {bs : Nat} {rows : List ActRow} {before : List (List Pair)} {poisoned : Bool} (h : Keeps r s) :
    Keeps r (State.tapMma s p k w row0 klen ta bs rows before poisoned) := by
  unfold State.tapMma
  repeat' first
    | with_reducible exact h | with_reducible assumption | with_reducible refine State.abandon_keeps ?_
    | with_reducible refine State.onFill_keeps ?_ | with_reducible refine State.capture_keeps ?_
    | with_reducible refine foldl_keeps ?_ ?_ | intro _ | split

theorem beginFills_keeps {r s : State} {p : Nat} (h : Keeps r s) :
    Keeps r (beginFills s p) := by
  unfold beginFills
  repeat' first
    | with_reducible exact h | with_reducible assumption | with_reducible refine State.beginFill_keeps ?_
    | with_reducible refine foldl_keeps ?_ ?_ | intro _

theorem State.spoilRows_keeps {r s : State} {p : Nat} {k : Nat} {row0 : Nat} {rows : Nat} (h : Keeps r s) :
    Keeps r (State.spoilRows s p k row0 rows) := by
  unfold State.spoilRows
  repeat' first
    | with_reducible exact h | with_reducible refine State.setCluster_keeps ?_ | split | dsimp only

theorem State.tapLoad_keeps {r s : State} {p : Nat} {k : Nat} {row0 : Nat} {rows : Nat} (h : Keeps r s) :
    Keeps r (State.tapLoad s p k row0 rows) := by
  unfold State.tapLoad
  repeat' first
    | with_reducible exact h | with_reducible refine State.spoilRows_keeps ?_
    | with_reducible refine State.onFill_keeps ?_

theorem State.tapStore_keeps {r s : State} {p : Nat} {k : Nat} {row0 : Nat} {rows : Nat} (h : Keeps r s) :
    Keeps r (State.tapStore s p k row0 rows) := by
  unfold State.tapStore
  repeat' first
    | with_reducible exact h | with_reducible refine State.setCluster_keeps ?_ | split | dsimp only

end Sys2Proof.Machine
end

