-- ==== Sys2Proof/Laws/KeepsArraySlot.lean ====
section
/-! SUPPORT. What the operations of Machine/ArraySlot.lean keep. -/

namespace Sys2Proof.Machine

theorem State.closeSpan_keeps {r s : State} {p : Nat} {b : Bundle} {n : Nat} (h : Keeps r s) :
    Keeps r (State.closeSpan s p b n) := by
  unfold State.closeSpan
  repeat' first
    | with_reducible exact h | with_reducible refine endFills_keeps ?_ | with_reducible refine Keeps.ite ?_ ?_
    | dsimp only

theorem State.aStep_keeps {r s : State} {p : Nat} {ok : Nat → Bool} {body : State → Bundle → W64 → State} (hf : ∀ t b w, Keeps r t → Keeps r (body t b w))
    (h : Keeps r s) :
    Keeps r (State.aStep s p ok body) := by
  unfold State.aStep
  repeat' first
    | with_reducible exact h | with_reducible assumption | with_reducible refine hf _ _ _ ?_
    | with_reducible refine State.slotStep_keeps ?_ ?_ | with_reducible refine State.closeSpan_keeps ?_ | intro _

theorem State.loadWeights_keeps {r s : State} {p : Nat} {b : Bundle} {w : W64} {tr : Bool} (h : Keeps r s) :
    Keeps r (State.loadWeights s p b w tr) := by
  unfold State.loadWeights
  repeat' first
    | with_reducible exact h | with_reducible refine State.launch_keeps ?_

theorem State.passArray_keeps {r s : State} {p : Nat} {snap : VCore} {n : Nat} {row0 : Nat} {klen : Nat} {t : Td} {rows : List ActRow} (h : Keeps r s) :
    Keeps r (State.passArray s p snap n row0 klen t rows).1 := by
  unfold State.passArray
  repeat' first
    | with_reducible exact h | with_reducible refine State.readAcc_keeps ?_
    | with_reducible refine State.tapMma_keeps ?_ | with_reducible refine State.setV_keeps ?_
    | with_reducible refine Keeps.ite ?_ ?_

theorem execAccclr_keeps {r s : State} {p : CoreId} (h : Keeps r s) :
    KeepsOut r (execAccclr p s) := by
  unfold execAccclr
  repeat' first
    | with_reducible exact h | with_reducible assumption | with_reducible refine keepsOut_next ?_
    | with_reducible refine State.aStep_keeps ?_ ?_ | with_reducible refine State.tapLoad_keeps ?_
    | with_reducible refine State.setCore_keeps ?_ | with_reducible refine State.launch_keeps ?_
    | with_reducible refine foldl_keeps ?_ ?_ | intro _

theorem execAccld_keeps {r s : State} {p : CoreId} (h : Keeps r s) :
    KeepsOut r (execAccld p s) := by
  unfold execAccld
  repeat' first
    | with_reducible exact h | with_reducible assumption | with_reducible refine keepsOut_next ?_
    | with_reducible refine State.aStep_keeps ?_ ?_ | with_reducible refine State.tapLoad_keeps ?_
    | with_reducible refine State.setCore_keeps ?_ | with_reducible refine State.abandon_keeps ?_
    | with_reducible refine State.launch_keeps ?_ | intro _ | with_reducible refine Keeps.ite ?_ ?_

theorem execAccst_keeps {r s : State} {p : CoreId} (h : Keeps r s) :
    KeepsOut r (execAccst p s) := by
  unfold execAccst
  repeat' first
    | with_reducible exact h | with_reducible assumption | with_reducible refine keepsOut_next ?_
    | with_reducible refine State.aStep_keeps ?_ ?_ | with_reducible refine State.readAcc_keeps ?_
    | with_reducible refine State.tapStore_keeps ?_ | with_reducible refine State.launch_keeps ?_ | intro _

theorem execAccsw_keeps {r s : State} {p : CoreId} (h : Keeps r s) :
    KeepsOut r (execAccsw p s) := by
  unfold execAccsw
  repeat' first
    | with_reducible exact h | with_reducible assumption | with_reducible refine keepsOut_next ?_
    | with_reducible refine State.aStep_keeps ?_ ?_ | with_reducible refine State.endFill_keeps ?_
    | with_reducible refine State.setV_keeps ?_ | with_reducible refine State.beginFill_keeps ?_
    | with_reducible refine State.signalTok_keeps ?_ | with_reducible refine foldl_keeps ?_ ?_ | intro _

theorem execLdw_keeps {r s : State} {p : CoreId} (h : Keeps r s) :
    KeepsOut r (execLdw p s) := by
  unfold execLdw
  repeat' first
    | with_reducible exact h | with_reducible assumption | with_reducible refine keepsOut_next ?_
    | with_reducible refine State.aStep_keeps ?_ ?_ | with_reducible refine State.loadWeights_keeps ?_ | intro _

theorem execLdwT_keeps {r s : State} {p : CoreId} (h : Keeps r s) :
    KeepsOut r (execLdwT p s) := by
  unfold execLdwT
  repeat' first
    | with_reducible exact h | with_reducible assumption | with_reducible refine keepsOut_next ?_
    | with_reducible refine State.aStep_keeps ?_ ?_ | with_reducible refine State.loadWeights_keeps ?_ | intro _

theorem execMma_keeps {r s : State} {p : CoreId} (h : Keeps r s) :
    KeepsOut r (execMma p s) := by
  unfold execMma
  repeat' first
    | with_reducible exact h | with_reducible assumption | with_reducible refine keepsOut_next ?_
    | with_reducible refine State.aStep_keeps ?_ ?_ | with_reducible refine State.passArray_keeps ?_
    | with_reducible refine State.launch_keeps ?_ | with_reducible refine foldl_fst_keeps ?_ ?_ | intro _

theorem execSwapw_keeps {r s : State} {p : CoreId} (h : Keeps r s) :
    KeepsOut r (execSwapw p s) := by
  unfold execSwapw
  repeat' first
    | with_reducible exact h | with_reducible assumption | with_reducible refine keepsOut_next ?_
    | with_reducible refine State.aStep_keeps ?_ ?_ | with_reducible refine State.setV_keeps ?_
    | with_reducible refine State.onFill_keeps ?_ | with_reducible refine State.signalTok_keeps ?_
    | with_reducible refine foldl_keeps ?_ ?_ | intro _

end Sys2Proof.Machine
end

