-- ==== Sys2Proof/Laws/KeepsRings.lean ====
section
/-! SUPPORT. What the operations of Machine/Rings.lean keep. -/

namespace Sys2Proof.Machine

theorem State.consume_keeps {r s : State} {p : Nat} (h : Keeps r s) :
    Keeps r (State.consume s p) := by
  unfold State.consume
  repeat' first
    | with_reducible exact h | with_reducible refine State.putIndex_keeps ?_
    | with_reducible refine Keeps.upd ?_ id id id id id

theorem State.ringEvent_keeps {r s : State} {p : Nat} {code : Nat} {job : Option Nat} (h : Keeps r s) :
    Keeps r (State.ringEvent s p code job) := by
  unfold State.ringEvent
  repeat' first
    | with_reducible exact h | with_reducible refine State.setFld_keeps ?_
    | with_reducible refine State.setFlag_keeps ?_ | with_reducible refine State.event_keeps ?_
    | with_reducible refine Keeps.ite ?_ ?_

theorem State.ringFault_keeps {r s : State} {p : Nat} {code : Nat} (h : Keeps r s) :
    Keeps r (State.ringFault s p code) := by
  unfold State.ringFault
  repeat' first
    | with_reducible exact h | with_reducible refine State.ringEvent_keeps ?_ | with_reducible refine Keeps.ite ?_ ?_
    | with_reducible refine Keeps.upd ?_ id id id id id

theorem State.samplePair_keeps {r s : State} {lim : Nat} {p : Nat} (h : Keeps r s) :
    Keeps r (State.samplePair s lim p) := by
  unfold State.samplePair
  repeat' first
    | with_reducible exact h | with_reducible refine State.ringFault_keeps ?_ | with_reducible refine Keeps.ite ?_ ?_
    | dsimp only | with_reducible refine Keeps.upd ?_ id id id id id

theorem State.sampleRings_keeps {r s : State} {j : Nat} (h : Keeps r s) :
    Keeps r (State.sampleRings s j) := by
  unfold State.sampleRings
  repeat' first
    | with_reducible exact h | with_reducible assumption | with_reducible refine State.samplePair_keeps ?_
    | with_reducible refine foldl_keeps ?_ ?_ | intro _

theorem State.restartPair_keeps {r s : State} {p : Nat} (h : Keeps r s) :
    Keeps r (State.restartPair s p) := by
  unfold State.restartPair
  repeat' first
    | with_reducible exact h | with_reducible refine State.putIndex_keeps ?_
    | with_reducible refine Keeps.upd ?_ id id id id id

theorem State.restartLogs_keeps {r s : State} (h : Keeps r s) :
    Keeps r (State.restartLogs s) := by
  unfold State.restartLogs
  repeat' first
    | with_reducible exact h | with_reducible refine State.drainEvents_keeps ?_
    | with_reducible refine State.putIndex_keeps ?_ | with_reducible refine Keeps.upd ?_ id id id id id

theorem State.process_keeps {r s : State} {p : Nat} {body : State → Nat → Cmd → State} (hf : ∀ t p c, Keeps r t → Keeps r (body t p c))
    (h : Keeps r s) :
    Keeps r (State.process s p body) := by
  unfold State.process
  repeat' first
    | with_reducible exact h | with_reducible refine hf _ _ _ ?_ | with_reducible refine State.readHbm_keeps ?_
    | with_reducible refine State.complete_keeps ?_ | with_reducible refine State.consume_keeps ?_
    | with_reducible refine State.ringFault_keeps ?_ | with_reducible refine State.bump_keeps ?_ | split | dsimp only

theorem State.ringRowStep_keeps {r s : State} {p : Nat} {op : Nat} {body : State → Nat → Cmd → State} (hf : ∀ t p c, Keeps r t → Keeps r (body t p c))
    (h : Keeps r s) :
    KeepsOut r (State.ringRowStep s p op body) := by
  unfold State.ringRowStep
  repeat' first
    | with_reducible exact h | with_reducible assumption | with_reducible refine keepsOut_next ?_
    | with_reducible refine State.process_keeps ?_ ?_ | with_reducible refine keepsOut_ite ?_ ?_
    | with_reducible exact keepsOut_fault

theorem execRingrstGo_keeps {r s : State} {pair : PairId} (h : Keeps r s) :
    KeepsOut r (execRingrstGo pair s) := by
  unfold execRingrstGo
  repeat' first
    | with_reducible exact h | with_reducible refine keepsOut_next ?_
    | with_reducible refine State.restartPair_keeps ?_ | with_reducible refine keepsOut_ite ?_ ?_

theorem execRingrstLogs_keeps {r s : State} (h : Keeps r s) :
    KeepsOut r (execRingrstLogs s) := by
  unfold execRingrstLogs
  repeat' first
    | with_reducible exact h | with_reducible refine keepsOut_next ?_
    | with_reducible refine State.restartLogs_keeps ?_ | with_reducible refine keepsOut_ite ?_ ?_

end Sys2Proof.Machine
end

