-- ==== Sys2Proof/Laws/KeepsBoot.lean ====
section
/-! SUPPORT. What the operations of Machine/Boot.lean keep. -/

namespace Sys2Proof.Machine

theorem State.setStage_keeps {r s : State} {n : Nat} (h : Keeps r s) :
    Keeps r (State.setStage s n) := by
  unfold State.setStage
  repeat' first
    | with_reducible exact h | with_reducible refine State.setFld_keeps ?_

theorem State.refuseImage_keeps {r s : State} {kind : Nat} {code : Nat} {detail : Nat} (h : Keeps r s) :
    Keeps r (State.refuseImage s kind code detail) := by
  unfold State.refuseImage
  repeat' first
    | with_reducible exact h | with_reducible refine State.report_keeps ?_
    | with_reducible refine State.setFld_keeps ?_

theorem State.applyKeyImage_keeps {r s : State} {b : List Byte} (h : Keeps r s) :
    Keeps r (State.applyKeyImage s b) := by
  unfold State.applyKeyImage
  repeat' first
    | with_reducible exact h | with_reducible refine State.refuseImage_keeps ?_ | split | dsimp only
    | with_reducible refine Keeps.upd ?_ id id id id id

theorem State.applyKeys_keeps {r s : State} {n : Nat} {l : List Byte} (h : Keeps r s) : Keeps r (s.applyKeys n l) := by
  induction n generalizing s l with
  | zero => exact h
  | succ n ih => exact Keeps.ite h (ih (State.applyKeyImage_keeps h))

theorem State.bootAsk_keeps {r s : State} {k : Nat} {file : List Byte} (h : Keeps r s) :
    Keeps r (State.bootAsk s k file) := by
  unfold State.bootAsk
  repeat' first
    | with_reducible exact h | dsimp only | with_reducible refine Keeps.upd ?_ id id id id id

theorem State.bootBackoff_keeps {r s : State} {k : Nat} (h : Keeps r s) :
    Keeps r (State.bootBackoff s k) := by
  unfold State.bootBackoff
  repeat' first
    | with_reducible exact h | dsimp only | with_reducible refine Keeps.upd ?_ id id id id id

theorem State.bootDone_keeps {r s : State} {k : Nat} (h : Keeps r s) :
    Keeps r (State.bootDone s k) := by
  unfold State.bootDone
  repeat' first
    | with_reducible exact h | with_reducible refine Keeps.upd ?_ id id id id id

theorem State.bootFailed_keeps {r s : State} {k : Nat} (h : Keeps r s) :
    Keeps r (State.bootFailed s k) := by
  unfold State.bootFailed
  repeat' first
    | with_reducible exact h | with_reducible refine State.note_keeps ?_
    | with_reducible refine State.bootBackoff_keeps ?_

theorem State.setBraidPending_keeps {r s : State} {b : Bool} (h : Keeps r s) :
    Keeps r (State.setBraidPending s b) := by
  unfold State.setBraidPending
  repeat' first
    | with_reducible exact h | with_reducible refine State.setFlag_keeps ?_

theorem State.checkBraid_keeps {r s : State} {p : PendBraid} (h : Keeps r s) :
    Keeps r (State.checkBraid s p) := by
  unfold State.checkBraid
  repeat' first
    | with_reducible exact h | with_reducible refine State.refuseImage_keeps ?_
    | with_reducible refine State.finish_keeps ?_ | with_reducible refine State.setBraidPending_keeps ?_ | split
    | dsimp only | with_reducible refine Keeps.upd ?_ id id id id id

theorem State.checkImage_keeps {r s : State} {kind : ImageKind} {image : List Byte} (h : Keeps r s) :
    Keeps r (State.checkImage s kind image) := by
  unfold State.checkImage
  repeat' first
    | with_reducible exact h | with_reducible refine State.refuseImage_keeps ?_ | split

theorem State.crashNote_keeps {r s : State} {n : Nat} {cause : Nat} {us : Nat} (h : Keeps r s) :
    Keeps r (State.crashNote s n cause us) := by
  unfold State.crashNote
  repeat' first
    | with_reducible exact h | with_reducible refine State.report_keeps ?_
    | with_reducible refine State.event_keeps ?_

theorem State.lateSamples_keeps {r s : State} (h : Keeps r s) :
    Keeps r (State.lateSamples s) := by
  unfold State.lateSamples
  repeat' first
    | with_reducible exact h | with_reducible assumption | with_reducible refine State.sampleRings_keeps ?_
    | with_reducible refine State.setJob_keeps ?_ | with_reducible refine foldl_keeps ?_ ?_ | intro _

theorem State.refreshSch_keeps {r s : State} (h : Keeps r s) :
    Keeps r (State.refreshSch s) := by
  unfold State.refreshSch
  repeat' first
    | with_reducible exact h | with_reducible refine State.setFlag_keeps ?_
    | with_reducible refine State.drainEvents_keeps ?_ | with_reducible refine State.lateSamples_keeps ?_
    | with_reducible refine Keeps.ite ?_ ?_ | dsimp only

theorem State.startRails_keeps {r s : State} (h : Keeps r s) :
    Keeps r (State.startRails s) := by
  unfold State.startRails
  repeat' first
    | with_reducible exact h | with_reducible refine Keeps.upd ?_ id id id id id

theorem State.setFwUp_keeps {r s : State} {n : Nat} {b : Bool} (h : Keeps r s) :
    Keeps r (State.setFwUp s n b) := by
  unfold State.setFwUp
  repeat' first
    | with_reducible exact h | with_reducible refine State.setFlag_keeps ?_ | split

theorem State.fwCrash_keeps {r s : State} {n : Nat} {cause : Nat} (h : Keeps r s) :
    Keeps r (State.fwCrash s n cause) := by
  unfold State.fwCrash
  repeat' first
    | with_reducible exact h | with_reducible assumption | with_reducible refine State.setFwUp_keeps ?_
    | with_reducible refine State.crashNote_keeps ?_ | with_reducible refine State.fenceCluster_keeps ?_
    | with_reducible refine State.reportStop_keeps ?_ | with_reducible refine foldl_keeps ?_ ?_ | intro _ | split
    | dsimp only | with_reducible refine Keeps.upd ?_ id id id id id

theorem State.takeNonce_keeps {r s : State} {value : W64} (h : Keeps r s) :
    Keeps r (State.takeNonce s value) := by
  unfold State.takeNonce
  repeat' first
    | with_reducible exact h | with_reducible refine State.wr_keeps ?_ | dsimp only
    | with_reducible refine Keeps.upd ?_ id id id id id

theorem State.refreshStage_keeps {r s : State} (h : Keeps r s) :
    Keeps r (State.refreshStage s) := by
  unfold State.refreshStage
  repeat' first
    | with_reducible exact h | with_reducible refine State.setStage_keeps ?_

theorem State.startSch_keeps {r s : State} (h : Keeps r s) :
    Keeps r (State.startSch s) := by
  unfold State.startSch
  repeat' first
    | with_reducible exact h | with_reducible refine State.setFwUp_keeps ?_
    | with_reducible refine State.setFld_keeps ?_ | with_reducible refine State.refreshStage_keeps ?_
    | with_reducible refine State.refreshSch_keeps ?_ | with_reducible refine Keeps.ite ?_ ?_

theorem State.takeBraid_keeps {r s : State} {p : PendBraid} (h : Keeps r s) :
    Keeps r (State.takeBraid s p) := by
  unfold State.takeBraid
  repeat' first
    | with_reducible exact h | with_reducible refine State.checkBraid_keeps ?_ | with_reducible refine Keeps.ite ?_ ?_
    | dsimp only | with_reducible refine Keeps.upd ?_ id id id id id

theorem State.startPwr_keeps {r s : State} (h : Keeps r s) :
    Keeps r (State.startPwr s) := by
  unfold State.startPwr
  repeat' first
    | with_reducible exact h | with_reducible refine State.startRails_keeps ?_
    | with_reducible refine State.setStage_keeps ?_ | with_reducible refine State.setFwUp_keeps ?_

theorem State.takeFile_keeps {r s : State} {blksize : Option Nat} {tsize : Option Nat} (h : Keeps r s) :
    Keeps r (State.takeFile s blksize tsize) := by
  unfold State.takeFile
  repeat' first
    | with_reducible exact h | with_reducible refine State.bootDone_keeps ?_
    | with_reducible refine State.setStage_keeps ?_ | with_reducible refine Keeps.ite ?_ ?_ | dsimp only
    | with_reducible refine Keeps.upd ?_ id id id id id

theorem State.takeLease_keeps {r s : State} {k : Nat} {l : Lease} (h : Keeps r s) :
    Keeps r (State.takeLease s k l) := by
  unfold State.takeLease
  repeat' first
    | with_reducible exact h | with_reducible refine State.setFlag_keeps ?_
    | with_reducible refine State.bootDone_keeps ?_ | dsimp only | with_reducible refine Keeps.upd ?_ id id id id id

theorem execBraidFetch_keeps {r s : State} {file : Option (List Byte)} (h : Keeps r s) :
    KeepsOut r (execBraidFetch file s) := by
  unfold execBraidFetch
  repeat' first
    | with_reducible exact h | with_reducible refine keepsOut_next ?_ | with_reducible refine State.bootAsk_keeps ?_
    | with_reducible refine State.bootFailed_keeps ?_ | with_reducible refine State.takeBraid_keeps ?_
    | with_reducible refine State.bootDone_keeps ?_ | split

theorem execBundleAccept_keeps {r s : State} {file : List Byte} {keys : Option (List Byte)} (h : Keeps r s) :
    KeepsOut r (execBundleAccept file keys s) := by
  unfold execBundleAccept
  repeat' first
    | with_reducible exact h | with_reducible refine keepsOut_next ?_
    | with_reducible refine State.bootBackoff_keeps ?_ | with_reducible refine State.refuseImage_keeps ?_
    | with_reducible refine State.setStage_keeps ?_ | with_reducible refine State.applyKeys_keeps ?_
    | with_reducible refine State.startPwr_keeps ?_ | with_reducible refine State.setFwUp_keeps ?_ | split
    | dsimp only | with_reducible refine Keeps.upd ?_ id id id id id

theorem execFirmwareCrash_keeps {r s : State} {core : FwCore} {cause : CrashCause} (h : Keeps r s) :
    KeepsOut r (execFirmwareCrash core cause s) := by
  unfold execFirmwareCrash
  repeat' first
    | with_reducible exact h | with_reducible refine keepsOut_next ?_ | with_reducible refine State.fwCrash_keeps ?_
    | with_reducible refine keepsOut_ite ?_ ?_

theorem execFirmwareRestart_keeps {r s : State} {core : FwCore} (h : Keeps r s) :
    KeepsOut r (execFirmwareRestart core s) := by
  unfold execFirmwareRestart
  repeat' first
    | with_reducible exact h | with_reducible refine keepsOut_next ?_ | with_reducible refine State.bump_keeps ?_
    | with_reducible refine State.setFwUp_keeps ?_ | with_reducible refine State.crashNote_keeps ?_
    | with_reducible refine State.refreshStage_keeps ?_ | with_reducible refine State.refreshSch_keeps ?_ | split
    | dsimp only | with_reducible refine Keeps.upd ?_ id id id id id

theorem execImageCheck_keeps {r s : State} {kind : ImageKind} {image : List Byte} (h : Keeps r s) :
    KeepsOut r (execImageCheck kind image s) := by
  unfold execImageCheck
  repeat' first
    | with_reducible exact h | with_reducible refine keepsOut_next ?_
    | with_reducible refine State.checkImage_keeps ?_ | with_reducible refine State.checkBraid_keeps ?_ | split
    | with_reducible refine Keeps.upd ?_ id id id id id

theorem execNetbootAttempt_keeps {r s : State} {proto : BootProto} {answer : Option BootAnswer} (h : Keeps r s) :
    KeepsOut r (execNetbootAttempt proto answer s) := by
  unfold execNetbootAttempt
  repeat' first
    | with_reducible exact h | with_reducible refine keepsOut_next ?_ | with_reducible refine State.bootAsk_keeps ?_
    | with_reducible refine State.takeLease_keeps ?_ | with_reducible refine State.bootFailed_keeps ?_
    | with_reducible refine State.takeFile_keeps ?_ | split | dsimp only

theorem execNetbootTimeout_keeps {r s : State} {proto : BootProto} (h : Keeps r s) :
    KeepsOut r (execNetbootTimeout proto s) := by
  unfold execNetbootTimeout
  repeat' first
    | with_reducible exact h | with_reducible refine keepsOut_next ?_
    | with_reducible refine State.bootFailed_keeps ?_ | with_reducible refine keepsOut_ite ?_ ?_ | dsimp only

theorem execNonceWrite_keeps {r s : State} {value : W64} (h : Keeps r s) :
    KeepsOut r (execNonceWrite value s) := by
  unfold execNonceWrite
  repeat' first
    | with_reducible exact h | with_reducible refine keepsOut_next ?_ | with_reducible refine State.takeNonce_keeps ?_

theorem execReportPost_keeps {r s : State} (h : Keeps r s) :
    KeepsOut r (execReportPost s) := by
  unfold execReportPost
  repeat' first
    | with_reducible exact h | with_reducible refine keepsOut_next ?_ | with_reducible refine State.draw_keeps ?_
    | with_reducible refine State.wr_keeps ?_ | with_reducible refine keepsOut_ite ?_ ?_ | dsimp only
    | with_reducible refine Keeps.upd ?_ id id id id id

theorem execWatchdogExpiry_keeps {r s : State} {core : FwCore} (h : Keeps r s) :
    KeepsOut r (execWatchdogExpiry core s) := by
  unfold execWatchdogExpiry
  repeat' first
    | with_reducible exact h | with_reducible refine keepsOut_next ?_ | with_reducible refine State.fwCrash_keeps ?_
    | with_reducible refine keepsOut_ite ?_ ?_

end Sys2Proof.Machine
end

