-- ==== Sys2Proof/Laws/KeepsDrain.lean ====
section
/-! SUPPORT. What the operations of Machine/Drain.lean keep. -/

namespace Sys2Proof.Machine

theorem State.ldPut_keeps {r s : State} {b : List Byte} (h : Keeps r s) :
    Keeps r (State.ldPut s b) := by
  unfold State.ldPut
  repeat' first
    | with_reducible exact h | with_reducible refine State.writeHbm_keeps ?_
    | with_reducible refine State.putIndex_keeps ?_ | with_reducible refine Keeps.upd ?_ id id id id id

theorem State.flushRecords_keeps {r s : State} (h : Keeps r s) :
    Keeps r (State.flushRecords s) := by
  unfold State.flushRecords
  repeat' first
    | with_reducible exact h | with_reducible assumption | with_reducible refine State.ldPut_keeps ?_
    | with_reducible refine foldl_keeps ?_ ?_ | intro _ | with_reducible refine Keeps.ite ?_ ?_
    | with_reducible refine Keeps.upd ?_ id id id id id

theorem State.ledgerRecord_keeps {r s : State} {type : Nat} {j : Nat} {vary : Bool} {step : Nat} {attempt : Nat} (h : Keeps r s) :
    Keeps r (State.ledgerRecord s type j vary step attempt) := by
  unfold State.ledgerRecord
  repeat' first
    | with_reducible exact h | with_reducible refine State.flushRecords_keeps ?_
    | with_reducible refine Keeps.upd ?_ id id id id id

theorem State.drainSlot_keeps {r s : State} {j : Nat} {step : Nat} {attempt : Nat} {r' : Nat} {vary : Bool} {splice : Nat} (h : Keeps r s) :
    Keeps r (State.drainSlot s j step attempt r' vary splice) := by
  unfold State.drainSlot
  repeat' first
    | with_reducible exact h | dsimp only | with_reducible refine Keeps.upd ?_ id id id id id

theorem State.drainLog_keeps {r s : State} {n : Nat} (h : Keeps r s) : Keeps r (s.drainLog n) := by
  induction n generalizing s with
  | zero => exact h
  | succ n ih =>
    unfold State.drainLog
    split
    · exact h
    · rename_i q
      exact Keeps.ite h (ih (State.ldPut_keeps (h.upd id id id (fun k => by rw [q] at k; exact Nat.le_of_succ_le k) id)))

theorem State.drainShadows_keeps {r s : State} {p : Shadow → Bool} {n : Nat} (h : Keeps r s) :
    Keeps r (State.drainShadows s p n) := by
  unfold State.drainShadows
  repeat' first
    | with_reducible exact h | with_reducible assumption | with_reducible refine State.ldPut_keeps ?_
    | with_reducible refine foldl_keeps ?_ ?_ | intro _ | with_reducible refine Keeps.ite ?_ ?_
    | with_reducible refine Keeps.upd ?_ id id id id id

theorem execLogDrainIdle_keeps {r s : State} (h : Keeps r s) :
    KeepsOut r (execLogDrainIdle s) := by
  unfold execLogDrainIdle
  repeat' first
    | with_reducible exact h | with_reducible refine keepsOut_next ?_ | with_reducible refine State.drainLog_keeps ?_
    | with_reducible refine State.drainShadows_keeps ?_ | with_reducible refine State.flushRecords_keeps ?_
    | with_reducible refine keepsOut_ite ?_ ?_

end Sys2Proof.Machine
end

