-- ==== Sys2Proof/Laws/KeepsLoad.lean ====
section
/-! SUPPORT. What the operations of Machine/Load.lean keep. -/

namespace Sys2Proof.Machine

theorem State.setContext_keeps {r s : State} {j : Nat} {vc : Nat} {x : Option Context} (h : Keeps r s) :
    Keeps r (State.setContext s j vc x) := by
  unfold State.setContext
  repeat' first
    | with_reducible exact h | with_reducible refine State.setJob_keeps ?_

theorem State.writeImage_keeps {r s : State} {a : Nat} {m : Mem} (h : Keeps r s) :
    Keeps r (State.writeImage s a m) := by
  have wf : ∀ (l : Mem) (t : Mem), t.wf = true → Mem.wf (l.foldl (fun t e => Mem.setByte t (a + e.1) e.2) t) = true := by
    intro l
    induction l with
    | nil => exact fun _ g => g
    | cons e l ih => exact fun t g => ih _ (Mem.wf_setByte g)
  have k : Keeps r { s with mem := m.foldl (fun t e => Mem.setByte t (a + e.1) e.2) (tclear s.mem a imageLen)
                            poison := s.poison.filter (fun g => !(a ≤ g && g < a + imageLen))
                            upset := tclear s.upset a imageLen } :=
    Keeps.upd h (fun g => wf _ _ (tclear_wf g)) id id id id
  unfold State.writeImage
  dsimp only
  split
  · exact k
  · split
    · exact State.sealGranule_keeps k
    · exact k

theorem State.saveCore_keeps {r s : State} {p : Nat} (h : Keeps r s) :
    Keeps r (State.saveCore s p) := by
  unfold State.saveCore
  repeat' first
    | with_reducible exact h | with_reducible assumption | with_reducible refine State.readScratch_keeps ?_
    | with_reducible refine State.readAcc_keeps ?_ | with_reducible refine State.setCore_keeps ?_
    | with_reducible refine State.setContext_keeps ?_ | with_reducible refine State.writeImage_keeps ?_
    | with_reducible refine foldl_keeps ?_ ?_ | intro _ | split

theorem State.place_keeps {r s : State} {j : Nat} (h : Keeps r s) :
    Keeps r (State.place s j) := by
  unfold State.place
  repeat' first
    | with_reducible exact h | with_reducible assumption | with_reducible refine State.setCluster_keeps ?_
    | with_reducible refine foldl_keeps ?_ ?_ | intro _

theorem State.readImage_keeps {r s : State} {a : Nat} {x : Context} (h : Keeps r s) :
    Keeps r (State.readImage s a x).1 := by
  unfold State.readImage
  repeat' first
    | with_reducible exact h | with_reducible assumption | with_reducible refine State.readGranule_keeps ?_
    | with_reducible refine foldl_fst_keeps ?_ ?_ | intro _

theorem State.setScratch_keeps {r s : State} {p : Nat} {m : Mem} {q : List Nat} (h : Keeps r s) :
    Keeps r (State.setScratch s p m q) := by
  have wf : ∀ (l : Mem) (t : Mem), t.wf = true → Mem.wf (l.foldl (fun t e => Mem.setByte t (window p + e.1) e.2) t) = true := by
    intro l
    induction l with
    | nil => exact fun _ g => g
    | cons e l ih => exact fun t g => ih _ (Mem.wf_setByte g)
  unfold State.setScratch
  dsimp only
  exact Keeps.upd h (fun g => wf _ _ (tclear_wf g)) id id id id

theorem State.loadCode_keeps {r s : State} {j : Nat} {vc : Nat} {p : Nat} (h : Keeps r s) :
    Keeps r (State.loadCode s j vc p) := by
  unfold State.loadCode
  split
  · exact h
  · dsimp only
    exact Keeps.upd (State.readHbm_keeps h) Mem.wf_store id id id id

theorem State.restoreCore_keeps {r s : State} {j : Nat} {vc : Nat} {p : Nat} (h : Keeps r s) :
    Keeps r (State.restoreCore s j vc p) := by
  unfold State.restoreCore
  repeat' first
    | with_reducible exact h | with_reducible refine State.readImage_keeps ?_
    | with_reducible refine State.setContext_keeps ?_ | with_reducible refine State.setScratch_keeps ?_
    | with_reducible refine State.loadCode_keeps ?_ | with_reducible refine State.setCore_keeps ?_ | split

theorem State.rebind_keeps {r s : State} {j : Nat} (h : Keeps r s) :
    Keeps r (State.rebind s j) := by
  unfold State.rebind
  repeat' first
    | with_reducible exact h | with_reducible assumption | with_reducible refine State.saveCore_keeps ?_
    | with_reducible refine State.setCluster_keeps ?_ | with_reducible refine State.place_keeps ?_
    | with_reducible refine State.restoreCore_keeps ?_ | with_reducible refine foldl_keeps ?_ ?_ | intro _ | split

theorem State.onVCores_keeps {r s : State} {j : Nat} {f : State → Nat → VCore → State × VCore} (hf : ∀ t n v, Keeps r t → Keeps r (f t n v).1)
    (h : Keeps r s) :
    Keeps r (State.onVCores s j f) := by
  unfold State.onVCores
  repeat' first
    | with_reducible exact h | with_reducible assumption | with_reducible refine hf _ _ _ ?_
    | with_reducible refine State.setV_keeps ?_ | with_reducible refine State.setContext_keeps ?_
    | with_reducible refine foldl_keeps ?_ ?_ | intro _ | split

theorem State.loadStreams_keeps {r s : State} {j : Nat} {c : Nat} {x : Splice} (h : Keeps r s) :
    Keeps r (State.loadStreams s j c x) := by
  unfold State.loadStreams
  repeat' first
    | with_reducible exact h | with_reducible refine State.setCluster_keeps ?_ | split

theorem State.countDiscard_keeps {r s : State} {j : Nat} {c : Nat} {k : Nat} {q : Nat} {n : Nat} (h : Keeps r s) :
    Keeps r (State.countDiscard s j c k q n) := by
  unfold State.countDiscard
  repeat' first
    | with_reducible exact h | with_reducible refine State.note_keeps ?_ | with_reducible refine State.bump_keeps ?_
    | with_reducible refine Keeps.ite ?_ ?_

theorem State.loadSets_keeps {r s : State} {j : Nat} {x : Splice} (h : Keeps r s) :
    Keeps r (State.loadSets s j x) := by
  unfold State.loadSets
  repeat' first
    | with_reducible exact h | with_reducible assumption | with_reducible refine State.onVCores_keeps ?_ ?_
    | with_reducible refine State.countDiscard_keeps ?_ | with_reducible refine foldl_keeps ?_ ?_ | intro _ | split

theorem State.unbind_keeps {r s : State} {j : Nat} (h : Keeps r s) :
    Keeps r (State.unbind s j) := by
  unfold State.unbind
  repeat' first
    | with_reducible exact h | with_reducible assumption | with_reducible refine State.setCore_keeps ?_
    | with_reducible refine State.setCluster_keeps ?_ | with_reducible refine State.setJob_keeps ?_
    | with_reducible refine foldl_keeps ?_ ?_ | intro _

theorem State.bindProgram_keeps {r s : State} {j : Nat} {g : Program} (h : Keeps r s) :
    Keeps r (State.bindProgram s j g) := by
  unfold State.bindProgram
  repeat' first
    | with_reducible exact h | with_reducible assumption | with_reducible refine State.unbind_keeps ?_
    | with_reducible refine State.setJob_keeps ?_ | with_reducible refine State.place_keeps ?_
    | with_reducible refine State.loadCode_keeps ?_ | with_reducible refine State.setCore_keeps ?_
    | with_reducible refine State.setContext_keeps ?_ | with_reducible refine State.writeImage_keeps ?_
    | with_reducible refine foldl_keeps ?_ ?_ | intro _ | split

theorem State.latchCluster_keeps {r s : State} {c : Nat} (h : Keeps r s) :
    Keeps r (State.latchCluster s c) := by
  unfold State.latchCluster
  repeat' first
    | with_reducible exact h | dsimp only | with_reducible refine Keeps.upd ?_ id id id id id

theorem State.latchCore_keeps {r s : State} {p : Nat} (h : Keeps r s) :
    Keeps r (State.latchCore s p) := by
  unfold State.latchCore
  repeat' first
    | with_reducible exact h | with_reducible refine Keeps.ite ?_ ?_ | dsimp only
    | with_reducible refine Keeps.upd ?_ id id id id id

theorem State.toRound_keeps {r s : State} {j : Nat} {c : Nat} {r' : Nat} (h : Keeps r s) :
    Keeps r (State.toRound s j c r') := by
  unfold State.toRound
  repeat' first
    | with_reducible exact h | with_reducible assumption | with_reducible refine State.saveCore_keeps ?_
    | with_reducible refine State.restoreCore_keeps ?_ | with_reducible refine State.setCluster_keeps ?_
    | with_reducible refine State.bump_keeps ?_ | with_reducible refine foldl_keeps ?_ ?_ | intro _ | split
    | dsimp only

end Sys2Proof.Machine
end

