-- ==== Sys2Proof/Laws/KeepsPod.lean ====
section
/-! SUPPORT. What the operations of Machine/Pod.lean keep. -/

namespace Sys2Proof.Machine

theorem State.setLink_keeps {r s : State} {l : Nat} {x : Link} (h : Keeps r s) :
    Keeps r (State.setLink s l x) := by
  unfold State.setLink
  repeat' first
    | with_reducible exact h | with_reducible refine Keeps.upd ?_ id id id id id

theorem State.sendLink_keeps {r s : State} {l : Nat} {m : CtlMsg} (h : Keeps r s) :
    Keeps r (State.sendLink s l m) := by
  unfold State.sendLink
  repeat' first
    | with_reducible exact h | with_reducible refine State.setLink_keeps ?_

theorem State.stopGroup_keeps {r s : State} {g : Nat} {code : Nat} {sidx : Job → Nat} (h : Keeps r s) :
    Keeps r (State.stopGroup s g code sidx) := by
  unfold State.stopGroup
  repeat' first
    | with_reducible exact h | with_reducible assumption | with_reducible refine State.bindStop_keeps ?_
    | with_reducible refine foldl_keeps ?_ ?_ | intro _ | with_reducible refine Keeps.ite ?_ ?_

theorem State.setGrp_keeps {r s : State} {g : Nat} {x : Group} (h : Keeps r s) :
    Keeps r (State.setGrp s g x) := by
  unfold State.setGrp
  repeat' first
    | with_reducible exact h | with_reducible refine Keeps.upd ?_ id id id id id

theorem State.sendDir_keeps {r s : State} {d : Nat} {m : CtlMsg} (h : Keeps r s) :
    Keeps r (State.sendDir s d m) := by
  unfold State.sendDir
  repeat' first
    | with_reducible exact h | with_reducible refine State.sendLink_keeps ?_ | split

theorem State.sendChildren_keeps {r s : State} {g : Nat} {m : CtlMsg} (h : Keeps r s) :
    Keeps r (State.sendChildren s g m) := by
  unfold State.sendChildren
  repeat' first
    | with_reducible exact h | with_reducible assumption | with_reducible refine State.sendDir_keeps ?_
    | with_reducible refine foldl_keeps ?_ ?_ | intro _

theorem State.applyRelease_keeps {r s : State} {g : Nat} {beat : Nat} (h : Keeps r s) :
    Keeps r (State.applyRelease s g beat) := by
  unfold State.applyRelease
  repeat' first
    | with_reducible exact h | with_reducible assumption | with_reducible refine State.sendChildren_keeps ?_
    | with_reducible refine State.setGrp_keeps ?_ | with_reducible refine State.bump_keeps ?_
    | with_reducible refine State.setJob_keeps ?_ | with_reducible refine foldl_keeps ?_ ?_ | intro _
    | with_reducible refine Keeps.ite ?_ ?_ | dsimp only

theorem State.sendParent_keeps {r s : State} {m : CtlMsg} (h : Keeps r s) :
    Keeps r (State.sendParent s m) := by
  unfold State.sendParent
  repeat' first
    | with_reducible exact h | with_reducible refine State.sendDir_keeps ?_

theorem State.tryGather_keeps {r s : State} {g : Nat} (h : Keeps r s) :
    Keeps r (State.tryGather s g) := by
  unfold State.tryGather
  repeat' first
    | with_reducible exact h | with_reducible refine State.setGrp_keeps ?_
    | with_reducible refine State.applyRelease_keeps ?_ | with_reducible refine State.sendParent_keeps ?_
    | with_reducible refine Keeps.ite ?_ ?_ | dsimp only

theorem State.openPass_keeps {r s : State} {g : Nat} {n : Nat} {a : Nat} (h : Keeps r s) :
    Keeps r (State.openPass s g n a) := by
  unfold State.openPass
  repeat' first
    | with_reducible exact h | with_reducible refine State.setGrp_keeps ?_ | with_reducible refine Keeps.ite ?_ ?_
    | dsimp only

theorem State.setConn_keeps {r s : State} {k : Nat} {x : Conn} (h : Keeps r s) :
    Keeps r (State.setConn s k x) := by
  unfold State.setConn
  repeat' first
    | with_reducible exact h | with_reducible refine Keeps.upd ?_ id id id id id

theorem State.sendConn_keeps {r s : State} {k : Nat} {m : CtlMsg} (h : Keeps r s) :
    Keeps r (State.sendConn s k m) := by
  unfold State.sendConn
  repeat' first
    | with_reducible exact h | with_reducible refine State.setConn_keeps ?_

theorem State.sendPods_keeps {r s : State} {g : Nat} {m : CtlMsg} (h : Keeps r s) :
    Keeps r (State.sendPods s g m) := by
  unfold State.sendPods
  repeat' first
    | with_reducible exact h | with_reducible assumption | with_reducible refine State.sendConn_keeps ?_
    | with_reducible refine foldl_keeps ?_ ?_ | intro _ | split

theorem State.applySeal_keeps {r s : State} {g : Nat} {n : Nat} {a : Nat} (h : Keeps r s) :
    Keeps r (State.applySeal s g n a) := by
  unfold State.applySeal
  repeat' first
    | with_reducible exact h | with_reducible assumption | with_reducible refine State.sendChildren_keeps ?_
    | with_reducible refine State.setGrp_keeps ?_ | with_reducible refine State.setJob_keeps ?_
    | with_reducible refine State.bump_keeps ?_ | with_reducible refine State.ledgerRecord_keeps ?_
    | with_reducible refine foldl_keeps ?_ ?_ | intro _ | with_reducible refine Keeps.ite ?_ ?_ | dsimp only

theorem State.trySeal_keeps {r s : State} {g : Nat} {n : Nat} {a : Nat} (h : Keeps r s) :
    Keeps r (State.trySeal s g n a) := by
  unfold State.trySeal
  repeat' first
    | with_reducible exact h | with_reducible refine State.sendPods_keeps ?_
    | with_reducible refine State.applySeal_keeps ?_ | with_reducible refine State.setGrp_keeps ?_
    | with_reducible refine Keeps.ite ?_ ?_ | dsimp only

theorem State.sendSealRoot_keeps {r s : State} {g : Nat} {m : CtlMsg} (h : Keeps r s) :
    Keeps r (State.sendSealRoot s g m) := by
  unfold State.sendSealRoot
  repeat' first
    | with_reducible exact h | with_reducible refine State.sendConn_keeps ?_
    | with_reducible refine State.stopGroup_keeps ?_ | split

theorem State.sendUp_keeps {r s : State} {g : Nat} {m : CtlMsg} (h : Keeps r s) :
    Keeps r (State.sendUp s g m) := by
  unfold State.sendUp
  repeat' first
    | with_reducible exact h | with_reducible refine State.sendSealRoot_keeps ?_
    | with_reducible refine State.sendParent_keeps ?_ | with_reducible refine Keeps.ite ?_ ?_

theorem State.tryPass_keeps {r s : State} {g : Nat} {n : Nat} {a : Nat} (h : Keeps r s) :
    Keeps r (State.tryPass s g n a) := by
  unfold State.tryPass
  repeat' first
    | with_reducible exact h | with_reducible refine State.openPass_keeps ?_
    | with_reducible refine State.setGrp_keeps ?_ | with_reducible refine State.trySeal_keeps ?_
    | with_reducible refine State.sendUp_keeps ?_ | with_reducible refine Keeps.ite ?_ ?_ | dsimp only

theorem State.ignoreSeal_keeps {r s : State} (h : Keeps r s) :
    Keeps r (State.ignoreSeal s) := by
  unfold State.ignoreSeal
  repeat' first
    | with_reducible exact h | with_reducible refine State.bump_keeps ?_

theorem State.dropStreams_keeps {r s : State} {j : Nat} (h : Keeps r s) :
    Keeps r (State.dropStreams s j) := by
  unfold State.dropStreams
  repeat' first
    | with_reducible exact h | with_reducible assumption | with_reducible refine foldl_keeps ?_ ?_ | intro _
    | with_reducible refine Keeps.ite ?_ ?_ | with_reducible refine Keeps.upd ?_ id id id id id

theorem State.dropChecks_keeps {r s : State} {j : Nat} (h : Keeps r s) :
    Keeps r (State.dropChecks s j) := by
  unfold State.dropChecks
  repeat' first
    | with_reducible exact h | with_reducible assumption | with_reducible refine State.setV_keeps ?_
    | with_reducible refine State.setCluster_keeps ?_ | with_reducible refine foldl_keeps ?_ ?_ | intro _

theorem State.retractJob_keeps {r s : State} {g : Nat} {j : Nat} {n : Nat} {a : Nat} (h : Keeps r s) :
    Keeps r (State.retractJob s g j n a) := by
  unfold State.retractJob
  repeat' first
    | with_reducible exact h | with_reducible assumption | with_reducible refine State.quietJob_keeps ?_
    | with_reducible refine State.setCore_keeps ?_ | with_reducible refine State.setCluster_keeps ?_
    | with_reducible refine State.dropStreams_keeps ?_ | with_reducible refine State.dropChecks_keeps ?_
    | with_reducible refine State.ledgerRecord_keeps ?_ | with_reducible refine State.setJob_keeps ?_
    | with_reducible refine State.bump_keeps ?_ | with_reducible refine State.report_keeps ?_
    | with_reducible refine State.reportStop_keeps ?_ | with_reducible refine foldl_keeps ?_ ?_ | intro _ | split
    | with_reducible refine Keeps.upd ?_ id id id id id

theorem State.tryQuiesced_keeps {r s : State} {act : State → Nat → Nat → Nat → Nat → State} {g : Nat} {n : Nat} {a : Nat} (hf : ∀ t g n a b, Keeps r t → Keeps r (act t g n a b))
    (h : Keeps r s) :
    Keeps r (State.tryQuiesced s act g n a) := by
  unfold State.tryQuiesced
  repeat' first
    | with_reducible exact h | with_reducible refine hf _ _ _ _ _ ?_ | with_reducible refine State.setGrp_keeps ?_
    | with_reducible refine State.sendParent_keeps ?_ | with_reducible refine State.sendPods_keeps ?_
    | with_reducible refine State.sendUp_keeps ?_ | with_reducible refine Keeps.ite ?_ ?_ | dsimp only

theorem State.applyRetract_keeps {r s : State} {act : State → Nat → Nat → Nat → Nat → State} {g : Nat} {n : Nat} {a : Nat} (hf : ∀ t g n a b, Keeps r t → Keeps r (act t g n a b))
    (h : Keeps r s) :
    Keeps r (State.applyRetract s act g n a) := by
  unfold State.applyRetract
  repeat' first
    | with_reducible exact h | with_reducible assumption | with_reducible refine State.sendChildren_keeps ?_
    | with_reducible refine State.setGrp_keeps ?_ | with_reducible refine State.retractJob_keeps ?_
    | with_reducible refine State.tryQuiesced_keeps ?_ ?_ | with_reducible refine foldl_keeps ?_ ?_ | intro _
    | with_reducible refine Keeps.ite ?_ ?_

theorem State.restartJob_keeps {r s : State} {j : Nat} {n : Nat} {a : Nat} {beat : Nat} (h : Keeps r s) :
    Keeps r (State.restartJob s j n a beat) := by
  unfold State.restartJob
  repeat' first
    | with_reducible exact h | with_reducible assumption | with_reducible refine State.setJob_keeps ?_
    | with_reducible refine State.bindStop_keeps ?_ | with_reducible refine State.rebind_keeps ?_
    | with_reducible refine State.onVCores_keeps ?_ ?_ | with_reducible refine State.loadStreams_keeps ?_
    | with_reducible refine State.loadSets_keeps ?_ | with_reducible refine foldl_keeps ?_ ?_ | intro _ | split
    | dsimp only

theorem State.applyRestart_keeps {r s : State} {g : Nat} {n : Nat} {a : Nat} {beat : Nat} (h : Keeps r s) :
    Keeps r (State.applyRestart s g n a beat) := by
  unfold State.applyRestart
  repeat' first
    | with_reducible exact h | with_reducible assumption | with_reducible refine State.sendChildren_keeps ?_
    | with_reducible refine State.bump_keeps ?_ | with_reducible refine State.restartJob_keeps ?_
    | with_reducible refine foldl_keeps ?_ ?_ | intro _ | with_reducible refine Keeps.ite ?_ ?_

theorem State.failUp_keeps {r s : State} {g : Nat} {n : Nat} {a : Nat} {origin : Nat} {atSealRoot : Bool} (h : Keeps r s) :
    Keeps r (State.failUp s g n a origin atSealRoot) := by
  unfold State.failUp
  repeat' first
    | with_reducible exact h | with_reducible assumption | with_reducible refine State.setGrp_keeps ?_
    | with_reducible refine State.sendPods_keeps ?_ | with_reducible refine State.applyRetract_keeps ?_ ?_
    | with_reducible refine State.applyRestart_keeps ?_ | with_reducible refine State.sendUp_keeps ?_ | intro _
    | with_reducible refine Keeps.ite ?_ ?_ | dsimp only

theorem State.markPeer_keeps {r s : State} {i : Nat} {st : Nat} (h : Keeps r s) :
    Keeps r (State.markPeer s i st) := by
  unfold State.markPeer
  repeat' first
    | with_reducible exact h | with_reducible refine State.writeHbm_keeps ?_
    | with_reducible refine State.event_keeps ?_ | with_reducible refine Keeps.ite ?_ ?_

theorem State.spread_keeps {r s : State} {m : CtlMsg} {src : Option MsgSrc} (h : Keeps r s) :
    Keeps r (State.spread s m src) := by
  unfold State.spread
  repeat' first
    | with_reducible exact h | with_reducible assumption | with_reducible refine State.sendLink_keeps ?_
    | with_reducible refine State.sendConn_keeps ?_ | with_reducible refine foldl_keeps ?_ ?_ | intro _
    | with_reducible refine Keeps.ite ?_ ?_

theorem State.alignReady_keeps {r s : State} {j : Nat} (h : Keeps r s) :
    Keeps r (State.alignReady s j) := by
  unfold State.alignReady
  repeat' first
    | with_reducible exact h | with_reducible refine State.tryGather_keeps ?_
    | with_reducible refine State.setGrp_keeps ?_

theorem State.moveConn_keeps {r s : State} {k : Nat} (h : Keeps r s) :
    Keeps r (State.moveConn s k) := by
  unfold State.moveConn
  repeat' first
    | with_reducible exact h | with_reducible refine State.setConn_keeps ?_ | split | dsimp only

theorem State.reopenConn_keeps {r s : State} {k : Nat} (h : Keeps r s) :
    Keeps r (State.reopenConn s k) := by
  unfold State.reopenConn
  repeat' first
    | with_reducible exact h | with_reducible refine State.setConn_keeps ?_
    | with_reducible refine State.moveConn_keeps ?_ | with_reducible refine Keeps.ite ?_ ?_
    | with_reducible refine Keeps.upd ?_ id id id id id

theorem State.startBeat_keeps {r s : State} {b : Nat} (h : Keeps r s) :
    Keeps r (State.startBeat s b) := by
  unfold State.startBeat
  repeat' first
    | with_reducible exact h | with_reducible assumption | with_reducible refine State.setFlag_keeps ?_
    | with_reducible refine State.setLink_keeps ?_ | with_reducible refine State.setConn_keeps ?_
    | with_reducible refine foldl_keeps ?_ ?_ | intro _ | with_reducible refine Keeps.ite ?_ ?_ | dsimp only
    | with_reducible refine Keeps.upd ?_ id id id id id

theorem State.failStep_keeps {r s : State} {j : Nat} {n : Nat} {a : Nat} (h : Keeps r s) :
    Keeps r (State.failStep s j n a) := by
  unfold State.failStep
  repeat' first
    | with_reducible exact h | with_reducible refine State.setJob_keeps ?_
    | with_reducible refine State.failUp_keeps ?_ | with_reducible refine Keeps.ite ?_ ?_ | dsimp only

theorem State.moveConns_keeps {r s : State} (h : Keeps r s) :
    Keeps r (State.moveConns s) := by
  unfold State.moveConns
  repeat' first
    | with_reducible exact h | with_reducible assumption | with_reducible refine State.moveConn_keeps ?_
    | with_reducible refine foldl_keeps ?_ ?_ | intro _

theorem State.reportPeer_keeps {r s : State} {i : Nat} {st : Nat} (h : Keeps r s) :
    Keeps r (State.reportPeer s i st) := by
  unfold State.reportPeer
  repeat' first
    | with_reducible exact h | with_reducible refine State.bump_keeps ?_
    | with_reducible refine State.markPeer_keeps ?_ | with_reducible refine State.spread_keeps ?_
    | with_reducible refine Keeps.ite ?_ ?_ | with_reducible refine Keeps.upd ?_ id id id id id

theorem State.setAlignLead_keeps {r s : State} (h : Keeps r s) :
    Keeps r (State.setAlignLead s) := by
  unfold State.setAlignLead
  repeat' first
    | with_reducible exact h | with_reducible refine State.draw_keeps ?_ | with_reducible refine State.setFld_keeps ?_

end Sys2Proof.Machine
end

