-- ==== Sys2Proof/Laws/KeepsCheck.lean ====
section
/-! SUPPORT. What the operations of Machine/Check.lean keep. -/

namespace Sys2Proof.Machine

theorem State.armFlip_keeps {r s : State} {c : Nat} (h : Keeps r s) :
    Keeps r (State.armFlip s c) := by
  unfold State.armFlip
  repeat' first
    | with_reducible exact h | with_reducible refine State.setCluster_keeps ?_ | split

theorem State.setSuspect_keeps {r s : State} {p : Nat} (h : Keeps r s) :
    Keeps r (State.setSuspect s p) := by
  unfold State.setSuspect
  repeat' first
    | with_reducible exact h | with_reducible refine State.setFlag_keeps ?_

theorem State.mismatch_keeps {r s : State} {c : Nat} {q : Check} {bad : List (Nat × Nat)} (h : Keeps r s) :
    Keeps r (State.mismatch s c q bad) := by
  unfold State.mismatch
  repeat' first
    | with_reducible exact h | with_reducible refine State.bump_keeps ?_ | with_reducible refine State.report_keeps ?_
    | with_reducible refine State.setSuspect_keeps ?_ | with_reducible refine State.failStep_keeps ?_ | split
    | dsimp only | with_reducible refine Keeps.upd ?_ id id id id id

theorem State.compare_keeps {r s : State} {c : Nat} {q : Check} (h : Keeps r s) :
    Keeps r (State.compare s c q) := by
  unfold State.compare
  repeat' first
    | with_reducible exact h | with_reducible refine State.setCluster_keeps ?_
    | with_reducible refine State.bump_keeps ?_ | with_reducible refine State.mismatch_keeps ?_
    | with_reducible refine Keeps.ite ?_ ?_ | dsimp only | with_reducible refine Keeps.upd ?_ id id id id id

theorem State.crossReport_keeps {r s : State} {p : Nat} {n : Nat} (h : Keeps r s) :
    Keeps r (State.crossReport s p n) := by
  unfold State.crossReport
  repeat' first
    | with_reducible exact h | with_reducible refine State.report_keeps ?_

theorem State.distrust_keeps {r s : State} {p : Nat} (h : Keeps r s) :
    Keeps r (State.distrust s p) := by
  unfold State.distrust
  repeat' first
    | with_reducible exact h | with_reducible assumption | with_reducible refine State.failStep_keeps ?_
    | with_reducible refine foldl_keeps ?_ ?_ | intro _ | with_reducible refine Keeps.upd ?_ id id id id id

theorem State.crossFence_keeps {r s : State} {p : Nat} {n : Nat} (h : Keeps r s) :
    Keeps r (State.crossFence s p n) := by
  unfold State.crossFence
  repeat' first
    | with_reducible exact h | with_reducible refine State.fenceCore_keeps ?_
    | with_reducible refine State.crossReport_keeps ?_ | with_reducible refine State.distrust_keeps ?_
    | with_reducible refine Keeps.ite ?_ ?_ | dsimp only

theorem State.loseChecks_keeps {r s : State} {c : Nat} (h : Keeps r s) :
    Keeps r (State.loseChecks s c) := by
  unfold State.loseChecks
  repeat' first
    | with_reducible exact h | with_reducible assumption | with_reducible refine State.setCluster_keeps ?_
    | with_reducible refine State.bump_keeps ?_ | with_reducible refine foldl_keeps ?_ ?_ | intro _

theorem State.passedFence_keeps {r s : State} {x : Nat × Nat × Nat} (h : Keeps r s) :
    Keeps r (State.passedFence s x) := by
  unfold State.passedFence
  repeat' first
    | with_reducible exact h | with_reducible refine State.fenceCore_keeps ?_
    | with_reducible refine State.crossFence_keeps ?_ | with_reducible refine Keeps.ite ?_ ?_

theorem State.katDone_keeps {r s : State} {p : Nat} {failing : Option Nat} (h : Keeps r s) :
    Keeps r (State.katDone s p failing) := by
  unfold State.katDone
  repeat' first
    | with_reducible exact h | with_reducible assumption | with_reducible refine State.report_keeps ?_
    | with_reducible refine State.crossReport_keeps ?_ | with_reducible refine State.fenceCore_keeps ?_
    | with_reducible refine State.distrust_keeps ?_ | with_reducible refine State.setFlag_keeps ?_
    | with_reducible refine State.passedFence_keeps ?_ | with_reducible refine foldl_keeps ?_ ?_ | intro _ | split
    | dsimp only | with_reducible refine Keeps.upd ?_ id id id id id

theorem State.resumeGroups_keeps {r s : State} (h : Keeps r s) :
    Keeps r (State.resumeGroups s) := by
  unfold State.resumeGroups
  repeat' first
    | with_reducible exact h | with_reducible assumption | with_reducible refine State.tryQuiesced_keeps ?_ ?_
    | with_reducible refine State.applyRestart_keeps ?_ | with_reducible refine foldl_keeps ?_ ?_ | intro _
    | with_reducible refine Keeps.ite ?_ ?_ | dsimp only

theorem execChkinjectFlip_keeps {r s : State} {c : ClusterId} (h : Keeps r s) :
    KeepsOut r (execChkinjectFlip c s) := by
  unfold execChkinjectFlip
  repeat' first
    | with_reducible exact h | with_reducible refine keepsOut_next ?_ | with_reducible refine State.armFlip_keeps ?_
    | with_reducible refine keepsOut_ite ?_ ?_

theorem execCrossCheck_keeps {r s : State} {epoch : W64} (h : Keeps r s) :
    KeepsOut r (execCrossCheck epoch s) := by
  unfold execCrossCheck
  repeat' first
    | with_reducible exact h | with_reducible assumption | with_reducible refine keepsOut_next ?_
    | with_reducible refine State.draw_keeps ?_ | with_reducible refine State.bump_keeps ?_
    | with_reducible refine foldl_keeps ?_ ?_ | intro _ | with_reducible refine keepsOut_ite ?_ ?_ | dsimp only
    | with_reducible refine Keeps.upd ?_ id id id id id

theorem execCrossCheckCompare_keeps {r s : State} (h : Keeps r s) :
    KeepsOut r (execCrossCheckCompare s) := by
  unfold execCrossCheckCompare
  repeat' first
    | with_reducible exact h | with_reducible assumption | with_reducible refine keepsOut_next ?_
    | with_reducible refine State.bump_keeps ?_ | with_reducible refine State.crossFence_keeps ?_
    | with_reducible refine foldl_keeps ?_ ?_ | intro _ | with_reducible refine keepsOut_ite ?_ ?_ | dsimp only
    | with_reducible refine Keeps.upd ?_ id id id id id

theorem execShadowCompare_keeps {r s : State} {c : ClusterId} (h : Keeps r s) :
    KeepsOut r (execShadowCompare c s) := by
  unfold execShadowCompare
  repeat' first
    | with_reducible exact h | with_reducible refine keepsOut_next ?_ | with_reducible refine State.compare_keeps ?_
    | split

theorem execShadowReplay_keeps {r s : State} {c : ClusterId} (h : Keeps r s) :
    KeepsOut r (execShadowReplay c s) := by
  unfold execShadowReplay
  repeat' first
    | with_reducible exact h | with_reducible refine keepsOut_next ?_
    | with_reducible refine State.loseChecks_keeps ?_ | with_reducible refine State.setCluster_keeps ?_ | split
    | dsimp only

theorem execStepPassLocal_keeps {r s : State} {j : JobId} (h : Keeps r s) :
    KeepsOut r (execStepPassLocal j s) := by
  unfold execStepPassLocal
  repeat' first
    | with_reducible exact h | with_reducible refine keepsOut_next ?_ | with_reducible refine State.tryPass_keeps ?_
    | with_reducible refine State.setJob_keeps ?_ | split | dsimp only

end Sys2Proof.Machine
end

