-- ==== Sys2Proof/Laws/KeepsSvcOps.lean ====
section
/-! SUPPORT. What the operations of Machine/SvcOps.lean keep. -/

namespace Sys2Proof.Machine

theorem State.setSvc_keeps {r s : State} {i : Nat} {x : Option Svc} (h : Keeps r s) :
    Keeps r (State.setSvc s i x) := by
  unfold State.setSvc
  repeat' first
    | with_reducible exact h | with_reducible refine Keeps.upd ?_ id id id id id

theorem State.copyGranule_keeps {r s : State} {a : Nat} {b : Nat} (h : Keeps r s) :
    Keeps r (State.copyGranule s a b) := by
  unfold State.copyGranule
  repeat' first
    | with_reducible exact h | with_reducible refine State.readGranule_keeps ?_
    | with_reducible refine State.writeGranule_keeps ?_

theorem State.haloCopy_keeps {r s : State} {i : Nat} {x : Svc} {n : Nat} (h : Keeps r s) :
    Keeps r (State.haloCopy s i x n) := by
  unfold State.haloCopy
  repeat' first
    | with_reducible exact h | with_reducible assumption | with_reducible refine State.copyGranule_keeps ?_
    | with_reducible refine State.setSvc_keeps ?_ | with_reducible refine foldl_keeps ?_ ?_ | intro _

end Sys2Proof.Machine
end

