-- ==== Sys2Proof/Laws/KeepsReset.lean ====
section
/-! SUPPORT. What the operations of Machine/Reset.lean keep. -/

namespace Sys2Proof.Machine

theorem State.chipReset_keeps {r s : State} {aonGood : Bool} (h : Keeps r s) :
    Keeps r (State.chipReset s aonGood) := by
  unfold State.chipReset
  dsimp only
  have g : ∀ (b : Boot) (c : Bist) (p : Pins) (w : Power), Keeps r { State.reset with
      pending := s.pending, free := s.free, clk := s.clk, boot := b, bist := c, pins := p, power := w } :=
    fun _ _ _ _ => Keeps.upd h (fun _ => rfl) (fun _ => rfl) (fun _ => rfl) (fun _ => Nat.zero_le _) (fun _ => Nat.zero_le _)
  split
  · exact State.setFld_keeps (State.setFld_keeps (State.setFld_keeps (g _ _ _ _)))
  · exact State.setFld_keeps (g _ _ _ _)

theorem State.clearMem_keeps {r s : State} {a : Nat} {n : Nat} (h : Keeps r s) :
    Keeps r (State.clearMem s a n) := by
  unfold State.clearMem
  exact Keeps.upd h tclear_wf id id id id

theorem State.loadRowMaps_keeps {r s : State} {p : Nat} (h : Keeps r s) :
    Keeps r (State.loadRowMaps s p) := by
  unfold State.loadRowMaps
  repeat' first
    | with_reducible exact h | with_reducible assumption | with_reducible refine State.wr_keeps ?_
    | with_reducible refine State.setFld_keeps ?_ | with_reducible refine foldl_keeps ?_ ?_ | intro _ | dsimp only
    | with_reducible refine Keeps.upd ?_ id id id id id

theorem State.resetBlock_keeps {r s : State} {f : Nat} {keep : List Nat} (h : Keeps r s) :
    Keeps r (State.resetBlock s f keep) := by
  unfold State.resetBlock
  dsimp only
  exact Keeps.upd h id id filter_wf id id

theorem State.resetCore_keeps {r s : State} {p : Nat} (h : Keeps r s) :
    Keeps r (State.resetCore s p) := by
  unfold State.resetCore
  repeat' first
    | with_reducible exact h | with_reducible refine State.clearMem_keeps ?_
    | with_reducible refine State.setCore_keeps ?_ | with_reducible refine State.loadRowMaps_keeps ?_
    | with_reducible refine State.resetBlock_keeps ?_ | with_reducible refine Keeps.upd ?_ id id id id id

theorem State.resetCluster_keeps {r s : State} {c : Nat} (h : Keeps r s) :
    Keeps r (State.resetCluster s c) := by
  unfold State.resetCluster
  dsimp only
  refine State.resetBlock_keeps ?_
  refine Keeps.upd ?_ id tclear_wf id id id
  refine State.setCluster_keeps ?_
  exact foldl_keeps (fun _ _ g => State.resetCore_keeps g) (State.loseChecks_keeps h)

theorem State.dipDie_keeps {r s : State} {d : Nat} (h : Keeps r s) :
    Keeps r (State.dipDie s d) := by
  unfold State.dipDie
  repeat' first
    | with_reducible exact h | with_reducible assumption | with_reducible refine State.stopJob_keeps ?_
    | with_reducible refine State.resetCluster_keeps ?_ | with_reducible refine foldl_keeps ?_ ?_ | intro _

theorem State.dropExpert_keeps {r s : State} {f : Nat} (h : Keeps r s) :
    Keeps r (State.dropExpert s f) := by
  unfold State.dropExpert
  repeat' first
    | with_reducible exact h | with_reducible refine State.setFlag_keeps ?_

theorem State.resetStack_keeps {r s : State} {n : Nat} (h : Keeps r s) :
    Keeps r (State.resetStack s n) := by
  unfold State.resetStack
  repeat' first
    | with_reducible exact h | with_reducible refine State.clearMem_keeps ?_
    | with_reducible refine State.dropExpert_keeps ?_ | with_reducible refine State.setFlag_keeps ?_
    | with_reducible refine Keeps.upd ?_ id id id id id

theorem State.readyStack_keeps {r s : State} {n : Nat} (h : Keeps r s) :
    Keeps r (State.readyStack s n) := by
  unfold State.readyStack
  repeat' first
    | with_reducible exact h | with_reducible refine State.refreshSch_keeps ?_
    | with_reducible refine State.setFlag_keeps ?_ | with_reducible refine Keeps.upd ?_ id id id id id

theorem State.dipStack_keeps {r s : State} {n : Nat} (h : Keeps r s) :
    Keeps r (State.dipStack s n) := by
  unfold State.dipStack
  repeat' first
    | with_reducible exact h | with_reducible assumption | with_reducible refine State.resetStack_keeps ?_
    | with_reducible refine State.stopJob_keeps ?_ | with_reducible refine State.readyStack_keeps ?_
    | with_reducible refine foldl_keeps ?_ ?_ | intro _ | with_reducible refine Keeps.ite ?_ ?_ | dsimp only

theorem State.dropJobStreams_keeps {r s : State} {j : Nat} (h : Keeps r s) :
    Keeps r (State.dropJobStreams s j) := by
  unfold State.dropJobStreams
  repeat' first
    | with_reducible exact h | dsimp only | with_reducible refine Keeps.upd ?_ id id id id id

theorem State.refreshAlert_keeps {r s : State} (h : Keeps r s) :
    Keeps r (State.refreshAlert s) := by
  unfold State.refreshAlert
  repeat' first
    | with_reducible exact h | with_reducible refine State.setFlag_keeps ?_

theorem State.refreshRails_keeps {r s : State} (h : Keeps r s) :
    Keeps r (State.refreshRails s) := by
  unfold State.refreshRails
  repeat' first
    | with_reducible exact h | with_reducible assumption | with_reducible refine State.setFlag_keeps ?_
    | with_reducible refine State.refreshAlert_keeps ?_ | with_reducible refine foldl_keeps ?_ ?_ | intro _
    | with_reducible refine Keeps.upd ?_ id id id id id

theorem State.loadFuses_keeps {r s : State} (h : Keeps r s) :
    Keeps r (State.loadFuses s) := by
  unfold State.loadFuses
  repeat' first
    | with_reducible exact h | with_reducible assumption | with_reducible refine State.loadRowMaps_keeps ?_
    | with_reducible refine State.setFlag_keeps ?_ | with_reducible refine State.setFld_keeps ?_
    | with_reducible refine foldl_keeps ?_ ?_ | intro _ | with_reducible refine Keeps.ite ?_ ?_

theorem State.setPwrState_keeps {r s : State} {n : Nat} (h : Keeps r s) :
    Keeps r (State.setPwrState s n) := by
  unfold State.setPwrState
  repeat' first
    | with_reducible exact h | with_reducible refine State.setFld_keeps ?_

theorem State.resetNonAon_keeps {r s : State} (h : Keeps r s) :
    Keeps r (State.resetNonAon s) := by
  unfold State.resetNonAon
  dsimp only
  refine State.refreshRails_keeps (State.loadFuses_keeps (State.setPwrState_keeps (State.setFld_keeps (State.setFlag_keeps
    (State.setFld_keeps (State.setStage_keeps (State.wr_keeps (State.setFlag_keeps ?_))))))))
  exact Keeps.upd h (fun _ => rfl) (fun _ => rfl) filter_wf (fun _ => Nat.zero_le _) (fun _ => Nat.zero_le _)

theorem State.setRail_keeps {r s : State} {r' : Nat} {x : Rail} (h : Keeps r s) :
    Keeps r (State.setRail s r' x) := by
  unfold State.setRail
  repeat' first
    | with_reducible exact h | with_reducible refine Keeps.upd ?_ id id id id id

theorem State.loadHoles_keeps {r s : State} (h : Keeps r s) :
    Keeps r (State.loadHoles s) := by
  unfold State.loadHoles
  repeat' first
    | with_reducible exact h | with_reducible assumption | with_reducible refine State.setFld_keeps ?_
    | with_reducible refine foldl_keeps ?_ ?_ | intro _

theorem State.frstErr_keeps {r s : State} {n : Nat} (h : Keeps r s) :
    Keeps r (State.frstErr s n) := by
  unfold State.frstErr
  repeat' first
    | with_reducible exact h | with_reducible refine State.setFld_keeps ?_

theorem State.startFrst_keeps {r s : State} {func : Nat} {job : Bool} {target : Nat} {refused : Option Nat} {go : State → State} (hf : ∀ t, Keeps r t → Keeps r (go t))
    (h : Keeps r s) :
    Keeps r (State.startFrst s func job target refused go) := by
  unfold State.startFrst
  repeat' first
    | with_reducible exact h | with_reducible refine hf _ ?_ | with_reducible refine State.frstErr_keeps ?_
    | with_reducible refine State.setFlag_keeps ?_ | with_reducible refine State.setFld_keeps ?_ | split
    | with_reducible refine Keeps.upd ?_ id id id id id

theorem State.stopHolder_keeps {r s : State} {c : Nat} {func : Nat} (h : Keeps r s) :
    Keeps r (State.stopHolder s c func) := by
  unfold State.stopHolder
  repeat' first
    | with_reducible exact h | with_reducible refine State.stopJob_keeps ?_ | split

theorem State.resetRe_keeps {r s : State} {r' : Nat} (h : Keeps r s) :
    Keeps r (State.resetRe s r') := by
  unfold State.resetRe
  repeat' first
    | with_reducible exact h | with_reducible refine State.dropExpert_keeps ?_
    | with_reducible refine Keeps.upd ?_ id id id id id

theorem State.resetLink_keeps {r s : State} {l : Nat} (h : Keeps r s) :
    Keeps r (State.resetLink s l) := by
  unfold State.resetLink
  repeat' first
    | with_reducible exact h | with_reducible refine State.dropExpert_keeps ?_
    | with_reducible refine State.setFlag_keeps ?_ | with_reducible refine State.setLink_keeps ?_

theorem State.resetPort_keeps {r s : State} {e : Nat} (h : Keeps r s) :
    Keeps r (State.resetPort s e) := by
  unfold State.resetPort
  repeat' first
    | with_reducible exact h | with_reducible refine State.moveConns_keeps ?_
    | with_reducible refine State.dropExpert_keeps ?_ | with_reducible refine State.setFlag_keeps ?_

theorem State.resetFn_keeps {r s : State} {f : Nat} (h : Keeps r s) :
    Keeps r (State.resetFn s f) := by
  unfold State.resetFn
  repeat' first
    | with_reducible exact h | with_reducible refine State.resetCore_keeps ?_
    | with_reducible refine State.stopHolder_keeps ?_ | with_reducible refine State.resetCluster_keeps ?_
    | with_reducible refine State.resetRe_keeps ?_ | with_reducible refine State.resetLink_keeps ?_
    | with_reducible refine State.resetPort_keeps ?_ | with_reducible refine State.resetStack_keeps ?_
    | with_reducible refine Keeps.ite ?_ ?_

theorem State.frstFn_keeps {r s : State} {f : Nat} (h : Keeps r s) :
    Keeps r (State.frstFn s f) := by
  unfold State.frstFn
  repeat' first
    | with_reducible exact h | with_reducible assumption | with_reducible refine State.startFrst_keeps ?_ ?_
    | with_reducible refine State.resetFn_keeps ?_ | intro _

theorem State.resetJob_keeps {r s : State} {j : Nat} (h : Keeps r s) :
    Keeps r (State.resetJob s j) := by
  unfold State.resetJob
  repeat' first
    | with_reducible exact h | with_reducible assumption | with_reducible refine State.resetCluster_keeps ?_
    | with_reducible refine State.setNq_keeps ?_ | with_reducible refine State.reopenConn_keeps ?_
    | with_reducible refine State.dropJobStreams_keeps ?_ | with_reducible refine State.setGrp_keeps ?_
    | with_reducible refine State.setSvc_keeps ?_ | with_reducible refine State.setFlag_keeps ?_
    | with_reducible refine State.setJob_keeps ?_ | with_reducible refine foldl_keeps ?_ ?_ | intro _
    | with_reducible refine Keeps.ite ?_ ?_ | with_reducible refine Keeps.upd ?_ id id id id id

theorem State.frstJob_keeps {r s : State} {func : Nat} (h : Keeps r s) :
    Keeps r (State.frstJob s func) := by
  unfold State.frstJob
  repeat' first
    | with_reducible exact h | with_reducible assumption | with_reducible refine State.startFrst_keeps ?_ ?_
    | with_reducible refine State.resetJob_keeps ?_ | with_reducible refine State.stopJob_keeps ?_ | intro _

theorem State.serveCluster_keeps {r s : State} {c : Nat} (h : Keeps r s) :
    Keeps r (State.serveCluster s c) := by
  unfold State.serveCluster
  repeat' first
    | with_reducible exact h | with_reducible refine State.setFlag_keeps ?_
    | with_reducible refine State.setFwUp_keeps ?_ | with_reducible refine Keeps.ite ?_ ?_ | dsimp only

theorem State.frstReady_keeps {r s : State} {f : Frst} (h : Keeps r s) :
    Keeps r (State.frstReady s f) := by
  unfold State.frstReady
  repeat' first
    | with_reducible exact h | with_reducible assumption | with_reducible refine State.serveCluster_keeps ?_
    | with_reducible refine State.readyStack_keeps ?_ | with_reducible refine State.moveConns_keeps ?_
    | with_reducible refine State.setFlag_keeps ?_ | with_reducible refine foldl_keeps ?_ ?_ | intro _
    | with_reducible refine Keeps.ite ?_ ?_ | dsimp only

theorem State.kernelsDone_keeps {r s : State} {p : Nat} (h : Keeps r s) :
    Keeps r (State.kernelsDone s p) := by
  unfold State.kernelsDone
  repeat' first
    | with_reducible exact h | with_reducible refine State.refreshStage_keeps ?_
    | with_reducible refine State.serveCluster_keeps ?_ | with_reducible refine Keeps.ite ?_ ?_ | dsimp only
    | with_reducible refine Keeps.upd ?_ id id id id id

theorem State.startBoot_keeps {r s : State} (h : Keeps r s) :
    Keeps r (State.startBoot s) := by
  unfold State.startBoot
  repeat' first
    | with_reducible exact h | with_reducible refine State.loadFuses_keeps ?_
    | with_reducible refine State.setFlag_keeps ?_ | with_reducible refine State.note_keeps ?_
    | with_reducible refine State.refreshRails_keeps ?_ | split | with_reducible refine Keeps.upd ?_ id id id id id

theorem State.rebootChip_keeps {r s : State} (h : Keeps r s) :
    Keeps r (State.rebootChip s) := by
  unfold State.rebootChip
  repeat' first
    | with_reducible exact h | with_reducible refine State.startBoot_keeps ?_
    | with_reducible refine State.chipReset_keeps ?_

theorem State.restartNonAon_keeps {r s : State} (h : Keeps r s) :
    Keeps r (State.restartNonAon s) := by
  unfold State.restartNonAon
  repeat' first
    | with_reducible exact h | with_reducible refine State.resetNonAon_keeps ?_
    | with_reducible refine State.startRails_keeps ?_ | with_reducible refine Keeps.ite ?_ ?_ | dsimp only

theorem execFunctionReset_keeps {r s : State} {func : BitVec 10} (h : Keeps r s) :
    KeepsOut r (execFunctionReset func s) := by
  unfold execFunctionReset
  repeat' first
    | with_reducible exact h | with_reducible refine keepsOut_next ?_ | with_reducible refine State.frstFn_keeps ?_
    | with_reducible refine keepsOut_ite ?_ ?_

theorem execJobReset_keeps {r s : State} {j : JobId} (h : Keeps r s) :
    KeepsOut r (execJobReset j s) := by
  unfold execJobReset
  repeat' first
    | with_reducible exact h | with_reducible refine keepsOut_next ?_ | with_reducible refine State.frstJob_keeps ?_
    | with_reducible refine keepsOut_ite ?_ ?_

theorem execKatRun_keeps {r s : State} {p : CoreId} {failing : Option Byte} (h : Keeps r s) :
    KeepsOut r (execKatRun p failing s) := by
  unfold execKatRun
  repeat' first
    | with_reducible exact h | with_reducible refine keepsOut_next ?_
    | with_reducible refine State.kernelsDone_keeps ?_ | with_reducible refine State.resumeGroups_keeps ?_
    | with_reducible refine State.katDone_keeps ?_ | with_reducible refine keepsOut_ite ?_ ?_

theorem execResetReady_keeps {r s : State} {durationNs : W64} (h : Keeps r s) :
    KeepsOut r (execResetReady durationNs s) := by
  unfold execResetReady
  repeat' first
    | with_reducible exact h | with_reducible refine keepsOut_next ?_ | with_reducible refine State.frstReady_keeps ?_
    | with_reducible refine State.report_keeps ?_ | with_reducible refine State.setFlag_keeps ?_ | split | dsimp only
    | with_reducible refine Keeps.upd ?_ id id id id id

end Sys2Proof.Machine
end

