-- ==== Sys2Proof/Laws/KeepsProg.lean ====
section
/-! SUPPORT. What the operations of Machine/Prog.lean keep. -/

namespace Sys2Proof.Machine

theorem State.streamFault_keeps {r s : State} {j : Nat} {c : Nat} {thread : Nat} {code : Nat} {page : Nat} (h : Keeps r s) :
    Keeps r (State.streamFault s j c thread code page) := by
  unfold State.streamFault
  repeat' first
    | with_reducible exact h | with_reducible refine State.setFld_keeps ?_
    | with_reducible refine State.setFlag_keeps ?_ | with_reducible refine State.setCluster_keeps ?_
    | with_reducible refine State.reportStop_keeps ?_ | with_reducible refine Keeps.ite ?_ ?_

end Sys2Proof.Machine
end

