-- ==== Sys2Proof/Laws/KeepsStreams.lean ====
section
/-! SUPPORT. What the operations of Machine/Streams.lean keep. -/

namespace Sys2Proof.Machine

theorem State.addHold_keeps {r s : State} {c : Nat} {w : HoldWhy} (h : Keeps r s) :
    Keeps r (State.addHold s c w) := by
  unfold State.addHold
  repeat' first
    | with_reducible exact h | with_reducible refine State.setCluster_keeps ?_ | with_reducible refine Keeps.ite ?_ ?_
    | dsimp only

theorem State.setSpill_keeps {r s : State} {q : Nat} {x : SpillQ} (h : Keeps r s) :
    Keeps r (State.setSpill s q x) := by
  unfold State.setSpill
  repeat' first
    | with_reducible exact h | with_reducible refine Keeps.upd ?_ id id id id id

theorem State.spillPut_keeps {r s : State} {q : Nat} {data : List Byte} {poison : Bool} (h : Keeps r s) :
    Keeps r (State.spillPut s q data poison) := by
  unfold State.spillPut
  repeat' first
    | with_reducible exact h | with_reducible refine State.setSpill_keeps ?_
    | with_reducible refine State.writeGranule_keeps ?_ | split

theorem State.spillCommit_keeps {r s : State} {q : Nat} (h : Keeps r s) :
    Keeps r (State.spillCommit s q) := by
  unfold State.spillCommit
  repeat' first
    | with_reducible exact h | with_reducible refine State.setSpill_keeps ?_

theorem State.spillPeek_keeps {r s : State} {q : Nat} {n : BitVec 40} (h : Keeps r s) :
    Keeps r (State.spillPeek s q n).1 := by
  unfold State.spillPeek
  repeat' first
    | with_reducible exact h | with_reducible refine State.readGranule_keeps ?_

theorem State.contendPad_keeps {r s : State} {p : Nat} {sq : Nat} {n : Nat} (h : Keeps r s) :
    Keeps r (State.contendPad s p sq n) := by
  unfold State.contendPad
  repeat' first
    | with_reducible exact h | with_reducible refine State.countBank_keeps ?_
    | with_reducible refine State.setCore_keeps ?_ | with_reducible refine Keeps.ite ?_ ?_ | dsimp only

theorem State.countHold_keeps {r s : State} {c : Nat} {n : Nat} (h : Keeps r s) :
    Keeps r (State.countHold s c n) := by
  unfold State.countHold
  repeat' first
    | with_reducible exact h | with_reducible refine State.setCluster_keeps ?_
    | with_reducible refine State.bump_keeps ?_

theorem State.countHot_keeps {r s : State} {n : Nat} {pch : Nat} {pos : Nat} (h : Keeps r s) :
    Keeps r (State.countHot s n pch pos) := by
  unfold State.countHot
  repeat' first
    | with_reducible exact h | with_reducible refine State.setFld_keeps ?_ | with_reducible refine State.bump_keeps ?_
    | split | dsimp only

theorem State.dropHold_keeps {r s : State} {c : Nat} {w : HoldWhy} (h : Keeps r s) :
    Keeps r (State.dropHold s c w) := by
  unfold State.dropHold
  repeat' first
    | with_reducible exact h | with_reducible refine State.setCluster_keeps ?_

theorem State.fillQueue_keeps {r s : State} {p sq : Nat} {u : List (Byte × Bool)} (h : Keeps r s) :
    Keeps r (s.fillQueue p sq u) := by
  induction u generalizing s with
  | nil => exact h
  | cons x l ih => exact ih (State.setV_keeps (h.upd Mem.wf_setByte id id id id))

theorem State.spillRewind_keeps {r s : State} {q : Nat} (h : Keeps r s) :
    Keeps r (State.spillRewind s q) := by
  unfold State.spillRewind
  repeat' first
    | with_reducible exact h | with_reducible refine State.setSpill_keeps ?_

theorem State.padQueue_keeps {r s : State} {p : Nat} {sq : Nat} (h : Keeps r s) :
    Keeps r (State.padQueue s p sq) := by
  unfold State.padQueue
  repeat' first
    | with_reducible exact h | with_reducible refine State.fillQueue_keeps ?_ | with_reducible refine Keeps.ite ?_ ?_
    | dsimp only

theorem State.pourInto_keeps {r s : State} {p : Nat} {sq : Nat} {t : Thread} (h : Keeps r s) :
    Keeps r (State.pourInto s p sq t).1 := by
  unfold State.pourInto
  repeat' first
    | with_reducible exact h | with_reducible refine State.fillQueue_keeps ?_
    | with_reducible refine State.contendPad_keeps ?_ | with_reducible refine State.setV_keeps ?_

theorem State.scrubRead_keeps {r s : State} {n : Nat} {pch : Nat} {cls : Nat} (h : Keeps r s) :
    Keeps r (State.scrubRead s n pch cls) := by
  unfold State.scrubRead
  repeat' first
    | with_reducible exact h | with_reducible refine State.readGranule_keeps ?_
    | with_reducible refine State.sealGranule_keeps ?_ | with_reducible refine State.bump_keeps ?_
    | with_reducible refine Keeps.ite ?_ ?_ | dsimp only | with_reducible refine Keeps.upd ?_ id id id id id

theorem State.pullOut_keeps {r s : State} {p : Nat} {q : Nat} {n : Nat} (h : Keeps r s) :
    Keeps r (State.pullOut s p q n).1 := by
  unfold State.pullOut
  repeat' first
    | with_reducible exact h | with_reducible assumption | with_reducible refine State.contendPad_keeps ?_
    | with_reducible refine State.readScratch_keeps ?_ | with_reducible refine State.setV_keeps ?_
    | with_reducible refine foldl_keeps ?_ ?_ | intro _

theorem State.setThread_keeps {r s : State} {c : Nat} {t : Nat} {x : Thread} (h : Keeps r s) :
    Keeps r (State.setThread s c t x) := by
  unfold State.setThread
  repeat' first
    | with_reducible exact h | with_reducible refine State.setCluster_keeps ?_

theorem State.requestOne_keeps {r s z : State} {j : Nat} {c : Nat} {t : Nat} {seq : Nat}
    (e : State.requestOne s j c t seq = some z) (h : Keeps r s) : Keeps r z := by
  unfold State.requestOne at e
  dsimp only at e
  repeat' split at e
  all_goals first
    | cases e
    | skip
  all_goals first
    | exact State.setThread_keeps (State.setV_keeps h)
    | exact State.setThread_keeps h
    | exact State.setThread_keeps (State.pullOut_keeps h)

theorem State.requests_keeps {r s : State} {j c n : Nat} (h : Keeps r s) : Keeps r (s.requests j c n) := by
  induction n generalizing s with
  | zero => exact h
  | succ n ih =>
    unfold State.requests
    dsimp only
    split
    · exact h
    · rename_i t k e
      obtain ⟨i, -, q⟩ := List.exists_of_findSome?_eq_some e
      obtain ⟨u, hu, hk⟩ := Option.map_eq_some_iff.1 q
      cases hk
      exact ih (State.setCluster_keeps (State.requestOne_keeps hu h))

theorem State.scrubWrite_keeps {r s : State} {n : Nat} {pch : Nat} {cls : Nat} (h : Keeps r s) :
    Keeps r (State.scrubWrite s n pch cls) := by
  unfold State.scrubWrite
  repeat' first
    | with_reducible exact h | with_reducible refine State.sealGranule_keeps ?_ | split
    | with_reducible refine Keeps.upd ?_ id id id id id

theorem State.setFifo_keeps {r s : State} {n : Nat} {pch : Nat} {cls : Nat} {l : List Request} (h : Keeps r s) :
    Keeps r (State.setFifo s n pch cls l) := by
  unfold State.setFifo
  repeat' first
    | with_reducible exact h | with_reducible refine Keeps.upd ?_ id id id id id

theorem State.writeDone_keeps {r s : State} {r' : Request} (h : Keeps r s) :
    Keeps r (State.writeDone s r') := by
  unfold State.writeDone
  repeat' first
    | with_reducible exact h | with_reducible refine State.setThread_keeps ?_

theorem State.serve_keeps {r s : State} {n : Nat} {pch : Nat} {cls : Nat} {r' : Request} {rest : List Request} (h : Keeps r s) :
    Keeps r (State.serve s n pch cls r' rest) := by
  unfold State.serve
  repeat' first
    | with_reducible exact h | with_reducible refine State.setFifo_keeps ?_
    | with_reducible refine State.writeDone_keeps ?_ | with_reducible refine State.writeGranule_keeps ?_
    | with_reducible refine State.readGranule_keeps ?_ | with_reducible refine State.setThread_keeps ?_ | split

theorem execFifoJoin_keeps {r s : State} {n : StackId} {pch : Fin 32} {cls : Fin 32} (h : Keeps r s) :
    KeepsOut r (execFifoJoin n pch cls s) := by
  unfold execFifoJoin
  repeat' first
    | with_reducible exact h | with_reducible refine keepsOut_next ?_
    | with_reducible refine State.streamFault_keeps ?_ | with_reducible refine State.setThread_keeps ?_
    | with_reducible refine State.setFifo_keeps ?_ | split

theorem execGranuleDelivered_keeps {r s : State} {c : ClusterId} {thread : Fin 64} (h : Keeps r s) :
    KeepsOut r (execGranuleDelivered c thread s) := by
  unfold execGranuleDelivered
  repeat' first
    | with_reducible exact h | with_reducible refine keepsOut_next ?_ | with_reducible refine State.pourInto_keeps ?_
    | with_reducible refine State.setThread_keeps ?_ | with_reducible refine State.padQueue_keeps ?_ | split
    | dsimp only

theorem execGranuleRequest_keeps {r s : State} {c : ClusterId} (h : Keeps r s) :
    KeepsOut r (execGranuleRequest c s) := by
  unfold execGranuleRequest
  repeat' first
    | with_reducible exact h | with_reducible refine keepsOut_next ?_ | with_reducible refine State.requests_keeps ?_
    | with_reducible refine State.setCluster_keeps ?_ | split

theorem execHbmRefresh_keeps {r s : State} {n : StackId} {pch : Fin 32} {pos : Fin 192} (h : Keeps r s) :
    KeepsOut r (execHbmRefresh n pch pos s) := by
  unfold execHbmRefresh
  repeat' first
    | with_reducible exact h | with_reducible refine keepsOut_next ?_ | with_reducible refine State.countHot_keeps ?_
    | split | with_reducible refine Keeps.upd ?_ id id id id id

theorem execHbmSlotServe_keeps {r s : State} {n : StackId} {pch : Fin 32} {pos : Fin 192} (h : Keeps r s) :
    KeepsOut r (execHbmSlotServe n pch pos s) := by
  unfold execHbmSlotServe
  repeat' first
    | with_reducible exact h | with_reducible refine keepsOut_next ?_ | with_reducible refine State.countHot_keeps ?_
    | with_reducible refine State.scrubWrite_keeps ?_ | with_reducible refine State.scrubRead_keeps ?_
    | with_reducible refine State.bump_keeps ?_ | with_reducible refine State.setFifo_keeps ?_
    | with_reducible refine State.serve_keeps ?_ | split | dsimp only

theorem execHoldTimeout_keeps {r s : State} {c : ClusterId} (h : Keeps r s) :
    KeepsOut r (execHoldTimeout c s) := by
  unfold execHoldTimeout
  repeat' first
    | with_reducible exact h | with_reducible refine keepsOut_next ?_
    | with_reducible refine State.reportStop_keeps ?_ | split | dsimp only

theorem execOutboundEntryRead_keeps {r s : State} {c : ClusterId} {thread : Fin 64} (h : Keeps r s) :
    KeepsOut r (execOutboundEntryRead c thread s) := by
  unfold execOutboundEntryRead
  repeat' first
    | with_reducible exact h | with_reducible refine keepsOut_next ?_ | with_reducible refine State.setV_keeps ?_
    | split | dsimp only

theorem execPlannedEntryRelease_keeps {r s : State} {c : ClusterId} {thread : Fin 64} (h : Keeps r s) :
    KeepsOut r (execPlannedEntryRelease c thread s) := by
  unfold execPlannedEntryRelease
  repeat' first
    | with_reducible exact h | with_reducible refine keepsOut_next ?_
    | with_reducible refine State.setCluster_keeps ?_ | with_reducible refine State.countHold_keeps ?_
    | with_reducible refine State.addHold_keeps ?_ | with_reducible refine State.dropHold_keeps ?_
    | with_reducible refine State.setRxBytes_keeps ?_ | with_reducible refine State.setV_keeps ?_
    | with_reducible refine State.padQueue_keeps ?_ | with_reducible refine State.fillQueue_keeps ?_
    | with_reducible refine State.setThread_keeps ?_ | split | dsimp only

theorem execSpillqRead_keeps {r s : State} {q : Fin 128} (h : Keeps r s) :
    KeepsOut r (execSpillqRead q s) := by
  unfold execSpillqRead
  repeat' first
    | with_reducible exact h | with_reducible refine keepsOut_next ?_ | with_reducible refine State.spillPeek_keeps ?_
    | with_reducible refine State.setSpill_keeps ?_ | with_reducible refine keepsOut_ite ?_ ?_ | dsimp only

theorem execSpillqWrite_keeps {r s : State} {q : Fin 128} {data : List Byte} {poison : Bool} (h : Keeps r s) :
    KeepsOut r (execSpillqWrite q data poison s) := by
  unfold execSpillqWrite
  repeat' first
    | with_reducible exact h | with_reducible refine keepsOut_next ?_ | with_reducible refine State.spillPut_keeps ?_
    | with_reducible refine keepsOut_ite ?_ ?_

theorem execStreamDescriptorStart_keeps {r s : State} {c : ClusterId} {thread : Fin 64} (h : Keeps r s) :
    KeepsOut r (execStreamDescriptorStart c thread s) := by
  unfold execStreamDescriptorStart
  repeat' first
    | with_reducible exact h | with_reducible refine keepsOut_next ?_ | with_reducible refine State.pageFault_keeps ?_
    | with_reducible refine State.streamFault_keeps ?_ | with_reducible refine State.setThread_keeps ?_ | split
    | dsimp only

end Sys2Proof.Machine
end

