-- ==== Sys2Proof/Laws/KeepsPower.lean ====
section
/-! SUPPORT. What the operations of Machine/Power.lean keep. -/

namespace Sys2Proof.Machine

theorem State.setEntry_keeps {r s : State} {x : Option StateEntry} (h : Keeps r s) :
    Keeps r (State.setEntry s x) := by
  unfold State.setEntry
  repeat' first
    | with_reducible exact h | with_reducible refine Keeps.upd ?_ id id id id id

theorem State.abortTrigger_keeps {r s : State} (h : Keeps r s) :
    Keeps r (State.abortTrigger s) := by
  unfold State.abortTrigger
  repeat' first
    | with_reducible exact h | with_reducible refine State.setEntry_keeps ?_

theorem State.sleepCluster_keeps {r s : State} {c : Nat} (h : Keeps r s) :
    Keeps r (State.sleepCluster s c) := by
  unfold State.sleepCluster
  repeat' first
    | with_reducible exact h | with_reducible assumption | with_reducible refine State.setCore_keeps ?_
    | with_reducible refine State.loseChecks_keeps ?_ | with_reducible refine State.setCluster_keeps ?_
    | with_reducible refine foldl_keeps ?_ ?_ | intro _

theorem State.entryStep2_keeps {r s : State} (h : Keeps r s) :
    Keeps r (State.entryStep2 s) := by
  unfold State.entryStep2
  repeat' first
    | with_reducible exact h | with_reducible assumption | with_reducible refine State.sleepCluster_keeps ?_
    | with_reducible refine foldl_keeps ?_ ?_ | intro _ | with_reducible refine Keeps.ite ?_ ?_ | dsimp only
    | with_reducible refine Keeps.upd ?_ id id id id id

theorem State.entryStep3_keeps {r s : State} {standby : Bool} (h : Keeps r s) :
    Keeps r (State.entryStep3 s standby) := by
  unfold State.entryStep3
  repeat' first
    | with_reducible exact h | with_reducible assumption | with_reducible refine State.refreshSch_keeps ?_
    | with_reducible refine State.setFlag_keeps ?_ | with_reducible refine foldl_keeps ?_ ?_ | intro _ | dsimp only
    | with_reducible refine Keeps.upd ?_ id id id id id

theorem State.entryStep4_keeps {r s : State} {standby : Bool} (h : Keeps r s) :
    Keeps r (State.entryStep4 s standby) := by
  unfold State.entryStep4
  repeat' first
    | with_reducible exact h | with_reducible refine State.wr_keeps ?_

theorem State.entryStep5_keeps {r s : State} {standby : Bool} (h : Keeps r s) :
    Keeps r (State.entryStep5 s standby) := by
  unfold State.entryStep5
  repeat' first
    | with_reducible exact h | with_reducible assumption | with_reducible refine State.resetNonAon_keeps ?_
    | with_reducible refine State.setRail_keeps ?_ | with_reducible refine State.refreshRails_keeps ?_
    | with_reducible refine State.setPwrState_keeps ?_ | with_reducible refine State.resetCluster_keeps ?_
    | with_reducible refine State.resetBlock_keeps ?_ | with_reducible refine State.wr_keeps ?_
    | with_reducible refine foldl_keeps ?_ ?_ | intro _ | with_reducible refine Keeps.ite ?_ ?_
    | with_reducible refine Keeps.upd ?_ id id id id id

theorem State.startWake_keeps {r s : State} {standby : Bool} (h : Keeps r s) :
    Keeps r (State.startWake s standby) := by
  unfold State.startWake
  repeat' first
    | with_reducible exact h | with_reducible refine State.startRails_keeps ?_
    | with_reducible refine State.setPwrState_keeps ?_ | with_reducible refine Keeps.ite ?_ ?_
    | with_reducible refine Keeps.upd ?_ id id id id id

theorem State.wakeCluster_keeps {r s : State} {c : Nat} (h : Keeps r s) :
    Keeps r (State.wakeCluster s c) := by
  unfold State.wakeCluster
  repeat' first
    | with_reducible exact h | with_reducible refine State.setCluster_keeps ?_

theorem State.undoEntry_keeps {r s : State} {x : StateEntry} (h : Keeps r s) :
    Keeps r (State.undoEntry s x) := by
  unfold State.undoEntry
  repeat' first
    | with_reducible exact h | with_reducible assumption | with_reducible refine State.setFld_keeps ?_
    | with_reducible refine State.setFlag_keeps ?_ | with_reducible refine State.wakeCluster_keeps ?_
    | with_reducible refine State.refreshSch_keeps ?_ | with_reducible refine State.setEntry_keeps ?_
    | with_reducible refine State.setPwrState_keeps ?_ | with_reducible refine foldl_keeps ?_ ?_ | intro _
    | with_reducible refine State.startWake_keeps ?_ | with_reducible refine Keeps.ite ?_ ?_ | with_reducible refine Keeps.upd ?_ id id id id id

theorem State.entryTick_keeps {r s : State} (h : Keeps r s) :
    Keeps r (State.entryTick s) := by
  unfold State.entryTick
  repeat' first
    | with_reducible exact h | with_reducible refine State.undoEntry_keeps ?_
    | with_reducible refine State.bump_keeps ?_ | with_reducible refine State.setEntry_keeps ?_
    | with_reducible refine State.entryStep3_keeps ?_ | with_reducible refine State.entryStep4_keeps ?_
    | with_reducible refine State.entryStep5_keeps ?_ | with_reducible refine State.startWake_keeps ?_ | split

theorem State.refreshThrot_keeps {r s : State} (h : Keeps r s) :
    Keeps r (State.refreshThrot s) := by
  unfold State.refreshThrot
  repeat' first
    | with_reducible exact h | with_reducible assumption | with_reducible refine State.setFld_keeps ?_
    | with_reducible refine foldl_keeps ?_ ?_ | intro _

theorem State.setLoopH_keeps {r s : State} {d : Nat} {n : Nat} (h : Keeps r s) :
    Keeps r (State.setLoopH s d n) := by
  unfold State.setLoopH
  repeat' first
    | with_reducible exact h | with_reducible refine State.setFld_keeps ?_

theorem State.escalate_keeps {r s : State} {r' : Nat} (h : Keeps r s) :
    Keeps r (State.escalate s r') := by
  unfold State.escalate
  repeat' first
    | with_reducible exact h | with_reducible assumption | with_reducible refine State.refreshThrot_keeps ?_
    | with_reducible refine State.setLoopH_keeps ?_ | with_reducible refine foldl_keeps ?_ ?_ | intro _
    | with_reducible refine Keeps.ite ?_ ?_ | dsimp only | with_reducible refine Keeps.upd ?_ id id id id id

theorem State.refuseState_keeps {r s : State} {e : Nat} (h : Keeps r s) :
    Keeps r (State.refuseState s e) := by
  unfold State.refuseState
  repeat' first
    | with_reducible exact h | with_reducible refine State.bump_keeps ?_ | with_reducible refine State.setFld_keeps ?_

theorem State.startEntry_keeps {r s : State} {standby : Bool} (h : Keeps r s) :
    Keeps r (State.startEntry s standby) := by
  unfold State.startEntry
  repeat' first
    | with_reducible exact h | with_reducible refine State.setEntry_keeps ?_
    | with_reducible refine State.setPwrState_keeps ?_ | with_reducible refine State.entryStep4_keeps ?_
    | with_reducible refine State.entryStep2_keeps ?_ | split

theorem State.requestState_keeps {r s : State} {target : Nat} (h : Keeps r s) :
    Keeps r (State.requestState s target) := by
  unfold State.requestState
  repeat' first
    | with_reducible exact h | with_reducible refine State.refuseState_keeps ?_
    | with_reducible refine State.abortTrigger_keeps ?_ | with_reducible refine State.startWake_keeps ?_
    | with_reducible refine State.startEntry_keeps ?_ | split

theorem State.setThermH_keeps {r s : State} {d : Nat} {n : Nat} (h : Keeps r s) :
    Keeps r (State.setThermH s d n) := by
  unfold State.setThermH
  repeat' first
    | with_reducible exact h | with_reducible refine State.setFld_keeps ?_

theorem State.setHot_keeps {r s : State} {b : Bool} (h : Keeps r s) :
    Keeps r (State.setHot s b) := by
  unfold State.setHot
  repeat' first
    | with_reducible exact h | with_reducible refine Keeps.upd ?_ id id id id id

theorem State.thermNote_keeps {r s : State} {code : Nat} {sensor : Nat} {tj : Int} (h : Keeps r s) :
    Keeps r (State.thermNote s code sensor tj) := by
  unfold State.thermNote
  repeat' first
    | with_reducible exact h | with_reducible refine State.note_keeps ?_

theorem State.limitHit_keeps {r s : State} {n : Nat} (h : Keeps r s) :
    Keeps r (State.limitHit s n) := by
  unfold State.limitHit
  repeat' first
    | with_reducible exact h | with_reducible assumption | with_reducible refine State.setThermH_keeps ?_
    | with_reducible refine State.setHot_keeps ?_ | with_reducible refine State.refreshThrot_keeps ?_
    | with_reducible refine State.thermNote_keeps ?_ | with_reducible refine foldl_keeps ?_ ?_ | intro _
    | with_reducible refine Keeps.ite ?_ ?_

theorem State.refreshTherm_keeps {r s : State} (h : Keeps r s) :
    Keeps r (State.refreshTherm s) := by
  unfold State.refreshTherm
  repeat' first
    | with_reducible exact h | with_reducible refine State.setFld_keeps ?_
    | with_reducible refine State.setFlag_keeps ?_

theorem State.warnNote_keeps {r s : State} {w : Warn} {action : Nat} {ns : Nat} {reset : Bool} (h : Keeps r s) :
    Keeps r (State.warnNote s w action ns reset) := by
  unfold State.warnNote
  repeat' first
    | with_reducible exact h | with_reducible refine State.report_keeps ?_

theorem State.resetLevel_keeps {r s : State} {r' : Nat} {stack : Nat} {w : Warn} (h : Keeps r s) :
    Keeps r (State.resetLevel s r' stack w) := by
  unfold State.resetLevel
  repeat' first
    | with_reducible exact h | with_reducible assumption | with_reducible refine State.refreshRails_keeps ?_
    | with_reducible refine State.dipDie_keeps ?_ | with_reducible refine State.warnNote_keeps ?_
    | with_reducible refine State.dipStack_keeps ?_ | with_reducible refine State.startBoot_keeps ?_
    | with_reducible refine State.chipReset_keeps ?_ | with_reducible refine foldl_keeps ?_ ?_ | intro _ | split
    | with_reducible refine Keeps.upd ?_ id id id id id

theorem State.setLimH_keeps {r s : State} {d : Nat} {n : Nat} (h : Keeps r s) :
    Keeps r (State.setLimH s d n) := by
  unfold State.setLimH
  repeat' first
    | with_reducible exact h | with_reducible refine State.setFld_keeps ?_

theorem State.setTemp_keeps {r s : State} {n : Nat} {t : Int} (h : Keeps r s) :
    Keeps r (State.setTemp s n t) := by
  unfold State.setTemp
  repeat' first
    | with_reducible exact h | with_reducible refine Keeps.upd ?_ id id id id id

theorem State.thermNotes_keeps {r s : State} {code : Nat} {l : List Nat} (h : Keeps r s) :
    Keeps r (State.thermNotes s code l) := by
  unfold State.thermNotes
  repeat' first
    | with_reducible exact h | with_reducible assumption | with_reducible refine State.thermNote_keeps ?_
    | with_reducible refine foldl_keeps ?_ ?_ | intro _

theorem State.warn_keeps {r s : State} {r' : Nat} {stack : Nat} {mv : Nat} (h : Keeps r s) :
    Keeps r (State.warn s r' stack mv) := by
  unfold State.warn
  repeat' first
    | with_reducible exact h | with_reducible refine State.bump_keeps ?_
    | with_reducible refine State.refreshRails_keeps ?_ | with_reducible refine State.abortTrigger_keeps ?_
    | with_reducible refine State.escalate_keeps ?_ | with_reducible refine Keeps.ite ?_ ?_
    | with_reducible refine Keeps.upd ?_ id id id id id

theorem execCapLoopTick_keeps {r s : State} {watts : W16} (h : Keeps r s) :
    KeepsOut r (execCapLoopTick watts s) := by
  unfold execCapLoopTick
  repeat' first
    | with_reducible exact h | with_reducible assumption | with_reducible refine keepsOut_next ?_
    | with_reducible refine State.setFld_keeps ?_ | with_reducible refine State.draw_keeps ?_
    | with_reducible refine State.setLoopH_keeps ?_ | with_reducible refine State.refreshThrot_keeps ?_
    | with_reducible refine foldl_keeps ?_ ?_ | intro _ | with_reducible refine keepsOut_ite ?_ ?_
    | with_reducible refine Keeps.upd ?_ id id id id id

theorem execCapRecalibrate_keeps {r s : State} {watts : W16} (h : Keeps r s) :
    KeepsOut r (execCapRecalibrate watts s) := by
  unfold execCapRecalibrate
  repeat' first
    | with_reducible exact h | with_reducible refine keepsOut_next ?_ | with_reducible refine keepsOut_ite ?_ ?_
    | with_reducible refine Keeps.upd ?_ id id id id id

theorem execClusterSleep_keeps {r s : State} {c : ClusterId} (h : Keeps r s) :
    KeepsOut r (execClusterSleep c s) := by
  unfold execClusterSleep
  repeat' first
    | with_reducible exact h | with_reducible refine keepsOut_next ?_
    | with_reducible refine State.sleepCluster_keeps ?_ | with_reducible refine keepsOut_ite ?_ ?_ | dsimp only

theorem execClusterWake_keeps {r s : State} {c : ClusterId} (h : Keeps r s) :
    KeepsOut r (execClusterWake c s) := by
  unfold execClusterWake
  repeat' first
    | with_reducible exact h | with_reducible refine keepsOut_next ?_
    | with_reducible refine State.wakeCluster_keeps ?_ | with_reducible refine keepsOut_ite ?_ ?_ | dsimp only

theorem execEscalationTimeout_keeps {r s : State} {rail : Fin 13} (h : Keeps r s) :
    KeepsOut r (execEscalationTimeout rail s) := by
  unfold execEscalationTimeout
  repeat' first
    | with_reducible exact h | with_reducible refine keepsOut_next ?_
    | with_reducible refine State.resetLevel_keeps ?_ | split

theorem execLimiterReleaseCheck_keeps {r s : State} {d : Fin 4} {amps : W16} (h : Keeps r s) :
    KeepsOut r (execLimiterReleaseCheck d amps s) := by
  unfold execLimiterReleaseCheck
  repeat' first
    | with_reducible exact h | with_reducible refine keepsOut_next ?_
    | with_reducible refine State.refreshThrot_keeps ?_ | with_reducible refine State.setLimH_keeps ?_
    | with_reducible refine keepsOut_ite ?_ ?_

theorem execLimiterTripCheck_keeps {r s : State} {d : Fin 4} {amps : W16} (h : Keeps r s) :
    KeepsOut r (execLimiterTripCheck d amps s) := by
  unfold execLimiterTripCheck
  repeat' first
    | with_reducible exact h | with_reducible refine keepsOut_next ?_
    | with_reducible refine State.refreshThrot_keeps ?_ | with_reducible refine State.setLimH_keeps ?_
    | with_reducible refine keepsOut_ite ?_ ?_

theorem execRailResetLevel_keeps {r s : State} {rail : Fin 13} {stack : StackId} {mv : W16} (h : Keeps r s) :
    KeepsOut r (execRailResetLevel rail stack mv s) := by
  unfold execRailResetLevel
  repeat' first
    | with_reducible exact h | with_reducible refine keepsOut_next ?_
    | with_reducible refine State.resetLevel_keeps ?_ | with_reducible refine keepsOut_ite ?_ ?_

theorem execStatereqDeep_keeps {r s : State} (h : Keeps r s) :
    KeepsOut r (execStatereqDeep s) := by
  unfold execStatereqDeep
  repeat' first
    | with_reducible exact h | with_reducible refine keepsOut_next ?_
    | with_reducible refine State.requestState_keeps ?_

theorem execStatereqOn_keeps {r s : State} (h : Keeps r s) :
    KeepsOut r (execStatereqOn s) := by
  unfold execStatereqOn
  repeat' first
    | with_reducible exact h | with_reducible refine keepsOut_next ?_
    | with_reducible refine State.requestState_keeps ?_

theorem execStatereqStandby_keeps {r s : State} (h : Keeps r s) :
    KeepsOut r (execStatereqStandby s) := by
  unfold execStatereqStandby
  repeat' first
    | with_reducible exact h | with_reducible refine keepsOut_next ?_
    | with_reducible refine State.requestState_keeps ?_

theorem execStretchEnd_keeps {r s : State} {rail : Fin 13} {durationNs : W64} (h : Keeps r s) :
    KeepsOut r (execStretchEnd rail durationNs s) := by
  unfold execStretchEnd
  repeat' first
    | with_reducible exact h | with_reducible assumption | with_reducible refine keepsOut_next ?_
    | with_reducible refine State.bump_keeps ?_ | with_reducible refine State.refreshRails_keeps ?_
    | with_reducible refine State.warnNote_keeps ?_ | with_reducible refine foldl_keeps ?_ ?_ | intro _
    | with_reducible refine Keeps.ite ?_ ?_ | with_reducible refine keepsOut_ite ?_ ?_ | dsimp only
    | with_reducible refine Keeps.upd ?_ id id id id id

theorem execSupplyWarning_keeps {r s : State} {rail : Fin 13} {stack : StackId} {mv : W16} (h : Keeps r s) :
    KeepsOut r (execSupplyWarning rail stack mv s) := by
  unfold execSupplyWarning
  repeat' first
    | with_reducible exact h | with_reducible refine keepsOut_next ?_ | with_reducible refine State.warn_keeps ?_
    | with_reducible refine keepsOut_ite ?_ ?_ | with_reducible refine Keeps.upd ?_ id id id id id

theorem execThermalLimit_keeps {r s : State} {sensor : Fin 80} {tj : Int} (h : Keeps r s) :
    KeepsOut r (execThermalLimit sensor tj s) := by
  unfold execThermalLimit
  repeat' first
    | with_reducible exact h | with_reducible refine keepsOut_next ?_
    | with_reducible refine State.refreshAlert_keeps ?_ | with_reducible refine State.limitHit_keeps ?_
    | with_reducible refine State.refreshTherm_keeps ?_ | with_reducible refine State.setTemp_keeps ?_
    | with_reducible refine keepsOut_ite ?_ ?_

theorem execThermalStep_keeps {r s : State} {readings : List Int} (h : Keeps r s) :
    KeepsOut r (execThermalStep readings s) := by
  unfold execThermalStep
  repeat' first
    | with_reducible exact h | with_reducible assumption | with_reducible refine keepsOut_next ?_
    | with_reducible refine State.refreshTherm_keeps ?_ | with_reducible refine State.setTemp_keeps ?_
    | with_reducible refine State.setHot_keeps ?_ | with_reducible refine State.limitHit_keeps ?_
    | with_reducible refine State.setThermH_keeps ?_ | with_reducible refine State.refreshAlert_keeps ?_
    | with_reducible refine State.refreshThrot_keeps ?_ | with_reducible refine State.thermNotes_keeps ?_
    | with_reducible refine foldl_keeps ?_ ?_ | intro _ | split

theorem execThermtrip_keeps {r s : State} {sensor : Fin 80} {tj : Int} (h : Keeps r s) :
    KeepsOut r (execThermtrip sensor tj s) := by
  unfold execThermtrip
  repeat' first
    | with_reducible exact h | with_reducible refine keepsOut_next ?_ | with_reducible refine State.setFlag_keeps ?_
    | with_reducible refine State.refreshTherm_keeps ?_ | with_reducible refine State.setTemp_keeps ?_
    | with_reducible refine State.resetNonAon_keeps ?_ | with_reducible refine State.setFwUp_keeps ?_
    | with_reducible refine State.refreshRails_keeps ?_ | with_reducible refine keepsOut_ite ?_ ?_
    | with_reducible refine Keeps.upd ?_ id id id id id

theorem execThrottleWindow_keeps {r s : State} {d : Fin 4} {clkInWindow : Fin 64} (h : Keeps r s) :
    KeepsOut r (execThrottleWindow d clkInWindow s) := by
  unfold execThrottleWindow
  repeat' first
    | with_reducible exact h | with_reducible assumption | with_reducible refine keepsOut_next ?_
    | with_reducible refine State.addHold_keeps ?_ | with_reducible refine State.countHold_keeps ?_
    | with_reducible refine State.dropHold_keeps ?_ | with_reducible refine foldl_keeps ?_ ?_ | intro _
    | with_reducible refine Keeps.ite ?_ ?_ | dsimp only

theorem execWarningEscalation_keeps {r s : State} {rail : Fin 13} (h : Keeps r s) :
    KeepsOut r (execWarningEscalation rail s) := by
  unfold execWarningEscalation
  repeat' first
    | with_reducible exact h | with_reducible refine keepsOut_next ?_ | with_reducible refine State.escalate_keeps ?_
    | with_reducible refine keepsOut_ite ?_ ?_

end Sys2Proof.Machine
end

