-- ==== Sys2Proof/Laws/KeepsSplice.lean ====
section
/-! SUPPORT. What the operations of Machine/Splice.lean keep. -/

namespace Sys2Proof.Machine

theorem State.addRepair_keeps {r s : State} {r' : Repair} (h : Keeps r s) :
    Keeps r (State.addRepair s r') := by
  unfold State.addRepair
  repeat' first
    | with_reducible exact h | with_reducible refine State.bump_keeps ?_ | split
    | with_reducible refine Keeps.upd ?_ id id id id id

theorem State.ageTasks_keeps {r s : State} {j : Nat} {done : List Nat} (h : Keeps r s) :
    Keeps r (State.ageTasks s j done) := by
  unfold State.ageTasks
  repeat' first
    | with_reducible exact h | with_reducible refine State.setJob_keeps ?_

theorem State.setChipMode_keeps {r s : State} {i : Nat} (h : Keeps r s) :
    Keeps r (State.setChipMode s i) := by
  unfold State.setChipMode
  repeat' first
    | with_reducible exact h | with_reducible assumption | with_reducible refine State.setFlag_keeps ?_
    | with_reducible refine State.setFld_keeps ?_ | with_reducible refine foldl_keeps ?_ ?_ | intro _
    | with_reducible refine Keeps.ite ?_ ?_ | dsimp only

theorem State.applyChip_keeps {r s : State} {i : Nat} (h : Keeps r s) :
    Keeps r (State.applyChip s i) := by
  unfold State.applyChip
  repeat' first
    | with_reducible exact h | with_reducible refine State.setChipMode_keeps ?_
    | with_reducible refine State.event_keeps ?_ | with_reducible refine State.settleStrand_keeps ?_ | split
    | dsimp only | with_reducible refine Keeps.upd ?_ id id id id id

theorem State.applyPeers_keeps {r s : State} {j : Nat} (h : Keeps r s) :
    Keeps r (State.applyPeers s j) := by
  unfold State.applyPeers
  repeat' first
    | with_reducible exact h | with_reducible assumption | with_reducible refine State.writeHbm_keeps ?_
    | with_reducible refine State.setFlag_keeps ?_ | with_reducible refine State.setFld_keeps ?_
    | with_reducible refine State.reopenConn_keeps ?_ | with_reducible refine State.finish_keeps ?_
    | with_reducible refine foldl_keeps ?_ ?_ | intro _ | split | with_reducible refine Keeps.upd ?_ id id id id id

theorem State.bindPending_keeps {r s : State} {j : Nat} {g : Program} (h : Keeps r s) :
    Keeps r (State.bindPending s j g) := by
  unfold State.bindPending
  repeat' first
    | with_reducible exact h | with_reducible refine State.recordBind_keeps ?_
    | with_reducible refine State.setJob_keeps ?_ | with_reducible refine State.finish_keeps ?_
    | with_reducible refine State.bindProgram_keeps ?_ | split | dsimp only
    | with_reducible refine Keeps.upd ?_ id id id id id

theorem State.rotate_keeps {r s : State} {p : Nat} (h : Keeps r s) :
    Keeps r (State.rotate s p) := by
  unfold State.rotate
  repeat' first
    | with_reducible exact h | with_reducible refine State.bump_keeps ?_ | with_reducible refine State.setFld_keeps ?_
    | with_reducible refine State.setFlag_keeps ?_

theorem State.lastFail_keeps {r s : State} {kind : Nat} {func : Nat} {unit : Nat} {row : Nat} (h : Keeps r s) :
    Keeps r (State.lastFail s kind func unit row) := by
  unfold State.lastFail
  repeat' first
    | with_reducible exact h | with_reducible refine State.setFld_keeps ?_
    | with_reducible refine State.setFlag_keeps ?_ | with_reducible refine Keeps.ite ?_ ?_ | dsimp only

theorem State.pinHole_keeps {r s : State} {p : Nat} (h : Keeps r s) :
    Keeps r (State.pinHole s p) := by
  unfold State.pinHole
  repeat' first
    | with_reducible exact h | with_reducible refine State.addRepair_keeps ?_
    | with_reducible refine State.lastFail_keeps ?_ | with_reducible refine State.setFlag_keeps ?_

theorem State.slice_keeps {r s : State} {p : Nat} {bad : Bool} (h : Keeps r s) :
    Keeps r (State.slice s p bad) := by
  unfold State.slice
  repeat' first
    | with_reducible exact h | with_reducible refine State.rotate_keeps ?_
    | with_reducible refine State.pinHole_keeps ?_ | with_reducible refine Keeps.ite ?_ ?_ | dsimp only
    | with_reducible refine Keeps.upd ?_ id id id id id

theorem State.bistTurn_keeps {r s : State} {j : Nat} {bad : List Nat} (h : Keeps r s) :
    Keeps r (State.bistTurn s j bad) := by
  unfold State.bistTurn
  repeat' first
    | with_reducible exact h | with_reducible assumption | with_reducible refine State.slice_keeps ?_
    | with_reducible refine State.bump_keeps ?_ | with_reducible refine foldl_keeps ?_ ?_ | intro _

theorem State.drainLedger_keeps {r s : State} {j : Nat} {e : Splice} {b : List Byte} (h : Keeps r s) :
    Keeps r (State.drainLedger s j e b) := by
  unfold State.drainLedger
  repeat' first
    | with_reducible exact h | with_reducible assumption | with_reducible refine State.setJob_keeps ?_
    | with_reducible refine State.drainSlot_keeps ?_ | with_reducible refine foldl_keeps ?_ ?_ | intro _
    | with_reducible refine Keeps.upd ?_ id id id id id

theorem State.dropEntries_keeps {r s : State} {j : Nat} {c : Nat} {vc : Nat} {v : VCore} (h : Keeps r s) :
    Keeps r (State.dropEntries s j c vc v).1 := by
  unfold State.dropEntries
  repeat' first
    | with_reducible exact h | with_reducible assumption | with_reducible refine State.countDiscard_keeps ?_
    | with_reducible refine foldl_keeps ?_ ?_ | intro _

theorem State.dropInbound_keeps {r s : State} {j : Nat} {c : Nat} (h : Keeps r s) :
    Keeps r (State.dropInbound s j c) := by
  unfold State.dropInbound
  repeat' first
    | with_reducible exact h | with_reducible assumption | with_reducible refine State.onVCores_keeps ?_ ?_
    | with_reducible refine State.dropEntries_keeps ?_ | with_reducible refine State.countDiscard_keeps ?_
    | with_reducible refine State.setRxBytes_keeps ?_ | with_reducible refine State.setCluster_keeps ?_
    | with_reducible refine foldl_keeps ?_ ?_ | intro _ | split

theorem State.dropRequests_keeps {r s : State} {j : Nat} (h : Keeps r s) :
    Keeps r (State.dropRequests s j) := by
  unfold State.dropRequests
  repeat' first
    | with_reducible exact h | with_reducible refine Keeps.upd ?_ id id id id id

theorem State.endRoundStreams_keeps {r s : State} {c : Nat} (h : Keeps r s) :
    Keeps r (State.endRoundStreams s c) := by
  unfold State.endRoundStreams
  repeat' first
    | with_reducible exact h | with_reducible refine State.setCluster_keeps ?_
    | with_reducible refine Keeps.upd ?_ id id id id id

theorem State.dropRound_keeps {r s : State} {j : Nat} {c : Nat} (h : Keeps r s) :
    Keeps r (State.dropRound s j c) := by
  unfold State.dropRound
  repeat' first
    | with_reducible exact h | with_reducible assumption | with_reducible refine State.endRoundStreams_keeps ?_
    | with_reducible refine State.dropEntries_keeps ?_ | with_reducible refine State.setV_keeps ?_
    | with_reducible refine foldl_keeps ?_ ?_ | intro _ | split

theorem State.dropUncompared_keeps {r s : State} {j : Nat} {n : Nat} {a : Nat} (h : Keeps r s) :
    Keeps r (State.dropUncompared s j n a) := by
  unfold State.dropUncompared
  repeat' first
    | with_reducible exact h | with_reducible assumption | with_reducible refine State.setCluster_keeps ?_
    | with_reducible refine State.bump_keeps ?_ | with_reducible refine foldl_keeps ?_ ?_ | intro _

theorem State.endStep_keeps {r s : State} {j : Nat} (h : Keeps r s) :
    Keeps r (State.endStep s j) := by
  unfold State.endStep
  repeat' first
    | with_reducible exact h | with_reducible assumption | with_reducible refine State.dropUncompared_keeps ?_
    | with_reducible refine State.onVCores_keeps ?_ ?_ | with_reducible refine State.setJob_keeps ?_ | intro _

theorem State.faultStuck_keeps {r s : State} {j : Nat} {cs : List Nat} {last : Bool} (h : Keeps r s) :
    Keeps r (State.faultStuck s j cs last) := by
  unfold State.faultStuck
  repeat' first
    | with_reducible exact h | with_reducible refine State.streamFault_keeps ?_ | split

theorem State.finishHalo_keeps {r s : State} {j : Nat} (h : Keeps r s) :
    Keeps r (State.finishHalo s j) := by
  unfold State.finishHalo
  repeat' first
    | with_reducible exact h | with_reducible refine State.haloCopy_keeps ?_ | split

theorem State.latchJob_keeps {r s : State} {j : Nat} (h : Keeps r s) :
    Keeps r (State.latchJob s j) := by
  unfold State.latchJob
  repeat' first
    | with_reducible exact h | with_reducible assumption | with_reducible refine State.latchCluster_keeps ?_
    | with_reducible refine State.latchCore_keeps ?_ | with_reducible refine State.setJob_keeps ?_
    | with_reducible refine foldl_keeps ?_ ?_ | intro _ | with_reducible refine Keeps.upd ?_ id id id id id

theorem State.newClock_keeps {r s : State} {c : Nat} (h : Keeps r s) :
    Keeps r (State.newClock s c) := by
  unfold State.newClock
  repeat' first
    | with_reducible exact h | with_reducible assumption | with_reducible refine State.setCore_keeps ?_
    | with_reducible refine State.setCluster_keeps ?_ | with_reducible refine foldl_keeps ?_ ?_ | intro _

theorem State.retirePages_keeps {r s : State} (h : Keeps r s) :
    Keeps r (State.retirePages s) := by
  unfold State.retirePages
  repeat' first
    | with_reducible exact h | with_reducible assumption | with_reducible refine State.setPage_keeps ?_
    | with_reducible refine State.fenceNote_keeps ?_ | with_reducible refine foldl_keeps ?_ ?_ | intro _
    | with_reducible refine Keeps.upd ?_ id id id id id

theorem State.readStack_keeps {r s : State} {n : Nat} (h : Keeps r s) :
    Keeps r (State.readStack s n) := by
  unfold State.readStack
  repeat' first
    | with_reducible exact h | with_reducible refine State.draw_keeps ?_ | with_reducible refine State.bump_keeps ?_
    | with_reducible refine Keeps.ite ?_ ?_ | with_reducible refine Keeps.upd ?_ id id id id id

theorem State.openSplice_keeps {r s : State} {j : Nat} {sidx : Nat} {binding : Bool} (h : Keeps r s) :
    Keeps r (State.openSplice s j sidx binding) := by
  unfold State.openSplice
  repeat' first
    | with_reducible exact h | with_reducible assumption | with_reducible refine State.setJob_keeps ?_
    | with_reducible refine State.sampleRings_keeps ?_ | with_reducible refine State.latchJob_keeps ?_
    | with_reducible refine State.retirePages_keeps ?_ | with_reducible refine State.readStack_keeps ?_
    | with_reducible refine foldl_keeps ?_ ?_ | intro _ | with_reducible refine Keeps.ite ?_ ?_

theorem State.scrubReads_keeps {r s : State} {n k : Nat} (h : Keeps r s) : Keeps r (State.scrubReads n k s) := by
  induction k generalizing s with
  | zero => exact h
  | succ k ih => exact ih (State.scrubRead_keeps h)

theorem State.scrubTurn_keeps {r s : State} (h : Keeps r s) :
    Keeps r (State.scrubTurn s) := by
  unfold State.scrubTurn
  repeat' first
    | with_reducible exact h | with_reducible assumption | with_reducible refine State.sealGranule_keeps ?_
    | with_reducible refine State.draw_keeps ?_ | with_reducible refine State.scrubReads_keeps ?_
    | with_reducible refine foldl_keeps ?_ ?_ | intro _ | with_reducible refine Keeps.upd ?_ id id id id id

theorem State.serveTask_keeps {r s : State} {j : Nat} {t : Nat} {bad : List Nat} (h : Keeps r s) :
    Keeps r (State.serveTask s j t bad) := by
  unfold State.serveTask
  repeat' first
    | with_reducible exact h | with_reducible refine State.draw_keeps ?_
    | with_reducible refine State.drainShadows_keeps ?_ | with_reducible refine State.drainLog_keeps ?_
    | with_reducible refine State.scrubTurn_keeps ?_ | with_reducible refine State.bistTurn_keeps ?_
    | with_reducible refine State.haloCopy_keeps ?_ | split

theorem State.promoteTask_keeps {r s : State} {j : Nat} {t : Nat} {bad : List Nat} (h : Keeps r s) :
    Keeps r (State.promoteTask s j t bad) := by
  unfold State.promoteTask
  repeat' first
    | with_reducible exact h | with_reducible refine State.serveTask_keeps ?_
    | with_reducible refine State.bump_keeps ?_ | with_reducible refine State.note_keeps ?_

theorem State.rephase_keeps {r s : State} (h : Keeps r s) :
    Keeps r (State.rephase s) := by
  unfold State.rephase
  repeat' first
    | with_reducible exact h | dsimp only | with_reducible refine Keeps.upd ?_ id id id id id

theorem State.roundFills_keeps {r s : State} {c : Nat} (h : Keeps r s) :
    Keeps r (State.roundFills s c) := by
  unfold State.roundFills
  repeat' first
    | with_reducible exact h | with_reducible assumption | with_reducible refine beginFills_keeps ?_
    | with_reducible refine foldl_keeps ?_ ?_ | intro _

theorem State.startPromoted_keeps {r s : State} {j : Nat} (h : Keeps r s) :
    Keeps r (State.startPromoted s j) := by
  unfold State.startPromoted
  repeat' first
    | with_reducible exact h | with_reducible refine State.note_keeps ?_ | with_reducible refine State.bump_keeps ?_
    | with_reducible refine State.setJob_keeps ?_ | with_reducible refine Keeps.ite ?_ ?_

theorem State.serveGates_keeps {r s : State} {j : Nat} (h : Keeps r s) :
    Keeps r (State.serveGates s j) := by
  unfold State.serveGates
  repeat' first
    | with_reducible exact h | with_reducible refine State.sampleRings_keeps ?_
    | with_reducible refine State.setJob_keeps ?_ | with_reducible refine State.finishHalo_keeps ?_
    | with_reducible refine State.drainShadows_keeps ?_ | with_reducible refine State.flushRecords_keeps ?_
    | with_reducible refine State.startPromoted_keeps ?_ | with_reducible refine Keeps.ite ?_ ?_ | dsimp only

theorem State.spliceWait_keeps {r s : State} {n : Nat} (h : Keeps r s) :
    Keeps r (State.spliceWait s n) := by
  unfold State.spliceWait
  repeat' first
    | with_reducible exact h | with_reducible refine State.bump_keeps ?_

theorem State.startSpan_keeps {r s : State} {j : Nat} (h : Keeps r s) :
    Keeps r (State.startSpan s j) := by
  unfold State.startSpan
  repeat' first
    | with_reducible exact h | with_reducible assumption | with_reducible refine State.onVCores_keeps ?_ ?_
    | with_reducible refine State.applyStrands_keeps ?_ | with_reducible refine State.bump_keeps ?_
    | with_reducible refine State.roundFills_keeps ?_ | with_reducible refine State.newClock_keeps ?_
    | with_reducible refine State.setCluster_keeps ?_ | with_reducible refine State.setJob_keeps ?_
    | with_reducible refine foldl_keeps ?_ ?_ | intro _ | with_reducible refine Keeps.ite ?_ ?_

theorem State.turns_keeps {r s : State} {j : Nat} {bg : Nat} {bad : List Nat} {done : List Nat} (h : Keeps r s) :
    Keeps r (State.turns s j bg bad done).1 := by
  unfold State.turns
  repeat' first
    | with_reducible exact h | with_reducible assumption | with_reducible refine State.draw_keeps ?_
    | with_reducible refine State.serveTask_keeps ?_ | with_reducible refine State.setJob_keeps ?_
    | with_reducible refine foldl_keeps ?_ ?_ | intro _ | split

theorem execChipModeApply_keeps {r s : State} (h : Keeps r s) :
    KeepsOut r (execChipModeApply s) := by
  unfold execChipModeApply
  repeat' first
    | with_reducible exact h | with_reducible refine keepsOut_next ?_ | with_reducible refine State.applyChip_keeps ?_
    | split | dsimp only

theorem execGatesOpen_keeps {r s : State} {j : JobId} (h : Keeps r s) :
    KeepsOut r (execGatesOpen j s) := by
  unfold execGatesOpen
  repeat' first
    | with_reducible exact h | with_reducible refine keepsOut_next ?_
    | with_reducible refine State.reportStop_keeps ?_ | with_reducible refine State.serveGates_keeps ?_
    | with_reducible refine State.setJob_keeps ?_ | with_reducible refine State.spliceWait_keeps ?_
    | with_reducible refine State.bump_keeps ?_ | with_reducible refine State.note_keeps ?_
    | with_reducible refine State.applyPeers_keeps ?_ | with_reducible refine Keeps.ite ?_ ?_
    | with_reducible refine keepsOut_ite ?_ ?_ | dsimp only

theorem execLoadPhase_keeps {r s : State} {j : JobId} (h : Keeps r s) :
    KeepsOut r (execLoadPhase j s) := by
  unfold execLoadPhase
  repeat' first
    | with_reducible exact h | with_reducible assumption | with_reducible refine keepsOut_next ?_
    | with_reducible refine State.bindPending_keeps ?_ | with_reducible refine State.applyStrands_keeps ?_
    | with_reducible refine State.setJob_keeps ?_ | with_reducible refine State.bindStop_keeps ?_
    | with_reducible refine State.rebind_keeps ?_ | with_reducible refine State.loadSets_keeps ?_
    | with_reducible refine State.loadStreams_keeps ?_ | with_reducible refine State.alignReady_keeps ?_
    | with_reducible refine foldl_keeps ?_ ?_ | intro _ | split | dsimp only

theorem execModeChangeDone_keeps {r s : State} {j : JobId} {bad : List CoreId} (h : Keeps r s) :
    KeepsOut r (execModeChangeDone j bad s) := by
  unfold execModeChangeDone
  repeat' first
    | with_reducible exact h | with_reducible assumption | with_reducible refine keepsOut_next ?_
    | with_reducible refine State.spliceWait_keeps ?_ | with_reducible refine State.promoteTask_keeps ?_
    | with_reducible refine State.turns_keeps ?_ | with_reducible refine State.setJob_keeps ?_
    | with_reducible refine State.ageTasks_keeps ?_ | with_reducible refine foldl_keeps ?_ ?_ | intro _
    | with_reducible refine keepsOut_ite ?_ ?_ | dsimp only

theorem execQuiesceDone_keeps {r s : State} {j : JobId} (h : Keeps r s) :
    KeepsOut r (execQuiesceDone j s) := by
  unfold execQuiesceDone
  repeat' first
    | with_reducible exact h | with_reducible assumption | with_reducible refine keepsOut_next ?_
    | with_reducible refine State.faultStuck_keeps ?_ | with_reducible refine State.spliceWait_keeps ?_
    | with_reducible refine State.setJob_keeps ?_ | with_reducible refine State.dropRequests_keeps ?_
    | with_reducible refine State.dropInbound_keeps ?_ | with_reducible refine State.drainLedger_keeps ?_
    | with_reducible refine State.endStep_keeps ?_ | with_reducible refine foldl_keeps ?_ ?_ | intro _
    | with_reducible refine Keeps.ite ?_ ?_ | with_reducible refine keepsOut_ite ?_ ?_ | dsimp only

theorem execReservedSlotDone_keeps {r s : State} {j : JobId} (h : Keeps r s) :
    KeepsOut r (execReservedSlotDone j s) := by
  unfold execReservedSlotDone
  repeat' first
    | with_reducible exact h | with_reducible refine keepsOut_next ?_ | with_reducible refine State.setJob_keeps ?_
    | with_reducible refine keepsOut_ite ?_ ?_ | dsimp only

theorem execRoundBoundary_keeps {r s : State} {c : ClusterId} (h : Keeps r s) :
    KeepsOut r (execRoundBoundary c s) := by
  unfold execRoundBoundary
  repeat' first
    | with_reducible exact h | with_reducible refine keepsOut_next ?_
    | with_reducible refine State.faultStuck_keeps ?_ | with_reducible refine State.toRound_keeps ?_
    | with_reducible refine State.dropRound_keeps ?_ | with_reducible refine State.setCluster_keeps ?_ | split
    | dsimp only

theorem execRoundSwapDone_keeps {r s : State} {c : ClusterId} (h : Keeps r s) :
    KeepsOut r (execRoundSwapDone c s) := by
  unfold execRoundSwapDone
  repeat' first
    | with_reducible exact h | with_reducible refine keepsOut_next ?_
    | with_reducible refine State.setCluster_keeps ?_ | with_reducible refine State.roundFills_keeps ?_
    | with_reducible refine State.newClock_keeps ?_ | with_reducible refine keepsOut_ite ?_ ?_ | dsimp only

theorem execSpanRelease_keeps {r s : State} {j : JobId} (h : Keeps r s) :
    KeepsOut r (execSpanRelease j s) := by
  unfold execSpanRelease
  repeat' first
    | with_reducible exact h | with_reducible refine keepsOut_next ?_
    | with_reducible refine State.spliceWait_keeps ?_ | with_reducible refine State.bump_keeps ?_
    | with_reducible refine State.startSpan_keeps ?_ | with_reducible refine State.rephase_keeps ?_
    | with_reducible refine State.tryGather_keeps ?_ | split | dsimp only
    | with_reducible refine Keeps.upd ?_ id id id id id

theorem execSpliceBegin_keeps {r s : State} {j : JobId} (h : Keeps r s) :
    KeepsOut r (execSpliceBegin j s) := by
  unfold execSpliceBegin
  repeat' first
    | with_reducible exact h | with_reducible refine keepsOut_next ?_ | with_reducible refine State.bindStop_keeps ?_
    | with_reducible refine State.reportStop_keeps ?_ | with_reducible refine State.faultStuck_keeps ?_
    | with_reducible refine State.openSplice_keeps ?_ | with_reducible refine keepsOut_ite ?_ ?_ | dsimp only

theorem execSwapDone_keeps {r s : State} {j : JobId} (h : Keeps r s) :
    KeepsOut r (execSwapDone j s) := by
  unfold execSwapDone
  repeat' first
    | with_reducible exact h | with_reducible assumption | with_reducible refine keepsOut_next ?_
    | with_reducible refine State.toRound_keeps ?_ | with_reducible refine State.setJob_keeps ?_
    | with_reducible refine foldl_keeps ?_ ?_ | intro _ | with_reducible refine Keeps.ite ?_ ?_
    | with_reducible refine keepsOut_ite ?_ ?_

end Sys2Proof.Machine
end

