-- ==== Sys2Proof/Laws/KeepsSeal.lean ====
section
/-! SUPPORT. What the operations of Machine/Seal.lean keep. -/

namespace Sys2Proof.Machine

theorem State.seePeer_keeps {r s : State} {l : Nat} {from_ : Nat} {coord : Nat} (h : Keeps r s) :
    Keeps r (State.seePeer s l from_ coord) := by
  unfold State.seePeer
  repeat' first
    | with_reducible exact h | with_reducible refine State.setFld_keeps ?_

theorem State.onEcho_keeps {r s : State} {l : Nat} {m : CtlMsg} (h : Keeps r s) :
    Keeps r (State.onEcho s l m) := by
  unfold State.onEcho
  repeat' first
    | with_reducible exact h | with_reducible refine State.sendLink_keeps ?_
    | with_reducible refine State.seePeer_keeps ?_

theorem State.onEchoReply_keeps {r s : State} {l : Nat} {m : CtlMsg} (h : Keeps r s) :
    Keeps r (State.onEchoReply s l m) := by
  unfold State.onEchoReply
  repeat' first
    | with_reducible exact h | with_reducible refine State.seePeer_keeps ?_
    | with_reducible refine State.setLink_keeps ?_ | with_reducible refine State.setFld_keeps ?_
    | with_reducible refine Keeps.ite ?_ ?_ | dsimp only

theorem State.onGather_keeps {r s : State} {src : MsgSrc} {m : CtlMsg} (h : Keeps r s) :
    Keeps r (State.onGather s src m) := by
  unfold State.onGather
  repeat' first
    | with_reducible exact h | with_reducible refine State.stopGroup_keeps ?_
    | with_reducible refine State.tryGather_keeps ?_ | with_reducible refine State.setGrp_keeps ?_
    | with_reducible refine Keeps.ite ?_ ?_ | dsimp only

theorem State.onRelease_keeps {r s : State} {src : MsgSrc} {m : CtlMsg} (h : Keeps r s) :
    Keeps r (State.onRelease s src m) := by
  unfold State.onRelease
  repeat' first
    | with_reducible exact h | with_reducible refine State.stopGroup_keeps ?_
    | with_reducible refine State.applyRelease_keeps ?_ | with_reducible refine Keeps.ite ?_ ?_ | dsimp only

theorem State.loseRoot_keeps {r s : State} (h : Keeps r s) :
    Keeps r (State.loseRoot s) := by
  unfold State.loseRoot
  repeat' first
    | with_reducible exact h | with_reducible assumption | with_reducible refine State.setFlag_keeps ?_
    | with_reducible refine foldl_keeps ?_ ?_ | intro _

theorem State.lockTo_keeps {r s : State} {l : Nat} {alt : Bool} (h : Keeps r s) :
    Keeps r (State.lockTo s l alt) := by
  unfold State.lockTo
  repeat' first
    | with_reducible exact h | with_reducible refine State.setFlag_keeps ?_
    | with_reducible refine State.setFld_keeps ?_

theorem State.onRoot_keeps {r s : State} {src : MsgSrc} {m : CtlMsg} (h : Keeps r s) :
    Keeps r (State.onRoot s src m) := by
  unfold State.onRoot
  repeat' first
    | with_reducible exact h | with_reducible assumption | with_reducible refine State.sendDir_keeps ?_
    | with_reducible refine State.setFld_keeps ?_ | with_reducible refine State.loseRoot_keeps ?_
    | with_reducible refine State.lockTo_keeps ?_ | with_reducible refine foldl_keeps ?_ ?_ | intro _ | split
    | dsimp only | with_reducible refine Keeps.upd ?_ id id id id id

theorem State.noteRoot_keeps {r s : State} {src : MsgSrc} {g : Nat} (h : Keeps r s) :
    Keeps r (State.noteRoot s src g) := by
  unfold State.noteRoot
  repeat' first
    | with_reducible exact h | with_reducible refine State.setGrp_keeps ?_ | split

theorem State.onPass_keeps {r s : State} {src : MsgSrc} {m : CtlMsg} (h : Keeps r s) :
    Keeps r (State.onPass s src m) := by
  unfold State.onPass
  repeat' first
    | with_reducible exact h | with_reducible refine State.openPass_keeps ?_
    | with_reducible refine State.noteRoot_keeps ?_ | with_reducible refine State.setGrp_keeps ?_
    | with_reducible refine State.tryPass_keeps ?_ | with_reducible refine State.trySeal_keeps ?_
    | with_reducible refine Keeps.ite ?_ ?_ | dsimp only

theorem State.onSeal_keeps {r s : State} {m : CtlMsg} (h : Keeps r s) :
    Keeps r (State.onSeal s m) := by
  unfold State.onSeal
  repeat' first
    | with_reducible exact h | with_reducible refine State.ignoreSeal_keeps ?_
    | with_reducible refine State.applySeal_keeps ?_ | with_reducible refine Keeps.ite ?_ ?_

theorem State.onFail_keeps {r s : State} {src : MsgSrc} {m : CtlMsg} (h : Keeps r s) :
    Keeps r (State.onFail s src m) := by
  unfold State.onFail
  repeat' first
    | with_reducible exact h | with_reducible refine State.ignoreSeal_keeps ?_
    | with_reducible refine State.failUp_keeps ?_ | with_reducible refine State.noteRoot_keeps ?_
    | with_reducible refine Keeps.ite ?_ ?_ | dsimp only

theorem State.onRetract_keeps {r s : State} {m : CtlMsg} (h : Keeps r s) :
    Keeps r (State.onRetract s m) := by
  unfold State.onRetract
  repeat' first
    | with_reducible exact h | with_reducible assumption | with_reducible refine State.ignoreSeal_keeps ?_
    | with_reducible refine State.applyRetract_keeps ?_ ?_ | with_reducible refine State.applyRestart_keeps ?_
    | intro _ | with_reducible refine Keeps.ite ?_ ?_

theorem State.onQuiesced_keeps {r s : State} {src : MsgSrc} {m : CtlMsg} (h : Keeps r s) :
    Keeps r (State.onQuiesced s src m) := by
  unfold State.onQuiesced
  repeat' first
    | with_reducible exact h | with_reducible assumption | with_reducible refine State.noteRoot_keeps ?_
    | with_reducible refine State.tryQuiesced_keeps ?_ ?_ | with_reducible refine State.setGrp_keeps ?_
    | with_reducible refine State.applyRestart_keeps ?_ | intro _ | with_reducible refine Keeps.ite ?_ ?_ | dsimp only

theorem State.onRestart_keeps {r s : State} {m : CtlMsg} (h : Keeps r s) :
    Keeps r (State.onRestart s m) := by
  unfold State.onRestart
  repeat' first
    | with_reducible exact h | with_reducible refine State.applyRestart_keeps ?_
    | with_reducible refine Keeps.ite ?_ ?_ | dsimp only

theorem State.onMdown_keeps {r s : State} {src : MsgSrc} {m : CtlMsg} (h : Keeps r s) :
    Keeps r (State.onMdown s src m) := by
  unfold State.onMdown
  repeat' first
    | with_reducible exact h | with_reducible refine State.markPeer_keeps ?_
    | with_reducible refine State.spread_keeps ?_ | split | with_reducible refine Keeps.upd ?_ id id id id id

theorem State.onMgen_keeps {r s : State} {m : CtlMsg} (h : Keeps r s) :
    Keeps r (State.onMgen s m) := by
  unfold State.onMgen
  repeat' first
    | with_reducible exact h | with_reducible refine Keeps.ite ?_ ?_ | dsimp only
    | with_reducible refine Keeps.upd ?_ id id id id id

theorem State.control_keeps {r s : State} {src : MsgSrc} {m : CtlMsg} (h : Keeps r s) :
    Keeps r (State.control s src m) := by
  unfold State.control
  repeat' first
    | with_reducible exact h | with_reducible refine State.onEcho_keeps ?_
    | with_reducible refine State.onEchoReply_keeps ?_ | with_reducible refine State.onGather_keeps ?_
    | with_reducible refine State.onRelease_keeps ?_ | with_reducible refine State.onRoot_keeps ?_
    | with_reducible refine State.onPass_keeps ?_ | with_reducible refine State.onSeal_keeps ?_
    | with_reducible refine State.onFail_keeps ?_ | with_reducible refine State.onRetract_keeps ?_
    | with_reducible refine State.onQuiesced_keeps ?_ | with_reducible refine State.onRestart_keeps ?_
    | with_reducible refine State.onMdown_keeps ?_ | with_reducible refine State.onMgen_keeps ?_
    | with_reducible refine State.bump_keeps ?_ | split

theorem execEcho_keeps {r s : State} {l : LinkId} {msg : CtlMsg} (h : Keeps r s) :
    KeepsOut r (execEcho l msg s) := by
  unfold execEcho
  repeat' first
    | with_reducible exact h | with_reducible refine keepsOut_next ?_ | with_reducible refine State.onEcho_keeps ?_
    | with_reducible refine keepsOut_ite ?_ ?_

theorem execEchoReply_keeps {r s : State} {l : LinkId} {msg : CtlMsg} (h : Keeps r s) :
    KeepsOut r (execEchoReply l msg s) := by
  unfold execEchoReply
  repeat' first
    | with_reducible exact h | with_reducible refine keepsOut_next ?_
    | with_reducible refine State.onEchoReply_keeps ?_ | with_reducible refine keepsOut_ite ?_ ?_

theorem execFail_keeps {r s : State} {src : MsgSrc} {msg : CtlMsg} (h : Keeps r s) :
    KeepsOut r (execFail src msg s) := by
  unfold execFail
  repeat' first
    | with_reducible exact h | with_reducible refine keepsOut_next ?_ | with_reducible refine State.onFail_keeps ?_
    | with_reducible refine keepsOut_ite ?_ ?_

theorem execGather_keeps {r s : State} {src : MsgSrc} {msg : CtlMsg} (h : Keeps r s) :
    KeepsOut r (execGather src msg s) := by
  unfold execGather
  repeat' first
    | with_reducible exact h | with_reducible refine keepsOut_next ?_ | with_reducible refine State.onGather_keeps ?_
    | with_reducible refine keepsOut_ite ?_ ?_

theorem execMdown_keeps {r s : State} {src : MsgSrc} {msg : CtlMsg} (h : Keeps r s) :
    KeepsOut r (execMdown src msg s) := by
  unfold execMdown
  repeat' first
    | with_reducible exact h | with_reducible refine keepsOut_next ?_ | with_reducible refine State.onMdown_keeps ?_
    | with_reducible refine keepsOut_ite ?_ ?_

theorem execMgen_keeps {r s : State} {_src : MsgSrc} {msg : CtlMsg} (h : Keeps r s) :
    KeepsOut r (execMgen _src msg s) := by
  unfold execMgen
  repeat' first
    | with_reducible exact h | with_reducible refine keepsOut_next ?_ | with_reducible refine State.onMgen_keeps ?_
    | with_reducible refine keepsOut_ite ?_ ?_

theorem execPass_keeps {r s : State} {src : MsgSrc} {msg : CtlMsg} (h : Keeps r s) :
    KeepsOut r (execPass src msg s) := by
  unfold execPass
  repeat' first
    | with_reducible exact h | with_reducible refine keepsOut_next ?_ | with_reducible refine State.onPass_keeps ?_
    | with_reducible refine keepsOut_ite ?_ ?_

theorem execPeerSilenceTimeout_keeps {r s : State} {k : ConnId} (h : Keeps r s) :
    KeepsOut r (execPeerSilenceTimeout k s) := by
  unfold execPeerSilenceTimeout
  repeat' first
    | with_reducible exact h | with_reducible refine keepsOut_next ?_
    | with_reducible refine State.reportPeer_keeps ?_ | with_reducible refine State.setConn_keeps ?_
    | with_reducible refine keepsOut_ite ?_ ?_ | dsimp only

theorem execQuiesced_keeps {r s : State} {src : MsgSrc} {msg : CtlMsg} (h : Keeps r s) :
    KeepsOut r (execQuiesced src msg s) := by
  unfold execQuiesced
  repeat' first
    | with_reducible exact h | with_reducible refine keepsOut_next ?_
    | with_reducible refine State.onQuiesced_keeps ?_ | with_reducible refine keepsOut_ite ?_ ?_

theorem execRelease_keeps {r s : State} {src : MsgSrc} {msg : CtlMsg} (h : Keeps r s) :
    KeepsOut r (execRelease src msg s) := by
  unfold execRelease
  repeat' first
    | with_reducible exact h | with_reducible refine keepsOut_next ?_ | with_reducible refine State.onRelease_keeps ?_
    | with_reducible refine keepsOut_ite ?_ ?_

theorem execRestart_keeps {r s : State} {_src : MsgSrc} {msg : CtlMsg} (h : Keeps r s) :
    KeepsOut r (execRestart _src msg s) := by
  unfold execRestart
  repeat' first
    | with_reducible exact h | with_reducible refine keepsOut_next ?_ | with_reducible refine State.onRestart_keeps ?_
    | with_reducible refine keepsOut_ite ?_ ?_

theorem execRetract_keeps {r s : State} {_src : MsgSrc} {msg : CtlMsg} (h : Keeps r s) :
    KeepsOut r (execRetract _src msg s) := by
  unfold execRetract
  repeat' first
    | with_reducible exact h | with_reducible refine keepsOut_next ?_ | with_reducible refine State.onRetract_keeps ?_
    | with_reducible refine keepsOut_ite ?_ ?_

theorem execRoot_keeps {r s : State} {src : MsgSrc} {msg : CtlMsg} (h : Keeps r s) :
    KeepsOut r (execRoot src msg s) := by
  unfold execRoot
  repeat' first
    | with_reducible exact h | with_reducible refine keepsOut_next ?_ | with_reducible refine State.onRoot_keeps ?_
    | with_reducible refine keepsOut_ite ?_ ?_

theorem execSeal_keeps {r s : State} {_src : MsgSrc} {msg : CtlMsg} (h : Keeps r s) :
    KeepsOut r (execSeal _src msg s) := by
  unfold execSeal
  repeat' first
    | with_reducible exact h | with_reducible refine keepsOut_next ?_ | with_reducible refine State.onSeal_keeps ?_
    | with_reducible refine keepsOut_ite ?_ ?_

end Sys2Proof.Machine
end

