-- ==== Sys2Proof/Laws/KeepsTether.lean ====
section
/-! SUPPORT. What the operations of Machine/Tether.lean keep. -/

namespace Sys2Proof.Machine

theorem State.accept_keeps {r s : State} {l : Nat} {f : Frame} (h : Keeps r s) :
    Keeps r (State.accept s l f) := by
  unfold State.accept
  repeat' first
    | with_reducible exact h | with_reducible assumption | with_reducible refine State.setLink_keeps ?_
    | with_reducible refine State.control_keeps ?_ | with_reducible refine foldl_keeps ?_ ?_ | intro _
    | with_reducible refine Keeps.ite ?_ ?_ | dsimp only

theorem State.lockBad_keeps {r s : State} {l : Nat} (h : Keeps r s) :
    Keeps r (State.lockBad s l) := by
  unfold State.lockBad
  repeat' first
    | with_reducible exact h | with_reducible refine State.setLink_keeps ?_
    | with_reducible refine State.setFlag_keeps ?_ | with_reducible refine Keeps.ite ?_ ?_ | dsimp only

theorem State.badFrame_keeps {r s : State} {l : Nat} (h : Keeps r s) :
    Keeps r (State.badFrame s l) := by
  unfold State.badFrame
  repeat' first
    | with_reducible exact h | with_reducible refine State.lockBad_keeps ?_
    | with_reducible refine State.bump_keeps ?_ | with_reducible refine State.setLink_keeps ?_
    | with_reducible refine Keeps.ite ?_ ?_ | dsimp only

theorem State.firstLock_keeps {r s : State} {l : Nat} {f : Frame} (h : Keeps r s) :
    Keeps r (State.firstLock s l f) := by
  unfold State.firstLock
  repeat' first
    | with_reducible exact h | with_reducible refine State.startBeat_keeps ?_
    | with_reducible refine State.lockTo_keeps ?_

theorem State.beatCorrect_keeps {r s : State} {l : Nat} {f : Frame} (h : Keeps r s) :
    Keeps r (State.beatCorrect s l f) := by
  unfold State.beatCorrect
  repeat' first
    | with_reducible exact h | with_reducible refine State.firstLock_keeps ?_
    | with_reducible refine State.lockTo_keeps ?_ | with_reducible refine State.setLink_keeps ?_
    | with_reducible refine Keeps.ite ?_ ?_ | dsimp only | with_reducible refine Keeps.upd ?_ id id id id id

theorem State.fenceLink_keeps {r s : State} {l : Nat} {reason : Nat} (h : Keeps r s) :
    Keeps r (State.fenceLink s l reason) := by
  unfold State.fenceLink
  repeat' first
    | with_reducible exact h | with_reducible refine State.fenceNote_keeps ?_
    | with_reducible refine State.setFlag_keeps ?_

theorem State.lockGood_keeps {r s : State} {l : Nat} {f : Frame} (h : Keeps r s) :
    Keeps r (State.lockGood s l f) := by
  unfold State.lockGood
  repeat' first
    | with_reducible exact h | with_reducible refine State.setLink_keeps ?_
    | with_reducible refine State.setFlag_keeps ?_ | with_reducible refine Keeps.ite ?_ ?_ | dsimp only

theorem State.onNak_keeps {r s : State} {l : Nat} {ack : W16} (h : Keeps r s) :
    Keeps r (State.onNak s l ack) := by
  unfold State.onNak
  repeat' first
    | with_reducible exact h | with_reducible refine State.setLink_keeps ?_ | split | dsimp only

theorem State.goodFrame_keeps {r s : State} {l : Nat} {n : Nat} {f : Frame} (h : Keeps r s) :
    Keeps r (State.goodFrame s l n f) := by
  unfold State.goodFrame
  repeat' first
    | with_reducible exact h | with_reducible assumption | with_reducible refine State.lockGood_keeps ?_
    | with_reducible refine State.bump_keeps ?_ | with_reducible refine State.control_keeps ?_
    | with_reducible refine State.setLink_keeps ?_ | with_reducible refine State.onNak_keeps ?_
    | with_reducible refine State.beatCorrect_keeps ?_ | with_reducible refine State.accept_keeps ?_
    | with_reducible refine foldl_keeps ?_ ?_ | intro _ | with_reducible refine Keeps.ite ?_ ?_ | dsimp only

theorem State.readMarked_keeps {r s : State} {p : Nat} {a : Nat} {n : Nat} (h : Keeps r s) :
    Keeps r (State.readMarked s p a n).1 := by
  unfold State.readMarked
  repeat' first
    | with_reducible exact h | with_reducible refine State.readScratch_keeps ?_

theorem State.setStream_keeps {r s : State} {i : Nat} {x : RStream} (h : Keeps r s) :
    Keeps r (State.setStream s i x) := by
  unfold State.setStream
  repeat' first
    | with_reducible exact h | with_reducible refine Keeps.upd ?_ id id id id id

theorem State.reInput_keeps {r s : State} {i : Nat} {kind : Nat} {idx : Nat} {m : Marked} (h : Keeps r s) :
    Keeps r (State.reInput s i kind idx m) := by
  unfold State.reInput
  repeat' first
    | with_reducible exact h | with_reducible refine State.setStream_keeps ?_ | split | dsimp only

theorem State.injectFrame_keeps {r s : State} {l : Nat} (h : Keeps r s) :
    Keeps r (State.injectFrame s l) := by
  unfold State.injectFrame
  repeat' first
    | with_reducible exact h | with_reducible refine State.setLink_keeps ?_

theorem State.pairLost_keeps {r s : State} {l : Nat} (h : Keeps r s) :
    Keeps r (State.pairLost s l) := by
  unfold State.pairLost
  repeat' first
    | with_reducible exact h | with_reducible assumption | with_reducible refine State.setFlag_keeps ?_
    | with_reducible refine State.reportStop_keeps ?_ | with_reducible refine foldl_keeps ?_ ?_ | intro _
    | with_reducible refine Keeps.ite ?_ ?_

theorem State.switchParent_keeps {r s : State} {l : Nat} (h : Keeps r s) :
    Keeps r (State.switchParent s l) := by
  unfold State.switchParent
  repeat' first
    | with_reducible exact h | with_reducible refine State.lockTo_keeps ?_
    | with_reducible refine State.setFlag_keeps ?_ | with_reducible refine State.report_keeps ?_ | split | dsimp only
    | with_reducible refine Keeps.upd ?_ id id id id id

theorem State.linkFail_keeps {r s : State} {l : Nat} {cause : Nat} (h : Keeps r s) :
    Keeps r (State.linkFail s l cause) := by
  unfold State.linkFail
  repeat' first
    | with_reducible exact h | with_reducible refine State.fenceLink_keeps ?_
    | with_reducible refine State.report_keeps ?_ | with_reducible refine State.setLink_keeps ?_
    | with_reducible refine State.reportPeer_keeps ?_ | with_reducible refine State.pairLost_keeps ?_
    | with_reducible refine State.setFlag_keeps ?_ | with_reducible refine State.switchParent_keeps ?_ | split
    | dsimp only

theorem State.injectFail_keeps {r s : State} {l : Nat} (h : Keeps r s) :
    Keeps r (State.injectFail s l) := by
  unfold State.injectFail
  repeat' first
    | with_reducible exact h | with_reducible refine State.linkFail_keeps ?_ | with_reducible refine Keeps.ite ?_ ?_

theorem State.judgeLink_keeps {r s : State} {l : Nat} (h : Keeps r s) :
    Keeps r (State.judgeLink s l) := by
  unfold State.judgeLink
  repeat' first
    | with_reducible exact h | with_reducible refine State.setLink_keeps ?_
    | with_reducible refine State.setFlag_keeps ?_ | with_reducible refine State.setAlignLead_keeps ?_
    | with_reducible refine State.draw_keeps ?_ | with_reducible refine State.logPut_keeps ?_
    | with_reducible refine Keeps.ite ?_ ?_ | dsimp only

theorem State.putFrame_keeps {r s : State} {v : Nat} {f : Frame} (h : Keeps r s) :
    Keeps r (State.putFrame s v f) := by
  unfold State.putFrame
  repeat' first
    | with_reducible exact h | with_reducible refine State.setLink_keeps ?_

theorem State.newFrame_keeps {r s : State} {l : Nat} {v : Nat} {ft : Nat} {ctl : List CtlMsg} {slots : List FrameSlot} (h : Keeps r s) :
    Keeps r (State.newFrame s l v ft ctl slots) := by
  unfold State.newFrame
  repeat' first
    | with_reducible exact h | with_reducible refine State.putFrame_keeps ?_
    | with_reducible refine State.setLink_keeps ?_

theorem State.receive_keeps {r s : State} {j : Nat} {rq : Nat} {m : Marked} (h : Keeps r s) :
    Keeps r (State.receive s j rq m) := by
  unfold State.receive
  repeat' first
    | with_reducible exact h | with_reducible refine State.reportStop_keeps ?_
    | with_reducible refine State.setRxBytes_keeps ?_ | with_reducible refine State.setCluster_keeps ?_ | split
    | dsimp only

theorem State.resendOne_keeps {r s : State} {v : Nat} {q : SentFrame} (h : Keeps r s) :
    Keeps r (State.resendOne s v q) := by
  unfold State.resendOne
  repeat' first
    | with_reducible exact h | with_reducible refine State.setLink_keeps ?_
    | with_reducible refine State.putFrame_keeps ?_ | with_reducible refine State.bump_keeps ?_

theorem State.takeStream_keeps {r s : State} {l : Nat} {src : Nat} {ft : Nat} (h : Keeps r s) :
    Keeps r (State.takeStream s l src ft).1 := by
  unfold State.takeStream
  repeat' first
    | with_reducible exact h | with_reducible refine State.setStream_keeps ?_ | split | dsimp only

theorem State.takeEntry_keeps {r s : State} {src : Nat} {ft : Nat} (h : Keeps r s) :
    Keeps r (State.takeEntry s src ft).1 := by
  unfold State.takeEntry
  repeat' first
    | with_reducible exact h | with_reducible refine State.readMarked_keeps ?_
    | with_reducible refine State.setNq_keeps ?_ | split

theorem State.takeSlot_keeps {r s : State} {l : Nat} {b : List Byte} {k : Nat} {ft : Nat} (h : Keeps r s) :
    Keeps r (State.takeSlot s l b k ft).1 := by
  unfold State.takeSlot
  repeat' first
    | with_reducible exact h | with_reducible refine State.takeStream_keeps ?_
    | with_reducible refine State.takeEntry_keeps ?_ | with_reducible refine State.setLink_keeps ?_ | split
    | dsimp only

theorem State.takeSlots_keeps {r s : State} {l : Nat} {ft : Nat} (h : Keeps r s) :
    Keeps r (State.takeSlots s l ft).1 := by
  unfold State.takeSlots
  repeat' first
    | with_reducible exact h | with_reducible assumption | with_reducible refine State.takeSlot_keeps ?_
    | with_reducible refine foldl_fst_keeps ?_ ?_ | intro _ | split | dsimp only

theorem State.sendOn_keeps {r s : State} {l : Nat} {v : Nat} (h : Keeps r s) :
    Keeps r (State.sendOn s l v) := by
  unfold State.sendOn
  repeat' first
    | with_reducible exact h | with_reducible refine State.newFrame_keeps ?_
    | with_reducible refine State.setLink_keeps ?_ | with_reducible refine State.bump_keeps ?_
    | with_reducible refine State.takeSlots_keeps ?_ | split | dsimp only

theorem State.trainFrame_keeps {r s : State} {l : Nat} (h : Keeps r s) :
    Keeps r (State.trainFrame s l) := by
  unfold State.trainFrame
  repeat' first
    | with_reducible exact h | with_reducible refine State.newFrame_keeps ?_
    | with_reducible refine State.setLink_keeps ?_

theorem State.writeSlot_keeps {r s : State} {l : Nat} {q : FrameSlot} (h : Keeps r s) :
    Keeps r (State.writeSlot s l q) := by
  unfold State.writeSlot
  repeat' first
    | with_reducible exact h | with_reducible refine State.reInput_keeps ?_
    | with_reducible refine State.receive_keeps ?_ | with_reducible refine Keeps.ite ?_ ?_ | dsimp only
    | with_reducible refine Keeps.upd ?_ id id id id id

theorem State.writeFrame_keeps {r s : State} {l : Nat} (h : Keeps r s) :
    Keeps r (State.writeFrame s l) := by
  unfold State.writeFrame
  repeat' first
    | with_reducible exact h | with_reducible assumption | with_reducible refine State.setLink_keeps ?_
    | with_reducible refine State.bump_keeps ?_ | with_reducible refine State.writeSlot_keeps ?_
    | with_reducible refine foldl_keeps ?_ ?_ | intro _ | split | dsimp only

theorem State.writeDue_keeps {r v : State} {t : Nat} {l : Nat} {u : Nat} (h : Keeps r v) :
    Keeps r (State.writeDue t l u v) := by
  induction u generalizing v with
  | zero => exact h
  | succ n ih =>
    unfold State.writeDue
    split
    · exact h
    · exact ih (State.writeFrame_keeps h)

theorem execHoldoverTimeout_keeps {r s : State} (h : Keeps r s) :
    KeepsOut r (execHoldoverTimeout s) := by
  unfold execHoldoverTimeout
  repeat' first
    | with_reducible exact h | with_reducible assumption | with_reducible refine keepsOut_next ?_
    | with_reducible refine State.fenceLink_keeps ?_ | with_reducible refine State.pairLost_keeps ?_
    | with_reducible refine foldl_keeps ?_ ?_ | intro _ | with_reducible refine keepsOut_ite ?_ ?_
    | with_reducible refine Keeps.upd ?_ id id id id id

theorem execLinkFail_keeps {r s : State} {l : LinkId} {cause : Fin 4} (h : Keeps r s) :
    KeepsOut r (execLinkFail l cause s) := by
  unfold execLinkFail
  repeat' first
    | with_reducible exact h | with_reducible refine keepsOut_next ?_ | with_reducible refine State.linkFail_keeps ?_
    | with_reducible refine keepsOut_ite ?_ ?_

theorem execLinkTrainingDone_keeps {r s : State} {l : LinkId} {coord : BitVec 9} {dir : BitVec 3} {index : BitVec 2} {rtt oneway : W16} (h : Keeps r s) :
    KeepsOut r (execLinkTrainingDone l coord dir index rtt oneway s) := by
  unfold execLinkTrainingDone
  repeat' first
    | with_reducible exact h | with_reducible refine keepsOut_next ?_ | with_reducible refine State.setFld_keeps ?_
    | with_reducible refine State.judgeLink_keeps ?_ | with_reducible refine State.setFlag_keeps ?_
    | with_reducible refine keepsOut_ite ?_ ?_ | dsimp only

theorem execLockLostTimeout_keeps {r s : State} {l : LinkId} (h : Keeps r s) :
    KeepsOut r (execLockLostTimeout l s) := by
  unfold execLockLostTimeout
  repeat' first
    | with_reducible exact h | with_reducible refine keepsOut_next ?_ | with_reducible refine State.setLink_keeps ?_
    | with_reducible refine keepsOut_ite ?_ ?_ | dsimp only

theorem execRootTakeover_keeps {r s : State} (h : Keeps r s) :
    KeepsOut r (execRootTakeover s) := by
  unfold execRootTakeover
  repeat' first
    | with_reducible exact h | with_reducible assumption | with_reducible refine keepsOut_next ?_
    | with_reducible refine State.report_keeps ?_ | with_reducible refine State.setFld_keeps ?_
    | with_reducible refine State.setFlag_keeps ?_ | with_reducible refine State.setAlignLead_keeps ?_
    | with_reducible refine State.sendDir_keeps ?_ | with_reducible refine foldl_keeps ?_ ?_ | intro _
    | with_reducible refine keepsOut_ite ?_ ?_ | with_reducible refine Keeps.upd ?_ id id id id id

theorem execSlotsAvailable_keeps {r s : State} {l : LinkId} (h : Keeps r s) :
    KeepsOut r (execSlotsAvailable l s) := by
  unfold execSlotsAvailable
  repeat' first
    | with_reducible exact h | with_reducible refine keepsOut_next ?_ | with_reducible refine State.writeDue_keeps ?_
    | split

theorem execTetherFrameRx_keeps {r s : State} {l : LinkId} {wiring : Wiring} {lanes : List (List Pam4)} (h : Keeps r s) :
    KeepsOut r (execTetherFrameRx l wiring lanes s) := by
  unfold execTetherFrameRx
  repeat' first
    | with_reducible exact h | with_reducible refine keepsOut_next ?_ | with_reducible refine State.bump_keeps ?_
    | with_reducible refine State.setLink_keeps ?_ | with_reducible refine State.goodFrame_keeps ?_
    | with_reducible refine State.badFrame_keeps ?_ | split | dsimp only

theorem execTetherFrameTx_keeps {r s : State} {l : LinkId} (h : Keeps r s) :
    KeepsOut r (execTetherFrameTx l s) := by
  unfold execTetherFrameTx
  repeat' first
    | with_reducible exact h | with_reducible refine keepsOut_next ?_
    | with_reducible refine State.trainFrame_keeps ?_ | with_reducible refine State.resendOne_keeps ?_
    | with_reducible refine State.setLink_keeps ?_ | with_reducible refine State.sendOn_keeps ?_ | split | dsimp only

theorem execTetherInjectFail_keeps {r s : State} {l : LinkId} (h : Keeps r s) :
    KeepsOut r (execTetherInjectFail l s) := by
  unfold execTetherInjectFail
  repeat' first
    | with_reducible exact h | with_reducible refine keepsOut_next ?_
    | with_reducible refine State.injectFail_keeps ?_ | with_reducible refine keepsOut_ite ?_ ?_

theorem execTetherInjectFrame_keeps {r s : State} {l : LinkId} (h : Keeps r s) :
    KeepsOut r (execTetherInjectFrame l s) := by
  unfold execTetherInjectFrame
  repeat' first
    | with_reducible exact h | with_reducible refine keepsOut_next ?_
    | with_reducible refine State.injectFrame_keeps ?_ | with_reducible refine keepsOut_ite ?_ ?_

end Sys2Proof.Machine
end

