-- ==== Sys2Proof/Laws/KeepsBist.lean ====
section
/-! SUPPORT. What the operations of Machine/Bist.lean keep. -/

namespace Sys2Proof.Machine

theorem State.armStack_keeps {r s : State} {n : Nat} {w : W64} (h : Keeps r s) :
    Keeps r (State.armStack s n w) := by
  unfold State.armStack
  repeat' first
    | with_reducible exact h | with_reducible refine Keeps.upd ?_ id id id id id

theorem State.bistFence_keeps {r s : State} {p : Nat} {reason : Nat} (h : Keeps r s) :
    Keeps r (State.bistFence s p reason) := by
  unfold State.bistFence
  repeat' first
    | with_reducible exact h | with_reducible refine State.addRepair_keeps ?_
    | with_reducible refine State.fenceCore_keeps ?_ | with_reducible refine Keeps.ite ?_ ?_

theorem State.dropRows_keeps {r s : State} {p : Nat} {n : Nat} {rows : List Nat} (h : Keeps r s) :
    Keeps r (State.dropRows s p n rows) := by
  unfold State.dropRows
  repeat' first
    | with_reducible exact h | with_reducible refine State.setFld_keeps ?_
    | with_reducible refine Keeps.upd ?_ id id id id id

theorem State.fuseGo_keeps {r s : State} (h : Keeps r s) :
    Keeps r (State.fuseGo s) := by
  unfold State.fuseGo
  repeat' first
    | with_reducible exact h | with_reducible refine State.setFld_keeps ?_
    | with_reducible refine State.setFlag_keeps ?_ | with_reducible refine Keeps.ite ?_ ?_

theorem State.testEntry_keeps {r s : State} {w : W64} (h : Keeps r s) :
    Keeps r (State.testEntry s w) := by
  unfold State.testEntry
  repeat' first
    | with_reducible exact h | with_reducible refine State.logPut_keeps ?_

theorem State.writeEntry_keeps {r s : State} {w : W64} (h : Keeps r s) :
    Keeps r (State.writeEntry s w) := by
  unfold State.writeEntry
  repeat' first
    | with_reducible exact h | with_reducible refine State.setPage_keeps ?_
    | with_reducible refine State.pageFault_keeps ?_ | split

theorem State.writeRowmap_keeps {r s : State} {p : Nat} {n : Nat} {w : W64} (h : Keeps r s) :
    Keeps r (State.writeRowmap s p n w) := by
  unfold State.writeRowmap
  repeat' first
    | with_reducible exact h | with_reducible assumption | with_reducible refine State.setFlag_keeps ?_
    | with_reducible refine State.bistFence_keeps ?_ | with_reducible refine State.wr_keeps ?_
    | with_reducible refine State.addRepair_keeps ?_ | with_reducible refine State.dropRows_keeps ?_
    | with_reducible refine foldl_keeps ?_ ?_ | intro _ | with_reducible refine Keeps.ite ?_ ?_ | dsimp only

theorem State.partReady_keeps {r s : State} {x : TestPart} (h : Keeps r s) : Keeps r (State.partReady s x) := by
  unfold State.partReady
  cases x with
  | cluster c => exact foldl_keeps (fun _ _ g => State.loadRowMaps_keeps (Keeps.upd g id id id id id)) h
  | hub =>
    refine State.startSch_keeps (State.setFlag_keeps ?_)
    exact Keeps.ite h (State.setFlag_keeps (State.setFlag_keeps h))
  | stack n => exact State.readyStack_keeps (State.clearMem_keeps h)

theorem State.testBanks_keeps {r s : State} {p : Nat} {bs : List Nat} (h : Keeps r s) :
    Keeps r (State.testBanks s p bs) := by
  unfold State.testBanks
  repeat' first
    | with_reducible exact h | with_reducible assumption | with_reducible refine State.lastFail_keeps ?_
    | with_reducible refine State.bistFence_keeps ?_ | with_reducible refine State.pinHole_keeps ?_
    | with_reducible refine State.setFld_keeps ?_ | with_reducible refine foldl_keeps ?_ ?_ | intro _ | split
    | dsimp only

theorem State.testRow_keeps {r s : State} {p : Nat} {array : Nat} {row : Nat} (h : Keeps r s) :
    Keeps r (State.testRow s p array row) := by
  unfold State.testRow
  repeat' first
    | with_reducible exact h | with_reducible refine State.lastFail_keeps ?_
    | with_reducible refine State.bistFence_keeps ?_ | with_reducible refine State.addRepair_keeps ?_
    | with_reducible refine Keeps.ite ?_ ?_ | dsimp only

theorem State.testLink_keeps {r s : State} {l : Nat} (h : Keeps r s) :
    Keeps r (State.testLink s l) := by
  unfold State.testLink
  repeat' first
    | with_reducible exact h | with_reducible refine State.fenceLink_keeps ?_
    | with_reducible refine State.lastFail_keeps ?_ | with_reducible refine State.setFlag_keeps ?_
    | with_reducible refine Keeps.ite ?_ ?_ | dsimp only

theorem State.testGranule_keeps {r s : State} {n : Nat} {offset : Nat} (h : Keeps r s) :
    Keeps r (State.testGranule s n offset) := by
  unfold State.testGranule
  repeat' first
    | with_reducible exact h | with_reducible refine State.lastFail_keeps ?_
    | with_reducible refine State.setPage_keeps ?_ | with_reducible refine Keeps.ite ?_ ?_ | dsimp only
    | with_reducible refine Keeps.upd ?_ id id id id id

theorem State.testFail_keeps {r s : State} {x : TestFail} (h : Keeps r s) : Keeps r (State.testFail s x) := by
  unfold State.testFail
  cases x with
  | bank => exact h
  | row => exact Keeps.ite h (State.testRow_keeps h)
  | coreMemory => exact State.bistFence_keeps (State.lastFail_keeps h)
  | coreLogic => exact State.bistFence_keeps (State.lastFail_keeps h)
  | clusterMemory => exact State.fenceCluster_keeps (State.lastFail_keeps h)
  | replayBuffer => exact State.testLink_keeps h
  | hubMemory => exact State.setFlag_keeps (State.lastFail_keeps h)
  | granule => exact State.testGranule_keeps h

theorem execBistTestStart_keeps {r s : State} {part : TestPart} {tj : Int} (h : Keeps r s) :
    KeepsOut r (execBistTestStart part tj s) := by
  unfold execBistTestStart
  repeat' first
    | with_reducible exact h | with_reducible refine keepsOut_next ?_ | with_reducible refine State.thermNote_keeps ?_
    | with_reducible refine keepsOut_ite ?_ ?_ | with_reducible refine Keeps.upd ?_ id id id id id

theorem execEntryDataWrite_keeps {r s : State} {value : W64} (h : Keeps r s) :
    KeepsOut r (execEntryDataWrite value s) := by
  unfold execEntryDataWrite
  repeat' first
    | with_reducible exact h | with_reducible refine keepsOut_next ?_
    | with_reducible refine State.writeEntry_keeps ?_ | with_reducible refine keepsOut_ite ?_ ?_

theorem execFullTestDone_keeps {r s : State} {part : TestPart} {fails : List TestFail} {us : W32} (h : Keeps r s) :
    KeepsOut r (execFullTestDone part fails us s) := by
  unfold execFullTestDone
  dsimp only
  refine keepsOut_ite (keepsOut_next h) (keepsOut_next (State.partReady_keeps (State.setFlag_keeps (State.setFld_keeps ?_))))
  refine Keeps.upd (State.retirePages_keeps ?_) id id id id id
  have g : Keeps r ((fails.filter (fun f => failPart f == partNum part)).foldl (fun s f => s.testFail f) s) :=
    foldl_keeps (fun _ _ g => State.testFail_keeps g) h
  cases part with
  | cluster c => exact foldl_keeps (fun _ _ g => Keeps.ite g (State.testBanks_keeps g)) g
  | hub => exact g
  | stack n => exact g

theorem execFuseProgramDone_keeps {r s : State} {ok : Bool} (h : Keeps r s) :
    KeepsOut r (execFuseProgramDone ok s) := by
  unfold execFuseProgramDone
  repeat' first
    | with_reducible exact h | with_reducible refine keepsOut_next ?_ | with_reducible refine State.setFlag_keeps ?_
    | with_reducible refine State.setFld_keeps ?_ | with_reducible refine State.bump_keeps ?_ | split
    | with_reducible refine Keeps.upd ?_ id id id id id

theorem execFusecmdGo_keeps {r s : State} (h : Keeps r s) :
    KeepsOut r (execFusecmdGo s) := by
  unfold execFusecmdGo
  repeat' first
    | with_reducible exact h | with_reducible refine keepsOut_next ?_ | with_reducible refine State.fuseGo_keeps ?_
    | with_reducible refine keepsOut_ite ?_ ?_

theorem execHbmInject_keeps {r s : State} {n : StackId} {value : W64} (h : Keeps r s) :
    KeepsOut r (execHbmInject n value s) := by
  unfold execHbmInject
  repeat' first
    | with_reducible exact h | with_reducible refine keepsOut_next ?_ | with_reducible refine State.armStack_keeps ?_
    | with_reducible refine keepsOut_ite ?_ ?_

theorem execLogInject_keeps {r s : State} {value : W64} (h : Keeps r s) :
    KeepsOut r (execLogInject value s) := by
  unfold execLogInject
  repeat' first
    | with_reducible exact h | with_reducible refine keepsOut_next ?_ | with_reducible refine State.testEntry_keeps ?_
    | with_reducible refine keepsOut_ite ?_ ?_

theorem execRowmapWrite_keeps {r s : State} {p : CoreId} {array : Fin 4} {value : W64} (h : Keeps r s) :
    KeepsOut r (execRowmapWrite p array value s) := by
  unfold execRowmapWrite
  repeat' first
    | with_reducible exact h | with_reducible refine keepsOut_next ?_
    | with_reducible refine State.writeRowmap_keeps ?_ | with_reducible refine keepsOut_ite ?_ ?_

end Sys2Proof.Machine
end

