-- ==== Sys2Proof/Laws/KeepsSends.lean ====
section
/-! SUPPORT. What the operations of Machine/Sends.lean keep. -/

namespace Sys2Proof.Machine

theorem State.countTx_keeps {r s : State} {e : Nat} {n : Nat} (h : Keeps r s) :
    Keeps r (State.countTx s e n) := by
  unfold State.countTx
  repeat' first
    | with_reducible exact h | with_reducible refine State.bump_keeps ?_

theorem State.flushTx_keeps {r s : State} {e : Nat} {sub : Nat} {tc : Nat} (h : Keeps r s) :
    Keeps r (State.flushTx s e sub tc) := by
  unfold State.flushTx
  repeat' first
    | with_reducible exact h | with_reducible refine State.countTx_keeps ?_
    | with_reducible refine Keeps.upd ?_ id id id id id

theorem State.putTx_keeps {r s : State} {e : Nat} {sub : Nat} {f : TxFrame} (h : Keeps r s) :
    Keeps r (State.putTx s e sub f) := by
  unfold State.putTx
  repeat' first
    | with_reducible exact h | with_reducible refine State.flushTx_keeps ?_
    | with_reducible refine Keeps.upd ?_ id id id id id

theorem State.sendL2_keeps {r s : State} {e : Nat} {sub : Nat} {tc : Nat} {dst : BitVec 48} {body : TxBody} (h : Keeps r s) :
    Keeps r (State.sendL2 s e sub tc dst body) := by
  unfold State.sendL2
  repeat' first
    | with_reducible exact h | with_reducible refine State.putTx_keeps ?_

theorem State.sendIp_keeps {r s : State} {e : Nat} {sub : Nat} {tc : Nat} {a : BitVec 128} {ecn : Bool} {after : Nat} {body : TxBody} (h : Keeps r s) :
    Keeps r (State.sendIp s e sub tc a ecn after body) := by
  unfold State.sendIp
  repeat' first
    | with_reducible exact h | with_reducible refine State.sendL2_keeps ?_
    | with_reducible refine State.putTx_keeps ?_ | with_reducible refine Keeps.ite ?_ ?_

theorem State.countDrop_keeps {r s : State} {e : Nat} (h : Keeps r s) :
    Keeps r (State.countDrop s e) := by
  unfold State.countDrop
  repeat' first
    | with_reducible exact h | with_reducible refine State.bump_keeps ?_

theorem State.countRx_keeps {r s : State} {e : Nat} (h : Keeps r s) :
    Keeps r (State.countRx s e) := by
  unfold State.countRx
  repeat' first
    | with_reducible exact h | with_reducible refine State.bump_keeps ?_

theorem State.sendPause_keeps {r s : State} {e : Nat} {sub : Nat} {tc : Nat} {quanta : Nat} (h : Keeps r s) :
    Keeps r (State.sendPause s e sub tc quanta) := by
  unfold State.sendPause
  repeat' first
    | with_reducible exact h | with_reducible refine State.bump_keeps ?_
    | with_reducible refine State.countTx_keeps ?_ | with_reducible refine Keeps.upd ?_ id id id id id

theorem State.flushAll_keeps {r s : State} (h : Keeps r s) :
    Keeps r (State.flushAll s) := by
  unfold State.flushAll
  repeat' first
    | with_reducible exact h | with_reducible assumption | with_reducible refine State.flushTx_keeps ?_
    | with_reducible refine foldl_keeps ?_ ?_ | intro _

theorem State.flushPort_keeps {r s : State} {e : Nat} {sub : Nat} (h : Keeps r s) :
    Keeps r (State.flushPort s e sub) := by
  unfold State.flushPort
  repeat' first
    | with_reducible exact h | with_reducible assumption | with_reducible refine State.flushTx_keeps ?_
    | with_reducible refine foldl_keeps ?_ ?_ | intro _

end Sys2Proof.Machine
end

