-- ==== Sys2Proof/Laws/KeepsEth.lean ====
section
/-! SUPPORT. What the operations of Machine/Eth.lean keep. -/

namespace Sys2Proof.Machine

theorem State.reply_keeps {r s : State} {r' : Reply} (h : Keeps r s) :
    Keeps r (State.reply s r') := by
  unfold State.reply
  repeat' first
    | with_reducible exact h | with_reducible refine Keeps.upd ?_ id id id id id

theorem State.answer_keeps {r s : State} {e : Nat} {q : Nat} {r' : Reply} (h : Keeps r s) :
    Keeps r (State.answer s e q r') := by
  unfold State.answer
  repeat' first
    | with_reducible exact h | with_reducible refine State.reply_keeps ?_
    | with_reducible refine State.sendIp_keeps ?_

theorem State.answerCm_keeps {r s : State} {e : Nat} {q : Nat} {peer : BitVec 128} {r' : Reply} (h : Keeps r s) :
    Keeps r (State.answerCm s e q peer r') := by
  unfold State.answerCm
  repeat' first
    | with_reducible exact h | with_reducible refine State.reply_keeps ?_
    | with_reducible refine State.sendIp_keeps ?_

theorem State.setQp_keeps {r s : State} {q : Nat} {x : Qp} (h : Keeps r s) :
    Keeps r (State.setQp s q x) := by
  unfold State.setQp
  repeat' first
    | with_reducible exact h | with_reducible refine Keeps.upd ?_ id id id id id

theorem State.armPort_keeps {r s : State} {e : Nat} {bit : Nat} (h : Keeps r s) :
    Keeps r (State.armPort s e bit) := by
  unfold State.armPort
  repeat' first
    | with_reducible exact h | with_reducible refine Keeps.upd ?_ id id id id id

theorem State.connectQp_keeps {r s : State} {e : Nat} {q : Nat} (h : Keeps r s) :
    Keeps r (State.connectQp s e q) := by
  unfold State.connectQp
  repeat' first
    | with_reducible exact h | with_reducible refine State.setQp_keeps ?_

theorem State.countFec_keeps {r s : State} {e : Nat} {fcsOk : Bool} (h : Keeps r s) :
    Keeps r (State.countFec s e fcsOk) := by
  unfold State.countFec
  repeat' first
    | with_reducible exact h | with_reducible refine State.draw_keeps ?_ | with_reducible refine State.bump_keeps ?_
    | with_reducible refine Keeps.ite ?_ ?_

theorem State.cutFlow_keeps {r s : State} {f : Flow} (h : Keeps r s) :
    Keeps r (State.cutFlow s f) := by
  unfold State.cutFlow
  repeat' first
    | with_reducible exact h | with_reducible refine State.setQp_keeps ?_
    | with_reducible refine State.setConn_keeps ?_ | split

theorem State.fillRx_keeps {r s : State} {e : Nat} {sub : Nat} {tc : Nat} (h : Keeps r s) :
    Keeps r (State.fillRx s e sub tc) := by
  unfold State.fillRx
  repeat' first
    | with_reducible exact h | with_reducible refine State.draw_keeps ?_
    | with_reducible refine State.sendPause_keeps ?_ | with_reducible refine Keeps.ite ?_ ?_ | dsimp only

theorem State.followPtp_keeps {r s : State} {e : Nat} {ptpTime : W64} {offset : Int} (h : Keeps r s) :
    Keeps r (State.followPtp s e ptpTime offset) := by
  unfold State.followPtp
  repeat' first
    | with_reducible exact h | with_reducible refine State.startBeat_keeps ?_
    | with_reducible refine State.setFlag_keeps ?_ | with_reducible refine State.logWrite_keeps ?_
    | with_reducible refine Keeps.ite ?_ ?_ | dsimp only | with_reducible refine Keeps.upd ?_ id id id id id

theorem State.sendCnp_keeps {r s : State} {e : Nat} {q : Nat} (h : Keeps r s) :
    Keeps r (State.sendCnp s e q) := by
  unfold State.sendCnp
  repeat' first
    | with_reducible exact h | with_reducible refine State.sendIp_keeps ?_
    | with_reducible refine State.setQp_keeps ?_ | with_reducible refine State.bump_keeps ?_
    | with_reducible refine Keeps.ite ?_ ?_ | dsimp only

theorem State.onMark_keeps {r s : State} {e : Nat} {q : Nat} {ceMark : Bool} (h : Keeps r s) :
    Keeps r (State.onMark s e q ceMark) := by
  unfold State.onMark
  repeat' first
    | with_reducible exact h | with_reducible refine State.sendCnp_keeps ?_ | with_reducible refine Keeps.ite ?_ ?_

theorem State.takeFrame_keeps {r s : State} {e : Nat} {b : EthBody} (h : Keeps r s) :
    Keeps r (State.takeFrame s e b) := by
  unfold State.takeFrame
  repeat' first
    | with_reducible exact h | with_reducible refine State.answer_keeps ?_ | split

theorem execCmMessage_keeps {r s : State} {e : PortId} {qp : BitVec 12} {msg : CmMsg} (h : Keeps r s) :
    KeepsOut r (execCmMessage e qp msg s) := by
  unfold execCmMessage
  repeat' first
    | with_reducible exact h | with_reducible refine keepsOut_next ?_ | with_reducible refine State.answerCm_keeps ?_
    | with_reducible refine State.setQp_keeps ?_ | with_reducible refine State.connectQp_keeps ?_
    | with_reducible refine State.reply_keeps ?_ | split | dsimp only

theorem execCnpRx_keeps {r s : State} {e : PortId} {flow : Flow} (h : Keeps r s) :
    KeepsOut r (execCnpRx e flow s) := by
  unfold execCnpRx
  repeat' first
    | with_reducible exact h | with_reducible refine keepsOut_next ?_ | with_reducible refine State.bump_keeps ?_
    | with_reducible refine State.cutFlow_keeps ?_ | split

theorem execEthFrameRx_keeps {r s : State} {e : PortId} {sub : Fin 2} {f : EthFrame} (h : Keeps r s) :
    KeepsOut r (execEthFrameRx e sub f s) := by
  unfold execEthFrameRx
  repeat' first
    | with_reducible exact h | with_reducible refine keepsOut_next ?_ | with_reducible refine State.fillRx_keeps ?_
    | with_reducible refine State.countFec_keeps ?_ | with_reducible refine State.countRx_keeps ?_
    | with_reducible refine State.takeFrame_keeps ?_ | with_reducible refine State.countDrop_keeps ?_
    | with_reducible refine Keeps.ite ?_ ?_ | with_reducible refine keepsOut_ite ?_ ?_

theorem execEthInjectCrc_keeps {r s : State} {e : Fin 8} (h : Keeps r s) :
    KeepsOut r (execEthInjectCrc e s) := by
  unfold execEthInjectCrc
  repeat' first
    | with_reducible exact h | with_reducible refine keepsOut_next ?_ | with_reducible refine State.armPort_keeps ?_
    | with_reducible refine keepsOut_ite ?_ ?_

theorem execEthInjectDrop_keeps {r s : State} {e : Fin 8} (h : Keeps r s) :
    KeepsOut r (execEthInjectDrop e s) := by
  unfold execEthInjectDrop
  repeat' first
    | with_reducible exact h | with_reducible refine keepsOut_next ?_ | with_reducible refine State.armPort_keeps ?_
    | with_reducible refine keepsOut_ite ?_ ?_

theorem execIcmpEcho_keeps {r s : State} {e : PortId} {sender : EchoFrom} (h : Keeps r s) :
    KeepsOut r (execIcmpEcho e sender s) := by
  unfold execIcmpEcho
  repeat' first
    | with_reducible exact h | with_reducible refine keepsOut_next ?_ | with_reducible refine State.sendIp_keeps ?_
    | with_reducible refine keepsOut_ite ?_ ?_

theorem execLldpRx_keeps {r s : State} {e : PortId} {sub : Fin 2} {chassis : W64} {port : W64} (h : Keeps r s) :
    KeepsOut r (execLldpRx e sub chassis port s) := by
  unfold execLldpRx
  repeat' first
    | with_reducible exact h | with_reducible refine keepsOut_next ?_ | with_reducible refine State.note_keeps ?_
    | with_reducible refine keepsOut_ite ?_ ?_ | dsimp only | with_reducible refine Keeps.upd ?_ id id id id id

theorem execLldpTx_keeps {r s : State} {e : PortId} {sub : Fin 2} (h : Keeps r s) :
    KeepsOut r (execLldpTx e sub s) := by
  unfold execLldpTx
  repeat' first
    | with_reducible exact h | with_reducible refine keepsOut_next ?_ | with_reducible refine State.sendL2_keeps ?_
    | with_reducible refine keepsOut_ite ?_ ?_

theorem execNeighbourResolution_keeps {r s : State} {e : PortId} {sub : Fin 2} {msg : NeighbourMsg} (h : Keeps r s) :
    KeepsOut r (execNeighbourResolution e sub msg s) := by
  unfold execNeighbourResolution
  repeat' first
    | with_reducible exact h | with_reducible refine keepsOut_next ?_ | with_reducible refine State.draw_keeps ?_
    | with_reducible refine State.flushPort_keeps ?_ | with_reducible refine State.sendL2_keeps ?_
    | with_reducible refine Keeps.ite ?_ ?_ | with_reducible refine keepsOut_ite ?_ ?_
    | with_reducible refine Keeps.upd ?_ id id id id id

theorem execPacingRaise_keeps {r s : State} {flow : Flow} (h : Keeps r s) :
    KeepsOut r (execPacingRaise flow s) := by
  unfold execPacingRaise
  repeat' first
    | with_reducible exact h | with_reducible refine keepsOut_next ?_ | with_reducible refine State.setQp_keeps ?_
    | with_reducible refine State.setConn_keeps ?_ | split

theorem execPauseFrameRx_keeps {r s : State} {e : PortId} {tc : PortClass} {quanta : W16} (h : Keeps r s) :
    KeepsOut r (execPauseFrameRx e tc quanta s) := by
  unfold execPauseFrameRx
  repeat' first
    | with_reducible exact h | with_reducible refine keepsOut_next ?_ | with_reducible refine State.bump_keeps ?_
    | with_reducible refine State.flushTx_keeps ?_ | with_reducible refine keepsOut_ite ?_ ?_ | dsimp only
    | with_reducible refine Keeps.upd ?_ id id id id id

theorem execPcsLockChange_keeps {r s : State} {e : PortId} {sub : Fin 2} {locked : Bool} (h : Keeps r s) :
    KeepsOut r (execPcsLockChange e sub locked s) := by
  unfold execPcsLockChange
  repeat' first
    | with_reducible exact h | with_reducible refine keepsOut_next ?_ | with_reducible refine State.setFlag_keeps ?_
    | with_reducible refine State.moveConns_keeps ?_ | with_reducible refine Keeps.ite ?_ ?_
    | with_reducible refine keepsOut_ite ?_ ?_

theorem execPtpEvent_keeps {r s : State} {e : PortId} {sub : Fin 2} {msg : PtpMsg} (h : Keeps r s) :
    KeepsOut r (execPtpEvent e sub msg s) := by
  unfold execPtpEvent
  repeat' first
    | with_reducible exact h | with_reducible refine keepsOut_next ?_ | with_reducible refine State.sendL2_keeps ?_
    | with_reducible refine State.followPtp_keeps ?_ | with_reducible refine keepsOut_ite ?_ ?_ | dsimp only
    | with_reducible refine Keeps.upd ?_ id id id id id

theorem execSend_keeps {r s : State} {e : PortId} {head : RoceHead} {msg : SendMsg} (h : Keeps r s) :
    KeepsOut r (execSend e head msg s) := by
  unfold execSend
  repeat' first
    | with_reducible exact h | with_reducible refine keepsOut_next ?_ | with_reducible refine State.answer_keeps ?_
    | with_reducible refine State.onMark_keeps ?_ | with_reducible refine State.reply_keeps ?_
    | with_reducible refine keepsOut_ite ?_ ?_ | dsimp only

end Sys2Proof.Machine
end

