-- ==== Sys2Proof/Laws/KeepsRegs.lean ====
section
/-! SUPPORT. What the operations of Machine/Regs.lean keep. -/

namespace Sys2Proof.Machine

theorem State.writeActs_keeps {r s z : State} {b : Blk} {f o : Nat} {w : W64} (e : State.writeActs s b f o w = some z)
    (h : Keeps r s) : Keeps r z := by
  have key : ∀ {c : Prop} [Decidable c] {x : State}, (if c then some x else none) = some z → Keeps r x → Keeps r z := by
    intro c _ x e g
    split at e
    · cases e; exact g
    · cases e
  unfold State.writeActs at e
  dsimp only at e
  cases b <;> dsimp only at e
  case chip => exact key e (Keeps.ite (State.frstJob_keeps h) (State.frstFn_keeps h))
  case pwr =>
    split at e
    · cases e; exact State.requestState_keeps h
    · exact key e (State.refreshThrot_keeps (State.wr_keeps h))
  case sec => exact key e (State.takeNonce_keeps h)
  case sch => exact key e (Keeps.ite (State.restartLogs_keeps (Keeps.ite (State.restartPair_keeps h) h))
    (Keeps.ite (State.restartPair_keeps h) h))
  case log => exact key e (State.testEntry_keeps h)
  case bist => exact key e (Keeps.ite (State.fuseGo_keeps h) h)
  case hbm => exact key e (State.armStack_keeps h)
  case pagemap => exact key e (State.writeEntry_keeps h)
  case tether => exact key e (Keeps.ite (State.injectFail_keeps (Keeps.ite (State.injectFrame_keeps h) h))
    (Keeps.ite (State.injectFrame_keeps h) h))
  case eth => exact key e (Keeps.ite (State.armPort_keeps (Keeps.ite (State.armPort_keeps h) h))
    (Keeps.ite (State.armPort_keeps h) h))
  case cluster => exact key e (Keeps.ite (State.armFlip_keeps h) h)
  case core => exact key e (State.writeRowmap_keeps h)
  all_goals cases e

theorem State.writeReg_keeps {r s : State} {f o : Nat} {w : W64} (h : Keeps r s) : Keeps r (State.writeReg s f o w) := by
  unfold State.writeReg
  split
  · exact h
  · refine Keeps.ite h ?_
    cases e : State.writeActs s _ f o w with
    | none => exact State.wr_keeps h
    | some z => exact State.writeActs_keeps e h

theorem execCsrWrite_keeps {r s : State} {func : BitVec 10} {offset : BitVec 12} {value : W64} (h : Keeps r s) :
    KeepsOut r (execCsrWrite func offset value s) := by
  unfold execCsrWrite
  repeat' first
    | with_reducible exact h | with_reducible refine keepsOut_next ?_ | with_reducible refine State.writeReg_keeps ?_
    | with_reducible refine keepsOut_ite ?_ ?_

end Sys2Proof.Machine
end

