-- ==== Sys2Proof/Laws/KeepsServices.lean ====
section
/-! SUPPORT. What the operations of Machine/Services.lean keep. -/

namespace Sys2Proof.Machine

theorem State.svcEvent_keeps {r s : State} {x : Svc} {status : Nat} (h : Keeps r s) :
    Keeps r (State.svcEvent s x status) := by
  unfold State.svcEvent
  repeat' first
    | with_reducible exact h | with_reducible refine State.event_keeps ?_

theorem State.tellSvc_keeps {r s : State} {x : Svc} {status : Nat} {result : List Byte} (h : Keeps r s) :
    Keeps r (State.tellSvc s x status result) := by
  unfold State.tellSvc
  repeat' first
    | with_reducible exact h | with_reducible refine State.svcEvent_keeps ?_
    | with_reducible refine State.finish_keeps ?_ | with_reducible refine Keeps.ite ?_ ?_

theorem State.failSvc_keeps {r s : State} {i : Nat} {x : Svc} {keep : Bool} (h : Keeps r s) :
    Keeps r (State.failSvc s i x keep) := by
  unfold State.failSvc
  repeat' first
    | with_reducible exact h | with_reducible refine State.setSvc_keeps ?_
    | with_reducible refine State.tellSvc_keeps ?_ | with_reducible refine State.bump_keeps ?_
    | with_reducible refine State.svcEvent_keeps ?_ | split

theorem State.abandonSvcs_keeps {r s : State} {p : Svc → Bool} (h : Keeps r s) :
    Keeps r (State.abandonSvcs s p) := by
  unfold State.abandonSvcs
  repeat' first
    | with_reducible exact h | with_reducible assumption | with_reducible refine State.setSvc_keeps ?_
    | with_reducible refine State.failSvc_keeps ?_ | with_reducible refine foldl_keeps ?_ ?_ | intro _ | split

theorem State.askQp_keeps {r s : State} {n : Nat} (h : Keeps r s) :
    Keeps r (State.askQp s n) := by
  unfold State.askQp
  repeat' first
    | with_reducible exact h | with_reducible refine State.setQp_keeps ?_ | with_reducible refine Keeps.ite ?_ ?_

theorem State.endSvc_keeps {r s : State} {i : Nat} {x : Svc} (h : Keeps r s) :
    Keeps r (State.endSvc s i x) := by
  unfold State.endSvc
  repeat' first
    | with_reducible exact h | with_reducible refine State.tellSvc_keeps ?_
    | with_reducible refine State.bump_keeps ?_ | with_reducible refine State.setSvc_keeps ?_

theorem State.fetchWord_keeps {r s : State} {a : Nat} (h : Keeps r s) :
    Keeps r (State.fetchWord s a) := by
  unfold State.fetchWord
  repeat' first
    | with_reducible exact h | with_reducible refine State.writeGranule_keeps ?_
    | with_reducible refine Keeps.upd ?_ id id id id id

theorem State.moveSvc_keeps {r s : State} {i : Nat} {x : Svc} (h : Keeps r s) :
    Keeps r (State.moveSvc s i x) := by
  unfold State.moveSvc
  repeat' first
    | with_reducible exact h | with_reducible refine State.bump_keeps ?_ | with_reducible refine State.setSvc_keeps ?_

theorem State.sendRegion_keeps {r s : State} {a : Nat} {n : Nat} (h : Keeps r s) :
    Keeps r (State.sendRegion s a n).1 := by
  unfold State.sendRegion
  repeat' first
    | with_reducible exact h | with_reducible assumption | with_reducible refine State.readGranule_keeps ?_
    | with_reducible refine foldl_fst_keeps ?_ ?_ | intro _

theorem State.sendOff_keeps {r s : State} {i : Nat} {x : Svc} {rs : List (Nat × Nat × Nat)} (h : Keeps r s) :
    Keeps r (State.sendOff s i x rs) := by
  unfold State.sendOff
  repeat' first
    | with_reducible exact h | with_reducible assumption | with_reducible refine State.sendRegion_keeps ?_
    | with_reducible refine State.moveSvc_keeps ?_ | with_reducible refine State.askQp_keeps ?_
    | with_reducible refine foldl_fst_keeps ?_ ?_ | intro _

theorem State.svcGuard_keeps {r s : State} {i : Nat} {x : Svc} {rs : List (Nat × Nat × Nat)} {go : State → State} (hf : ∀ t, Keeps r t → Keeps r (go t))
    (h : Keeps r s) :
    Keeps r (State.svcGuard s i x rs go) := by
  unfold State.svcGuard
  repeat' first
    | with_reducible exact h | with_reducible refine hf _ ?_ | with_reducible refine State.failSvc_keeps ?_
    | with_reducible refine State.pageFault_keeps ?_ | split

theorem execCheckpointStart_keeps {r s : State} {svc : Nat} (h : Keeps r s) :
    KeepsOut r (execCheckpointStart svc s) := by
  unfold execCheckpointStart
  repeat' first
    | with_reducible exact h | with_reducible assumption | with_reducible refine keepsOut_next ?_
    | with_reducible refine State.svcGuard_keeps ?_ ?_ | with_reducible refine State.sendOff_keeps ?_ | intro _
    | split

theorem execFetchStart_keeps {r s : State} {svc : Nat} (h : Keeps r s) :
    KeepsOut r (execFetchStart svc s) := by
  unfold execFetchStart
  repeat' first
    | with_reducible exact h | with_reducible assumption | with_reducible refine keepsOut_next ?_
    | with_reducible refine State.svcGuard_keeps ?_ ?_ | with_reducible refine State.setSvc_keeps ?_
    | with_reducible refine State.askQp_keeps ?_ | intro _ | split

theorem execHaloStream_keeps {r s : State} {svc : Nat} (h : Keeps r s) :
    KeepsOut r (execHaloStream svc s) := by
  unfold execHaloStream
  repeat' first
    | with_reducible exact h | with_reducible assumption | with_reducible refine keepsOut_next ?_
    | with_reducible refine State.svcGuard_keeps ?_ ?_ | with_reducible refine State.sendOff_keeps ?_ | intro _
    | split

theorem execQpErrorState_keeps {r s : State} {qp : BitVec 12} (h : Keeps r s) :
    KeepsOut r (execQpErrorState qp s) := by
  unfold execQpErrorState
  repeat' first
    | with_reducible exact h | with_reducible assumption | with_reducible refine keepsOut_next ?_
    | with_reducible refine State.setQp_keeps ?_ | with_reducible refine State.failSvc_keeps ?_
    | with_reducible refine foldl_keeps ?_ ?_ | intro _ | split | dsimp only

theorem execServiceComplete_keeps {r s : State} {svc : Nat} (h : Keeps r s) :
    KeepsOut r (execServiceComplete svc s) := by
  unfold execServiceComplete
  repeat' first
    | with_reducible exact h | with_reducible assumption | with_reducible refine keepsOut_next ?_
    | with_reducible refine State.svcGuard_keeps ?_ ?_ | with_reducible refine State.fetchWord_keeps ?_
    | with_reducible refine State.endSvc_keeps ?_ | with_reducible refine State.failSvc_keeps ?_ | with_reducible refine State.bump_keeps ?_
    | with_reducible refine foldl_keeps ?_ ?_ | intro _ | split

end Sys2Proof.Machine
end

