-- ==== Sys2Proof/Laws/KeepsBraidApply.lean ====
section
/-! SUPPORT. What the operations of Machine/BraidApply.lean keep. -/

namespace Sys2Proof.Machine

theorem State.abandonWork_keeps {r s : State} (h : Keeps r s) :
    Keeps r (State.abandonWork s) := by
  unfold State.abandonWork
  repeat' first
    | with_reducible exact h | with_reducible refine State.abandonSvcs_keeps ?_
    | with_reducible refine State.finish_keeps ?_ | split | dsimp only

theorem State.clearIndexPage_keeps {r s : State} (h : Keeps r s) :
    Keeps r (State.clearIndexPage s) := by
  unfold State.clearIndexPage
  repeat' first
    | with_reducible exact h | with_reducible assumption | with_reducible refine State.putIndex_keeps ?_
    | with_reducible refine foldl_keeps ?_ ?_ | intro _

theorem State.dropJobs_keeps {r s : State} (h : Keeps r s) :
    Keeps r (State.dropJobs s) := by
  unfold State.dropJobs
  repeat' first
    | with_reducible exact h | with_reducible assumption | with_reducible refine State.unbind_keeps ?_
    | with_reducible refine State.loseChecks_keeps ?_ | with_reducible refine State.setCluster_keeps ?_
    | with_reducible refine foldl_keeps ?_ ?_ | intro _ | dsimp only
    | with_reducible refine Keeps.upd ?_ id id id id id

theorem State.firstStrand_keeps {r s : State} (h : Keeps r s) :
    Keeps r (State.firstStrand s) := by
  unfold State.firstStrand
  repeat' first
    | with_reducible exact h | with_reducible assumption | with_reducible refine State.setChipMode_keeps ?_
    | with_reducible refine State.applyCheck_keeps ?_ | with_reducible refine foldl_keeps ?_ ?_ | intro _

theorem State.initRegs_keeps {r s : State} (h : Keeps r s) : Keeps r (State.initRegs s) := by
  unfold State.initRegs
  dsimp only
  refine foldl_keeps (fun t b g => foldl_keeps (fun t i g => ?_) g) (foldl_keeps (fun t f g => State.dropExpert_keeps g) h)
  exact State.dropExpert_keeps (State.writeReg_keeps (State.setFlag_keeps g))

theorem State.putBraid_keeps {r s : State} {b : List Byte} (h : Keeps r s) :
    Keeps r (State.putBraid s b) := by
  unfold State.putBraid
  repeat' first
    | with_reducible exact h | dsimp only | with_reducible refine Keeps.upd ?_ id id id id id

theorem State.loadPod_keeps {r s : State} (h : Keeps r s) :
    Keeps r (State.loadPod s) := by
  unfold State.loadPod
  repeat' first
    | with_reducible exact h | with_reducible assumption | with_reducible refine State.setFld_keeps ?_
    | with_reducible refine State.setFlag_keeps ?_ | with_reducible refine State.setAlignLead_keeps ?_
    | with_reducible refine State.startBeat_keeps ?_ | with_reducible refine foldl_keeps ?_ ?_ | intro _
    | with_reducible refine Keeps.ite ?_ ?_ | dsimp only

theorem State.loadChip_keeps {r s : State} (h : Keeps r s) :
    Keeps r (State.loadChip s) := by
  unfold State.loadChip
  repeat' first
    | with_reducible exact h | with_reducible refine State.setFld_keeps ?_ | with_reducible refine State.bump_keeps ?_
    | with_reducible refine State.setFlag_keeps ?_

theorem State.loadPeers_keeps {r s : State} (h : Keeps r s) :
    Keeps r (State.loadPeers s) := by
  unfold State.loadPeers
  repeat' first
    | with_reducible exact h | with_reducible assumption | with_reducible refine State.setFlag_keeps ?_
    | with_reducible refine State.setFld_keeps ?_ | with_reducible refine State.writeHbm_keeps ?_
    | with_reducible refine State.clearMem_keeps ?_ | with_reducible refine foldl_keeps ?_ ?_ | intro _
    | with_reducible refine Keeps.ite ?_ ?_ | dsimp only

theorem State.loadPages_keeps {r s : State} (h : Keeps r s) :
    Keeps r (State.loadPages s) := by
  unfold State.loadPages
  repeat' first
    | with_reducible exact h | with_reducible assumption | with_reducible refine State.setPage_keeps ?_
    | with_reducible refine foldl_keeps ?_ ?_ | intro _ | with_reducible refine Keeps.upd ?_ id id id id id

theorem State.loadLink_keeps {r s : State} {l : Nat} (h : Keeps r s) :
    Keeps r (State.loadLink s l) := by
  unfold State.loadLink
  repeat' first
    | with_reducible exact h | with_reducible refine State.setFlag_keeps ?_
    | with_reducible refine State.judgeLink_keeps ?_ | with_reducible refine State.setLink_keeps ?_
    | with_reducible refine Keeps.ite ?_ ?_

theorem State.loadPort_keeps {r s : State} {e : Nat} (h : Keeps r s) :
    Keeps r (State.loadPort s e) := by
  unfold State.loadPort
  repeat' first
    | with_reducible exact h | with_reducible refine State.setFlag_keeps ?_ | with_reducible refine Keeps.ite ?_ ?_
    | dsimp only

theorem State.loadBraid_keeps {r s : State} {p : PendBraid} (h : Keeps r s) :
    Keeps r (State.loadBraid s p) := by
  unfold State.loadBraid
  repeat' first
    | with_reducible exact h | with_reducible assumption | with_reducible refine State.putBraid_keeps ?_
    | with_reducible refine State.dropJobs_keeps ?_ | with_reducible refine State.abandonWork_keeps ?_
    | with_reducible refine State.loadPod_keeps ?_ | with_reducible refine State.loadChip_keeps ?_
    | with_reducible refine State.clearIndexPage_keeps ?_ | with_reducible refine State.loadPeers_keeps ?_
    | with_reducible refine State.loadPages_keeps ?_ | with_reducible refine State.loadLink_keeps ?_
    | with_reducible refine State.loadPort_keeps ?_ | with_reducible refine State.moveConns_keeps ?_
    | with_reducible refine State.reopenConn_keeps ?_ | with_reducible refine State.setFlag_keeps ?_
    | with_reducible refine State.refreshStage_keeps ?_ | with_reducible refine State.refreshSch_keeps ?_
    | with_reducible refine State.firstStrand_keeps ?_ | with_reducible refine State.initRegs_keeps ?_
    | with_reducible refine State.complete_keeps ?_ | with_reducible refine State.event_keeps ?_
    | with_reducible refine foldl_keeps ?_ ?_ | intro _ | with_reducible refine Keeps.ite ?_ ?_

theorem execBraidLoadApply_keeps {r s : State} (h : Keeps r s) :
    KeepsOut r (execBraidLoadApply s) := by
  unfold execBraidLoadApply
  repeat' first
    | with_reducible exact h | with_reducible refine keepsOut_next ?_
    | with_reducible refine State.drainShadows_keeps ?_ | with_reducible refine State.flushRecords_keeps ?_
    | with_reducible refine State.loadBraid_keeps ?_ | split | dsimp only

end Sys2Proof.Machine
end

