-- ==== Sys2Proof/Laws/KeepsClocks.lean ====
section
/-! SUPPORT. What the operations of Machine/Clocks.lean keep. -/

namespace Sys2Proof.Machine

theorem State.aonLocked_keeps {r s : State} (h : Keeps r s) :
    Keeps r (State.aonLocked s) := by
  unfold State.aonLocked
  repeat' first
    | with_reducible exact h | with_reducible refine State.setStage_keeps ?_ | with_reducible refine Keeps.ite ?_ ?_
    | with_reducible refine Keeps.upd ?_ id id id id id

theorem State.finishWake_keeps {r s : State} (h : Keeps r s) :
    Keeps r (State.finishWake s) := by
  unfold State.finishWake
  repeat' first
    | with_reducible exact h | with_reducible assumption | with_reducible refine State.setPwrState_keeps ?_
    | with_reducible refine State.loadHoles_keeps ?_ | with_reducible refine State.resetCluster_keeps ?_
    | with_reducible refine State.readyStack_keeps ?_ | with_reducible refine State.refreshRails_keeps ?_
    | with_reducible refine foldl_keeps ?_ ?_ | intro _ | with_reducible refine Keeps.ite ?_ ?_
    | with_reducible refine Keeps.upd ?_ id id id id id

theorem State.setRailFault_keeps {r s : State} {r' : Nat} (h : Keeps r s) :
    Keeps r (State.setRailFault s r') := by
  unfold State.setRailFault
  repeat' first
    | with_reducible exact h | with_reducible refine State.setFlag_keeps ?_

theorem State.pmbFail_keeps {r s : State} {r' : Nat} (h : Keeps r s) :
    Keeps r (State.pmbFail s r') := by
  unfold State.pmbFail
  repeat' first
    | with_reducible exact h | with_reducible refine State.setFld_keeps ?_ | with_reducible refine State.bump_keeps ?_
    | with_reducible refine State.setRail_keeps ?_ | with_reducible refine State.refreshRails_keeps ?_
    | with_reducible refine State.setRailFault_keeps ?_ | with_reducible refine Keeps.ite ?_ ?_ | dsimp only

theorem State.railOff_keeps {r s : State} {r' : Nat} {vout : Nat} {mode : Nat} (h : Keeps r s) :
    Keeps r (State.railOff s r' vout mode) := by
  unfold State.railOff
  repeat' first
    | with_reducible exact h | with_reducible refine State.refreshRails_keeps ?_
    | with_reducible refine State.setRail_keeps ?_ | with_reducible refine Keeps.ite ?_ ?_ | dsimp only
    | with_reducible refine Keeps.upd ?_ id id id id id

theorem State.railOn_keeps {r s : State} {r' : Nat} (h : Keeps r s) :
    Keeps r (State.railOn s r') := by
  unfold State.railOn
  repeat' first
    | with_reducible exact h | with_reducible refine State.refreshRails_keeps ?_
    | with_reducible refine State.setRail_keeps ?_ | with_reducible refine Keeps.upd ?_ id id id id id

theorem State.readStatus_keeps {r s : State} {r' : Nat} {a : PmbAnswer} (h : Keeps r s) :
    Keeps r (State.readStatus s r' a) := by
  unfold State.readStatus
  repeat' first
    | with_reducible exact h | with_reducible refine State.pmbFail_keeps ?_
    | with_reducible refine State.setRail_keeps ?_ | with_reducible refine State.refreshAlert_keeps ?_
    | with_reducible refine State.setRailFault_keeps ?_ | split

theorem State.refreshRef_keeps {r s : State} (h : Keeps r s) :
    Keeps r (State.refreshRef s) := by
  unfold State.refreshRef
  repeat' first
    | with_reducible exact h | with_reducible refine State.refreshAlert_keeps ?_
    | with_reducible refine State.setFlag_keeps ?_

theorem State.referenceFail_keeps {r s : State} (h : Keeps r s) :
    Keeps r (State.referenceFail s) := by
  unfold State.referenceFail
  repeat' first
    | with_reducible exact h | with_reducible refine State.bump_keeps ?_
    | with_reducible refine State.refreshRef_keeps ?_ | with_reducible refine State.setFld_keeps ?_
    | with_reducible refine State.restartNonAon_keeps ?_ | with_reducible refine Keeps.ite ?_ ?_ | dsimp only

theorem State.setGroupPin_keeps {r s : State} {g : PgGroup} {b : Bool} (h : Keeps r s) :
    Keeps r (State.setGroupPin s g b) := by
  unfold State.setGroupPin
  repeat' first
    | with_reducible exact h | with_reducible refine Keeps.upd ?_ id id id id id

theorem State.setTap_keeps {r s : State} {i : TapInstr} {drive : Bool} (h : Keeps r s) :
    Keeps r (State.setTap s i drive) := by
  unfold State.setTap
  repeat' first
    | with_reducible exact h | with_reducible refine State.startBoot_keeps ?_ | with_reducible refine Keeps.ite ?_ ?_
    | dsimp only | with_reducible refine Keeps.upd ?_ id id id id id

theorem State.setTest_keeps {r s : State} {i : TapInstr} (h : Keeps r s) :
    Keeps r (State.setTest s i) := by
  unfold State.setTest
  repeat' first
    | with_reducible exact h | with_reducible refine State.setTap_keeps ?_ | with_reducible refine Keeps.ite ?_ ?_

theorem State.setWindows_keeps {r s : State} {i : Nat} {n : Nat} (h : Keeps r s) :
    Keeps r (State.setWindows s i n) := by
  unfold State.setWindows
  repeat' first
    | with_reducible exact h | with_reducible refine Keeps.upd ?_ id id id id id

theorem State.skipRail_keeps {r s : State} {r' : Nat} (h : Keeps r s) :
    Keeps r (State.skipRail s r') := by
  unfold State.skipRail
  repeat' first
    | with_reducible exact h | with_reducible refine Keeps.upd ?_ id id id id id

theorem execBypass_keeps {r s : State} (h : Keeps r s) :
    KeepsOut r (execBypass s) := by
  unfold execBypass
  repeat' first
    | with_reducible exact h | with_reducible refine keepsOut_next ?_ | with_reducible refine State.setTap_keeps ?_

theorem execExtest_keeps {r s : State} (h : Keeps r s) :
    KeepsOut r (execExtest s) := by
  unfold execExtest
  repeat' first
    | with_reducible exact h | with_reducible refine keepsOut_next ?_ | with_reducible refine State.setTest_keeps ?_

theorem execExtestPulse_keeps {r s : State} (h : Keeps r s) :
    KeepsOut r (execExtestPulse s) := by
  unfold execExtestPulse
  repeat' first
    | with_reducible exact h | with_reducible refine keepsOut_next ?_ | with_reducible refine State.setTest_keeps ?_

theorem execExtestTrain_keeps {r s : State} (h : Keeps r s) :
    KeepsOut r (execExtestTrain s) := by
  unfold execExtestTrain
  repeat' first
    | with_reducible exact h | with_reducible refine keepsOut_next ?_ | with_reducible refine State.setTest_keeps ?_

theorem execIdcode_keeps {r s : State} (h : Keeps r s) :
    KeepsOut r (execIdcode s) := by
  unfold execIdcode
  repeat' first
    | with_reducible exact h | with_reducible refine keepsOut_next ?_ | with_reducible refine State.setTap_keeps ?_

theorem execIoscRetrim_keeps {r s : State} {trim : W16} {err : W16} (h : Keeps r s) :
    KeepsOut r (execIoscRetrim trim err s) := by
  unfold execIoscRetrim
  repeat' first
    | with_reducible exact h | with_reducible refine keepsOut_next ?_ | with_reducible refine State.setFld_keeps ?_
    | with_reducible refine keepsOut_ite ?_ ?_

theorem execPllLockLoss_keeps {r s : State} {pll : Pll} (h : Keeps r s) :
    KeepsOut r (execPllLockLoss pll s) := by
  unfold execPllLockLoss
  repeat' first
    | with_reducible exact h | with_reducible refine keepsOut_next ?_ | with_reducible refine State.setFlag_keeps ?_
    | with_reducible refine State.bump_keeps ?_ | with_reducible refine State.restartNonAon_keeps ?_
    | with_reducible refine State.setFld_keeps ?_ | with_reducible refine Keeps.ite ?_ ?_
    | with_reducible refine keepsOut_ite ?_ ?_

theorem execPllLocked_keeps {r s : State} {pll : Pll} (h : Keeps r s) :
    KeepsOut r (execPllLocked pll s) := by
  unfold execPllLocked
  repeat' first
    | with_reducible exact h | with_reducible refine keepsOut_next ?_ | with_reducible refine State.setFlag_keeps ?_
    | with_reducible refine State.aonLocked_keeps ?_ | with_reducible refine State.finishWake_keeps ?_
    | with_reducible refine Keeps.ite ?_ ?_ | with_reducible refine keepsOut_ite ?_ ?_

theorem execPmbAlert_keeps {r s : State} {rail : Fin 13} {answer : PmbAnswer} (h : Keeps r s) :
    KeepsOut r (execPmbAlert rail answer s) := by
  unfold execPmbAlert
  repeat' first
    | with_reducible exact h | with_reducible refine keepsOut_next ?_
    | with_reducible refine State.readStatus_keeps ?_ | with_reducible refine Keeps.ite ?_ ?_

theorem execPmbusStatusPoll_keeps {r s : State} {rail : Fin 13} {answer : PmbAnswer} (h : Keeps r s) :
    KeepsOut r (execPmbusStatusPoll rail answer s) := by
  unfold execPmbusStatusPoll
  repeat' first
    | with_reducible exact h | with_reducible refine keepsOut_next ?_
    | with_reducible refine State.readStatus_keeps ?_ | with_reducible refine Keeps.ite ?_ ?_

theorem execPmbusTelemetryPoll_keeps {r s : State} {rail : Fin 13} {answer : PmbAnswer} (h : Keeps r s) :
    KeepsOut r (execPmbusTelemetryPoll rail answer s) := by
  unfold execPmbusTelemetryPoll
  repeat' first
    | with_reducible exact h | with_reducible refine keepsOut_next ?_ | with_reducible refine State.pmbFail_keeps ?_
    | with_reducible refine State.setRail_keeps ?_ | split

theorem execPwrgoodAonFall_keeps {r s : State} (h : Keeps r s) :
    KeepsOut r (execPwrgoodAonFall s) := by
  unfold execPwrgoodAonFall
  repeat' first
    | with_reducible exact h | with_reducible refine keepsOut_next ?_ | with_reducible refine State.chipReset_keeps ?_
    | with_reducible refine Keeps.upd ?_ id id id id id

theorem execPwrgoodFall_keeps {r s : State} {g : PgGroup} (h : Keeps r s) :
    KeepsOut r (execPwrgoodFall g s) := by
  unfold execPwrgoodFall
  repeat' first
    | with_reducible exact h | with_reducible assumption | with_reducible refine keepsOut_next ?_
    | with_reducible refine State.setGroupPin_keeps ?_ | with_reducible refine State.refreshRails_keeps ?_
    | with_reducible refine State.rebootChip_keeps ?_ | with_reducible refine State.report_keeps ?_
    | with_reducible refine State.dipDie_keeps ?_ | with_reducible refine State.dipStack_keeps ?_
    | with_reducible refine foldl_keeps ?_ ?_ | intro _ | with_reducible refine Keeps.ite ?_ ?_
    | with_reducible refine keepsOut_ite ?_ ?_ | dsimp only

theorem execPwrgoodRise_keeps {r s : State} {g : PgGroup} (h : Keeps r s) :
    KeepsOut r (execPwrgoodRise g s) := by
  unfold execPwrgoodRise
  repeat' first
    | with_reducible exact h | with_reducible refine keepsOut_next ?_
    | with_reducible refine State.refreshRails_keeps ?_ | with_reducible refine State.setGroupPin_keeps ?_
    | with_reducible refine keepsOut_ite ?_ ?_

theorem execRailGoodTimeout_keeps {r s : State} {rail : Fin 13} (h : Keeps r s) :
    KeepsOut r (execRailGoodTimeout rail s) := by
  unfold execRailGoodTimeout
  repeat' first
    | with_reducible exact h | with_reducible refine keepsOut_next ?_
    | with_reducible refine State.refreshRails_keeps ?_ | with_reducible refine State.setRailFault_keeps ?_
    | with_reducible refine keepsOut_ite ?_ ?_ | dsimp only

theorem execRailSequence_keeps {r s : State} {rail : Fin 13} {vout : PmbAnswer} {mode : PmbAnswer} {onoff : PmbAnswer} (h : Keeps r s) :
    KeepsOut r (execRailSequence rail vout mode onoff s) := by
  unfold execRailSequence
  repeat' first
    | with_reducible exact h | with_reducible refine keepsOut_next ?_ | with_reducible refine State.skipRail_keeps ?_
    | with_reducible refine State.refreshRails_keeps ?_ | with_reducible refine State.setRailFault_keeps ?_
    | with_reducible refine State.setRail_keeps ?_ | with_reducible refine State.railOff_keeps ?_
    | with_reducible refine State.railOn_keeps ?_ | with_reducible refine State.pmbFail_keeps ?_ | split | dsimp only

theorem execReferenceWindow_keeps {r s : State} {refclk : Bool} {count : Nat} (h : Keeps r s) :
    KeepsOut r (execReferenceWindow refclk count s) := by
  unfold execReferenceWindow
  repeat' first
    | with_reducible exact h | with_reducible refine keepsOut_next ?_
    | with_reducible refine State.refreshRef_keeps ?_ | with_reducible refine State.setWindows_keeps ?_
    | with_reducible refine State.referenceFail_keeps ?_ | split

theorem execResetNAssert_keeps {r s : State} (h : Keeps r s) :
    KeepsOut r (execResetNAssert s) := by
  unfold execResetNAssert
  repeat' first
    | with_reducible exact h | with_reducible refine keepsOut_next ?_ | with_reducible refine State.chipReset_keeps ?_
    | with_reducible refine keepsOut_ite ?_ ?_ | with_reducible refine Keeps.upd ?_ id id id id id

theorem execResetNRelease_keeps {r s : State} {mgmt10g : Bool} {refsel : Bool} {ssc : Bool} (h : Keeps r s) :
    KeepsOut r (execResetNRelease mgmt10g refsel ssc s) := by
  unfold execResetNRelease
  repeat' first
    | with_reducible exact h | with_reducible refine keepsOut_next ?_ | with_reducible refine State.startBoot_keeps ?_
    | with_reducible refine Keeps.ite ?_ ?_ | with_reducible refine keepsOut_ite ?_ ?_
    | with_reducible refine Keeps.upd ?_ id id id id id

theorem execSamplePreload_keeps {r s : State} {pins : BitVec 17} (h : Keeps r s) :
    KeepsOut r (execSamplePreload pins s) := by
  unfold execSamplePreload
  repeat' first
    | with_reducible exact h | with_reducible refine keepsOut_next ?_ | with_reducible refine State.setTap_keeps ?_
    | with_reducible refine Keeps.upd ?_ id id id id id

theorem execTapReset_keeps {r s : State} (h : Keeps r s) :
    KeepsOut r (execTapReset s) := by
  unfold execTapReset
  repeat' first
    | with_reducible exact h | with_reducible refine keepsOut_next ?_ | with_reducible refine State.setTap_keeps ?_

end Sys2Proof.Machine
end

