-- ==== Sys2Proof/Laws/KeepsCommands.lean ====
section
/-! SUPPORT. What the operations of Machine/Commands.lean keep. -/

namespace Sys2Proof.Machine

theorem State.holdBraid_keeps {r s : State} {p : Nat} (h : Keeps r s) :
    Keeps r (State.holdBraid s p) := by
  unfold State.holdBraid
  repeat' first
    | with_reducible exact h | with_reducible refine State.setBraidPending_keeps ?_
    | with_reducible refine Keeps.ite ?_ ?_ | dsimp only | with_reducible refine Keeps.upd ?_ id id id id id

theorem State.noCmd_keeps {r s : State} {op : Nat} {c : Cmd} {status : Nat} {detail : Nat} (h : Keeps r s) :
    Keeps r (State.noCmd s op c status detail) := by
  unfold State.noCmd
  repeat' first
    | with_reducible exact h | with_reducible refine State.complete_keeps ?_

theorem State.noSvcCmd_keeps {r s : State} {op : Nat} {c : Cmd} {status : Nat} {detail : Nat} (h : Keeps r s) :
    Keeps r (State.noSvcCmd s op c status detail) := by
  unfold State.noSvcCmd
  repeat' first
    | with_reducible exact h | with_reducible refine State.noCmd_keeps ?_ | with_reducible refine State.bump_keeps ?_

theorem State.noSvcPage_keeps {r s : State} {op : Nat} {c : Cmd} {j : Nat} {p : Nat} (h : Keeps r s) :
    Keeps r (State.noSvcPage s op c j p) := by
  unfold State.noSvcPage
  repeat' first
    | with_reducible exact h | with_reducible refine State.noSvcCmd_keeps ?_
    | with_reducible refine State.pageFault_keeps ?_

theorem State.okCmd_keeps {r s : State} {op : Nat} {c : Cmd} {result : List Byte} (h : Keeps r s) :
    Keeps r (State.okCmd s op c result) := by
  unfold State.okCmd
  repeat' first
    | with_reducible exact h | with_reducible refine State.complete_keeps ?_

theorem nopBody_keeps {r s : State} {op : Nat} {c : Cmd} (h : Keeps r s) :
    Keeps r (nopBody s op c) := by
  unfold nopBody
  repeat' first
    | with_reducible exact h | with_reducible refine State.okCmd_keeps ?_

theorem State.setHello_keeps {r s : State} {p : Nat} {ok : Bool} {differs : Bool} (h : Keeps r s) :
    Keeps r (State.setHello s p ok differs) := by
  unfold State.setHello
  repeat' first
    | with_reducible exact h | with_reducible refine Keeps.upd ?_ id id id id id

theorem helloBody_keeps {r s : State} {op : Nat} {c : Cmd} (h : Keeps r s) :
    Keeps r (helloBody s op c) := by
  unfold helloBody
  repeat' first
    | with_reducible exact h | with_reducible refine State.complete_keeps ?_
    | with_reducible refine State.setHello_keeps ?_ | with_reducible refine State.note_keeps ?_
    | with_reducible refine State.okCmd_keeps ?_ | with_reducible refine Keeps.ite ?_ ?_

theorem loadprogBody_keeps {r s : State} {op : Nat} {c : Cmd} (h : Keeps r s) :
    Keeps r (loadprogBody s op c) := by
  unfold loadprogBody
  repeat' first
    | with_reducible exact h | with_reducible refine State.abortTrigger_keeps ?_
    | with_reducible refine State.noCmd_keeps ?_ | with_reducible refine State.readHbm_keeps ?_
    | with_reducible refine State.setJob_keeps ?_ | with_reducible refine State.await_keeps ?_ | split | dsimp only
    | with_reducible refine Keeps.upd ?_ id id id id id

theorem State.stageCheck_keeps {r s : State} {i : Nat} {j : Nat} (h : Keeps r s) :
    Keeps r (State.stageCheck s i j) := by
  unfold State.stageCheck
  repeat' first
    | with_reducible exact h | with_reducible refine State.applyStaged_keeps ?_
    | with_reducible refine State.setJob_keeps ?_ | with_reducible refine Keeps.ite ?_ ?_

theorem strandBody_keeps {r s : State} {op : Nat} {c : Cmd} (h : Keeps r s) :
    Keeps r (strandBody s op c) := by
  unfold strandBody
  repeat' first
    | with_reducible exact h | with_reducible assumption | with_reducible refine State.noCmd_keeps ?_
    | with_reducible refine State.abortTrigger_keeps ?_ | with_reducible refine State.settleStrand_keeps ?_
    | with_reducible refine State.await_keeps ?_ | with_reducible refine State.stageCheck_keeps ?_
    | with_reducible refine State.applyChip_keeps ?_ | with_reducible refine foldl_keeps ?_ ?_ | intro _
    | with_reducible refine Keeps.ite ?_ ?_ | dsimp only | with_reducible refine Keeps.upd ?_ id id id id id

theorem State.startSvc_keeps {r s : State} {op : Nat} {c : Cmd} {x : Svc} (h : Keeps r s) :
    Keeps r (State.startSvc s op c x) := by
  unfold State.startSvc
  repeat' first
    | with_reducible exact h | with_reducible assumption | with_reducible refine State.setSvc_keeps ?_
    | with_reducible refine State.await_keeps ?_ | with_reducible refine foldl_keeps ?_ ?_ | intro _

theorem serviceBody_keeps {r s : State} {op : Nat} {c : Cmd} (h : Keeps r s) :
    Keeps r (serviceBody s op c) := by
  unfold serviceBody
  repeat' first
    | with_reducible exact h | with_reducible refine State.noSvcPage_keeps ?_
    | with_reducible refine State.readHbm_keeps ?_ | with_reducible refine State.noSvcCmd_keeps ?_
    | with_reducible refine State.startSvc_keeps ?_ | split | dsimp only

theorem peerupdBody_keeps {r s : State} {op : Nat} {c : Cmd} (h : Keeps r s) :
    Keeps r (peerupdBody s op c) := by
  unfold peerupdBody
  repeat' first
    | with_reducible exact h | with_reducible refine State.noCmd_keeps ?_
    | with_reducible refine State.readHbm_keeps ?_ | with_reducible refine State.setFlag_keeps ?_
    | with_reducible refine State.await_keeps ?_ | with_reducible refine State.spread_keeps ?_ | split | dsimp only
    | with_reducible refine Keeps.upd ?_ id id id id id

theorem loadbraidBody_keeps {r s : State} {op : Nat} {c : Cmd} (h : Keeps r s) :
    Keeps r (loadbraidBody s op c) := by
  unfold loadbraidBody
  repeat' first
    | with_reducible exact h | with_reducible refine State.noCmd_keeps ?_
    | with_reducible refine State.readHbm_keeps ?_ | with_reducible refine State.refuseImage_keeps ?_
    | with_reducible refine State.takeBraid_keeps ?_ | with_reducible refine State.await_keeps ?_
    | with_reducible refine State.setBraidPending_keeps ?_ | split | dsimp only

theorem cmdBody_keeps {r s : State} {op : Nat} {c : Cmd} (h : Keeps r s) :
    Keeps r (cmdBody s op c) := by
  unfold cmdBody
  repeat' first
    | with_reducible exact h | with_reducible refine nopBody_keeps ?_ | with_reducible refine helloBody_keeps ?_
    | with_reducible refine loadprogBody_keeps ?_ | with_reducible refine strandBody_keeps ?_
    | with_reducible refine serviceBody_keeps ?_ | with_reducible refine peerupdBody_keeps ?_
    | with_reducible refine loadbraidBody_keeps ?_ | split

theorem State.passPair_keeps {r s : State} {p : Nat} {n : Nat} (h : Keeps r s) :
    Keeps r (State.passPair p n s) := by
  induction n generalizing s with
  | zero => exact h
  | succ n ih =>
    unfold State.passPair
    have g : Keeps r (s.process p cmdBody) := State.process_keeps (fun _ _ _ k => cmdBody_keeps k) h
    exact Keeps.ite (State.holdBraid_keeps h) (Keeps.ite g (ih g))

theorem State.samplePass_keeps {r s : State} {p : Nat} (h : Keeps r s) :
    Keeps r (State.samplePass s p) := by
  unfold State.samplePass
  repeat' first
    | with_reducible exact h | with_reducible refine State.passPair_keeps ?_
    | with_reducible refine State.samplePair_keeps ?_

theorem execCmdNop_keeps {r s : State} {pair : PairId} (h : Keeps r s) :
    KeepsOut r (execCmdNop pair s) := by
  unfold execCmdNop
  repeat' first
    | with_reducible exact h | with_reducible assumption | with_reducible refine State.ringRowStep_keeps ?_ ?_
    | with_reducible refine nopBody_keeps ?_ | intro _

theorem execHello_keeps {r s : State} {pair : PairId} (h : Keeps r s) :
    KeepsOut r (execHello pair s) := by
  unfold execHello
  repeat' first
    | with_reducible exact h | with_reducible assumption | with_reducible refine State.ringRowStep_keeps ?_ ?_
    | with_reducible refine helloBody_keeps ?_ | intro _

theorem execLoadbraid_keeps {r s : State} {pair : PairId} (h : Keeps r s) :
    KeepsOut r (execLoadbraid pair s) := by
  unfold execLoadbraid
  repeat' first
    | with_reducible exact h | with_reducible assumption | with_reducible refine State.ringRowStep_keeps ?_ ?_
    | with_reducible refine State.holdBraid_keeps ?_ | with_reducible refine loadbraidBody_keeps ?_ | intro _

theorem execLoadprog_keeps {r s : State} {pair : PairId} (h : Keeps r s) :
    KeepsOut r (execLoadprog pair s) := by
  unfold execLoadprog
  repeat' first
    | with_reducible exact h | with_reducible assumption | with_reducible refine State.ringRowStep_keeps ?_ ?_
    | with_reducible refine loadprogBody_keeps ?_ | intro _

theorem execPeerupd_keeps {r s : State} {pair : PairId} (h : Keeps r s) :
    KeepsOut r (execPeerupd pair s) := by
  unfold execPeerupd
  repeat' first
    | with_reducible exact h | with_reducible assumption | with_reducible refine State.ringRowStep_keeps ?_ ?_
    | with_reducible refine peerupdBody_keeps ?_ | intro _

theorem execService_keeps {r s : State} {pair : PairId} (h : Keeps r s) :
    KeepsOut r (execService pair s) := by
  unfold execService
  repeat' first
    | with_reducible exact h | with_reducible assumption | with_reducible refine State.ringRowStep_keeps ?_ ?_
    | with_reducible refine serviceBody_keeps ?_ | intro _

theorem execStrand_keeps {r s : State} {pair : PairId} (h : Keeps r s) :
    KeepsOut r (execStrand pair s) := by
  unfold execStrand
  repeat' first
    | with_reducible exact h | with_reducible assumption | with_reducible refine State.ringRowStep_keeps ?_ ?_
    | with_reducible refine strandBody_keeps ?_ | intro _

theorem execUnsplicedRingPass_keeps {r s : State} {j : JobId} (h : Keeps r s) :
    KeepsOut r (execUnsplicedRingPass j s) := by
  unfold execUnsplicedRingPass
  repeat' first
    | with_reducible exact h | with_reducible assumption | with_reducible refine keepsOut_next ?_
    | with_reducible refine State.samplePass_keeps ?_ | with_reducible refine foldl_keeps ?_ ?_ | intro _
    | with_reducible refine keepsOut_ite ?_ ?_

end Sys2Proof.Machine
end

