-- ==== Sys2Proof/Laws/KeepsMovement.lean ====
section
/-! SUPPORT. What the operations of Machine/Movement.lean keep. -/

namespace Sys2Proof.Machine

theorem State.boxByte_keeps {r s : State} {c : Nat} {k : Nat} {clk : Nat} {vc : Nat} {log : Bool} {g : Byte × Bool → Byte × Bool}
    (h : Keeps r s) : Keeps r (State.boxByte s c k clk vc log g) := by
  unfold State.boxByte
  extract_lets x newer log
  split
  · refine Keeps.ite (State.setCluster_keeps ?_) ?_ <;> exact h.upd id Mem.wf_setByte id id id
  · exact State.setCluster_keeps h

theorem State.boxEff_keeps {r s : State} {p : Nat} {box : Nat × Nat} {e : Eff} (h : Keeps r s) :
    Keeps r (State.boxEff s p box e) := by
  unfold State.boxEff
  repeat' first
    | with_reducible exact h | with_reducible assumption | with_reducible refine State.boxByte_keeps ?_
    | with_reducible refine foldl_keeps ?_ ?_ | intro _ | split

theorem State.contendBox_keeps {r s : State} {p : Nat} {b : Bundle} {first : Flight → Option (Nat × Nat)} (h : Keeps r s) :
    Keeps r (State.contendBox s p b first) := by
  unfold State.contendBox
  extract_lets
  exact foldl_keeps (fun _ _ k => State.countBank_keeps (State.setCore_keeps k))
    (State.countBank_keeps (State.setCore_keeps h))

theorem State.pathClk_keeps {r s : State} {q : Path} (h : Keeps r s) : Keeps r (State.pathClk s q).2 := by
  unfold State.pathClk
  repeat' first
    | exact h | exact State.draw_keeps h | split

theorem State.launchPath_keeps {r s : State} {p : Nat} {b : Bundle} {w : W64} {n : Needs} {path : Path} {eff : List Eff} (h : Keeps r s) :
    Keeps r (State.launchPath s p b w n path eff) := by
  unfold State.launchPath
  split
  · exact State.launch_keeps h
  · exact State.setCluster_keeps (State.bump_keeps (State.launch_keeps (State.pathClk_keeps h)))

theorem State.stageErrors_keeps {r s : State} {p : Nat} {o : Span} (h : Keeps r s) :
    Keeps r (State.stageErrors s p o).1 := by
  unfold State.stageErrors
  repeat' first
    | with_reducible exact h | with_reducible assumption | with_reducible refine State.clearUpset_keeps ?_
    | with_reducible refine State.corrected_keeps ?_ | with_reducible refine State.bump_keeps ?_
    | with_reducible refine State.uncorrected_keeps ?_
    | with_reducible refine keeps_of_fst (by with_reducible assumption) ?_
    | with_reducible refine foldl_fst_keeps ?_ ?_ | intro _ | split

theorem State.spillOut_keeps {r s : State} {p : Nat} {j : Nat} {o : Span} {from_ : Nat} (h : Keeps r s) :
    Keeps r (State.spillOut s p j o from_).1 := by
  unfold State.spillOut
  repeat' first
    | with_reducible exact h | with_reducible assumption | with_reducible refine State.pageFault_keeps ?_
    | with_reducible refine State.readGranule_keeps ?_ | with_reducible refine State.writeHbm_keeps ?_
    | with_reducible refine keeps_of_fst (by with_reducible assumption) ?_ | with_reducible refine foldl_keeps ?_ ?_
    | with_reducible refine foldl_fst_keeps ?_ ?_ | intro _ | split

theorem State.sourceView_keeps {r s : State} {p : Nat} {j : Nat} {path : Path} {os : List Span} (h : Keeps r s) :
    Keeps r (State.sourceView s p j path os).1 := by
  unfold State.sourceView
  repeat' first
    | with_reducible exact h | with_reducible assumption | with_reducible refine State.stageErrors_keeps ?_
    | with_reducible refine State.spillOut_keeps ?_
    | with_reducible refine keeps_of_fst (by with_reducible assumption) ?_
    | with_reducible refine foldl_fst_keeps ?_ ?_ | intro _ | split

theorem State.moveOp_keeps {r s : State} {p : Nat} {b : Bundle} {w : W64} (h : Keeps r s) :
    Keeps r (State.moveOp s p b w) := by
  unfold State.moveOp
  repeat' first
    | with_reducible exact h | with_reducible refine State.sourceView_keeps ?_
    | with_reducible refine State.launchPath_keeps ?_

theorem State.scatter_keeps {r s : State} {p : Nat} {b : Bundle} {w : W64} {order : List Nat} (h : Keeps r s) :
    Keeps r (State.scatter s p b w order) := by
  unfold State.scatter
  repeat' first
    | with_reducible exact h | with_reducible refine State.sourceView_keeps ?_
    | with_reducible refine State.launchPath_keeps ?_ | with_reducible refine State.readElems_keeps ?_
    | with_reducible refine Keeps.ite ?_ ?_ | dsimp only

theorem execDigest_keeps {r s : State} {p : CoreId} (h : Keeps r s) :
    KeepsOut r (execDigest p s) := by
  unfold execDigest
  repeat' first
    | with_reducible exact h | with_reducible assumption | with_reducible refine keepsOut_next ?_
    | with_reducible refine State.slotStep_keeps ?_ ?_ | with_reducible refine State.launch_keeps ?_ | intro _

theorem execMbx_keeps {r s : State} {p : CoreId} (h : Keeps r s) :
    KeepsOut r (execMbx p s) := by
  unfold execMbx
  refine keepsOut_next (State.slotStep_keeps (fun t b w k => ?_) h)
  exact State.contendBox_keeps (State.launch_keeps (Keeps.ite k (State.readMbx_keeps k)))

theorem execNetpeek_keeps {r s : State} {p : CoreId} (h : Keeps r s) :
    KeepsOut r (execNetpeek p s) := by
  unfold execNetpeek
  repeat' first
    | with_reducible exact h | with_reducible assumption | with_reducible refine keepsOut_next ?_
    | with_reducible refine State.slotStep_keeps ?_ ?_ | with_reducible refine State.launch_keeps ?_
    | with_reducible refine State.setVary_keeps ?_ | intro _

theorem execNetq_keeps {r s : State} {p : CoreId} (h : Keeps r s) :
    KeepsOut r (execNetq p s) := by
  unfold execNetq
  repeat' first
    | with_reducible exact h | with_reducible assumption | with_reducible refine keepsOut_next ?_
    | with_reducible refine State.slotStep_keeps ?_ ?_ | with_reducible refine State.setNq_keeps ?_
    | with_reducible refine State.signalTok_keeps ?_ | intro _

theorem execSaddAny_keeps {r s : State} {p : CoreId} (h : Keeps r s) :
    KeepsOut r (execSaddAny p s) := by
  unfold execSaddAny
  repeat' first
    | with_reducible exact h | with_reducible assumption | with_reducible refine keepsOut_next ?_
    | with_reducible refine State.slotStep_keeps ?_ ?_ | with_reducible refine State.scatter_keeps ?_
    | with_reducible refine State.setVary_keeps ?_ | intro _ | with_reducible refine Keeps.upd ?_ id id id id id

theorem execSaddIndexFault_keeps {r s : State} {p : CoreId} (h : Keeps r s) :
    KeepsOut r (execSaddIndexFault p s) := by
  unfold execSaddIndexFault
  repeat' first
    | with_reducible exact h | with_reducible refine keepsOut_next ?_ | with_reducible refine State.setCore_keeps ?_
    | with_reducible refine State.setCluster_keeps ?_ | with_reducible refine State.coreFault_keeps ?_ | split
    | dsimp only

theorem execSaddOrd_keeps {r s : State} {p : CoreId} (h : Keeps r s) :
    KeepsOut r (execSaddOrd p s) := by
  unfold execSaddOrd
  repeat' first
    | with_reducible exact h | with_reducible assumption | with_reducible refine keepsOut_next ?_
    | with_reducible refine State.slotStep_keeps ?_ ?_ | with_reducible refine State.scatter_keeps ?_ | intro _

theorem execSpop_keeps {r s : State} {p : CoreId} (h : Keeps r s) :
    KeepsOut r (execSpop p s) := by
  unfold execSpop
  repeat' first
    | with_reducible exact h | with_reducible assumption | with_reducible refine keepsOut_next ?_
    | with_reducible refine State.slotStep_keeps ?_ ?_ | with_reducible refine State.signalTok_keeps ?_
    | with_reducible refine State.setV_keeps ?_ | intro _

theorem execSpush_keeps {r s : State} {p : CoreId} (h : Keeps r s) :
    KeepsOut r (execSpush p s) := by
  unfold execSpush
  repeat' first
    | with_reducible exact h | with_reducible assumption | with_reducible refine keepsOut_next ?_
    | with_reducible refine State.slotStep_keeps ?_ ?_ | with_reducible refine State.setV_keeps ?_
    | with_reducible refine State.signalTok_keeps ?_ | intro _

theorem execStagingGrant_keeps {r s : State} {c : ClusterId} (h : Keeps r s) :
    KeepsOut r (execStagingGrant c s) := by
  unfold execStagingGrant
  extract_lets x wait
  have w : ∀ t q, Keeps r t → Keeps r (wait t q) := fun _ _ k => State.bump_keeps (State.setCore_keeps k)
  refine keepsOut_ite (keepsOut_next h) ?_
  split
  · exact keepsOut_next (foldl_keeps w (State.setCore_keeps (State.setCluster_keeps h)))
  · exact keepsOut_next (foldl_keeps w h)

theorem execTmov_keeps {r s : State} {p : CoreId} (h : Keeps r s) :
    KeepsOut r (execTmov p s) := by
  unfold execTmov
  repeat' first
    | with_reducible exact h | with_reducible assumption | with_reducible refine keepsOut_next ?_
    | with_reducible refine State.slotStep_keeps ?_ ?_ | with_reducible refine State.moveOp_keeps ?_ | intro _

theorem execTperm_keeps {r s : State} {p : CoreId} (h : Keeps r s) :
    KeepsOut r (execTperm p s) := by
  unfold execTperm
  repeat' first
    | with_reducible exact h | with_reducible assumption | with_reducible refine keepsOut_next ?_
    | with_reducible refine State.slotStep_keeps ?_ ?_ | with_reducible refine State.moveOp_keeps ?_ | intro _

theorem execTxp_keeps {r s : State} {p : CoreId} (h : Keeps r s) :
    KeepsOut r (execTxp p s) := by
  unfold execTxp
  repeat' first
    | with_reducible exact h | with_reducible assumption | with_reducible refine keepsOut_next ?_
    | with_reducible refine State.slotStep_keeps ?_ ?_ | with_reducible refine State.moveOp_keeps ?_ | intro _

end Sys2Proof.Machine
end

