-- ==== Sys2Proof/Laws/KeepsControl.lean ====
section
/-! SUPPORT. What the operations of Machine/Control.lean keep. -/

namespace Sys2Proof.Machine

theorem putBits_wf {m : Mem} {pz : List Nat} {at0 bit w code : Nat} {q : Bool} (h : m.wf = true) :
    (putBits m pz at0 bit w code q).1.wf = true := Mem.wf_store h

theorem State.applyEff_keeps {r s : State} {p : Nat} {f : Flight} {e : Eff} (h : Keeps r s) :
    Keeps r (State.applyEff s p f e) := by
  cases e with
  | greg | areg | vreg | hist | weights | histClear => exact State.setV_keeps h
  | flags => exact State.raise_keeps h
  | fold => exact State.setCluster_keeps h
  | count => exact State.bump_keeps h
  | badIndex => exact h
  | wash m a =>
    cases m
    · exact h.upd id id id id id
    · exact State.boxEff_keeps (p := p) (box := f.box.getD (0, 0)) (e := .wash true a) h
  | put m b w c q =>
    cases m
    · exact h.upd (putBits_wf (pz := s.poison) (q := q)) id id id id
    · exact State.boxEff_keeps (p := p) (box := f.box.getD (0, 0)) (e := .put true b w c q) h

theorem State.applyFold_keeps {r s : State} {m : FoldMsg} (h : Keeps r s) :
    Keeps r (State.applyFold s m) := by
  unfold State.applyFold
  repeat' first
    | with_reducible exact h | with_reducible refine State.setFlag_keeps ?_ | with_reducible refine Keeps.ite ?_ ?_
    | dsimp only | with_reducible refine Keeps.upd ?_ id id id id id

theorem State.branch_keeps {r s : State} {p : Nat} {t : BitVec 13} (h : Keeps r s) :
    Keeps r (State.branch s p t) := by
  unfold State.branch
  repeat' first
    | with_reducible exact h | with_reducible refine State.setV_keeps ?_

theorem State.freeStage_keeps {r s : State} {p : Nat} {f : Flight} (h : Keeps r s) :
    Keeps r (State.freeStage s p f) := by
  unfold State.freeStage
  repeat' first
    | with_reducible exact h | with_reducible refine State.setCluster_keeps ?_ | split | dsimp only

theorem State.noteArrival_keeps {r s : State} {p : Nat} {sidx : Nat} {step : Bool} (h : Keeps r s) :
    Keeps r (State.noteArrival s p sidx step) := by
  unfold State.noteArrival
  repeat' first
    | with_reducible exact h | with_reducible refine State.setJob_keeps ?_ | split

theorem State.setDest_keeps {r s : State} {p : Nat} {w : W64} {x : W64} (h : Keeps r s) :
    Keeps r (State.setDest s p w x) := by
  unfold State.setDest
  repeat' first
    | with_reducible exact h | with_reducible refine State.setV_keeps ?_

theorem State.setRun_keeps {r s : State} {p : Nat} {r' : Run} (h : Keeps r s) :
    Keeps r (State.setRun s p r') := by
  unfold State.setRun
  repeat' first
    | with_reducible exact h | with_reducible refine State.settleTok_keeps ?_
    | with_reducible refine State.setV_keeps ?_ | with_reducible refine Keeps.ite ?_ ?_ | dsimp only

theorem execBr_keeps {r s : State} {p : CoreId} (h : Keeps r s) :
    KeepsOut r (execBr p s) := by
  unfold execBr
  repeat' first
    | with_reducible exact h | with_reducible assumption | with_reducible refine keepsOut_next ?_
    | with_reducible refine State.slotStep_keeps ?_ ?_ | with_reducible refine State.branch_keeps ?_ | intro _

theorem execBrz_keeps {r s : State} {p : CoreId} (h : Keeps r s) :
    KeepsOut r (execBrz p s) := by
  unfold execBrz
  repeat' first
    | with_reducible exact h | with_reducible assumption | with_reducible refine keepsOut_next ?_
    | with_reducible refine State.slotStep_keeps ?_ ?_ | with_reducible refine State.branch_keeps ?_ | intro _
    | with_reducible refine Keeps.ite ?_ ?_

theorem execBundleFetch_keeps {r s : State} {p : CoreId} (h : Keeps r s) :
    KeepsOut r (execBundleFetch p s) := by
  unfold execBundleFetch
  repeat' first
    | with_reducible exact h | with_reducible refine keepsOut_next ?_ | with_reducible refine State.setCore_keeps ?_
    | with_reducible refine State.coreFault_keeps ?_ | with_reducible refine State.corrected_keeps ?_
    | with_reducible refine State.bump_keeps ?_ | with_reducible refine State.countUe_keeps ?_
    | with_reducible refine State.report_keeps ?_ | with_reducible refine Keeps.ite ?_ ?_
    | with_reducible refine keepsOut_ite ?_ ?_ | dsimp only | with_reducible refine Keeps.upd ?_ id id id id id

theorem execCall_keeps {r s : State} {p : CoreId} (h : Keeps r s) :
    KeepsOut r (execCall p s) := by
  unfold execCall
  repeat' first
    | with_reducible exact h | with_reducible assumption | with_reducible refine keepsOut_next ?_
    | with_reducible refine State.slotStep_keeps ?_ ?_ | with_reducible refine State.branch_keeps ?_
    | with_reducible refine State.setV_keeps ?_ | intro _

theorem execEndl_keeps {r s : State} {p : CoreId} (h : Keeps r s) :
    KeepsOut r (execEndl p s) := by
  unfold execEndl
  repeat' first
    | with_reducible exact h | with_reducible assumption | with_reducible refine keepsOut_next ?_
    | with_reducible refine State.slotStep_keeps ?_ ?_ | with_reducible refine State.setV_keeps ?_
    | with_reducible refine State.branch_keeps ?_ | intro _ | with_reducible refine Keeps.ite ?_ ?_ | dsimp only

theorem execEntropy_keeps {r s : State} {p : CoreId} (h : Keeps r s) :
    KeepsOut r (execEntropy p s) := by
  unfold execEntropy
  repeat' first
    | with_reducible exact h | with_reducible assumption | with_reducible refine keepsOut_next ?_
    | with_reducible refine State.slotStep_keeps ?_ ?_ | with_reducible refine State.draw_keeps ?_
    | with_reducible refine State.launch_keeps ?_ | with_reducible refine State.setVary_keeps ?_ | intro _

theorem execFlags_keeps {r s : State} {p : CoreId} (h : Keeps r s) :
    KeepsOut r (execFlags p s) := by
  unfold execFlags
  repeat' first
    | with_reducible exact h | with_reducible assumption | with_reducible refine keepsOut_next ?_
    | with_reducible refine State.slotStep_keeps ?_ ?_ | with_reducible refine State.countDue_keeps ?_
    | with_reducible refine State.setDest_keeps ?_ | with_reducible refine State.setV_keeps ?_ | intro _
    | with_reducible refine Keeps.ite ?_ ?_

theorem execFoldMessage_keeps {r s : State} {c : ClusterId} (h : Keeps r s) :
    KeepsOut r (execFoldMessage c s) := by
  unfold execFoldMessage
  repeat' first
    | with_reducible exact h | with_reducible refine keepsOut_next ?_ | with_reducible refine State.applyFold_keeps ?_
    | with_reducible refine State.setCluster_keeps ?_ | split | dsimp only

theorem execHalt_keeps {r s : State} {p : CoreId} (h : Keeps r s) :
    KeepsOut r (execHalt p s) := by
  unfold execHalt
  repeat' first
    | with_reducible exact h | with_reducible assumption | with_reducible refine keepsOut_next ?_
    | with_reducible refine State.slotStep_keeps ?_ ?_ | with_reducible refine State.closeSpan_keeps ?_
    | with_reducible refine State.setRun_keeps ?_ | intro _

theorem execInstructionComplete_keeps {r s : State} {p : CoreId} (h : Keeps r s) :
    KeepsOut r (execInstructionComplete p s) := by
  unfold execInstructionComplete
  extract_lets c o
  split
  · exact keepsOut_next h
  · refine keepsOut_ite (keepsOut_next h) (keepsOut_ite (keepsOut_next (State.bump_keeps h)) ?_)
    rename_i f _
    extract_lets fly src s1 s2
    have g : Keeps r s2 := State.freeStage_keeps (foldl_keeps (fun _ _ k => State.applyEff_keeps k) (State.setCore_keeps h))
    split
    · exact keepsOut_next g
    · exact keepsOut_ite (keepsOut_next g) (keepsOut_next (State.signal_keeps g))

theorem execLdi_keeps {r s : State} {p : CoreId} (h : Keeps r s) :
    KeepsOut r (execLdi p s) := by
  unfold execLdi
  repeat' first
    | with_reducible exact h | with_reducible assumption | with_reducible refine keepsOut_next ?_
    | with_reducible refine State.slotStep_keeps ?_ ?_ | with_reducible refine State.setDest_keeps ?_ | intro _

theorem execLedgerClearDone_keeps {r s : State} (h : Keeps r s) :
    KeepsOut r (execLedgerClearDone s) := by
  unfold execLedgerClearDone
  repeat' first
    | with_reducible exact h | with_reducible refine keepsOut_next ?_ | with_reducible refine State.setFlag_keeps ?_
    | with_reducible refine keepsOut_ite ?_ ?_ | with_reducible refine Keeps.upd ?_ id id id id id

theorem execLoop_keeps {r s : State} {p : CoreId} (h : Keeps r s) :
    KeepsOut r (execLoop p s) := by
  unfold execLoop
  repeat' first
    | with_reducible exact h | with_reducible assumption | with_reducible refine keepsOut_next ?_
    | with_reducible refine State.slotStep_keeps ?_ ?_ | with_reducible refine State.setV_keeps ?_
    | with_reducible refine State.branch_keeps ?_ | intro _ | with_reducible refine Keeps.ite ?_ ?_ | dsimp only

theorem execNop_keeps {r s : State} {p : CoreId} {slot : Fin 4} (h : Keeps r s) :
    KeepsOut r (execNop p slot s) := by
  unfold execNop
  repeat' first
    | with_reducible exact h | with_reducible assumption | with_reducible refine keepsOut_next ?_
    | with_reducible refine State.slotStep_keeps ?_ ?_ | intro _

theorem execQwait_keeps {r s : State} {p : CoreId} (h : Keeps r s) :
    KeepsOut r (execQwait p s) := by
  unfold execQwait
  repeat' first
    | with_reducible exact h | with_reducible assumption | with_reducible refine keepsOut_next ?_
    | with_reducible refine State.slotStep_keeps ?_ ?_ | intro _

theorem execRet_keeps {r s : State} {p : CoreId} (h : Keeps r s) :
    KeepsOut r (execRet p s) := by
  unfold execRet
  repeat' first
    | with_reducible exact h | with_reducible assumption | with_reducible refine keepsOut_next ?_
    | with_reducible refine State.slotStep_keeps ?_ ?_ | with_reducible refine State.branch_keeps ?_
    | with_reducible refine State.setV_keeps ?_ | intro _ | split | dsimp only

theorem execScal_keeps {r s : State} {p : CoreId} (h : Keeps r s) :
    KeepsOut r (execScal p s) := by
  unfold execScal
  repeat' first
    | with_reducible exact h | with_reducible assumption | with_reducible refine keepsOut_next ?_
    | with_reducible refine State.slotStep_keeps ?_ ?_ | with_reducible refine State.launch_keeps ?_
    | with_reducible refine State.setDest_keeps ?_ | intro _ | split

theorem execSplice_keeps {r s : State} {p : CoreId} (h : Keeps r s) :
    KeepsOut r (execSplice p s) := by
  unfold execSplice
  repeat' first
    | with_reducible exact h | with_reducible assumption | with_reducible refine keepsOut_next ?_
    | with_reducible refine State.slotStep_keeps ?_ ?_ | with_reducible refine State.noteArrival_keeps ?_
    | with_reducible refine State.closeSpan_keeps ?_ | with_reducible refine State.setRun_keeps ?_ | intro _

theorem execTime_keeps {r s : State} {p : CoreId} (h : Keeps r s) :
    KeepsOut r (execTime p s) := by
  unfold execTime
  repeat' first
    | with_reducible exact h | with_reducible assumption | with_reducible refine keepsOut_next ?_
    | with_reducible refine State.slotStep_keeps ?_ ?_ | with_reducible refine State.launch_keeps ?_
    | with_reducible refine State.setVary_keeps ?_ | intro _

theorem execTsig_keeps {r s : State} {p : CoreId} (h : Keeps r s) :
    KeepsOut r (execTsig p s) := by
  unfold execTsig
  repeat' first
    | with_reducible exact h | with_reducible assumption | with_reducible refine keepsOut_next ?_
    | with_reducible refine State.slotStep_keeps ?_ ?_ | with_reducible refine State.signal_keeps ?_ | intro _
    | with_reducible refine Keeps.ite ?_ ?_

theorem execTwait_keeps {r s : State} {p : CoreId} (h : Keeps r s) :
    KeepsOut r (execTwait p s) := by
  unfold execTwait
  repeat' first
    | with_reducible exact h | with_reducible assumption | with_reducible refine keepsOut_next ?_
    | with_reducible refine State.slotStep_keeps ?_ ?_ | intro _

theorem execWaitTimeout_keeps {r s : State} {p : CoreId} (h : Keeps r s) :
    KeepsOut r (execWaitTimeout p s) := by
  unfold execWaitTimeout
  repeat' first
    | with_reducible exact h | with_reducible refine keepsOut_next ?_ | with_reducible refine State.coreFault_keeps ?_
    | split | dsimp only

end Sys2Proof.Machine
end

