-- ==== Sys2Proof/Laws/KeepsEngine.lean ====
section
/-! SUPPORT. What the operations of Machine/Engine.lean keep. -/

namespace Sys2Proof.Machine

theorem State.countElems_keeps {r s : State} {r' : Nat} {fmt : Nat} {es : List OutElem} (h : Keeps r s) :
    Keeps r (State.countElems s r' fmt es) := by
  unfold State.countElems
  repeat' first
    | with_reducible exact h | with_reducible refine State.bump_keeps ?_

theorem State.beatOut_keeps {r s : State} {i : Nat} {b : Nat} {ins : List Marked} (h : Keeps r s) :
    Keeps r (State.beatOut s i b ins).1 := by
  unfold State.beatOut
  repeat' first
    | with_reducible exact h | with_reducible refine State.draw_keeps ?_
    | with_reducible refine State.countElems_keeps ?_ | with_reducible refine keeps_of_snd (by assumption) ?_ | split
    | dsimp only

theorem State.handOver_keeps {r s : State} {q : Nat} (h : Keeps r s) :
    Keeps r (State.handOver s q) := by
  unfold State.handOver
  repeat' first
    | with_reducible exact h | with_reducible refine State.readMarked_keeps ?_
    | with_reducible refine State.reInput_keeps ?_ | with_reducible refine State.setNq_keeps ?_ | split

theorem State.reFault_keeps {r s : State} {i : Nat} (h : Keeps r s) :
    Keeps r (State.reFault s i) := by
  unfold State.reFault
  repeat' first
    | with_reducible exact h | with_reducible refine State.setStream_keeps ?_
    | with_reducible refine State.setFld_keeps ?_ | with_reducible refine State.setFlag_keeps ?_
    | with_reducible refine State.reportStop_keeps ?_ | with_reducible refine Keeps.ite ?_ ?_

theorem State.sendOut_keeps {r s : State} {i : Nat} {m : Marked} (h : Keeps r s) :
    Keeps r (State.sendOut s i m) := by
  unfold State.sendOut
  repeat' first
    | with_reducible exact h | with_reducible assumption | with_reducible refine State.bump_keeps ?_
    | with_reducible refine State.receive_keeps ?_ | with_reducible refine State.setStream_keeps ?_
    | with_reducible refine foldl_keeps ?_ ?_ | intro _ | with_reducible refine Keeps.ite ?_ ?_ | dsimp only

theorem State.reStep_keeps {r s : State} {i : Nat} {ins : List Marked} (h : Keeps r s) :
    Keeps r (State.reStep s i ins) := by
  unfold State.reStep
  repeat' first
    | with_reducible exact h | with_reducible refine State.reFault_keeps ?_
    | with_reducible refine State.beatOut_keeps ?_ | with_reducible refine State.setStream_keeps ?_
    | with_reducible refine State.sendOut_keeps ?_ | with_reducible refine Keeps.ite ?_ ?_ | dsimp only

end Sys2Proof.Machine
end

