-- ==== Sys2Proof/Laws/KeepsHawser.lean ====
section
/-! SUPPORT. What the operations of Machine/Hawser.lean keep. -/

namespace Sys2Proof.Machine

theorem State.ackSoon_keeps {r s : State} {k : Nat} (h : Keeps r s) :
    Keeps r (State.ackSoon s k) := by
  unfold State.ackSoon
  repeat' first
    | with_reducible exact h | with_reducible refine State.setConn_keeps ?_

theorem State.buildPacket_keeps {r s : State} {k : Nat} {ctrl : Bool} {last : Bool} {stream : Nat} {job : Nat} {m : Marked} (h : Keeps r s) :
    Keeps r (State.buildPacket s k ctrl last stream job m) := by
  unfold State.buildPacket
  repeat' first
    | with_reducible exact h | with_reducible assumption | with_reducible refine State.spillPut_keeps ?_
    | with_reducible refine State.setConn_keeps ?_ | with_reducible refine State.spillCommit_keeps ?_
    | with_reducible refine foldl_keeps ?_ ?_ | intro _

theorem State.buildCtrl_keeps {r s : State} {k : Nat} (h : Keeps r s) :
    Keeps r (State.buildCtrl s k) := by
  unfold State.buildCtrl
  repeat' first
    | with_reducible exact h | with_reducible refine State.buildPacket_keeps ?_
    | with_reducible refine State.setConn_keeps ?_ | with_reducible refine Keeps.ite ?_ ?_ | dsimp only

theorem State.commitPacket_keeps {r s : State} {k : Nat} {p : HwPacket} (h : Keeps r s) :
    Keeps r (State.commitPacket s k p).1 := by
  unfold State.commitPacket
  repeat' first
    | with_reducible exact h | with_reducible assumption | with_reducible refine State.spillCommit_keeps ?_
    | with_reducible refine State.spillPeek_keeps ?_ | with_reducible refine State.setSpill_keeps ?_
    | with_reducible refine foldl_fst_keeps ?_ ?_ | intro _

theorem State.storePacket_keeps {r s : State} {k : Nat} {type : Nat} {p : HwPacket} (h : Keeps r s) :
    Keeps r (State.storePacket s k type p) := by
  unfold State.storePacket
  repeat' first
    | with_reducible exact h | with_reducible assumption | with_reducible refine State.spillRewind_keeps ?_
    | with_reducible refine State.setSpill_keeps ?_ | with_reducible refine State.spillPut_keeps ?_
    | with_reducible refine foldl_keeps ?_ ?_ | intro _ | with_reducible refine Keeps.ite ?_ ?_ | dsimp only

theorem State.onAck_keeps {r s : State} {k : Nat} {ackpsn : W32} {winadv : W16} (h : Keeps r s) :
    Keeps r (State.onAck s k ackpsn winadv) := by
  unfold State.onAck
  repeat' first
    | with_reducible exact h | with_reducible refine State.setConn_keeps ?_
    | with_reducible refine State.setSpill_keeps ?_ | with_reducible refine Keeps.ite ?_ ?_ | dsimp only

theorem State.sendHw_keeps {r s : State} {k : Nat} {type : Nat} {p : HwPacket} (h : Keeps r s) :
    Keeps r (State.sendHw s k type p) := by
  unfold State.sendHw
  repeat' first
    | with_reducible exact h | with_reducible refine State.setConn_keeps ?_
    | with_reducible refine State.sendIp_keeps ?_

theorem State.putAck_keeps {r s : State} {k : Nat} {nak : Bool} (h : Keeps r s) :
    Keeps r (State.putAck s k nak) := by
  unfold State.putAck
  repeat' first
    | with_reducible exact h | with_reducible refine State.setConn_keeps ?_
    | with_reducible refine State.sendHw_keeps ?_ | with_reducible refine Keeps.ite ?_ ?_ | dsimp only

theorem State.hwReceive_keeps {r s : State} {e : Nat} {k : Nat} {type : Nat} {p : HwPacket} {use : State → Marked → State} (hf : ∀ t m, Keeps r t → Keeps r (use t m))
    (h : Keeps r s) :
    Keeps r (State.hwReceive s e k type p use) := by
  unfold State.hwReceive
  repeat' first
    | with_reducible exact h | with_reducible refine hf _ _ ?_ | with_reducible refine State.setConn_keeps ?_
    | with_reducible refine State.ackSoon_keeps ?_ | with_reducible refine State.storePacket_keeps ?_
    | with_reducible refine State.spillRewind_keeps ?_ | with_reducible refine State.bump_keeps ?_
    | with_reducible refine State.onAck_keeps ?_ | with_reducible refine State.putAck_keeps ?_
    | with_reducible refine State.commitPacket_keeps ?_ | with_reducible refine Keeps.ite ?_ ?_ | dsimp only

theorem State.packetize_keeps {r s : State} {i n : Nat} (h : Keeps r s) : Keeps r (s.packetize i n) := by
  induction n generalizing s with
  | zero => exact h
  | succ n ih =>
    unfold State.packetize
    dsimp only
    split
    · exact h
    · refine Keeps.ite h (Keeps.ite (State.setSpill_keeps h) (ih (State.setStream_keeps (State.buildPacket_keeps h))))

theorem State.putHello_keeps {r s : State} {k : Nat} (h : Keeps r s) :
    Keeps r (State.putHello s k) := by
  unfold State.putHello
  repeat' first
    | with_reducible exact h | with_reducible refine State.sendHw_keeps ?_
    | with_reducible refine State.setConn_keeps ?_ | with_reducible refine Keeps.ite ?_ ?_ | dsimp only

theorem State.readPacket_keeps {r s : State} {k : Nat} {p : HwSent} (h : Keeps r s) :
    Keeps r (State.readPacket s k p).1 := by
  unfold State.readPacket
  repeat' first
    | with_reducible exact h | with_reducible assumption | with_reducible refine State.spillPeek_keeps ?_
    | with_reducible refine foldl_fst_keeps ?_ ?_ | intro _

theorem State.transmit_keeps {r s : State} {k : Nat} {p : HwSent} (h : Keeps r s) :
    Keeps r (State.transmit s k p) := by
  unfold State.transmit
  repeat' first
    | with_reducible exact h | with_reducible refine State.readPacket_keeps ?_
    | with_reducible refine State.bump_keeps ?_ | with_reducible refine State.setConn_keeps ?_
    | with_reducible refine State.sendHw_keeps ?_ | with_reducible refine Keeps.ite ?_ ?_ | dsimp only
    | with_reducible refine Keeps.upd ?_ id id id id id

theorem execHawserAckRx_keeps {r s : State} {e : PortId} {pkt : HwDatagram} (h : Keeps r s) :
    KeepsOut r (execHawserAckRx e pkt s) := by
  unfold execHawserAckRx
  repeat' first
    | with_reducible exact h | with_reducible refine keepsOut_next ?_ | with_reducible refine State.onAck_keeps ?_
    | with_reducible refine State.setConn_keeps ?_ | with_reducible refine State.cutFlow_keeps ?_ | split

theorem execHawserAckTimer_keeps {r s : State} {k : ConnId} (h : Keeps r s) :
    KeepsOut r (execHawserAckTimer k s) := by
  unfold execHawserAckTimer
  repeat' first
    | with_reducible exact h | with_reducible refine keepsOut_next ?_ | with_reducible refine State.putAck_keeps ?_
    | with_reducible refine keepsOut_ite ?_ ?_

theorem execHawserCtrlRx_keeps {r s : State} {e : PortId} {pkt : HwDatagram} (h : Keeps r s) :
    KeepsOut r (execHawserCtrlRx e pkt s) := by
  unfold execHawserCtrlRx
  repeat' first
    | with_reducible exact h | with_reducible assumption | with_reducible refine keepsOut_next ?_
    | with_reducible refine State.hwReceive_keeps ?_ ?_ | with_reducible refine State.control_keeps ?_
    | with_reducible refine foldl_keeps ?_ ?_ | intro _ | split

theorem execHawserDataRx_keeps {r s : State} {e : PortId} {pkt : HwDatagram} (h : Keeps r s) :
    KeepsOut r (execHawserDataRx e pkt s) := by
  unfold execHawserDataRx
  repeat' first
    | with_reducible exact h | with_reducible assumption | with_reducible refine keepsOut_next ?_
    | with_reducible refine State.hwReceive_keeps ?_ ?_ | with_reducible refine State.reInput_keeps ?_
    | with_reducible refine State.setConn_keeps ?_ | intro _ | split

theorem execHawserHelloRx_keeps {r s : State} {e : PortId} {bytes : List Byte} {ceMark : Bool} (h : Keeps r s) :
    KeepsOut r (execHawserHelloRx e bytes ceMark s) := by
  unfold execHawserHelloRx
  repeat' first
    | with_reducible exact h | with_reducible refine keepsOut_next ?_ | with_reducible refine State.putHello_keeps ?_
    | with_reducible refine State.setConn_keeps ?_ | split | dsimp only

theorem execHawserRto_keeps {r s : State} {k : ConnId} (h : Keeps r s) :
    KeepsOut r (execHawserRto k s) := by
  unfold execHawserRto
  repeat' first
    | with_reducible exact h | with_reducible refine keepsOut_next ?_ | with_reducible refine State.bump_keeps ?_
    | with_reducible refine State.setConn_keeps ?_ | with_reducible refine State.reportPeer_keeps ?_
    | with_reducible refine keepsOut_ite ?_ ?_ | dsimp only

theorem execHawserTransmit_keeps {r s : State} {k : ConnId} (h : Keeps r s) :
    KeepsOut r (execHawserTransmit k s) := by
  unfold execHawserTransmit
  repeat' first
    | with_reducible exact h | with_reducible assumption | with_reducible refine keepsOut_next ?_
    | with_reducible refine State.putHello_keeps ?_ | with_reducible refine State.buildCtrl_keeps ?_
    | with_reducible refine State.packetize_keeps ?_ | with_reducible refine State.transmit_keeps ?_
    | with_reducible refine foldl_keeps ?_ ?_ | intro _ | split | dsimp only

theorem execReBeat_keeps {r s : State} {r' : Fin 8} (h : Keeps r s) :
    KeepsOut r (execReBeat r' s) := by
  unfold execReBeat
  repeat' first
    | with_reducible exact h | with_reducible assumption | with_reducible refine keepsOut_next ?_
    | with_reducible refine State.handOver_keeps ?_ | with_reducible refine State.packetize_keeps ?_
    | with_reducible refine State.reStep_keeps ?_ | with_reducible refine foldl_keeps ?_ ?_ | intro _ | split
    | dsimp only

end Sys2Proof.Machine
end

