-- ==== Sys2Proof/Laws/KeepsIdle.lean ====
section
/-! SUPPORT. What the operations of Machine/Idle.lean keep. -/

namespace Sys2Proof.Machine

theorem State.katTick_keeps {r s : State} (h : Keeps r s) :
    Keeps r (State.katTick s) := by
  unfold State.katTick
  repeat' first
    | with_reducible exact h | with_reducible refine Keeps.ite ?_ ?_
    | with_reducible refine Keeps.upd ?_ id id id id id

theorem State.tickBeat_keeps {r s : State} (h : Keeps r s) :
    Keeps r (State.tickBeat s) := by
  unfold State.tickBeat
  repeat' first
    | with_reducible exact h | with_reducible refine State.bump_keeps ?_ | with_reducible refine Keeps.ite ?_ ?_
    | with_reducible refine Keeps.upd ?_ id id id id id

theorem State.idle_keeps {r s : State} (h : Keeps r s) :
    Keeps r (State.idle s) := by
  unfold State.idle
  repeat' first
    | with_reducible exact h | with_reducible refine State.flushAll_keeps ?_
    | with_reducible refine State.katTick_keeps ?_ | with_reducible refine State.entryTick_keeps ?_
    | with_reducible refine State.tickBeat_keeps ?_ | dsimp only | with_reducible refine Keeps.upd ?_ id id id id id

end Sys2Proof.Machine
end

