-- ==== Sys2Proof/Laws/KeepsRdma.lean ====
section
/-! SUPPORT. What the operations of Machine/Rdma.lean keep. -/

namespace Sys2Proof.Machine

theorem State.paceQp_keeps {r s : State} {q n : Nat} (h : Keeps r s) : Keeps r (State.paceQp s q n).2 := by
  unfold State.paceQp
  exact State.setQp_keeps h

theorem State.answerData_keeps {r s : State} {e : Nat} {q : Nat} {bs : List Byte} (h : Keeps r s) :
    Keeps r (State.answerData s e q bs) := by
  unfold State.answerData
  exact State.reply_keeps (foldl_keeps (fun _ _ k => State.sendIp_keeps (State.paceQp_keeps k)) h)

theorem State.hbmRefuses_keeps {r s z : State} {job : Nat} {write : Bool} {a n : Nat}
    (e : State.hbmRefuses s job write a n = some z) (h : Keeps r s) : Keeps r z := by
  unfold State.hbmRefuses at e
  split at e
  · cases e; exact State.pageFault_keeps h
  · split at e <;> cases e; exact h

theorem State.windowGet_keeps {r s : State} {a : Nat} {n : Nat} (h : Keeps r s) :
    Keeps r (State.windowGet s a n).1 := by
  unfold State.windowGet
  repeat' first
    | with_reducible exact h | with_reducible refine State.readScratch_keeps ?_

theorem State.rdmaGet_keeps {r s : State} {job : Nat} {a : Nat} {n : Nat} (h : Keeps r s) :
    Keeps r (State.rdmaGet s job a n).1 := by
  unfold State.rdmaGet
  repeat' first
    | with_reducible exact h | with_reducible refine State.hbmRefuses_keeps (by assumption) ?_
    | with_reducible refine State.readHbm_keeps ?_ | with_reducible refine State.windowGet_keeps ?_ | split

theorem State.writeCp_keeps {r s : State} {p : Nat} {w : W32} (h : Keeps r s) :
    Keeps r (State.writeCp s p w) := by
  unfold State.writeCp
  repeat' first
    | with_reducible exact h | with_reducible refine State.ringFault_keeps ?_ | with_reducible refine Keeps.ite ?_ ?_
    | dsimp only | with_reducible refine Keeps.upd ?_ id id id id id

theorem State.writePc_keeps {r s : State} {p : Nat} {w : W32} (h : Keeps r s) :
    Keeps r (State.writePc s p w) := by
  unfold State.writePc
  repeat' first
    | with_reducible exact h | with_reducible refine State.ringFault_keeps ?_ | with_reducible refine Keeps.ite ?_ ?_
    | dsimp only | with_reducible refine Keeps.upd ?_ id id id id id

theorem State.writeEvCons_keeps {r s : State} {w : W32} (h : Keeps r s) :
    Keeps r (State.writeEvCons s w) := by
  unfold State.writeEvCons
  repeat' first
    | with_reducible exact h | with_reducible refine State.ringEvent_keeps ?_
    | with_reducible refine State.drainEvents_keeps ?_ | with_reducible refine Keeps.ite ?_ ?_ | dsimp only
    | with_reducible refine Keeps.upd ?_ id id id id id

theorem State.writeLdCons_keeps {r s : State} {w : W32} (h : Keeps r s) :
    Keeps r (State.writeLdCons s w) := by
  unfold State.writeLdCons
  repeat' first
    | with_reducible exact h | with_reducible refine State.ringEvent_keeps ?_ | with_reducible refine Keeps.ite ?_ ?_
    | dsimp only | with_reducible refine Keeps.upd ?_ id id id id id

theorem State.writeBell_keeps {r s : State} {o : Nat} {w : W64} (h : Keeps r s) :
    Keeps r (State.writeBell s o w) := by
  unfold State.writeBell
  repeat' first
    | with_reducible exact h | with_reducible refine State.writeCp_keeps ?_
    | with_reducible refine State.writePc_keeps ?_ | with_reducible refine State.writeEvCons_keeps ?_
    | with_reducible refine State.writeLdCons_keeps ?_ | split

theorem State.rdmaPut_keeps {r s : State} {job a : Nat} {d : List Byte} (h : Keeps r s) : Keeps r (State.rdmaPut s job a d).1 := by
  unfold State.rdmaPut
  dsimp only
  split
  · exact h
  · split
    · rename_i e; exact State.hbmRefuses_keeps e h
    · exact State.writeHbm_keeps h
  · split
    · exact h
    · exact State.storeBytes_keeps h
  · split
    · exact h
    · exact foldl_keeps (fun _ _ g => State.writeReg_keeps g) h
  · split
    · exact h
    · exact foldl_keeps (fun _ _ g => State.writeBell_keeps g) h

theorem State.rdmaWrite_keeps {r s : State} {e : Nat} {q : Nat} {rkey : Nat} {a : Nat} {d : List Byte} (h : Keeps r s) :
    Keeps r (State.rdmaWrite s e q rkey a d) := by
  unfold State.rdmaWrite
  repeat' first
    | with_reducible exact h | with_reducible refine State.answer_keeps ?_
    | with_reducible refine State.rdmaPut_keeps ?_ | split

theorem execDoorbellWrite_keeps {r s : State} {rkey : W32} {offset : BitVec 12} {value : W64} (h : Keeps r s) :
    KeepsOut r (execDoorbellWrite rkey offset value s) := by
  unfold execDoorbellWrite
  repeat' first
    | with_reducible exact h | with_reducible refine keepsOut_next ?_ | with_reducible refine State.reply_keeps ?_
    | with_reducible refine State.rdmaPut_keeps ?_ | split | dsimp only

theorem execRdmaRead_keeps {r s : State} {e : PortId} {head : RoceHead} {rkey : W32} {addr : W64} {len : Nat} (h : Keeps r s) :
    KeepsOut r (execRdmaRead e head rkey addr len s) := by
  unfold execRdmaRead
  repeat' first
    | with_reducible exact h | with_reducible refine keepsOut_next ?_ | with_reducible refine State.reply_keeps ?_
    | with_reducible refine State.onMark_keeps ?_ | with_reducible refine State.answer_keeps ?_
    | with_reducible refine State.rdmaGet_keeps ?_ | with_reducible refine State.answerData_keeps ?_ | split
    | dsimp only

theorem execRdmaWrite_keeps {r s : State} {e : PortId} {qp : BitVec 12} {rkey : W32} {addr : W64} {data : List Byte} {ceMark : Bool} (h : Keeps r s) :
    KeepsOut r (execRdmaWrite e qp rkey addr data ceMark s) := by
  unfold execRdmaWrite
  repeat' first
    | with_reducible exact h | with_reducible refine keepsOut_next ?_ | with_reducible refine State.reply_keeps ?_
    | with_reducible refine State.rdmaWrite_keeps ?_ | with_reducible refine State.onMark_keeps ?_
    | with_reducible refine keepsOut_ite ?_ ?_

theorem execRdmaWriteImmediate_keeps {r s : State} {e : PortId} {head : RoceHead} {rkey : W32} {addr : W64} {data : List Byte} {_imm : W32} (h : Keeps r s) :
    KeepsOut r (execRdmaWriteImmediate e head rkey addr data _imm s) := by
  unfold execRdmaWriteImmediate
  repeat' first
    | with_reducible exact h | with_reducible refine keepsOut_next ?_ | with_reducible refine State.reply_keeps ?_
    | with_reducible refine State.rdmaWrite_keeps ?_ | with_reducible refine State.onMark_keeps ?_
    | with_reducible refine keepsOut_ite ?_ ?_

end Sys2Proof.Machine
end

