-- ==== Sys2Proof/Laws/KeepsVector.lean ====
section
/-! SUPPORT. What the operations of Machine/Vector.lean keep. -/

namespace Sys2Proof.Machine

theorem State.vResult_keeps {r s : State} {p : Nat} {b : Bundle} {w : W64} {ls : List (Fl Lane)} (h : Keeps r s) :
    Keeps r (State.vResult s p b w ls) := by
  unfold State.vResult
  repeat' first
    | with_reducible exact h | with_reducible refine State.launch_keeps ?_

theorem State.vSpecial_keeps {r s : State} {p : Nat} {b : Bundle} {w : W64} {f : Sp} (h : Keeps r s) :
    Keeps r (State.vSpecial s p b w f) := by
  unfold State.vSpecial
  repeat' first
    | with_reducible exact h | with_reducible refine State.vResult_keeps ?_

theorem execVadd_keeps {r s : State} {p : CoreId} (h : Keeps r s) :
    KeepsOut r (execVadd p s) := by
  unfold execVadd
  repeat' first
    | with_reducible exact h | with_reducible assumption | with_reducible refine keepsOut_next ?_
    | with_reducible refine State.slotStep_keeps ?_ ?_ | with_reducible refine State.vResult_keeps ?_ | intro _

theorem execVamax_keeps {r s : State} {p : CoreId} (h : Keeps r s) :
    KeepsOut r (execVamax p s) := by
  unfold execVamax
  repeat' first
    | with_reducible exact h | with_reducible assumption | with_reducible refine keepsOut_next ?_
    | with_reducible refine State.slotStep_keeps ?_ ?_ | with_reducible refine State.vResult_keeps ?_ | intro _

theorem execVcmp_keeps {r s : State} {p : CoreId} (h : Keeps r s) :
    KeepsOut r (execVcmp p s) := by
  unfold execVcmp
  repeat' first
    | with_reducible exact h | with_reducible assumption | with_reducible refine keepsOut_next ?_
    | with_reducible refine State.slotStep_keeps ?_ ?_ | with_reducible refine State.vResult_keeps ?_ | intro _

theorem execVcvt_keeps {r s : State} {p : CoreId} (h : Keeps r s) :
    KeepsOut r (execVcvt p s) := by
  unfold execVcvt
  repeat' first
    | with_reducible exact h | with_reducible assumption | with_reducible refine keepsOut_next ?_
    | with_reducible refine State.slotStep_keeps ?_ ?_ | with_reducible refine State.vResult_keeps ?_ | intro _

theorem execVexp_keeps {r s : State} {p : CoreId} (h : Keeps r s) :
    KeepsOut r (execVexp p s) := by
  unfold execVexp
  repeat' first
    | with_reducible exact h | with_reducible assumption | with_reducible refine keepsOut_next ?_
    | with_reducible refine State.slotStep_keeps ?_ ?_ | with_reducible refine State.vSpecial_keeps ?_ | intro _

theorem execVfma_keeps {r s : State} {p : CoreId} (h : Keeps r s) :
    KeepsOut r (execVfma p s) := by
  unfold execVfma
  repeat' first
    | with_reducible exact h | with_reducible assumption | with_reducible refine keepsOut_next ?_
    | with_reducible refine State.slotStep_keeps ?_ ?_ | with_reducible refine State.vResult_keeps ?_ | intro _

theorem execVhist_keeps {r s : State} {p : CoreId} (h : Keeps r s) :
    KeepsOut r (execVhist p s) := by
  unfold execVhist
  repeat' first
    | with_reducible exact h | with_reducible assumption | with_reducible refine keepsOut_next ?_
    | with_reducible refine State.slotStep_keeps ?_ ?_ | with_reducible refine State.countDue_keeps ?_
    | with_reducible refine State.setV_keeps ?_ | with_reducible refine State.launch_keeps ?_ | intro _
    | with_reducible refine Keeps.ite ?_ ?_

theorem execVkey_keeps {r s : State} {p : CoreId} (h : Keeps r s) :
    KeepsOut r (execVkey p s) := by
  unfold execVkey
  repeat' first
    | with_reducible exact h | with_reducible assumption | with_reducible refine keepsOut_next ?_
    | with_reducible refine State.slotStep_keeps ?_ ?_ | with_reducible refine State.setV_keeps ?_
    | with_reducible refine State.signalTok_keeps ?_ | with_reducible refine State.raise_keeps ?_ | intro _

theorem execVld_keeps {r s : State} {p : CoreId} (h : Keeps r s) :
    KeepsOut r (execVld p s) := by
  unfold execVld
  repeat' first
    | with_reducible exact h | with_reducible assumption | with_reducible refine keepsOut_next ?_
    | with_reducible refine State.slotStep_keeps ?_ ?_ | with_reducible refine State.vResult_keeps ?_ | intro _

theorem execVlog_keeps {r s : State} {p : CoreId} (h : Keeps r s) :
    KeepsOut r (execVlog p s) := by
  unfold execVlog
  repeat' first
    | with_reducible exact h | with_reducible assumption | with_reducible refine keepsOut_next ?_
    | with_reducible refine State.slotStep_keeps ?_ ?_ | with_reducible refine State.vSpecial_keeps ?_ | intro _

theorem execVmax_keeps {r s : State} {p : CoreId} (h : Keeps r s) :
    KeepsOut r (execVmax p s) := by
  unfold execVmax
  repeat' first
    | with_reducible exact h | with_reducible assumption | with_reducible refine keepsOut_next ?_
    | with_reducible refine State.slotStep_keeps ?_ ?_ | with_reducible refine State.vResult_keeps ?_ | intro _

theorem execVmin_keeps {r s : State} {p : CoreId} (h : Keeps r s) :
    KeepsOut r (execVmin p s) := by
  unfold execVmin
  repeat' first
    | with_reducible exact h | with_reducible assumption | with_reducible refine keepsOut_next ?_
    | with_reducible refine State.slotStep_keeps ?_ ?_ | with_reducible refine State.vResult_keeps ?_ | intro _

theorem execVmul_keeps {r s : State} {p : CoreId} (h : Keeps r s) :
    KeepsOut r (execVmul p s) := by
  unfold execVmul
  repeat' first
    | with_reducible exact h | with_reducible assumption | with_reducible refine keepsOut_next ?_
    | with_reducible refine State.slotStep_keeps ?_ ?_ | with_reducible refine State.vResult_keeps ?_ | intro _

theorem execVrcp_keeps {r s : State} {p : CoreId} (h : Keeps r s) :
    KeepsOut r (execVrcp p s) := by
  unfold execVrcp
  repeat' first
    | with_reducible exact h | with_reducible assumption | with_reducible refine keepsOut_next ?_
    | with_reducible refine State.slotStep_keeps ?_ ?_ | with_reducible refine State.vSpecial_keeps ?_ | intro _

theorem execVred_keeps {r s : State} {p : CoreId} (h : Keeps r s) :
    KeepsOut r (execVred p s) := by
  unfold execVred
  repeat' first
    | with_reducible exact h | with_reducible assumption | with_reducible refine keepsOut_next ?_
    | with_reducible refine State.slotStep_keeps ?_ ?_ | with_reducible refine State.vResult_keeps ?_ | intro _

theorem execVrsq_keeps {r s : State} {p : CoreId} (h : Keeps r s) :
    KeepsOut r (execVrsq p s) := by
  unfold execVrsq
  repeat' first
    | with_reducible exact h | with_reducible assumption | with_reducible refine keepsOut_next ?_
    | with_reducible refine State.slotStep_keeps ?_ ?_ | with_reducible refine State.vSpecial_keeps ?_ | intro _

theorem execVscan_keeps {r s : State} {p : CoreId} (h : Keeps r s) :
    KeepsOut r (execVscan p s) := by
  unfold execVscan
  repeat' first
    | with_reducible exact h | with_reducible assumption | with_reducible refine keepsOut_next ?_
    | with_reducible refine State.slotStep_keeps ?_ ?_ | with_reducible refine State.vResult_keeps ?_ | intro _

theorem execVsel_keeps {r s : State} {p : CoreId} (h : Keeps r s) :
    KeepsOut r (execVsel p s) := by
  unfold execVsel
  repeat' first
    | with_reducible exact h | with_reducible assumption | with_reducible refine keepsOut_next ?_
    | with_reducible refine State.slotStep_keeps ?_ ?_ | with_reducible refine State.setV_keeps ?_
    | with_reducible refine State.signalTok_keeps ?_ | with_reducible refine State.raise_keeps ?_ | intro _

theorem execVst_keeps {r s : State} {p : CoreId} (h : Keeps r s) :
    KeepsOut r (execVst p s) := by
  unfold execVst
  repeat' first
    | with_reducible exact h | with_reducible assumption | with_reducible refine keepsOut_next ?_
    | with_reducible refine State.slotStep_keeps ?_ ?_ | with_reducible refine State.launch_keeps ?_ | intro _

theorem execVtanh_keeps {r s : State} {p : CoreId} (h : Keeps r s) :
    KeepsOut r (execVtanh p s) := by
  unfold execVtanh
  repeat' first
    | with_reducible exact h | with_reducible assumption | with_reducible refine keepsOut_next ?_
    | with_reducible refine State.slotStep_keeps ?_ ?_ | with_reducible refine State.vSpecial_keeps ?_ | intro _

end Sys2Proof.Machine
end

