-- ==== Sys2Proof/Laws/Slots.lean ====
section
/-! SUPPORT. One lemma for each shared operation of the slots: what a command of a slot does on an issued and on a fetched
bundle, and how steps of one core compose. -/

namespace Sys2Proof.Machine

theorem CoreStep.start {s : State} {p : Nat} : CoreStep s s p (s.core p) := ⟨rfl, fun _ _ => rfl, rfl⟩

theorem CoreStep.setCore {s t : State} {p : Nat} {c d : Core} (h : CoreStep s t p c) : CoreStep s (t.setCore p d) p d := by
  obtain ⟨-, h2, h3⟩ := h
  refine ⟨by simp, fun q hq => by rw [State.core_setCore_ne hq, h2 q hq], ?_⟩
  rw [h3]; rfl

theorem CoreStep.setV {s t : State} {p : Nat} {c : Core} {v : VCore} (h : CoreStep s t p c) :
    CoreStep s (t.setV p v) p { c with v := v } := by
  have k := h.setCore (d := { t.core p with v := v })
  rw [h.1] at k
  unfold State.setV
  rwa [h.1]

theorem CoreStep.slotDone {s t : State} {p n : Nat} {c : Core} {b : Bundle} (h : CoreStep s t p c) (e : c.ib = some b) :
    CoreStep s (t.slotDone p n) p { c with ib := some { b with done := sins n b.done } } := by
  have k := h.setCore (d := { t.core p with ib := (t.core p).ib.map (fun b => { b with done := sins n b.done }) })
  rw [h.1, e] at k
  unfold State.slotDone
  dsimp only
  rw [h.1, e]
  exact k

/-- The virtual core that a slot leaves, in the form of doneSlot. -/
theorem CoreStep.ran {s t : State} {p n : Nat} {b : Bundle} {v : VCore} (h : CoreStep s t p { s.core p with v := v })
    (e : (s.core p).ib = some b) : CoreStep s (t.slotDone p n) p (doneSlot (s.core p) b n v) :=
  h.slotDone (c := { s.core p with v := v }) e

/-- A slot's command on an issued bundle runs the slot's body once. -/
theorem slotStep_issued {s : State} {p n op : Nat} {b : Bundle} {ok : Nat → Bool} {body : State → Bundle → W64 → State}
    (h : s.Issued p n op b) (k : ok op = true) :
    s.slotStep p n ok body = (body s b (b.slots.getD n 0)).slotDone p n := by
  obtain ⟨h1, h2, h3, h4, h5⟩ := h
  simp only [State.slotStep, h1, h3, k, h4, h5, h2, Bool.not_true, Bool.false_or, Bool.false_eq_true, if_false, if_true]

/-- Reading operands that no waiting error touches leaves the state. -/
theorem readSlots_eq {s : State} {p : Nat} {ns : List (Nat × Needs)}
    (h : ∀ y ∈ ns, ∀ r ∈ y.2.touch, s.readElems p r.1 r.2.1 r.2.2 = s) : s.readSlots p ns = s := by
  unfold State.readSlots
  induction ns with
  | nil => rfl
  | cons y l ih =>
    have one : y.2.touch.foldl (fun s r => s.readElems p r.1 r.2.1 r.2.2) s = s := by
      have g := h y (by simp)
      generalize y.2.touch = rs at g
      induction rs with
      | nil => rfl
      | cons r rs ih2 => rw [List.foldl_cons, g r (by simp)]; exact ih2 (fun r hr => g r (by simp [hr]))
    rw [List.foldl_cons, one]
    exact ih (fun z hz => h z (by simp [hz]))

/-- What issuing a bundle leaves, on the state in which the errors of its operands have been found. -/
theorem issueBundle_eq {s : State} {p : Nat} {b : Bundle} {ns : List (Nat × Needs)} :
    let u := s.readSlots p ns
    ∃ v, s.issueBundle p b ns = (u.setCore p { u.core p with
        v := { v with pc := b.pc + 1, overrun := b.pc == 8191, lastPc := b.pc }, heldN := 0, issues := (u.core p).issues + 1
        ib := some { b with issued := true, num := (u.core p).issues, snap := (u.core p).v, late := slotsN.map (lateOf ns) } }).bump
          (rg (fnCore p) 0x070) 47 0 1 ∧
      v = match (ns.map (·.2)).findSome? (·.tok) with
        | some (t, k) => (u.core p).v.setTok t ((u.core p).v.getTok t - k)
        | none => (u.core p).v :=
  ⟨_, rfl, rfl⟩

@[simp] theorem State.ticking_setCore {s : State} {p q : Nat} {c : Core} : (s.setCore q c).ticking p = s.ticking p := rfl
@[simp] theorem State.ticking_bump {s : State} {p k hi lo n : Nat} : (s.bump k hi lo n).ticking p = s.ticking p := rfl

/-- The bundle issued is in the issue buffer. -/
theorem issueBundle_ib {s : State} {p : Nat} {b : Bundle} {ns : List (Nat × Needs)} :
    ∃ d, ((s.issueBundle p b ns).core p).ib = some d ∧ d.slots = b.slots ∧ d.done = b.done ∧ d.issued = true ∧ d.pc = b.pc := by
  obtain ⟨v, hv, -⟩ := issueBundle_eq (s := s) (p := p) (b := b) (ns := ns)
  exact ⟨{ b with issued := true, num := ((s.readSlots p ns).core p).issues, snap := ((s.readSlots p ns).core p).v
                  late := slotsN.map (lateOf ns) }, by rw [hv]; simp [State.bump, State.setFld], rfl, rfl, rfl, rfl⟩

/-- On a fetched bundle a slot's command first does what the clk does with the bundle. -/
theorem slotStep_fetched {s : State} {p j n op : Nat} {b : Bundle} {ok : Nat → Bool} {body : State → Bundle → W64 → State}
    (h : s.Fetched p j n op b) (k : ok op = true) :
    s.slotStep p n ok body =
      match (s.tryIssue p b).2, ((s.tryIssue p b).1.core p).ib with
      | true, some b' => (body (s.tryIssue p b).1 b' (b.slots.getD n 0)).slotDone p n
      | _, _ => (s.tryIssue p b).1 := by
  obtain ⟨h1, h2, h3, h4, h5, h6, -⟩ := h
  unfold State.slotStep
  simp only [h1, h3, k, h4, h5, h2, h6, Bool.not_true, Bool.false_or, Bool.false_eq_true, if_false, ne_eq, not_true_eq_false]
  all_goals rfl

/-- What tryIssue does with a fetched bundle: an overflow of the signalled tokens faults, else the settled state decides. -/
theorem tryIssue_fetched {s : State} {p j n op : Nat} {b : Bundle} (h : s.Fetched p j n op b) :
    s.tryIssue p b = match (s.core p).v.overflow ((s.settled p).twaitTakes p j b) with
      | some g => (s.coreFault p g.pc 0x05 (2 ^ g.slot), false)
      | none => (s.settled p).decideIssue p j b := by
  obtain ⟨-, -, -, -, -, -, h7, h8, h9⟩ := h
  obtain ⟨⟨i, vc⟩, hb, rfl⟩ := Option.map_eq_some_iff.1 h7
  unfold State.tryIssue
  simp only [hb, h8, Bool.false_or, decide_eq_true_eq, if_neg (Nat.not_lt.2 h9), State.settled]
  all_goals rfl

theorem decideIssue_held {s : State} {p j off : Nat} {b : Bundle} (k : s.holdOf p (s.core p) (s.asks p j b) = some off) :
    s.decideIssue p j b = ((s.setCore p { s.core p with now := (s.core p).now + 1, heldN := (s.core p).heldN + 1 }).bump
      (rg (fnCore p) off) 47 0 1, false) := by
  unfold State.decideIssue
  unfold State.asks at k
  simp only [k]

theorem decideIssue_issues {s : State} {p j : Nat} {b : Bundle} (k : s.holdOf p (s.core p) (s.asks p j b) = none)
    (g : faultsOf (s.asks p j b) = []) : s.decideIssue p j b = (s.issueBundle p b (s.asks p j b), true) := by
  unfold State.decideIssue
  unfold State.asks at k g
  simp only [k, g]
  rfl

/-- A bundle that issues leaves its slot's command as it is on the issued bundle. -/
theorem slotStep_issues {s : State} {p j n op : Nat} {b : Bundle} {ok : Nat → Bool} {body : State → Bundle → W64 → State}
    (h : s.Fetched p j n op b) (k : ok op = true)
    (o : (s.core p).v.overflow ((s.settled p).twaitTakes p j b) = none)
    (g : (s.settled p).holdOf p ((s.settled p).core p) ((s.settled p).asks p j b) = none)
    (q : faultsOf ((s.settled p).asks p j b) = [])
    (e : ((s.settled p).issueBundle p b ((s.settled p).asks p j b)).ticking p = true) :
    s.slotStep p n ok body = ((s.settled p).issueBundle p b ((s.settled p).asks p j b)).slotStep p n ok body := by
  rw [slotStep_fetched h k, tryIssue_fetched h, o]
  simp only [decideIssue_issues g q]
  obtain ⟨-, -, h3, h4, -⟩ := h
  obtain ⟨d, hd, hs, hn, hi, -⟩ := issueBundle_ib (s := s.settled p) (p := p) (b := b) (ns := (s.settled p).asks p j b)
  rw [slotStep_issued ⟨hd, hi, by rw [hs]; exact h3, by rw [hn]; exact h4, e⟩ k, hd, hs]

/-! Launch. -/

/-- An instruction without operands in the scratchpad joins those in flight of its core, and no clk moves. -/
theorem CoreStep.launch {s t : State} {p n : Nat} {c : Core} {b : Bundle} {w : W64} {x : Needs} {eff : List Eff} {late : Nat}
    {waiting : Bool} (h : CoreStep s t p c) (hr : x.rd = []) (hw : x.wr = []) :
    CoreStep s (t.launch p b n w x eff late waiting) p { c with fly := c.fly ++ [c.flightOf b n w x eff late waiting] } := by
  have k := h.setCore (d := { t.core p with fly := (t.core p).fly ++ [(t.core p).flightOf b n w x eff late waiting] })
  unfold State.launch
  simp only [hr, hw, and_self, if_true]
  rw [h.1] at k ⊢
  exact k

theorem State.launch_core {s : State} {p n : Nat} {b : Bundle} {w : W64} {x : Needs} {eff : List Eff} {late : Nat}
    {waiting : Bool} (h : x.rd ≠ [] ∨ x.wr ≠ []) :
    let c := s.core p
    let f := c.flightOf b n w x eff late waiting
    ((s.launch p b n w x eff late waiting).core p) =
      { c with fly := ((c.fly.zip (c.fly.map (fun g => g.loses c.now f))).map (fun y => y.1.move y.2)) ++ [f.move (c.slipOf b n x f)] } := by
  unfold State.launch
  have : ¬ (x.rd = [] ∧ x.wr = []) := by rcases h with h | h <;> simp [h]
  simp only [this, if_false, State.countBank]
  split <;> simp [State.bump, State.setFld]

/-- What a launch leaves beside the core it launches on: the state but for BANKHOLD. -/
theorem State.launch_rest {s : State} {p n : Nat} {b : Bundle} {w : W64} {x : Needs} {eff : List Eff} {late : Nat}
    {waiting : Bool} :
    let t := s.launch p b n w x eff late waiting
    (∀ q, q ≠ p → t.core q = s.core q) ∧ t = { s with cores := t.cores, csr := t.csr } ∧
      ∀ k, k ≠ rg (fnCore p) 0x088 → t.rd k = s.rd k := by
  unfold State.launch
  dsimp only
  split
  · exact ⟨fun q hq => State.core_setCore_ne hq, rfl, fun _ _ => rfl⟩
  · unfold State.countBank
    split
    · exact ⟨fun q hq => State.core_setCore_ne hq, rfl, fun _ _ => rfl⟩
    · refine ⟨fun q hq => ?_, rfl, fun k hk => ?_⟩
      · exact State.core_setCore_ne hq
      · exact State.rd_wr_ne hk

@[simp] theorem Eff.move_move {m n : Nat} {e : Eff} : (e.move m).move n = e.move (m + n) := by
  cases e <;> simp [Eff.move, Nat.add_assoc]

@[simp] theorem Eff.move_zero {e : Eff} : e.move 0 = e := by cases e <;> rfl

@[simp] theorem Flight.move_zero {f : Flight} : f.move 0 = f := by
  obtain ⟨⟩ := f
  simp only [Flight.move, Nat.add_zero, Flight.mk.injEq, true_and]
  refine ⟨by split <;> simp_all, by simp, by simp, ?_⟩
  exact (List.map_congr_left (fun _ _ => Eff.move_zero)).trans (List.map_id _)

/-- A slot whose instruction is launched on the core's clk and flights leaves it among those in flight. -/
theorem Launched.launch {s t : State} {p n : Nat} {b : Bundle} {x : Needs} {eff : List Eff}
    (hf : (t.core p).fly = (s.core p).fly) (hn : (t.core p).now = (s.core p).now) (hi : (t.core p).ib = some b) :
    Launched s ((t.launch p b n (b.slots.getD n 0) x eff).slotDone p n) p n b x eff := by
  have ib : ∀ u : State, (u.core p).ib = some b →
      ((u.slotDone p n).core p).ib = some { b with done := sins n b.done } ∧ ((u.slotDone p n).core p).fly = (u.core p).fly := by
    intro u hu; simp [State.slotDone, hu]
  by_cases h : x.rd = [] ∧ x.wr = []
  · have k := CoreStep.launch (n := n) (b := b) (w := b.slots.getD n 0) (x := x) (eff := eff) (late := 0) (waiting := false)
      (CoreStep.start (s := t) (p := p)) h.1 h.2
    obtain ⟨i1, i2⟩ := ib (t.launch p b n (b.slots.getD n 0) x eff) (by rw [k.1]; exact hi)
    rw [k.1] at i2
    refine ⟨(t.core p).flightOf b n (b.slots.getD n 0) x eff 0 false, 0, (s.core p).fly.map (fun _ => 0), ?_, by simp, ?_, ?_, ?_, i1⟩
    · simp [Flight.Of, Core.flightOf, hn]
    · rw [i2]
      simp only [hf, List.append_cancel_right_eq]
      generalize (s.core p).fly = l
      induction l with
      | nil => rfl
      | cons g r ih => simp only [List.map_cons, List.zipWith_cons_cons, ← ih, Flight.move_zero]
    · exact fun _ _ => ⟨rfl, by rw [i2, hf]⟩
    · exact fun g => absurd h (by rcases g with g | g <;> simp [g])
  · have h' : x.rd ≠ [] ∨ x.wr ≠ [] := by by_cases g : x.rd = [] <;> simp_all
    have k := State.launch_core (s := t) (p := p) (n := n) (b := b) (w := b.slots.getD n 0) (eff := eff) (late := 0) (waiting := false) h'
    dsimp only at k
    obtain ⟨i1, i2⟩ := ib (t.launch p b n (b.slots.getD n 0) x eff) (by rw [k]; exact hi)
    rw [k] at i2
    refine ⟨((t.core p).flightOf b n (b.slots.getD n 0) x eff 0 false).move
        ((t.core p).slipOf b n x ((t.core p).flightOf b n (b.slots.getD n 0) x eff 0 false)),
      (t.core p).slipOf b n x ((t.core p).flightOf b n (b.slots.getD n 0) x eff 0 false),
      (t.core p).fly.map (fun g => g.loses (t.core p).now ((t.core p).flightOf b n (b.slots.getD n 0) x eff 0 false)), ?_,
      by simp [hf], ?_, fun g1 g2 => absurd ⟨g1, g2⟩ h, ?_, i1⟩
    · simp [Flight.Of, Core.flightOf, Flight.move, hn, Function.comp_def]
    · rw [i2, ← hf]
      simp only [List.append_cancel_right_eq]
      simp [List.zip, List.map_zipWith]
    · intro _ g
      rw [← hf] at g
      simp [Core.slipOf, g]

end Sys2Proof.Machine
end

