-- ==== Sys2Proof/Laws/Wire.lean ====
section
/-! SUPPORT. What leaves on the lanes of a tether link is what their receiver reads (R297): the scrambler, the symbols and the
order of the bytes undo each other. -/

namespace Sys2Proof.Machine

@[simp] theorem descramble_scramble (l : List Bool) (st : Nat) : descramble st (scramble st l) = l := by
  induction l generalizing st with
  | nil => rfl
  | cons b l ih => simp [scramble, descramble, ih]

@[simp] theorem length_scramble (l : List Bool) (st : Nat) : (scramble st l).length = l.length := by
  induction l generalizing st with
  | nil => rfl
  | cons b l ih => simp [scramble, ih]

theorem symBits_toSyms (n : Nat) (l : List Bool) (h : l.length = 2 * n) : (toSyms l).flatMap symBits = l ∧ (toSyms l).length = n := by
  induction n generalizing l with
  | zero => cases List.length_eq_zero_iff.1 h; exact ⟨rfl, rfl⟩
  | succ n ih =>
    match l with
    | [] => cases h
    | [_] => simp at h; omega
    | a :: b :: r =>
      obtain ⟨i, j⟩ := ih r (by simp at h; omega)
      refine ⟨?_, by simp [toSyms, j]⟩
      rw [toSyms, List.flatMap_cons, i]
      cases a <;> cases b <;> rfl

@[simp] theorem length_byteBits (b : Byte) : (byteBits b).length = 8 := by simp [byteBits]
@[simp] theorem bitsByte_byteBits : ∀ b : Byte, bitsByte (byteBits b) = b := by decide +kernel

theorem length_bits (l : List Byte) : (l.flatMap byteBits).length = 8 * l.length := by
  induction l with
  | nil => rfl
  | cons b l ih => simp [ih]; omega

theorem pieces_bits (l : List Byte) : pieces 8 l.length (l.flatMap byteBits) = l.map byteBits := by
  induction l with
  | nil => rfl
  | cons b l ih => simp [pieces, ih]

@[simp] theorem length_laneSyms (st : Nat) (l : List Byte) : (laneSyms st l).length = 4 * l.length :=
  (symBits_toSyms _ _ (by rw [length_scramble, length_bits]; omega)).2

theorem laneBytes_laneSyms (st : Nat) (l : List Byte) : laneBytes st (laneSyms st l) = l := by
  have h := symBits_toSyms (4 * l.length) (scramble st (l.flatMap byteBits)) (by rw [length_scramble, length_bits]; omega)
  unfold laneBytes
  rw [length_laneSyms, Nat.mul_div_cancel_left _ (by omega)]
  unfold laneSyms
  rw [h.1, descramble_scramble, pieces_bits, List.map_map]
  exact List.map_id'' (fun b => bitsByte_byteBits b) l

theorem length_pieces (len n : Nat) (l : List α) : (pieces len n l).length = n := by
  induction n generalizing l with
  | zero => rfl
  | succ n ih => simp [pieces, ih]

theorem weave_rows (n : Nat) (l : List Byte) (h : l.length = 8 * n) :
    weave 0 n ((List.range 8).map (fun k => (pieces 8 n l).map (·.getD k 0))) = l := by
  induction n generalizing l with
  | zero => exact (List.length_eq_zero_iff.1 h).symm
  | succ n ih =>
    match l, h with
    | a :: b :: c :: d :: e :: f :: g :: i :: r, h =>
      have t := ih r (by simp at h; omega)
      simp [List.range_succ, List.range_zero, weave, pieces] at t ⊢
      exact t

/-- The bytes that eight lanes bring are those that were put on them, if the receiver's descramblers stand as the sender's
scramblers did. -/
theorem ofLanes_toLanes (st : Tab Nat) (l : List Byte) (h : l.length = 14336) : ofLanes st (toLanes st l) = l := by
  have m : (toLanes st l).mapIdx (fun k x => laneBytes (tget z0 st k) x) =
      (List.range 8).map (fun k => (pieces 8 1792 l).map (·.getD k 0)) := by
    refine List.ext_getElem (by simp [toLanes]) (fun k _ _ => ?_)
    simp [toLanes, laneBytes_laneSyms]
  rw [ofLanes, m]
  exact weave_rows 1792 l (by omega)

theorem toLanes_shape (st : Tab Nat) (l : List Byte) : (toLanes st l).length = 8 ∧ (toLanes st l).all (fun x => x.length == 7168) = true := by
  simp [toLanes, length_pieces]

end Sys2Proof.Machine
end

