-- ==== Sys2Proof/WellFormed.lean ====
section
/-! DEFINITION. The checks on a command's operands that its types do not make. -/

namespace Sys2Proof

def Instr.wf : Instr → Bool
  | .spillqWrite _ data _ => data.length == 64
  | _ => true

end Sys2Proof
end

