-- ==== Sys2Proof/Tests/Slice0.lean ====
section
/-! SUPPORT. Tests: well-formedness, single steps on small states whose expected results are taken from the spec's words, and
for every statement with hypotheses a concrete state that meets them. -/

namespace Sys2Proof.Tests

-- One theorem after the other: each evaluates in the kernel, and waits there for all that stands before it.
set_option Elab.async false
open Sys2Proof.Machine

/-! Small states. -/

/-- n bytes, zero but for fields of k bytes at offset o with value v. -/
def fields (n : Nat) (l : List (Nat × Nat × Nat)) : List Byte :=
  Mem.bytes (l.foldl (fun m x => Mem.store m x.1 (leBytes x.2.2 x.2.1)) []) 0 n

/-- A braid with one job, number 0: cluster 0, alignment group 0, ring pair 1, ledger slots 1 to 8. -/
def jobBraid : Braid := ⟨[(2, fields 128 [(2, 2, 1), (4, 2, 8), (8, 4, 1), (16, 8, 2)])], 1, 1⟩

/-- Core 0 holds virtual core 0 of job 0 and bundle b. -/
def coreState (b : Bundle) (v : VCore) : State :=
  { State.reset with
    cores := [(0, { core0 with bound := some (0, 0), v := { v with run := .running, codeLen := 16 }, ib := some b })]
    jobs := [(0, { job0 0 with prog := some ⟨0, [], 0⟩ })], braid := jobBraid }

/-- The bundle with word w in slot n and NOP in the others, issued or not. -/
def bundleOf (n : Nat) (w : W64) (issued : Bool) (v : VCore) : Bundle :=
  ⟨4, (List.range 4).map (fun k => if k = n then w else 0), issued, 0, [], { v with run := .running, codeLen := 16 }, []⟩

def slotState (n : Nat) (w : W64) (issued : Bool) : State := coreState (bundleOf n w issued vcore0) vcore0

/-- An instruction of the M slot in flight, due at clk 5. -/
def flight0 (eff : List Eff) : Flight :=
  { bundle := 0, slot := 3, op := 0x0A, pc := 4, issued := 0, due := 5, waiting := false, tok := none, writes := [], rd := [], wr := []
    acc := [], accAt := 0, stream := 0, ldw := [], bound := [], chain := 0, res := 0, busy := 0, box := none, eff }

def flyState (eff : List Eff) : State :=
  let s := slotState 3 0 true
  s.setCore 0 { s.core 0 with ib := none, fly := [flight0 eff] }

/-! Well-formedness. -/

/-- A granule has 64 bytes. -/
theorem test_wf_refuses_short_granule : (Instr.spillqWrite 0 (List.replicate 63 0) false).wf = false := by decide
theorem test_wf_takes_granule : (Instr.spillqWrite 127 (List.replicate 64 0) true).wf = true := by decide

/-! The machine as a whole. -/

/-- The rows of the table have no bits: no word spells a command. -/
theorem test_no_word_spells : decodeTableWord 64 0 = none := by decide

theorem witness_o1 : State.reset.pending = [] := by decide
theorem witness_o2 : ∃ t, exec .resetNAssert State.reset = .next t := ⟨_, rfl⟩
theorem witness_o3 : State.reset.Sound := by unfold State.Sound; decide

/-! Issue. -/

theorem witness_o6 : let s := { slotState 0 0 true with cores := [(0, { core0 with bound := some (0, 0), v := { vcore0 with run := .running, codeLen := 1 } })] }
    let c := s.core 0
    c.bound.isSome = true ∧ c.v.run = .running ∧ s.ticking 0 = true ∧ c.ib = none ∧ c.v.overrun = false ∧
      c.v.pc.toNat < c.v.codeLen ∧ s.fetchUpsets 0 c.v.pc.toNat = (0, 0) ∧ c.dueNow = false ∧ s.onRound 0 = true := by decide +kernel

/-- A word with two wrong bits in slot 0, a word with one, and a PC past the code. -/
theorem witness_o6_errors :
    let s := { slotState 0 0 true with cores := [(0, { core0 with bound := some (0, 0), v := { vcore0 with run := .running, codeLen := 1 } })] }
    ({ s with upset := [(bundleMem 0, 2)] }.fetchUpsets 0 0).2 = 1 ∧ ({ s with upset := [(bundleMem 0, 1)] }.fetchUpsets 0 0).2 = 0 ∧
      (s.setV 0 { (s.core 0).v with pc := 1 }).ticking 0 = true ∧ ((s.setV 0 { (s.core 0).v with pc := 1 }).core 0).v.codeLen ≤ 1 := by
  decide +kernel

/-- Every row's slot with its bare opcode, put forward by BUNDLE_FETCH. -/
theorem witness_o7_rows : ∀ x ∈ slotRows, (slotState x.1 (BitVec.ofNat 64 x.2.1) false).Fetched 0 0 x.1 x.2.1
    (bundleOf x.1 (BitVec.ofNat 64 x.2.1) false vcore0) := by
  unfold State.Fetched; decide +kernel

/-- TWAIT for 1 of token 0 is held, LDI is not, RET on an empty stack faults. -/
theorem witness_o7_o8 :
    (let s := slotState 0 0x1000A false
     let b := bundleOf 0 0x1000A false vcore0
     (s.holdOf 0 (s.core 0) (s.asks 0 0 b)).isSome = true) ∧
    (let s := slotState 0 0x70101 false
     let b := bundleOf 0 0x70101 false vcore0
     s.holdOf 0 (s.core 0) (s.asks 0 0 b) = none ∧ faultsOf (s.asks 0 0 b) = [] ∧
       (∀ y ∈ s.asks 0 0 b, ∀ r ∈ y.2.touch, s.readElems 0 r.1 r.2.1 r.2.2 = s) ∧ (s.core 0).v.overflow (s.twaitTakes 0 0 b) = none ∧
       (s.issueBundle 0 b (s.asks 0 0 b)).ticking 0 = true) ∧
    (let s := slotState 0 0x08 false
     let b := bundleOf 0 0x08 false vcore0
     s.holdOf 0 (s.core 0) (s.asks 0 0 b) = none ∧ (faultsOf (s.asks 0 0 b)).map (·.2) = [0x07]) := by decide +kernel

/-- The counts of the clk's signals: one that goes to 64; a completion that is due; a bundle past its limit of held clk. -/
theorem witness_o7_waits :
    (let v := { vcore0.setTok 0 63 with pend := [⟨0, 1, 3, 0, 3⟩] }
     let b := bundleOf 0 0x01 false v
     let s := coreState b v
     ((s.core 0).v.overflow ((s.settled 0).twaitTakes 0 0 b)).isSome = true ∧ (s.core 0).v.run = .running) ∧
    (let s := slotState 0 0x01 false
     let u := s.setCore 0 { s.core 0 with fly := [flight0 []], now := 5 }
     let w := s.setCore 0 { s.core 0 with heldN := s.waitLimit 0 + 1 }
     (u.core 0).dueNow = true ∧ (u.core 0).ib = some (bundleOf 0 0x01 false vcore0) ∧ w.waitLimit 0 < (w.core 0).heldN) := by decide +kernel

/-- TWAIT's subtraction: a bundle that asks for 1 of token 2. -/
theorem witness_o8_token :
    let v := vcore0.setTok 2 1
    let b := bundleOf 0 0x1020A false v
    ((((coreState b v).asks 0 0 b).map (·.2)).findSome? (·.tok) = some (2, 1)) := by decide +kernel

/-! The slots: every row issued. -/

theorem witness_issued : ∀ x ∈ slotRows ++ [(0, 0x00, .ldi), (3, 0x00, .ldi)],
    (slotState x.1 (BitVec.ofNat 64 x.2.1) true).Issued 0 x.1 x.2.1 (bundleOf x.1 (BitVec.ofNat 64 x.2.1) true vcore0) := by
  unfold State.Issued; decide +kernel

/-- Words with further fields, issued: SCAL MUL, TSIG, TWAIT, ACCLD and ACCST of one row and column, MMA of one row on array 0,
VCVT from FP16, VRED with FN 3 and 4, VST, MBX into the mailbox. -/
theorem witness_issued_words : ∀ x ∈ ([(0, 0x20000002), (0, 0x1000A), (1, 0x80800005), (1, 0x80800006), (1, 0x101000104),
    (2, 0x2000000030), (2, 0x6000000031), (2, 0x8000000031), (3, 0x80000000006)] : List (Nat × W64)),
    (slotState x.1 x.2 true).Issued 0 x.1 (opcode x.2) (bundleOf x.1 x.2 true vcore0) := by
  unfold State.Issued; decide +kernel

/-- The further conditions of O9 to O14: SCAL with FN 0 and MUL; a return stack with one entry; a running core bound to a
job whose signals of the clk stay in range; no TOKC. -/
theorem witness_slots_c :
    sf (0x02 : W64) 31 26 ≠ 0x08 ∧ sf (0x20000002 : W64) 31 26 = 0x08 ∧
      ((coreState (bundleOf 0 8 true vcore0) { vcore0 with rs := [5] }).core 0).v.rs = [5] ∧
      ((slotState 0 0x0C true).core 0).v.run = .running ∧ ((slotState 0 0x0C true).core 0).bound = some (0, 0) ∧
      ((slotState 0 0x0C true).core 0).v.overflow none = none ∧
      tokc (0x03 : W64) = none ∧ tokc (0x08 : W64) = none ∧ tokc (0x8500000000000001 : W64) = some 5 := by decide +kernel

/-- TSIG on a core that runs, has halted with room and without, or has stopped; TWAIT whose count is there, in the count or
signalled in its clk. -/
theorem witness_o11 :
    (∀ r ∈ [Run.running, .halted, .stopped], ∀ n ∈ [62, 63],
     let v := vcore0.setTok 0 n
     let s := coreState (bundleOf 0 0x10009 true vcore0) v
     let s := s.setV 0 { (s.core 0).v with run := r }
     s.Issued 0 0 0x09 (bundleOf 0 0x10009 true vcore0) ∧ (s.core 0).v.run = r ∧
       (({ (s.core 0).v with pend := [sigOf (bundleOf 0 0x10009 true vcore0) 0 0 1] } : VCore).overflow none).isSome = (n == 63)) ∧
    (∀ v ∈ [vcore0.setTok 0 1, { vcore0 with pend := [⟨0, 1, 3, 0, 3⟩] }],
     let b := bundleOf 0 0x1000A false v
     let s := coreState b v
     let u := s.settled 0
     s.Fetched 0 0 0 0x0A b ∧ (s.core 0).v.overflow (u.twaitTakes 0 0 b) = none ∧ u.holdOf 0 (u.core 0) (u.asks 0 0 b) = none ∧
       faultsOf (u.asks 0 0 b) = [] ∧ ∀ y ∈ u.asks 0 0 b, ∀ r ∈ y.2.touch, u.readElems 0 r.1 r.2.1 r.2.2 = u) := by
  unfold State.Issued State.Fetched; decide +kernel

/-- LDI of 7 into g1; SADDs, MMA and the others join those in flight. -/
theorem test_ldi_writes : (match exec (.ldi 0) (slotState 0 0x70101 true) with
    | .next t => (t.core 0).v.getG 1
    | _ => 0) = 7 := by decide +kernel
/-- A write into g0 is discarded (R146). -/
theorem test_ldi_g0 : (match exec (.ldi 0) (slotState 0 0x70001 true) with
    | .next t => (t.core 0).v.getG 0
    | _ => 1) = 0 := by decide +kernel
/-- An address register keeps the low 48 bits: IMM48 of all ones. -/
theorem test_ldi_address : (match exec (.ldi 0) (slotState 0 0xFFFFFFFFFFFF2101 true) with
    | .next t => (t.core 0).v.getA 1
    | _ => 0) = 0xFFFFFFFFFFFF := by decide +kernel
/-- BR to bundle 3. -/
theorem test_br : (match exec (.br 0) (slotState 0 0x305 true) with
    | .next t => (t.core 0).v.pc
    | _ => 0) = 3 := by decide +kernel
/-- ENDL at a count of 1 falls through with the count at 0 (R155). -/
theorem test_endl_ends :
    let v := vcore0.setLc 0 1
    (match exec (.endl 0) (coreState (bundleOf 0 0x304 true v) v) with
    | .next t => ((t.core 0).v.pc, (t.core 0).v.getLc 0)
    | _ => (9, 9)) = (0, 0) := by decide +kernel
/-- A count that a clk's signals take above 63 stops the job and stays (R157). -/
theorem test_token_overflow :
    let v := { vcore0.setTok 0 63 with pend := [⟨0, 1, 3, 0, 3⟩] }
    (match exec (.ldi 0) (coreState (bundleOf 0 0x01 false v) v) with
    | .next t => (t.stopped 0, (t.core 0).v.getTok 0)
    | _ => (false, 0)) = (true, 63) := by decide +kernel

/-- ACCLD of one row and one column; MMA on array 0 with one row, KLEN 1 or 0; their core without waiting errors. -/
theorem witness_o15_o16 :
    (let w : W64 := 0x80800005
     0 < sf w 30 23 ∧ 0 < sf w 37 31 ∧ sf w 37 31 ≤ 64 ∧ sf w 22 16 + sf w 30 23 ≤ 128) ∧
    (let w : W64 := 0x101000104
     arraysOf (sf w 11 8) = [0] ∧ sf w 39 32 = 1 ∧ sf w 23 17 + sf w 31 24 ≤ 128 ∧ 0 < sf w 31 24) ∧
    (let w : W64 := 0x1000104
     arraysOf (sf w 11 8) = [0] ∧ sf w 39 32 = 0 ∧ sf w 23 17 + sf w 31 24 ≤ 128 ∧ 0 < sf w 31 24) ∧ ((slotState 1 0x101000104 true).core 0).upset = [] := by decide +kernel

/-- VCVT from FP16, VRED with FN 3 and 4, VST without block scaling, VHIST with counts to come and without, VSEL and VKEY on clean
lanes and on a poisoned one. -/
theorem witness_o18_o19 :
    (∃ t, Tag.ofCode (vFn 0x2000000030) = some t ∧ t ≠ .e8m0) ∧ vFn 0x6000000031 < 4 ∧ vFn 0x8000000031 = 4 ∧ (vmTd vcore0 0x02).bs = 0 ∧
      tokc (0x16 : W64) = none ∧ (∀ i, i < 128 → (vcore0.lane 0 i).poison = false) ∧
      (let v := { vcore0 with v := [(0, ⟨0, true⟩)] }
       (coreState (bundleOf 2 0x16 true v) v).Issued 0 2 0x16 (bundleOf 2 0x16 true v) ∧ (v.lane 0 0).poison = true) ∧
      (let s := slotState 2 0x33 true
       let f := flight0 [.hist 2 .nan]
       let u := s.setCore 0 { s.core 0 with fly := [f], now := 4 }
       (∀ f ∈ (s.core 0).fly, ∀ k x, Eff.hist k x ∈ f.eff → f.waiting = true ∨ (s.core 0).now ≤ k) ∧
         (u.core 0).fly = [f] ∧ f.eff = [.hist 2 .nan] ∧ f.waiting = false ∧ 2 < (u.core 0).now ∧ u.Issued 0 2 0x33 (bundleOf 2 0x33 true vcore0)) := by
  refine ⟨⟨_, rfl, by decide +kernel⟩, by decide +kernel, by decide +kernel, by decide +kernel, by decide +kernel, by decide +kernel,
    by unfold State.Issued; decide +kernel, ?_⟩
  unfold State.Issued
  refine ⟨fun f hf => absurd (show f ∈ ([] : List Flight) from hf) List.not_mem_nil, ?_⟩
  decide +kernel

/-- A vector descriptor: n elements of tag t from byte a on. -/
def vec (t n a : Nat) : BitVec 512 := BitVec.ofNat 512 (a + n * 2 ^ 64 + 2 ^ 224 + t * 2 ^ 384)

/-- Moves between empty tensors have nothing to overlap; from td[1] to the bytes 8 on in another format they have; MBX both
ways, alone and with another instruction in flight. -/
theorem witness_o20 :
    (slotState 3 0x01 true).pathM 0 vcore0 0x01 = .direct ∧ (slotState 3 0x02 true).pathM 0 vcore0 0x02 = .direct ∧
      (slotState 3 0x03 true).pathM 0 vcore0 0x03 = .direct ∧ sf (0x80000000006 : W64) 43 43 = 1 ∧ sf (0x06 : W64) 43 43 = 0 ∧
      (slotState 3 0x06 true).readMbx 0 (mtSrc vcore0 0x06) = slotState 3 0x06 true ∧
      (∀ q ∈ coresOf (clusterOf 0), q ≠ 0 → ((slotState 3 0x06 true).core q).fly = []) ∧ ((slotState 3 0x06 true).core 0).fly = [] ∧
      (let v := { vcore0 with td := [(1, vec 3 16 0), (2, vec 2 16 8)] }
       ∀ op ∈ [0x01, 0x02, 0x03], let w : W64 := BitVec.ofNat 64 (op + 2 ^ 8 + 2 * 2 ^ 13)
         (coreState (bundleOf 3 w true v) v).Issued 0 3 op (bundleOf 3 w true v) ∧
           (coreState (bundleOf 3 w true v) v).pathM 0 v w ≠ .direct) := by
  unfold State.Issued; decide +kernel

/-- A scatter of nothing; one of one element whose index 0 lies beyond an empty destination, or whose index is poisoned; one whose
destination meets its source. -/
theorem witness_o21 :
    (∀ op ∈ [0x0A, 0x0B], let w : W64 := BitVec.ofNat 64 op
     let s := slotState 3 w true
     s.Issued 0 3 op (bundleOf 3 w true vcore0) ∧ s.pathM 0 vcore0 w = .direct ∧ (saddS vcore0 w).count = 0) ∧
    (∀ q ∈ [[], [window 0]], ∀ op ∈ [0x0A, 0x0B],
     let v := { vcore0 with td := [(1, vec 8 1 0)] }
     let w : W64 := BitVec.ofNat 64 (0x2100 + op)
     let s := { coreState (bundleOf 3 w true v) v with poison := q }
     s.Issued 0 3 op (bundleOf 3 w true v) ∧ s.pathM 0 v w = .direct ∧
       (let ix := (List.range (saddS v w).count).map (fun k => (s.scratch 0).elem (saddI v w) k)
        ix.any (·.poison) = !q.isEmpty ∧ ix.any (fun x => sext x.code 32 < 0 || ((saddD v w).count : Int) ≤ sext x.code 32) = true)) ∧
    (∀ op ∈ [0x0A, 0x0B],
     let v := { vcore0 with td := [(1, vec 8 4 0), (2, vec 8 4 64), (3, vec 8 4 2)] }
     let w : W64 := BitVec.ofNat 64 (op + 2 ^ 8 + 2 * 2 ^ 13 + 3 * 2 ^ 18)
     let s := coreState (bundleOf 3 w true v) v
     s.Issued 0 3 op (bundleOf 3 w true v) ∧ s.pathM 0 v w ≠ .direct) := by
  unfold State.Issued; decide +kernel

/-- Nothing waits in a reset chip, so that reading elements leaves it. -/
theorem witness_o21_clean (d : Td) (n : Nat) (i : Nat → Nat) : (slotState 3 0x0A true).readElems 0 d n i = slotState 3 0x0A true := rfl

/-- A queue whose area popped before is held: no read of it in flight, and one. -/
theorem witness_o22 :
    let q : SQueue := { sq0 0 with depth := 2, entry := 64, popped := 1, held := true }
    let v := vcore0.setQueue 0 q
    let s := coreState (bundleOf 3 0x05 true v) v
    let f (r : List Span) : Flight := { flight0 [] with rd := r }
    let u := s.setCore 0 { s.core 0 with fly := [f [⟨0, 64⟩]] }
    s.Issued 0 3 0x05 (bundleOf 3 0x05 true v) ∧ (s.core 0).v.queue 0 = q ∧ q.back = [] ∧ (vcore0.queue 0).held = false ∧
      (∀ f ∈ (s.core 0).fly, ∀ y ∈ f.rd, (⟨0, 64⟩ : Span).meets y = false) ∧ u.Issued 0 3 0x05 (bundleOf 3 0x05 true v) ∧
      (∃ f ∈ (u.core 0).fly, ∃ y ∈ f.rd, (⟨0, 64⟩ : Span).meets y = true) := by
  unfold State.Issued; decide +kernel

/-- A bundle that has waited longer than WAITLIMIT; a fault is recorded, or none is; an SADD whose index was out of range. -/
theorem witness_o23 :
    (((flyState [.badIndex]).core 0).fly.find? (fun f => f.eff == [.badIndex]) = some (flight0 [.badIndex]) ∧
      (flight0 [.badIndex]).waiting = false ∧ (flyState [.badIndex]).ticking 0 = true ∧ ((flyState [.badIndex]).core 0).bound = some (0, 0)) ∧
    (let s := slotState 0 0x1000A false
     let s := s.setCore 0 { s.core 0 with heldN := s.waitLimit 0 + 1 }
     (s.core 0).ib = some (bundleOf 0 0x1000A false vcore0) ∧ (s.core 0).v.run = .running ∧ s.waitLimit 0 < (s.core 0).heldN) ∧
    ((slotState 0 0 true).setFlag (rg (fnCore 0) 0x0A0) 40 true).flag (rg (fnCore 0) 0x0A0) 40 = true ∧
    (slotState 0 0 true).flag (rg (fnCore 0) 0x0A0) 40 = false := by decide +kernel

/-- Job 0 has stopped, or it has not and core 0 runs for it. -/
theorem witness_o24 :
    ((slotState 0 0 true).setFlag (rg fnChip 0x048) 0 true).stopped 0 = true ∧ (slotState 0 0 true).stopped 0 = false ∧
      0 ∈ (slotState 0 0 true).coresOfJob 0 := by decide +kernel

/-- Each effect in flight, next to complete; a fold queue with room, and a full one. -/
theorem witness_o25 : (∀ eff ∈ [[Eff.greg 1 7], [.areg 1 7], [.vreg 0 []], [.weights 3 1 (loadTile ((slotState 0 0 true).scratch 0) (tdOf 0 0) 0 false)],
      [.put false 8 8 0xFF false], [.fold 1 1 1 1 false false]],
    let s := flyState eff
    nextFlight (s.core 0).fly = some (flight0 eff) ∧ s.ticking 0 = true ∧ (s.core 0).ib = none ∧ (s.core 0).v.run = .running ∧
      (s.core 0).now < (flight0 eff).due ∧ ((s.setCore 0 { s.core 0 with now := 5 }).core 0).now = (flight0 eff).due ∧
      (s.cluster 0).stage = none ∧ (s.cluster 0).folds.length < 32) ∧
    (let s := (flyState []).setCluster 0 { (flyState []).cluster 0 with folds := List.replicate 32 ⟨0, 1, 0, 0, 1, false, false⟩ }
     32 ≤ (s.cluster 0).folds.length) := by decide +kernel

/-- A request for the staging buffer, the buffer free and taken, the cluster held or asleep; the instruction that has it. -/
theorem witness_o26 :
    let r : StageReq := ⟨0, 0, 3, 0, 0, 0, false⟩
    let s := (flyState []).setCluster 0 { (flyState []).cluster 0 with stageQ := [r] }
    let u := s.setCluster 0 { s.cluster 0 with stage := some r }
    let h := s.setCluster 0 { s.cluster 0 with hold := [.throttle] }
    (s.cluster 0).stageQ = [r] ∧ (s.cluster 0).stage = none ∧ (s.cluster 0).hold = [] ∧ (s.cluster 0).asleep = false ∧
      (u.cluster 0).stageQ = [r] ∧ (u.cluster 0).stage = some r ∧ (h.cluster 0).hold ≠ [] ∧
      ((s.setCluster 0 { s.cluster 0 with asleep := true }).cluster 0).asleep = true ∧ r.core = 0 ∧ r.bundle = (flight0 []).bundle ∧
      r.slot = (flight0 []).slot := by decide +kernel

/-- A fold message while the ledger is READY, and while it is not. -/
theorem witness_o27 :
    let s := State.reset.setCluster 0 { cluster0 0 with folds := [⟨0, 1, 5, 6, 1, false, false⟩] }
    (s.cluster 0).folds = [⟨0, 1, 5, 6, 1, false, false⟩] ∧ (s.setFlag (rg fnLedger 0) 0 true).flag (rg fnLedger 0) 0 = true ∧
      s.flag (rg fnLedger 0) 0 = false ∧ s.running = false ∧
      (let u := (s.setFlag (rg fnClk 0) 0 true).setFlag (rg fnClk 0) 11 true
       let u := { u with pins := { u.pins with resetN := true } }
       u.flag (rg fnLedger 0) 0 = false ∧ u.running = true ∧ u.hubOn = true) := by decide +kernel

/-- R58: the message's lanes and count add to slot 1; slot 0 is never written (R54). -/
theorem test_fold_adds :
    let s := (State.reset.setFlag (rg fnLedger 0) 0 true).setCluster 0 { cluster0 0 with folds := [⟨0, 1, 5, 6, 1, false, false⟩] }
    (match exec (.foldMessage 0) s with
     | .next t => ((tget slot0 t.ledger.slots 1).l0, (tget slot0 t.ledger.slots 1).l1, (tget slot0 t.ledger.slots 1).count)
     | _ => (0, 0, 0)) = (5, 6, 1) := by decide +kernel
theorem test_fold_slot_zero :
    let s := (State.reset.setFlag (rg fnLedger 0) 0 true).setCluster 0 { cluster0 0 with folds := [⟨0, 0, 5, 6, 1, false, false⟩] }
    (match exec (.foldMessage 0) s with
     | .next t => t.ledger.slots
     | _ => [(9, slot0 0)]) = [] := by decide +kernel
/-- ACCSW inverts the active-tile bits of arrays 0 and 3 (R122). -/
theorem test_accsw : (match exec (.accsw 0) (slotState 1 0x908 true) with
    | .next t => (t.core 0).v.active
    | _ => 0) = 9 := by decide +kernel
/-- A lane 2.0 + 1.0 in FP32 is 3.0. -/
theorem test_vadd :
    let v := { vcore0 with v := [(0, ⟨0x40000000, false⟩), (128, ⟨0x3F800000, false⟩)] }
    let w : W64 := 0x40210
    (match exec (.vadd 0) (coreState (bundleOf 2 w true v) v) with
     | .next t => (t.core 0).fly.map (fun f => f.eff.map (fun e => match e with
         | .vreg r l => (r, (l.headD ⟨0, true⟩).val)
         | _ => (9, 0)))
     | _ => []) = [[(2, 0x40400000)]] := by decide +kernel

/-! Splices and rounds. -/

/-- Job 0 in a phase, its one core as it runs; the core arrived at entry 1, or halted. -/
def inPhase (ph : Phase) (r : Run) : State :=
  let s := slotState 0 0 true
  let c := s.core 0
  let s := s.setCore 0 { c with ib := none, v := { c.v with run := r } }
  let s := s.setCluster 0 { s.cluster 0 with vcl := some 0, lanes := [0] }
  s.setJob 0 { s.job 0 with phase := ph }

/-- A second core of the job at another entry; a core still running; one that has arrived, with SCH dead or not; a job whose
program waits for its binding splice, or none does. -/
theorem witness_o28 :
    (let s := inPhase .span (.arrived 1 false)
     let s := s.setCore 1 { s.core 0 with bound := some (0, 1), v := { (s.core 0).v with run := .arrived 2 false } }
     (s.job 0).phase = .span ∧ s.stopped 0 = false ∧ (s.job 0).retract = none ∧ s.mismatched 0 = true) ∧
    (let s := inPhase .span .running
     s.mismatched 0 = false ∧ (s.job 0).prog.isSome = true ∧ s.allHalted 0 = false ∧
       (s.runsOf 0).all (fun r => r.isArrived || r.isHalted) = false) ∧
    (let s := inPhase .span (.arrived 1 false)
     let u := { s with boot := { s.boot with dead := [2] } }
     s.mismatched 0 = false ∧ s.allHalted 0 = false ∧ (s.runsOf 0).all (fun r => r.isArrived || r.isHalted) = true ∧
       (s.boundClusters 0).any (fun c => (s.cluster c).swapping) = false ∧ s.boot.dead.contains 2 = false ∧
       (s.openSplice 0 ((s.job 0).firstSidx.getD 0) false).stuckOf 0 (s.boundClusters 0) true = none ∧ u.boot.dead.contains 2 = true ∧
       u.mismatched 0 = false ∧ u.allHalted 0 = false ∧ (u.boundClusters 0).any (fun c => (u.cluster c).swapping) = false ∧
       (u.runsOf 0).all (fun r => r.isArrived || r.isHalted) = true ∧ u.stopped 0 = false) ∧
    (let s := inPhase .span .idle
     let s := s.setJob 0 { s.job 0 with prog := none, pending := some ⟨0, [], 0⟩ }
     s.mismatched 0 = false ∧ (s.job 0).prog = none ∧ (s.job 0).pending.isSome = true) ∧
    (let s := inPhase .span .halted
     s.mismatched 0 = false ∧ s.allHalted 0 = true ∧ (s.job 0).pending = none) := by decide +kernel

theorem witness_o29 :
    (let s := inPhase .quiesce (.arrived 1 false)
     let u := s.setCore 0 { s.core 0 with fly := [flight0 []] }
     (s.job 0).phase = .quiesce ∧ s.stopped 0 = false ∧ s.stuckOf 0 (s.boundClusters 0) true = none ∧ s.quiet 0 = true ∧
       (s.job 0).stepMark = false ∧ u.stuckOf 0 (u.boundClusters 0) true = none ∧ u.quiet 0 = false) ∧
    (let s := inPhase .quiesce (.arrived 1 true)
     let s := s.setJob 0 { s.job 0 with stepMark := true }
     s.quiet 0 = true ∧ (s.job 0).stepMark = true) := by decide +kernel

/-- SCH ready, the CCC of cluster 0 up; a chip mode pending. -/
def schState (s : State) : State := (s.setFlag (rg fnSch 0) 0 true).setFlag (rg fnSec 0x010) 0 true

theorem witness_o30 :
    (let s := inPhase .gates (.arrived 1 false)
     let u := { s with boot := { s.boot with dead := [2] } }
     (s.job 0).phase = .gates ∧ u.boot.dead.contains 2 = true ∧ u.stopped 0 = false ∧ s.boot.dead.contains 2 = false ∧
       (schState s).boot.dead.contains 2 = false ∧
       (s.serveGates 0).gatesClosed 0 = true ∧ s.stopped 0 = false ∧ ((schState s).serveGates 0).gatesClosed 0 = false ∧
       ((schState s).serveGates 0).servicesHold 0 = false) ∧
    (let s := inPhase .modeChange (.arrived 1 false)
     let u := { s with cmds := { s.cmds with chip := some 1 } }
     (s.job 0).phase = .modeChange ∧ s.cmds.chip = none ∧ u.cmds.chip.isSome = true ∧ (u.job 0).prog.isSome = true) ∧
    ((inPhase .reserved .halted).job 0).phase = .reserved ∧ ((inPhase .swap .halted).job 0).phase = .swap ∧
    (let s := inPhase .modeChange .halted
     let s := { s with cmds := { s.cmds with chip := some 1 }, braid := { s.braid with recs := s.braid.recs ++ [(16, [1, 2, 1, 3])] } }
     let s := (s.setFlag (rg fnSec 0x008) 1 true).setFlag (rg fnClk 0) 9 true
     s.pwrUp = true ∧ s.definedJobs.all (fun k => (s.job k).prog.isNone || s.unspliced k || (s.job k).phase == .modeChange) = true ∧
       fieldLE (s.strandRec 1) 2 1 < 2 ∧ fieldLE (s.strandRec 1) 3 1 < 4) := by decide +kernel

/-- An empty image asks for nothing and may be bound; one that asks for 2 clusters may not. -/
theorem witness_o31 :
    (let s := inPhase .load .halted
     let u := s.setJob 0 { s.job 0 with prog := none }
     s.stopped 0 = false ∧ (u.job 0).pending = none ∧ (u.job 0).prog = none ∧ (s.job 0).pending = none ∧
       (s.job 0).prog.isSome = true ∧ (s.job 0).binding = false ∧ s.moved 0 = false ∧ s.bindBad 0 [] = none ∧
       (s.job 0).aligned = false ∧ ∃ e, s.bindBad 0 (List.replicate 128 255) = some e) ∧
    (let s := inPhase .align (.arrived 1 false)
     let u := s.setFlag (rg fnChip 0x030) 32 true
     let v := s.setJob 0 { s.job 0 with release := some 0 }
     let w := s.setJob 0 { s.job 0 with release := some 9 }
     let y := s.setJob 0 { s.job 0 with aligned := true }
     (s.job 0).phase = .align ∧ (∀ p ∈ s.coresOfJob 0, (s.core p).fly = []) ∧ s.tetherOk 0 = true ∧ (s.job 0).release = none ∧
       (s.job 0).aligned = false ∧ s.fixed = true ∧ u.fixed = false ∧ u.tetherOk 0 = true ∧ (v.job 0).release = some 0 ∧
       0 ≤ v.beat.toNat ∧ v.tetherOk 0 = true ∧ (w.job 0).release = some 9 ∧ w.beat.toNat < 9 ∧ w.tetherOk 0 = true ∧
       (y.job 0).aligned = true ∧ y.tetherOk 0 = true ∧ (y.job 0).release = none ∧
       ({ s with braid := { s.braid with recs := s.braid.recs ++ [(7, [3, 0, 0x80])] } }).tetherOk 0 = false) := by
  refine ⟨⟨?_, ?_, ?_, ?_, ?_, ?_, ?_, ?_, ?_, ⟨0x10, ?_⟩⟩, ?_⟩ <;> decide +kernel

/-- Cluster 0 has run round 0 of 2; virtual core 1 waits in its image. -/
theorem witness_o32 :
    let s := inPhase .span .halted
    let s := s.setCluster 0 { s.cluster 0 with rounds := 2 }
    let x : Context := { v := { vcore0 with run := .running }, poison := [] }
    let s := s.setJob 0 { s.job 0 with prog := some ⟨0, fields 256 [(12, 1, 1), (13, 1, 2)], 0⟩, contexts := [(1, some x)] }
    s.jobOf 0 = some 0 ∧ (s.job 0).phase = .span ∧ s.stopped 0 = false ∧ (s.cluster 0).swapping = false ∧
      s.roundCores 0 0 = [0] ∧ (∀ p ∈ s.roundCores 0 0, (s.core p).v.run.isArrived || (s.core p).v.run.isHalted) ∧
      s.stuckOf 0 [0] false = none ∧ s.roundQuiet 0 0 = true ∧ s.nextRound 0 0 = some 1 ∧
      ((s.setCluster 0 { s.cluster 0 with swapping := true }).cluster 0).swapping = true := by decide +kernel

/-! Streams and HBM. -/

/-- Core 0 runs for job 0 in a span; thread 0 of cluster 0 holds t, and its queue q of core 0 is x. -/
def threadState (t : Thread) (q : Nat) (x : SQueue) : State :=
  let s := inPhase .span .running
  (s.setV 0 ((s.core 0).v.setQueue q x)).setThread 0 0 t

/-- A stream record of 64 bytes at address 0, with control word c (Table 8.7). -/
def streamRec (c : Nat) : BitVec 512 := BitVec.ofNat 512 (64 * 2 ^ 64 + c * 2 ^ 384)

/-- One that may start (a network stream), one that may not (a queue of the wrong direction), one under way with a credit,
without and in the middle of an entry, and an outbound one whose entry has been read, or not, or whose cluster is held. -/
theorem witness_o33 :
    (let t := { thread0 0 with list := [streamRec 0x800] }
     let s := threadState t 0 (sq0 0)
     (s.thread 0 0).list = [streamRec 0x800] ∧ s.jobOf 0 = some 0 ∧ t.started = false ∧ t.stopped = false ∧
       s.flowing 0 0 t.outbound = true ∧ (s.coreFor 0 0 (sdOf (streamRec 0x800)).vcore).isSome ∧
       s.rejects 0 (sdOf (streamRec 0x800)) = none ∧ s.rejects 0 (sdOf (streamRec 0x400)) = some (1, 0)) ∧
    (let t := { thread0 0 with list := [streamRec 0], started := true }
     let s := threadState t 0 { sq0 0 with depth := 2, entry := 64, credits := 1 }
     let u := threadState t 0 { sq0 0 with depth := 2, entry := 64 }
     (s.thread 0 0).running = some (sdOf (streamRec 0)) ∧ s.coreFor 0 0 (sdOf (streamRec 0)).vcore = some 0 ∧
       (sdOf (streamRec 0)).out = false ∧ (sdOf (streamRec 0)).net = false ∧ t.asked < (sdOf (streamRec 0)).total ∧
       (s.cluster 0).outstanding < 2048 ∧ s.flowing 0 0 t.outbound = true ∧
       t.stopped = false ∧ ((s.core 0).v.queue 0).credits = 1 ∧
       ((u.core 0).v.queue 0).credits = 0 ∧ t.asked % 64 = 0 ∧
       (let t := { t with list := [BitVec.ofNat 512 (128 * 2 ^ 64)], asked := 64 }
        let s := threadState t 0 { sq0 0 with depth := 1, entry := 128 }
        ((s.core 0).v.queue 0).credits = 0 ∧ t.asked % ((s.core 0).v.queue 0).entry ≠ 0 ∧
          (s.thread 0 0).running = some (sdOf (BitVec.ofNat 512 (128 * 2 ^ 64))) ∧ t.asked < (sdOf (BitVec.ofNat 512 (128 * 2 ^ 64))).total)) ∧
    (let t := { thread0 0 with list := [streamRec 0x420], started := true, outQ := [(0, 8)] }
     let s := threadState t 8 { sq0 0 with out := [⟨0, 64⟩], readOff := 64 }
     let u := threadState t 8 { sq0 0 with out := [⟨0, 64⟩] }
     let h := s.setCluster 0 { s.cluster 0 with hold := [.throttle] }
     (s.thread 0 0).outQ.find? (fun e => ((s.core e.1).v.queue e.2).headRead) = some (0, 8) ∧ (s.cluster 0).hold = [] ∧
       (s.cluster 0).asleep = false ∧ (h.thread 0 0).outQ.find? (fun e => ((h.core e.1).v.queue e.2).headRead) = some (0, 8) ∧
       (h.cluster 0).hold ≠ [] ∧ (u.thread 0 0).outQ.find? (fun e => ((u.core e.1).v.queue e.2).headRead) = none) := by decide +kernel

/-- A request of thread 0 of cluster 0 for granule 0. -/
def req (write merged : Bool) (data : List Byte) : Request :=
  { cluster := 0, thread := 0, job := 0, use := 0, addr := 0, len := 64, write, data, poison := false, issued := 0, seq := 0, merged, pos := 0 }

/-- HBM stack 0 READY with a request waiting at the cluster, or in the FIFO; in fixed cadence no slot is planned, in open
cadence any slot serves. -/
theorem witness_o34 :
    let r := req false false []
    let s := (threadState { thread0 0 with waiting := [r] } 0 (sq0 0)).setFlag (rg (fnHbm 0) 0) 0 true
    let u := s.setFlag (rg fnChip 0x030) 32 true
    s.hbmReady 0 = true ∧ s.joinNext 0 0 0 = some r ∧ (s.fifo 0 0 0).length < 32 ∧ s.fixed = true ∧ s.servable r = false ∧
      u.fixed = false ∧ u.hbmReady 0 = true ∧ u.joinNext 0 0 0 = some r ∧ u.slotAt 0 0 = (0, 0, 0) ∧
      ((u.setFifo 0 0 0 [r]).fifo 0 0 0) = [r] ∧ (req true true []).write = true ∧ (req true false []).merged = false ∧
      (u.setFifo 0 0 0 [r]).slotAt 0 0 = (0, 0, 0) := by decide +kernel

/-- A granule of 64 bytes for an entry of 128; a planned network entry that is missing, and one that is there; a hold past
its limit of 0 clk. -/
theorem witness_o35 :
    (let r := { req false false (List.replicate 64 7) with len := 64 }
     let rec0 : BitVec 512 := BitVec.ofNat 512 (128 * 2 ^ 64)
     let s := threadState { thread0 0 with list := [rec0], started := true, served := [r] } 0 { sq0 0 with depth := 2, entry := 128, begun := 1 }
     let t := s.thread 0 0
     t.running = some (sdOf rec0) ∧ t.served = [r] ∧ r.pos = t.done ∧ s.flowing 0 0 t.outbound = true ∧ (sdOf rec0).xch = false ∧
       t.done + r.len < (sdOf rec0).total ∧ ((s.core 0).v.queue 0).fill + r.data.length < ((s.core 0).v.queue 0).entry ∧
       t.pour = [] ∧ (sdOf rec0).out = false ∧ (sdOf rec0).net = false ∧ s.coreFor 0 0 (sdOf rec0).vcore = some 0 ∧ s.jobOf 0 = some 0 ∧
       (let q := (s.core 0).v.queue (sdOf rec0).sq
        r.data.length ≤ (q.begun - q.visible) * q.entry - q.fill + q.credits * q.entry)) ∧
    (let rec0 : BitVec 512 := BitVec.ofNat 512 (128 * 2 ^ 64 + 0x800 * 2 ^ 384)
     let s := threadState { thread0 0 with list := [rec0], started := true, plan := [(0, 64)] } 0 { sq0 0 with depth := 2, entry := 64, credits := 1 }
     let t := s.thread 0 0
     let y : RxEntry := ⟨0, 0, List.replicate 64 7, []⟩
     let z : RxEntry := ⟨0, 1, List.replicate 64 7, []⟩
     let o := s.setCluster 0 { s.cluster 0 with rx := [z] }
     let u := s.setCluster 0 { s.cluster 0 with rx := [y] }
     let v := s.setCluster 0 { s.cluster 0 with hold := [.tether 0], holdClk := s.holdLimit 0 + 1 }
     t.running = some (sdOf rec0) ∧ t.plan = [(0, 64)] ∧ (sdOf rec0).net = true ∧ t.stopped = false ∧ (s.job 0).phase = .span ∧
       (s.cluster 0).asleep = false ∧ (s.cluster 0).hold.contains .throttle = false ∧ 0 < ((s.core 0).v.queue 0).credits ∧
       (s.cluster 0).rx.find? (fun y => y.thread == 0 && y.rq == (sdOf rec0).rq) = none ∧ (s.cluster 0).hold = [] ∧
       (o.cluster 0).rx.find? (fun y => y.thread == 0 && y.rq == (sdOf rec0).rq) = none ∧ s.fromPlane 0 (sdOf rec0).rq = false ∧
       (u.cluster 0).rx.find? (fun y => y.thread == 0 && y.rq == (sdOf rec0).rq) = some y ∧ (v.cluster 0).hold.contains (.tether 0) = true ∧
       t.done + ((s.core 0).v.queue 0).entry < (sdOf rec0).total ∧ (v.cluster 0).hold ≠ [] ∧ v.holdLimit 0 < (v.cluster 0).holdClk) := by decide +kernel

/-- Spill queue 0 of 2 granules: empty, with a granule committed, and full. -/
theorem witness_o36 :
    let s := { State.reset with braid := { jobBraid with recs := jobBraid.recs ++ [(5, fields 16 [(8, 1, 1)])] } }
    let u := s.setSpill 0 { s.spill 0 with p := 2, c := 1 }
    s.spillSize 0 ≠ 0 ∧ s.spillFull 0 = false ∧ u.spillFull 0 = true ∧ ahead (s.spill 0).q (s.spill 0).c = 0 ∧
      ahead (u.spill 0).q (u.spill 0).c ≠ 0 := by decide +kernel

/-- A granule goes out of a full queue's granule 0 into LAST, and Q moves on (R249). -/
theorem test_spillq_read :
    let s := { State.reset with braid := { jobBraid with recs := jobBraid.recs ++ [(5, fields 16 [(8, 1, 1)])] } }
    (match exec (.spillqRead 0) ((s.setSpill 0 { s.spill 0 with p := 2, c := 1 })) with
     | .next t => (t.spill 0).q
     | _ => 0) = 1 := by decide +kernel

/-! Links, groups and peers. -/

/-- Reset with link 0 READY and n its further state. -/
def linkState (x : Link) : State := (State.reset.setFlag (rg (fnTether 0) 0) 0 true).setLink 0 x

/-- Jobs and a pod of 2 x 1 x 1 chips, this one at 0, with further bytes of the POD record. -/
def podState (l : List (Nat × Nat × Nat)) : State :=
  let s := inPhase .span .running
  { s with braid := { s.braid with recs := s.braid.recs ++ [(1, fields 40 ([(0, 1, 2), (1, 1, 1), (2, 1, 1)] ++ l))] } }

/-- A frame with FSEQ n and slots. -/
def frame0 (n : Nat) (slots : List FrameSlot) : Frame := ⟨BitVec.ofNat 16 n, 0, false, false, false, 0, [], slots⟩

/-- A frame to resend, a new one, a link that trains and measures, one that neither trains nor is READY, and a time between. -/
theorem witness_o37 :
    (let q : SentFrame := ⟨frame0 7 [], 0, 0⟩
     let s := linkState { link0 0 with sent := [q], resend := [7] }
     let x := s.link 0
     s.linkReady 0 = true ∧ x.failing = none ∧ s.linkTime % 64 = 0 ∧ x.sentAt ≠ s.linkTime + 1 ∧
       x.sent.find? (fun q => x.resend.head? == some q.frame.fseq) = some q) ∧
    (let s := linkState (link0 0)
     let x := s.link 0
     x.sent.find? (fun q => x.resend.head? == some q.frame.fseq) = none ∧ s.linkCarrying 0 = false ∧ x.frameTime ≤ s.linkTime) ∧
    (let s := ((podState []).setFlag (rg fnClk 0) 11 true).setFlag (rg (fnTether 0) 0) 1 true
     s.linkTrains 0 = true ∧ s.linkTime % 64 = 0 ∧ (s.link 0).failing = none ∧ (s.link 0).sentAt ≠ s.linkTime + 1 ∧
       s.flag (rg (fnTether 0) 0) 1 = true ∧ s.rec1 1 ≠ [] ∧ (s.link 0).measured = false) ∧
    State.reset.linkReady 0 = false ∧ State.reset.linkTrains 0 = false ∧
    ({ State.reset with clk := 63 } : State).linkTime % 64 ≠ 0 := by decide +kernel

/-! A frame on the wire. Its beat time is one with which the CRC register is zero after it, so that the zeros behind leave it. -/

def wireBeat : Nat := 2217359760 * 2 ^ 32
/-- The first 208 protected bytes: beat time at 8, CRC at 0x6C. The others are zero. -/
def wireHead : List Byte := List.replicate 12 0 ++ leBytes 2217359760 4 ++ List.replicate 92 0 ++ List.replicate 4 255 ++ List.replicate 96 0
def wireWord : List Byte := wireHead ++ [40, 156, 7, 250, 11, 18, 125, 74, 168, 220, 132, 90, 151, 216, 202, 79]
def zeroBytes (n : Nat) : List Byte := List.replicate n 0
def wireLanes : List (List Pam4) := toLanes [] (wireWord ++ zeroBytes (63 * 224))

theorem crc_zeros (n : Nat) : (zeroBytes n).foldl (fun c b => crcBits 0xEDB88320 8 (c ^^^ b.toNat)) 0 = 0 := by
  induction n with
  | zero => rfl
  | succ n ih => rw [zeroBytes, List.replicate_succ, List.foldl_cons]; exact ih

theorem pieces_zeros (len n : Nat) : pieces len n (zeroBytes (n * len)) = List.replicate n (zeroBytes len) := by
  induction n with
  | zero => rfl
  | succ n ih =>
    unfold zeroBytes at ih ⊢
    simp only [pieces, List.replicate_succ, Nat.succ_mul, List.take_replicate, List.drop_replicate, Nat.add_sub_cancel, ih]
    rw [Nat.min_eq_left (by omega)]

theorem wireWord_good : rsDecode (wireWord.map (·.toNat)) = some (wireWord.map (·.toNat), 0) := by decide +kernel
theorem zeroWord_good : rsDecode ((zeroBytes 224).map (·.toNat)) = some ((zeroBytes 224).map (·.toNat), 0) := by decide +kernel

/-- What uncode does with one codeword more. -/
def uncodeWord (w : List Byte) (r : Option (List Byte × Nat)) : Option (List Byte × Nat) :=
  match r, rsDecode (w.map (·.toNat)) with
  | some (l, n), some (v, k) => some ((v.take 208).map (BitVec.ofNat 8) ++ l, n + k)
  | _, _ => none

theorem uncodeWord_good {w l : List Byte} (h : rsDecode (w.map (·.toNat)) = some (w.map (·.toNat), 0)) :
    uncodeWord w (some (l, 0)) = some (w.take 208 ++ l, 0) := by
  simp [uncodeWord, h, ← List.map_take, Function.comp_def]

theorem uncode_zeros (n : Nat) : (List.replicate n (zeroBytes 224)).foldr uncodeWord (some ([], 0)) = some (zeroBytes (n * 208), 0) := by
  induction n with
  | zero => rfl
  | succ n ih =>
    rw [List.replicate_succ, List.foldr_cons, ih, uncodeWord_good zeroWord_good]
    unfold zeroBytes
    rw [List.take_replicate, List.replicate_append_replicate, Nat.succ_mul, Nat.add_comm]
    rfl

theorem wire_uncodes : uncode (wireWord ++ zeroBytes (63 * 224)) = some (wireHead ++ zeroBytes (63 * 208), 0) := by
  have cut (z : List Byte) (n : Nat) : pieces 224 (n + 1) (wireWord ++ z) = wireWord :: pieces 224 n z := by
    rw [pieces, List.take_left' (by decide +kernel), List.drop_left' (by decide +kernel)]
  show (pieces 224 64 _).foldr uncodeWord _ = _
  rw [cut, pieces_zeros, List.foldr_cons, uncode_zeros, uncodeWord_good wireWord_good]
  rw [show wireWord.take 208 = wireHead by decide +kernel]

theorem wire_crc (n : Nat) : frameCrc ((wireHead ++ zeroBytes n).take 0x6C) ((wireHead ++ zeroBytes n).drop 0x70) = 0xFFFFFFFF := by
  rw [List.take_append_of_le_length (by decide +kernel), List.drop_append_of_le_length (by decide +kernel), frameCrc, crc32, crcOf,
    ← List.append_assoc, List.foldl_append]
  rw [show (wireHead.take 0x6C ++ wireHead.drop 0x70).foldl (fun c b => crcBits 0xEDB88320 8 (c ^^^ b.toNat)) 0xFFFFFFFF = 0 by decide +kernel,
    crc_zeros]
  rfl

theorem wire_field (n o k : Nat) (h : o + k ≤ 208) : fieldLE (wireHead ++ zeroBytes n) o k = fieldLE wireHead o k := by
  have l : wireHead.length = 208 := by decide +kernel
  rw [fieldLE, fieldLE, List.drop_append_of_le_length (by omega), List.take_append_of_le_length (by simp; omega)]

theorem wire_parses (n : Nat) : ∃ f, parseFrame (wireHead ++ zeroBytes n) = some f ∧ f.fseq = 0 ∧ f.nak = false ∧
    f.carry = false ∧ f.beat = BitVec.ofNat 64 wireBeat ∧ f.ctl = [] := by
  have w : ∀ o k, o + k ≤ 208 → fieldLE (wireHead ++ zeroBytes n) o k = fieldLE wireHead o k := fun o k h => wire_field n o k h
  have ctl : pieces 16 5 ((wireHead ++ zeroBytes n).drop 0x10) = pieces 16 5 (wireHead.drop 0x10) := by
    have cut (k m : Nat) (a b : List Byte) (h : k * m ≤ a.length) : pieces k m (a ++ b) = pieces k m a := by
      induction m generalizing a with
      | zero => rfl
      | succ m ih =>
        rw [Nat.mul_succ] at h
        rw [pieces, pieces, List.take_append_of_le_length (by omega), List.drop_append_of_le_length (by omega),
          ih _ (by rw [List.length_drop]; omega)]
    have l : wireHead.length = 208 := by decide +kernel
    rw [List.drop_append_of_le_length (by omega), cut _ _ _ _ (by rw [List.length_drop, l]; decide)]
  have crc := (wire_crc n).trans (show _ = fieldLE (wireHead ++ zeroBytes n) 0x6C 4 by rw [w _ _ (by omega)]; decide +kernel)
  refine ⟨_, if_neg (fun h => h crc), ?_, ?_, ?_, ?_, ?_⟩ <;> dsimp only
  · rw [w _ _ (by omega)]; decide +kernel
  · rw [w _ _ (by omega)]; decide +kernel
  · rw [w _ _ (by omega)]; decide +kernel
  · rw [w _ _ (by omega)]; decide +kernel
  · rw [ctl]; decide +kernel

theorem wire_deframes : ∃ f, deframe [] wireLanes = some (0, f) ∧ f.fseq = 0 ∧ f.nak = false ∧
    f.carry = false ∧ f.beat = BitVec.ofNat 64 wireBeat ∧ f.ctl = [] := by
  obtain ⟨f, h, g⟩ := wire_parses (63 * 208)
  refine ⟨f, ?_, g⟩
  have key (c b : List Byte) (l : c.length = 14336) (u : uncode c = some (b, 0)) (p : parseFrame b = some f) :
      deframe [] (toLanes [] c) = some (0, f) := by
    have t := toLanes_shape [] c
    rw [deframe, if_neg (by simp [t.1, t.2]), ofLanes_toLanes _ _ l, u]
    show (parseFrame b).map _ = _
    rw [p]
    rfl
  exact key _ _ (by rw [List.length_append, show wireWord.length = 224 by decide +kernel, zeroBytes, List.length_replicate]) wire_uncodes h

theorem straighten_plain (ls : List (List Pam4)) : straighten ⟨false, 0⟩ ls = ls := by
  refine List.ext_getElem (by simp [straighten]) (fun k _ _ => by simp [straighten])

/-- The lanes of a frame with FSEQ 0 and those that carry none, at a link that is READY, in training, or failed; it expects
FSEQ 0, or another. -/
theorem witness_o38_frame : ∃ f, f.fseq = 0 ∧ f.nak = false ∧ f.carry = false ∧ f.ctl = [] ∧
    (∀ s : State, s.flag (rg (fnTether 0) 0) 1 = false → (s.link 0).scrRx = [] → s.readFrame 0 ⟨false, 0⟩ wireLanes = some (0, f)) := by
  obtain ⟨f, h, a, b, c, -, e⟩ := wire_deframes
  refine ⟨f, a, b, c, e, fun s u r => ?_⟩
  rw [State.readFrame, State.rxLanes, State.wiringOf, u, r, if_neg (by decide), straighten_plain]
  exact h

theorem witness_o38_links :
    (let s := linkState (link0 0)
     let u := linkState { link0 0 with rxSeq := 0xFFFD }
     s.linkFailed 0 = false ∧ s.flag (rg (fnTether 0) 0) 5 = false ∧ s.linkReady 0 = true ∧ s.flag (rg (fnTether 0) 0) 1 = false ∧
       (s.link 0).scrRx = [] ∧ (s.link 0).nak = false ∧ (0 : W16) = (s.link 0).rxSeq + 1 ∧ (s.link 0).lastTime = 0 ∧
       u.linkReady 0 = true ∧ (u.link 0).scrRx = [] ∧ u.flag (rg (fnTether 0) 0) 1 = false ∧ (u.link 0).nak = false ∧
       (0 : W16) ≠ (u.link 0).rxSeq + 1 ∧ (0 : W16) ≠ (u.link 0).rxSeq ∧ ((0 : W16) - (u.link 0).rxSeq).toNat < 32768 ∧
       s.readFrame 0 ⟨false, 0⟩ [] = none) ∧
    State.reset.linkReady 0 = false ∧ State.reset.linkFailed 0 = false ∧ (State.reset.link 0).scrRx = [] ∧
    State.reset.flag (rg (fnTether 0) 0) 1 = false ∧ (State.reset.setFlag (rg (fnTether 0) 0) 4 true).linkFailed 0 = true := by decide +kernel

/-- Slots that are available, or not yet, on one link, or on two at the same time. -/
theorem witness_o38_slots :
    let q : FrameSlot := ⟨true, false, false, 0, 3, 0, 1, [9]⟩
    let a : Arrived := ⟨0, false, frame0 0 [q]⟩
    (let s := linkState { link0 0 with arrived := [a] }
     (s.link 0).arrived = [a] ∧ a.avail ≤ s.beat.toNat ∧ (∀ k : LinkId, k ≠ 0 → (s.link k).arrived = []) ∧ q.v = true ∧ q.last = false) ∧
    (let s := linkState { link0 0 with arrived := [{ a with avail := 9 }] }
     (s.link 0).arrived = [{ a with avail := 9 }] ∧ s.beat.toNat < 9) ∧
    (let s := (linkState { link0 0 with arrived := [a] }).setLink 1 { link0 1 with arrived := [a] }
     (s.link 1).arrived = [a] ∧ (s.link 0).arrived = [a] ∧ ∀ i : LinkId, i ≠ 1 → i ≠ 0 → (s.link i).arrived = []) := by decide +kernel

/-- Link 0 has failed with cause 1, its partner READY or failed before; job 0 has a slot on the pair in the second case. -/
theorem witness_o39 :
    (let s := linkState { link0 0 with failing := some 1 }
     let u := s.setFlag (rg (fnTether (partner 0)) 0) 0 true
     let v := s.setFlag (rg (fnTether (partner 0)) 0) 4 true
     (s.link 0).failing = some 1 ∧ s.linkFailed 0 = false ∧ u.linkFailed (partner 0) = false ∧ u.linkCarrying 0 = false ∧
       u.linkReady (partner 0) = true ∧ v.linkFailed (partner 0) = true ∧ v.linkFailed 0 = false ∧
       (s.setFlag (rg (fnTether 0) 0) 4 true).linkFailed 0 = true ∧ (s.setFlag (rg (fnTether 0) 0) 2 true).linkCarrying 0 = true) ∧
    (let s := linkState { link0 0 with lostAt := 1 }
     let u := { s with clk := 2000 }
     s.linkReady 0 = true ∧ (s.link 0).failing = none ∧ (s.link 0).lostAt ≠ 0 ∧ s.linkTime ≤ (s.link 0).lostAt - 1 + 1000 ∧
       (u.link 0).lostAt - 1 + 1000 < u.linkTime) ∧
    (let s := linkState (link0 0)
     (s.setFlag (rg (fnTether 0) 0x020) 0 true).flag (rg (fnTether 0) 0x020) 0 = true ∧ s.flag (rg (fnTether 0) 0x020) 0 = false) ∧
    (let s := slotState 0 0 true
     let s := { s with braid := { s.braid with recs := s.braid.recs ++ [(7, 0 :: fields 100 [(0, 2, 0x8000)])] } }
     0 ∈ s.definedJobs ∧ (s.job 0).prog.isSome ∧ 0 ∈ s.slotJobs 0) := by decide +kernel

/-- Link 0 of a pod of two has frame lock and its delay: to a peer as the cabling rule asks, or to one that it does not know. -/
theorem witness_o40 :
    (let s := ((podState []).setFlag (rg fnClk 0) 11 true).setFlag (rg (fnTether 0) 0) 1 true
     let s := s.setLink 0 { s.link 0 with measured := true }
     let u := (((s.setFld (rg (fnTether 0) 0x048) 8 0 1).setFld (rg (fnTether 0) 0x048) 11 9 1).setFld (rg (fnTether 0) 0x040) 15 0 100).setFld
       (rg fnClk 0x050) 47 32 640
     s.linkTrains 0 = true ∧ s.flag (rg (fnTether 0) 0) 1 = true ∧ (s.link 0).measured = true ∧ s.rec1 1 ≠ [] ∧ s.cabled 0 = true ∧
       s.trainedAs 0 0 0 0 0 0 = true ∧ s.fld (rg (fnTether 0) 0x048) 8 0 ≠ s.neighbourCoord (linkDir 0) ∧
       u.linkTrains 0 = true ∧ u.flag (rg (fnTether 0) 0) 1 = true ∧ (u.link 0).measured = true ∧ u.cabled 0 = true ∧
       u.trainedAs 0 1 1 0 0 100 = true ∧ u.linkSound 0 = true) ∧
    (let s := (podState [(18, 1, 0xFF)]).setFlag kPodstat 17 true
     let s := { s with beat := 10000000, net := { s.net with holdover := 1 } }
     s.flag kPodstat 17 = true ∧ s.net.holdover ≠ 0 ∧ s.net.holdover - 1 + 10000000 ≤ s.beat.toNat ∧
       s.podByte 18 = 0xFF ∧ s.isRoot = false ∧ (s.setFlag kPodstat 16 true).flag kPodstat 16 = true) := by decide +kernel

/-- Group 0 with one child, in direction 0, and job 0 as its member; job 0 waits in its alignment phase in the second; ROOT comes
from the parent in the second tree, or from another direction. -/
theorem witness_o41 :
    (let s := podState [(20, 1, 1), (18, 1, 0)]
     let from1 : MsgSrc := .link 2
     s.group 0 = 0 ∧ (ctlMsg 0x01 0 0).is 0x01 = true ∧ (ctlMsg 0x02 0 0).is 0x02 = true ∧ (link0 0).echoes.length < 63 ∧
       (linkState { link0 0 with echoes := List.replicate 63 5 }).link 0 = { link0 0 with echoes := List.replicate 63 5 } ∧
       from1.isLink = true ∧ (ctlMsg 0x03 0x100 0).at 2 2 ≠ (s.grp 0).seq.toNat ∧ (ctlMsg 0x03 0 0).at 2 2 = (s.grp 0).seq.toNat ∧
       (ctlMsg 0x03 0 0).is 0x03 = true ∧ (s.childDirs 0).all (sins from1.num (s.grp 0).gathered).contains = false ∧
       (ctlMsg 0x04 0 0).is 0x04 = true ∧ s.beat.toNat ≤ (ctlMsg 0x04 0 64).hi.toNat) ∧
    (let s := podState [(20, 1, 1), (18, 1, 0)]
     let s := s.setJob 0 { s.job 0 with phase := .align, aligned := true }
     let child : MsgSrc := .link 0
     0 ∈ s.members 0 ∧ (s.job 0).phase = .align ∧ (s.job 0).aligned = true ∧ (s.job 0).release = none ∧ child.isLink = true ∧
       (s.childDirs 0).all (sins child.num (s.grp 0).gathered).contains = true ∧ (s.grp 0).sentG = false ∧
       (s.members 0).all (fun j => (s.job j).phase == .align && (s.job j).aligned && (s.job j).release.isNone) = true ∧
       (s.members 0).isEmpty = false ∧ s.isRoot = false) ∧
    (let s := podState [(20, 1, 1), (18, 1, 0)]
     (ctlMsg 0x05 0x100 0).is 0x05 = true ∧ s.net.newRoot ≠ (ctlMsg 0x05 0x100 0).at 2 2 % 512 + 1 ∧ s.podByte 18 = (MsgSrc.link 0).num ∧
       s.podByte 18 ≠ (MsgSrc.link 2).num ∧
       (bundleLinks (s.podByte 18)).find? (s.setFlag (rg (fnTether 0) 0) 0 true).linkReady = some 0) := by decide +kernel

/-- An echo reply halves the mean round trip of 64 (R311): 64 round trips of 100 ns. -/
theorem test_echo_mean :
    let s := { linkState { link0 0 with echoes := List.replicate 63 100 } with clk := 100 }
    (match exec (.echoReply 0 (ctlMsg 0x02 0 0)) s with
     | .next t => t.fld (rg (fnTether 0) 0x040) 15 0
     | _ => 0) = 50 := by decide +kernel

/-- Step 0 of group 0, attempt 0: not stale, then sealed; its last PASS; a retract of attempt 0 that its job follows, or does not. -/
theorem witness_o42 :
    (let s := podState [(20, 1, 1)]
     let src : MsgSrc := .link 2
     let u := s.setGrp 0 { s.grp 0 with sealed := 1 }
     let v := s.setJob 0 { s.job 0 with unsealed := some (0, 0), passed := true }
     let f := s.setGrp 0 { s.grp 0 with failed := stepCode 0 0 }
     u.sealStale 0 0 0 = true ∧ s.sealStale 0 0 0 = false ∧ (stepMsg 0x10 0 0 0).is 0x10 = true ∧ src.isLink = true ∧
       (s.childDirs 0).all (sins src.num []).contains = false ∧ (stepMsg 0x11 0 0 0).is 0x11 = true ∧
       v.sealStale 0 0 0 = false ∧ (v.childDirs 0).all (sins (MsgSrc.link 0).num []).contains = true ∧ (v.grp 0).sentP = false ∧
       (v.members 0).all (fun j => (v.job j).unsealed == some (0, 0) && (v.job j).passed) = true ∧ v.isRoot = false ∧
       0 ∈ s.groupJobs 0 ∧ (v.job 0).unsealed = some (0, 0) ∧ (failMsg 0 0 0 9).is 0x12 = true ∧ s.isSealRoot = false ∧
       s.isRoot = false ∧ (s.grp 0).failed ≠ stepCode 0 0 ∧ (failMsg 0 0 0 9).group = 0 ∧ (failMsg 0 0 0 9).step = 0 ∧
       (failMsg 0 0 0 9).attempt = 0 ∧ s.asSealRoot src = false ∧ (f.grp 0).failed = stepCode 0 0 ∧ f.sealStale 0 0 0 = false ∧
       (stepMsg 0x13 0 5 0).is 0x13 = true ∧ (∀ j ∈ s.groupJobs 0, s.runsStep j 5 0 = false) ∧ s.quietGroup 0 = false ∧
       s.sealStale 0 5 0 = false ∧ s.runsStep 0 0 0 = true ∧
       (stepMsg 0x14 0 0 0).is 0x14 = true ∧ (s.grp 0).retracted ≠ stepCode 0 0 ∧ (s.grp 0).answered ≠ stepCode 0 0 ∧
       (s.grp 0).retracted = 0) ∧
    (let s := podState [(20, 1, 1)]
     let s := (s.setGrp 0 { s.grp 0 with retracted := stepCode 0 0 }).setJob 0 { s.job 0 with retract := some 0 }
     let m := restartMsg 0 0 1 64
     (s.grp 0).retracted = stepCode 0 0 ∧ (s.grp 0).sentQ = false ∧ s.isSealRoot = false ∧
       (s.childDirs 0).all (sins 1 (s.grp 0).quiesced).contains = false ∧ m.is 0x15 = true ∧ m.attempt = 0 + 1 ∧
       m.at 3 5 = 0 % 2 ^ 40 ∧ s.groupJobs 0 = [0] ∧ (s.job 0).retract = some 0 ∧ s.stopped 0 = false ∧
       (s.job 0).phase = .span) := by decide +kernel

/-- A peer entry 0 that is ACTIVE at location 5; generation 1 announced; connection 0 open to it and silent. -/
theorem witness_o43 :
    let s := podState []
    let s := { s with braid := { s.braid with recs := s.braid.recs ++ [(14, fields 8 []), (13, fields 1024 [(6, 2, 1)])] }
                      mem := (s.mem.store 4 [5]).store 10 [1] }
    let m := ctlMsg 0x20 5 0
    m.is 0x20 = true ∧ s.net.mdowns.contains m = false ∧
      ({ s with net := { s.net with mdowns := [m] } }).net.mdowns.contains m = true ∧ s.peerOf (m.at 1 3) = some 0 ∧
      s.peerState 0 = 1 ∧ s.rings.events.length < 256 ∧ s.schReady = false ∧ (ctlMsg 0x21 1 7).is 0x21 = true ∧
      s.gen < (ctlMsg 0x21 1 7).at 1 4 ∧ s.net.mgens.contains (1, 7) = false ∧ s.connUsed 0 = true ∧
      ((s.setConn 0 { s.conn 0 with state := 1 }).conn 0).state = 1 ∧
      ({ s with clk := 8000000 }.conn 0).heard + 8000000 ≤ ({ s with clk := 8000000 } : State).linkTime ∧ s.linkTime < (s.conn 0).heard + 8000000 ∧
      (m.at 1 4 ≤ s.gen ∨ (ctlMsg 0x21 0 7).at 1 4 ≤ s.gen) := by decide +kernel

/-- MDOWN for entry 0 makes it SUSPECT (R339). -/
theorem test_mdown :
    let s := podState []
    let s := { s with braid := { s.braid with recs := s.braid.recs ++ [(14, fields 8 [])] }, mem := (s.mem.store 4 [5]).store 10 [1] }
    (match exec (.mdown (.link 2) (ctlMsg 0x20 5 0)) s with
     | .next t => t.mem.byte 10
     | _ => 0) = 2 := by decide +kernel

/-! Ports, connections, services. -/

/-- A braid in force with port 0 READY, RC QP 2 of job 0 connected, connection 0 in use with a window of 1, region 5 with tag 7
of the chip over the whole device address space, spill queue 1 of 256 granules, and stream 0 with one input; PFC on TC0. -/
def netState : State :=
  let s := (podState [(48, 1, 0)]).setFlag (rg fnChip 0x010) 0 true
  let s := (s.setFlag (rg (fnEth 0) 0) 0 true).setQp 2 { s.qp 2 with state := 2 }
  { s with
    braid := { s.braid with recs := s.braid.recs ++
      [(13, fields 1024 [(6, 2, 1)]), (11, List.replicate 4096 0), (12, fields 32 [(0, 2, 5), (2, 3, 7), (5, 1, 0xFE), (6, 1, 3), (16, 8, 2 ^ 48)]),
       (5, fields 32 [(24, 1, 8)]), (8, fields 16 [(0, 1, 1)]), (9, fields 16 [(3, 1, 1)])] }
    net := { s.net with cacheA := [(9, 77)] } }

/-- A RoCEv2 request for QP 2 to port 0, with an opcode that Table 11.3 does not have; one frame of a wrong length. -/
def roceFrame (len : Nat) : EthFrame := ⟨true, netState.macOf 0 0, false, 0, len, 0, .roce 2 0x13⟩

theorem witness_o44 :
    (let s := netState
     let ok (f : EthFrame) := f.fcsOk && s.macOk 0 0 f.dst && vlanOk (fieldLE (s.portRec 0 0) 4 2) f && decide (64 ≤ f.len ∧ f.len ≤ 9216) &&
       s.takesBody 0 f.body
     s.portReady 0 0 = true ∧ ok (roceFrame 64) = true ∧ ok (roceFrame 63) = false ∧ (s.qp 2).state = 2 ∧ roceKnown 0x13 = false ∧
       s.portReady 0 1 = false ∧ s.pfcOn 0 0 0 = true ∧ s.pfcOn 0 0 1 = false) ∧
    (State.reset.setFlag (rg (fnEth 0) 0x020) 0 true).flag (rg (fnEth 0) 0x020) 0 = true ∧
      State.reset.flag (rg (fnEth 0) 0x020) 0 = false ∧ (State.reset.setFlag (rg fnClk 0) 11 true).flag (rg fnClk 0) 11 = true ∧
      (State.reset.setFlag (rg (fnEth 0) 0) 3 true).flag (rg (fnEth 0) 0) 3 = true := by decide +kernel

theorem witness_o45 :
    (let s := netState.setQp 0 { netState.qp 0 with pace := openPace 800000000000 0 }
     let x := (s.qp 0).pace
     x.cut = 0 ∧ x.tick ≠ 0 ∧ s.linkTime < x.tick - 1 + 100000 ∧ x.tick - 1 + 100000 ≤ ({ s with clk := 100000 } : State).linkTime ∧
       1000000000 * 4 ^ (x.k + 1) ≤ 3 * x.num ∧ x.num + s.lineRate 0 / 32 * 4 ^ x.k < s.lineRate 0 * 4 ^ x.k) ∧
    (let s := netState.setQp 0 { netState.qp 0 with pace := (openPace 800000000000 0).cutAt 0 }
     (s.qp 0).pace.cut ≠ 0 ∧ s.linkTime < (s.qp 0).pace.cut - 1 + 50000) ∧
    netState.portReady 0 0 = true ∧ netState.portReady 0 1 = false ∧ netState.neighbour 0 (netState.nextHop 0 0 9) = some 77 ∧
    netState.classPaused 0 0 3 = false ∧ tget noLldp netState.net.lldp 0 ≠ (1, 2) ∧ netState.podEpoch = 0 := by decide +kernel

/-- The root follows PTP: unlocked and within 1 µs; locked and within 1 ms; beyond. -/
theorem witness_o45_ptp :
    let s := netState.setFlag kPodstat 9 true
    let s := { s with braid := { s.braid with recs := (1, fields 60 [(40, 8, 100)]) :: s.braid.recs } }
    let u := s.setFlag kPodstat 16 true
    let off (m : PtpMsg) : Int := ((s.ptpStamp 0 0 m).toNat : Int) - (m.origin + m.delay).toNat
    s.podEpoch ≠ 0 ∧ s.isRoot = true ∧ s.podByte 48 = 0 ∧ s.net.ptpBad = false ∧ s.flag kPodstat 16 = false ∧ s.portReady 0 0 = true ∧
      (off ⟨false, true, 500, 300, 100⟩).natAbs < 1000 ∧ u.flag kPodstat 16 = true ∧ u.net.ptpBad = false ∧ u.podEpoch ≠ 0 ∧
      u.isRoot = true ∧ 1000000 < (off ⟨false, true, 5000000, 300, 100⟩).natAbs := by decide +kernel

/-- R322: a cut of a quarter of 800 Gb/s to three quarters is 150 Gb/s. -/
theorem test_cnp_cut :
    (match exec (.cnpRx 0 (.qp 2)) (netState.setQp 2 { netState.qp 2 with pace := openPace 800000000000 0 }) with
     | .next t => (t.qp 2).pace.num / 4 ^ (t.qp 2).pace.k
     | _ => 0) = 150000000000 := by decide +kernel

/-- 8 bytes of HBM on stack 0 in open cadence, 8 of a core's scratchpad, a register, the doorbell of pair 0; a key that names
no region; a job's region at the doorbell of another's pair; 64 reads not yet answered. -/
theorem witness_o46 :
    let s := ((netState.setFlag (rg (fnHbm 0) 0) 0 true).setFlag (rg fnChip 0x030) 32 true)
    let d : List Byte := List.replicate 8 1
    let k := 7 * 1024 + 5
    let f : TxFrame := ⟨0, 0, none, 0, 0, none, 0, 0, .roce 2 (.data []) true⟩
    let u := { s with net := { s.net with txq := [(txKey 0 0 0, List.replicate 64 f)] } }
    s.qpTakes 0 2 = true ∧ s.portReady 0 0 = true ∧ s.portReady 1 0 = false ∧ s.qpTakes 0 3 = false ∧ s.passes 0 0 0 8 (some d) = none ∧
      s.readsWaiting 0 2 < 64 ∧ u.qpTakes 0 2 = true ∧ 64 ≤ u.readsWaiting 0 2 ∧ s.passes 0 0 0 8 none = none ∧
      s.passes 0 k 0 8 (some d) = some 0xFE ∧ spaceOf 0 8 = some .hbm ∧ s.hbmRefuses 0xFE true 0 8 = none ∧
      s.passes 0 k 0 8 none = some 0xFE ∧ s.hbmRefuses 0xFE false 0 8 = none ∧ s.upset = [] ∧ s.poison = [] ∧
      spaceOf csrBase 8 = some .csr ∧ csrBase % 8 = 0 ∧ s.passes 0 k csrBase 8 none = some 0xFE ∧ s.braidLoaded = true ∧
      s.passes 0 k bellBase 8 (some d) = some 0xFE ∧ s.bellOwned 0xFE 0 = true ∧ s.bellOwned 0xFE 0x408 = true ∧
      s.bellOwned 3 0 = false ∧ spaceOf (window 9) 8 = some .window ∧ s.passes 0 k (window 9) 8 (some d) = some 0xFE ∧
      s.passes 0 0 bellBase 8 (some d) = none ∧ State.reset.braidLoaded = false ∧ s.windowRefuses true (window 9) 8 = true ∧
      ((s.setFlag (rg fnClk 0) 13 true).setPwrState 0).windowRefuses true (window 9) 8 = false := by decide +kernel

/-- A service of job 0 on QP 2. -/
def svc0 (type phase : Nat) (manifest : List Byte) : Svc :=
  { type, job := 0, qp := 2, step := 0, regions := [], raddr := 0, rkey := 0, imm := 0, moff := 0, snap := 0, desc := 0, pair := 1, seq := 0
    id := 0, phase, copied := 0, moved := 0, zeros := 0, manifest, began := 0, out := [], orphan := false }

theorem witness_o47 :
    (netState.portReady 0 0 = true ∧ netState.portReady 1 0 = false ∧ netState.qpServed 0 2 = true ∧ State.reset.qpServed 0 2 = false ∧
      (netState.qp 2).state = 2 ∧ ((netState.setQp 2 { netState.qp 2 with state := 1 }).qp 2).state = 1 ∧
      (netState.setQp 2 { netState.qp 2 with state := 1 }).qpServed 0 2 = true ∧ (∀ y ∈ netState.svc, ∀ x, y.2 = some x → x.qp ≠ 2)) ∧
    (∀ x ∈ [svc0 1 1 [], svc0 2 1 [], svc0 1 3 [], svc0 3 3 [], svc0 2 3 [1], svc0 3 3 [1]],
      let s := { netState with svc := [(0, some x)] }
      let s := (s.setJob 0 { s.job 0 with sealed := [(0, 0)] }).setFlag (rg fnSch 0) 0 true
      s.svcAt 0 = some x ∧ s.schReady = true ∧ (s.qp x.qp).state = 2 ∧ (∀ r ∈ x.regions, s.svcRangeBad x.job r.1 r.2.1 = none) ∧ x.step < 2 ∧
        (s.sealedAs x.job x.step).isSome ∧ x.total ≤ x.copied ∧ s.svcRangeBad x.job x.snap x.total = none ∧
        x.began + cdiv (8 * x.total) s.haloRate ≤ s.beat.toNat) ∧
    (let s := { netState with svc := [(0, some (svc0 1 3 []))] }
     let s := (s.setQp 2 { s.qp 2 with state := 3 }).setFlag (rg fnSch 0) 0 true
     s.svcAt 0 = some (svc0 1 3 []) ∧ s.schReady = true ∧ (s.qp 2).state = 3 ∧ State.reset.svcAt 0 = none) := by
  refine ⟨⟨?_, ?_, ?_, ?_, ?_, ?_, ?_, fun y hy => absurd (show y ∈ ([] : Tab (Option Svc)) from hy) List.not_mem_nil⟩, ?_, ?_⟩ <;>
    decide +kernel

/-- A packet to connection 0, and its datagram. -/
def hwPkt (psn ack : W32) : HwPacket :=
  { dconn := 0, sconn := 4, poison := false, last := false, ceEcho := false, retx := false, nak := true, gen := 0, psn, ackpsn := ack
    winadv := 9, stream := 0, job := 0, step := 0, attempt := 0, beat := 0, payload := [], ceMark := false, crcOk := true }
def badPkt : HwPacket := { hwPkt 0 0 with crcOk := false }

/-- Every kind of datagram arrives as it was built, its CRC good or not; another VER does not. -/
theorem witness_o48_taken :
    (∀ ty ∈ [1, 2, 3, 4], ∀ p ∈ [hwPkt 0 1, badPkt], netState.hwTake 0 ty (p.bytes ty) false = some (0, p)) ∧
      netState.hwTake 0 2 (0 :: ((hwPkt 0 1).bytes 2).drop 1) false = none := by decide +kernel

/-- A closed connection, open ones with a packet to send and one paused, one whose packet is overdue. -/
theorem witness_o48 :
    (let s := netState
     s.connUsed 0 = true ∧ s.connUsed 1 = false ∧ s.portReady (s.conn 0).port 0 = true ∧ (s.conn 0).state = 0 ∧ (s.conn 0).helloAt = 0 ∧
       s.classPaused (s.conn 0).port 0 3 = false ∧ s.connOpen 0 = false) ∧
    (let u := { netState with net := { netState.net with paused := [(txKey 0 0 2, 5), (txKey 0 0 3, 5)] } }
     u.classPaused (u.conn 0).port 0 3 = true ∧ u.classPaused (u.conn 0).port 0 2 = true) ∧
    (let s := netState.setConn 0 { netState.conn 0 with helloAt := 1, hellos := 7 }
     (s.conn 0).state = 0 ∧ (s.conn 0).helloAt ≠ 0 ∧ (s.conn 0).hellos < 8 ∧ s.hwTake 0 4 ((hwPkt 0 0).bytes 4) false = some (0, hwPkt 0 0)) ∧
    (let p : HwSent := { psn := 0, at_ := 0, len := 0, ctrl := false, poison := false, last := true, stream := 0, job := 0, step := 0, attempt := 0, times := 0 }
     let s := netState.setConn 0 { netState.conn 0 with state := 1, built := 1, winadv := 1, packets := [p] }
     let x := s.conn 0
     x.state = 1 ∧ x.ctl = [] ∧ s.connUsed 0 = true ∧ s.portReady x.port 0 = true ∧
       (∀ i, i < 64 → (s.planByte i 3).testBit 2 = false ∨ s.planByte i 0x0D ≠ 0) ∧
       x.packets.find? (fun p => p.psn == x.next) = some p ∧
       (x.next - x.acked).toNat < min (s.connWin 0) x.winadv ∧ x.paceAt ≤ s.linkTime ∧ s.classPaused x.port 0 2 = false ∧
       tget z0 s.net.inject x.port = 0 ∧ s.hwTake 0 2 ((hwPkt 0 1).bytes 2) false = some (0, hwPkt 0 1) ∧
       0 < ((hwPkt 0 1).ackpsn - x.acked).toNat ∧ ((hwPkt 0 1).ackpsn - x.acked).toNat ≤ (x.built - x.acked).toNat ∧
       ({ s with clk := 2000000 } : State).connOpen 0 = true ∧ x.packets ≠ [] ∧ x.qAt + x.rto ≤ 2000000 ∧
       ({ s with clk := 2000000 } : State).linkTime = 2000000 ∧ x.ackAt ≤ 2000000 ∧ s.linkTime < x.qAt + x.rto) := by decide +kernel

/-- The expected packet, one beyond it, one of another generation, one with a bad CRC; one of a step already left. -/
theorem witness_o49_receiver :
    (let s := netState.setConn 0 { netState.conn 0 with state := 1 }
     (∀ ty ∈ [1, 3], ∀ p ∈ [hwPkt 0 0, hwPkt 1 0, { hwPkt 0 0 with gen := 5 }, badPkt], s.hwTake 0 ty (p.bytes ty) false = some (0, p)) ∧
       (s.conn 0).state ≠ 0 ∧ (hwPkt 1 0).psn ≠ (s.conn 0).expect ∧ s.gen ≠ 5 ∧ (hwPkt 0 0).psn = (s.conn 0).expect ∧
       (hwPkt 0 0).gen.toNat = s.gen ∧ s.hwStale (hwPkt 0 0) = false ∧ s.hwRoom 0 (hwPkt 0 0) = true ∧
       (let u := s.setJob 0 { s.job 0 with step := 3 }
        u.hwStale (hwPkt 0 0) = true ∧ u.hwTake 0 1 ((hwPkt 0 0).bytes 1) false = some (0, hwPkt 0 0) ∧ (u.conn 0).state ≠ 0)) := by
  decide +kernel

/-- The stream that engine 0 serves next. -/
def nextStream (s : State) : Option (Nat × List Marked) := ((List.range 8).map (8 * 0 + ·)).findSome? (fun k => (s.heads k).map (fun l => (k, l)))

/-- Engine 0 with entries of its stream 0. -/
def engineState (l : Tab (List Marked)) : State := netState.setStream 0 { netState.stream 0 with ins := l }
def twoInputs (s : State) : State := { s with braid := { s.braid with recs := (8, fields 16 [(0, 1, 2)]) :: s.braid.recs } }
def engineIdle (s : State) : Prop :=
  (∀ q, q < 64 → s.nqStream q = none) ∧ ∀ k, k < 8 → (tget noOuts (s.stream (8 * 0 + k)).outs 64 = [])
def zeroEntry (n : Nat) : Marked := List.replicate n (0, false)

/-- An entry of 512 bytes, one of 256 bytes, and two inputs that differ in length. -/
theorem witness_o49_engine_beat :
    let s := engineState [(0, [zeroEntry 512])]
    engineIdle s ∧ nextStream s = some (0, [zeroEntry 512]) ∧ s.planByte 0 1 = 0 ∧
      256 * ((s.stream 0).beat + 1) < outLen (s.planByte 0 1) 512 ∧ nextStream netState = none ∧ engineIdle netState := by
  unfold engineIdle; decide +kernel
theorem witness_o49_engine_last :
    let s := engineState [(0, [zeroEntry 256])]
    engineIdle s ∧ nextStream s = some (0, [zeroEntry 256]) ∧ outLen (s.planByte 0 1) 256 ≤ 256 * ((s.stream 0).beat + 1) := by
  unfold engineIdle; decide +kernel
theorem witness_o49_engine_unequal :
    let s := twoInputs (engineState [(0, [zeroEntry 512]), (1, [[]])])
    engineIdle s ∧ nextStream s = some (0, [zeroEntry 512, []]) ∧
      ([zeroEntry 512, []].any (fun m => m.length != ([zeroEntry 512, []].headD []).length) = true) := by
  unfold engineIdle; decide +kernel

/-! Rings. -/

/-- netState with SCH, SEC and HBM stack 0 READY, ring pairs 0 and 1 of 16 entries at 0x10000 and 0x20000, completions 0x1000 on,
an entry at the head of each, OP, then v at byte o, and that of pair 0 or 1 to process. -/
def ringState (op o : Nat) (v : Nat) : State :=
  let s := (netState.setFlag (rg fnSch 0) 0 true).setFlag (rg (fnHbm 0) 0) 0 true
  let s := (s.setFlag (rg fnSec 0) 0 true).setFlag (rg fnClk 0) 9 true
  let e : List Byte := fields 64 [(0, 1, op), (o, 1, v)]
  { s with
    braid := { s.braid with recs := s.braid.recs ++ [(15, fields 1064 [(8, 8, 0x10000), (16, 6, 0x11000), (22, 1, 4), (23, 1, 4),
      (24, 8, 0x20000), (32, 6, 0x21000), (38, 1, 4), (39, 1, 4)])] }
    mem := (s.mem.store 0x10000 e).store 0x20000 e, rings := { s.rings with budget := [(if 5 ≤ op then 0 else 1, 1)] } }

/-- Every OP on a pair that may have it: no HELLO yet, one before it with a bad byte, and a good entry; its SEQ, and another. -/
theorem witness_o50 : ∀ x ∈ ringRows,
    let p := if 5 ≤ x.1 then 0 else 1
    let good := ringState x.1 63 0
    let bad := ringState x.1 1 9
    let seq := ringState x.1 4 1
    let e (s : State) := s.mem.bytes (s.cmdBase p) 64
    let hi (s : State) : State := { s with rings := { s.rings with hello := [p] } }
    (∀ s ∈ [good, bad, seq, hi good], s.ringReady p = true ∧ s.headOp p = x.1 ∧ s.foreign p = false ∧ s.upset = [] ∧ s.poison = []) ∧
      (∀ s ∈ [good, bad], fieldLE (e s) 4 4 = (s.cc p).toNat) ∧ fieldLE (e seq) 4 4 ≠ (seq.cc p).toNat ∧
      good.rings.hello.contains p = false ∧ (hi good).rings.hello.contains p = true ∧ pairAllows p x.1 = true ∧
      zeroBad (e good) (argNamed x.1) = none ∧ zeroBad (e bad) (argNamed x.1) = some 1 ∧
      (ringState (if x.1 = 3 then 2 else 3) 63 0).headOp p ≠ x.1 ∧ (ringState (if x.1 = 3 then 2 else 3) 63 0).headless p = false ∧
      State.reset.ringReady p = false := by decide +kernel

/-- LOADPROG on pair 0 and PEERUPD on pair 1 are refused by their pair. -/
theorem witness_o50_pairs : pairAllows 0 2 = false ∧ pairAllows 1 5 = false := by decide +kernel

/-- A program image of one virtual core without code and one splice entry, which passes its load checks. -/
def progImage : List Byte :=
  fields 688 [(0, 4, 0x4750565A), (5, 1, 1), (8, 4, 96), (12, 1, 1), (13, 1, 1), (16, 4, 1), (0x14, 4, 1), (0x18, 8, 96), (0x20, 8, 160),
    (0x54, 2, 1), (120, 8, 176)]

/-- Page 8 belongs to job 0 with every right; b lies at its start. -/
def pageState (b : List Byte) : State :=
  let s := ringState 0 63 0
  { s.setPage 8 0x83E0000000000000 with mem := s.mem.store 0x400000 b }

def cmdOf (pair : Nat) (l : List (Nat × Nat × Nat)) : Cmd := ⟨pair, 0, 7, fields 48 l⟩

theorem witness_o51_loadprog :
    (let s := pageState progImage
     let c := cmdOf 1 [(0, 8, 0x400000), (8, 8, 688)]
     s.rings.faulted.contains c.pair = false ∧ s.cplSize c.pair ≠ 0 ∧ s.jobOfPair c.pair = some 0 ∧
       s.ownPageBad 0 (c.arg 0 8) (c.arg 8 8) = none ∧ s.upset = [] ∧ s.poison = [] ∧
       progBad (s.mem.bytes (c.arg 0 8) (c.arg 8 8)) = none ∧ progBad (List.replicate 96 0) = some 0) := by decide +kernel

/-- Strand 3 with CHECK 1; a checkpoint of one region; an update for generation 1 with one entry; a braid image in chip pages. -/
theorem witness_o51_others :
    (let s := ringState 3 63 0
     let s := { s with braid := { s.braid with recs := s.braid.recs ++ [(16, fields 64 [(0, 1, 3), (1, 1, 1), (2, 2, 0xFFFF)])] } }
     let c := cmdOf 0 [(0, 1, 3), (2, 2, 1)]
     c.arg 0 1 < 32 ∧ s.strandRec (c.arg 0 1) ≠ [] ∧ fieldLE (s.strandRec (c.arg 0 1)) 1 1 ≠ 0xFF ∧
       fieldLE (s.strandRec (c.arg 0 1)) 2 1 = 0xFF ∧ fieldLE (s.strandRec (c.arg 0 1)) 3 1 = 0xFF ∧ c.arg 2 2 = 2 ^ 0 ∧
       s.jobDefined 0 = true ∧ (s.job 0).prog.isSome ∧ s.unspliced 0 = false) ∧
    (let s := pageState (fields 128 [(0, 1, 2), (2, 2, 2), (4, 4, 1), (8, 8, 5), (16, 8, 0x400040), (64, 8, 0x400000), (72, 8, 64)])
     let c := cmdOf 1 [(0, 8, 0x400000)]
     let d := s.mem.bytes (c.arg 0 8) 64
     let n := fieldLE d 4 4
     let l := s.mem.bytes (fieldLE d 0x10 8) (32 * n)
     let x := svcOfDesc c d (regionsOf l n)
     (s.svcOf x.job).filter (fun e => e.2.phase == 4) = [] ∧ s.svcRangeBad 0 (c.arg 0 8) 64 = none ∧ descOk s 0 d = true ∧
       s.svcRangeBad 0 (fieldLE d 0x10 8) (32 * n) = none ∧ regionsOk l n = true ∧
       (∀ r ∈ x.regions, s.svcRangeBad 0 r.1 r.2.1 = none) ∧ s.stepBegun 0 x.step = false ∧ s.updateBegun 0 x.step = false) ∧
    (let s := ringState 5 63 0
     let l : List Byte := fields 72 [(0, 4, 5), (12, 4, 9), (16, 2, 1), (0x12, 1, 1), (8 + 0x30, 2, 0xFFFF)]
     let s := { s with mem := s.mem.store 0x30000 l }
     let c := cmdOf 0 [(0, 4, 1), (4, 1, 0), (8, 8, 4), (16, 8, 0x30000), (24, 4, 1)]
     c.arg 0 4 = s.gen + 1 ∧ s.jobDefined (c.arg 4 1) = true ∧ s.jobPage (c.arg 16 8) 72 = none ∧ s.inChipRegion (c.arg 16 8) 72 = true ∧
       peerListOk (s.mem.bytes (c.arg 16 8) 72) 1 = true ∧ ranksApart (s.ranksAfter (peerEntries (s.mem.bytes (c.arg 16 8) 72) 1)) = true ∧
       s.cmds.peer = none ∧ s.stepBegun 0 (c.arg 8 8) = false ∧ (cmdOf 0 [(0, 4, 2)]).arg 0 4 ≠ s.gen + 1) ∧
    (let s := pageState []
     let c := cmdOf 0 [(0, 8, 0x30000), (8, 8, 64)]
     s.jobPage (c.arg 0 8) (c.arg 8 8) = none ∧ c.arg 0 8 + c.arg 8 8 ≤ hbmEnd ∧ s.inChipRegion (c.arg 0 8) (c.arg 8 8) = true ∧
       s.cmds.braid = none ∧ (s.setFlag (rg fnSec 0) 0 false).secReady = false ∧ s.jobPage 0x400000 64 = some 8 ∧ s.schReady = true ∧
       (s.setFlag (rg fnChip 0x048) 0 true).unspliced 0 = true ∧
       (s.setFlag (rg fnSch 0x020) 0 true).flag (rg fnSch 0x020) 0 = true) := by decide +kernel

/-- NOP completes: PP moves on (R389). -/
theorem test_nop_completes : (match exec (.cmdNop 1) (ringState 0 63 0) with
    | .next t => (t.pp 1, t.cc 1)
    | _ => (0, 0)) = (1, 1) := by decide +kernel

/-! Boot, firmware, checks. -/

/-- Stage 1 with MGMT READY, and a lease of DHCPv4. -/
def bootState (lease : Option Lease) : State :=
  let s := (State.reset.setStage 1).setFlag (rg fnMgmt 0) 0 true
  { s with boot := { s.boot with lease4 := lease } }

/-- CCC up and the self-tests ended, SEC not yet; images wait. -/
def fetchState (images : List (ImageKind × List Byte)) : State :=
  let s := (State.reset.setFwUp 2 true).setFlag (rg fnMgmt 0) 2 true
  let s := (s.setFlag (rg fnBist 0) 0 true).setFlag (rg fnBist 0) 2 false
  { s with boot := { s.boot with images := images } }
def secUp (s : State) : State := (s.setFlag (rg fnSec 0) 0 true).setFlag (rg fnClk 0) 9 true

/-- Netboot under way; a file that is no bundle; a fetch of the first braid; images checked at once, queued, and refused. -/
theorem witness_o52 :
    ((bootState none).bootWants 0 = true ∧ (bootState none).bootWants 1 = true ∧ (bootState none).bootWants 2 = false ∧
      (bootState (some ⟨0, [], [], none⟩)).bootWants 2 = true ∧ (bootState none).stage = 1) ∧
    (let s := { State.reset with clk := 4000000000, boot := { State.reset.boot with tries := [(0, 1)] } }
     tget z0 s.boot.tries (protoNum .dhcp4) ≠ 0 ∧ tget z0 s.boot.tries (protoNum .dhcp4) - 1 + 4000000000 ≤ s.clk ∧
       tget z0 s.boot.tries (protoNum .dhcp6) = 0) ∧
    (let s := ({ State.reset with boot := { State.reset.boot with fetched := true } }).setStage 2
     s.boot.fetched = true ∧ s.bundleBad [] = some (1, detailOf 0xFFFFFFFF 0) ∧ s.boot.refetch = false ∧ s.stage = 2 ∧
       State.reset.boot.fetched = false) ∧
    (let s := fetchState []
     let u := secUp s
     s.fwUp 2 = true ∧ s.flag (rg fnBist 0) 2 = false ∧ s.flag (rg fnChip 0x010) 0 = false ∧ s.cmds.braid = none ∧
       s.boot.retryAt ≤ s.clk ∧ tget z0 s.boot.nextTry 2 ≤ s.clk ∧ s.flag (rg fnMgmt 0) 2 = true ∧ s.secReady = false ∧ s.boot.images = [] ∧
       u.fwUp 2 = true ∧ u.flag (rg fnBist 0) 2 = false ∧ u.flag (rg fnChip 0x010) 0 = false ∧ u.cmds.braid = none ∧
       u.flag (rg fnMgmt 0) 2 = true ∧ u.secReady = true ∧ u.boot.images = [] ∧
       u.keyBad [] = some (1, detailOf 0xFFFFFFFF 32) ∧ u.bundleBad [] = some (1, detailOf 0xFFFFFFFF 0)) ∧
    (fetchState [(.braid, [])]).boot.images = [(.braid, [])] ∧ (ImageKind.braid, ([] : List Byte)) ≠ (.key, []) ∧
    (let p : PendBraid := ⟨0, 0, [], true, false⟩
     let s := { fetchState [] with cmds := { State.reset.cmds with braid := some p } }
     let u := { s with cmds := { s.cmds with braid := some { p with checked := false } } }
     s.cmds.braid = some p ∧ p.checked = true ∧ s.loadReady = true ∧ s.ledger.shadow = [] ∧
       u.cmds.braid = some { p with checked := false } ∧ State.reset.cmds.braid = none) := by decide +kernel

/-- An image of a kind with its signature block of slot 0, but for keys and signatures. -/
def signed (kind : Nat) (b : List Byte) : List Byte :=
  b ++ fields 16 [(0, 4, 0x5347565A), (4, 1, kind), (8, 8, b.length)] ++ digestBytes (sha384 b) ++ List.replicate 5360 0

theorem leBytes_length (x n : Nat) : (leBytes x n).length = n := by
  induction n generalizing x with
  | zero => rfl
  | succ n ih => simp [leBytes, ih]

/-- The block holds the digest of what it signs. -/
theorem signed_digest (kind : Nat) (b : List Byte) :
    ((signed kind b).drop (b.length + 0x10)).take 48 = digestBytes (sha384 ((signed kind b).take b.length)) := by
  have hp : (fields 16 [(0, 4, 0x5347565A), (4, 1, kind), (8, 8, b.length)]).length = 16 := by simp [fields, Mem.bytes]
  have hd : (digestBytes (sha384 b)).length = 48 := leBytes_length _ _
  have hs : signed kind b = b ++ (fields 16 [(0, 4, 0x5347565A), (4, 1, kind), (8, 8, b.length)] ++ (digestBytes (sha384 b) ++
      List.replicate 5360 0)) := by rw [signed, List.append_assoc, List.append_assoc]
  rw [hs, ← List.drop_drop, List.drop_left, List.take_left, List.drop_left' hp, List.take_left' hd]

theorem signBad_none {s : State} {kind n : Nat} {b : List Byte} (h1 : fieldLE b n 4 = 0x5347565A) (h2 : fieldLE b (n + 4) 1 = kind)
    (h3 : ¬(fieldLE b (n + 8) 8 ≠ n ∨ b.length < n + 5424)) (h4 : (b.drop (n + 0x10)).take 48 = digestBytes (sha384 (b.take n)))
    (h5 : (!kindSlots kind (fieldLE b (n + 5) 1) || (8 ≤ fieldLE b (n + 5) 1 && s.slotDigest (fieldLE b (n + 5) 1) == 0)) = false)
    (h6 : s.slotRevoked (fieldLE b (n + 5) 1) = false) (h7 : blockKey b n = s.slotDigest (fieldLE b (n + 5) 1))
    (h8 : ∀ p m t, Config.ed25519Verify p m t = true) (h9 : ∀ p m t, Config.mldsaVerify p m t = true) : s.signBad kind b n = none := by
  rw [Bool.or_eq_false_iff] at h5
  unfold State.signBad
  simp only [h1, h2, h4, h5.1, h5.2, h6, h7, h8, h9, ne_eq, not_true_eq_false, if_false, Bool.not_true, Bool.false_eq_true, or_self, if_neg h3]

theorem bundleBad_none {s : State} {b : List Byte} {n : Nat} (h0 : fieldLE b 0x10 8 = n) (h1 : s.signBad 1 b n = none)
    (h2 : bundleHeaderBad b = none) (h3 : ¬fieldLE b 7 1 < s.boot.fuses.rollback) : s.bundleBad b = none := by
  unfold State.bundleBad
  rw [h0, h1, h2]
  exact if_neg h3

theorem keyBad_none {s : State} {b : List Byte} (h0 : fieldLE b 4 1 = 1) (h1 : s.signBad 3 b 96 = none)
    (h2 : firstBad [(0, fieldLE b 0 4 == 0x594B565A), (4, true), (0x11, fieldLE b 0x11 15 == 0)] = none)
    (h3 : ¬(fieldLE b 8 8 = 0 ∨ fieldLE b 8 8 ≠ s.boot.fuses.uid.toNat)) (h4 : fieldLE b 5 1 = s.boot.fuses.rollback)
    (h5 : fieldLE b 6 2 = s.boot.fuses.revoke.toNat) (h6 : fieldLE b 0x10 1 = ownerBits s) (h7 : s.keyOpOk b (fieldLE b (96 + 5) 1) 32 = true) :
    s.keyBad b = none := by
  unfold State.keyBad
  rw [h0]
  dsimp only
  rw [show 32 + 64 * 1 = 96 from rfl, h1]
  dsimp only
  rw [show (decide (1 ≤ 1) && decide (1 ≤ 16)) = true from rfl, h2]
  simp [h3, h4, h5, h6, h7]

/-- A firmware bundle of four empty segments. -/
def bundleHead : List Byte := fields 160 ([(0, 4, 0x4657565A), (8, 4, 4), (16, 8, 160)] ++
  (List.range 4).flatMap (fun k => [(0x20 + 32 * k, 1, k), (0x28 + 32 * k, 8, 160)]))
def bundleImage : List Byte := signed 1 bundleHead

/-- A key image that revokes vendor slot 1. -/
def keyHead : List Byte := fields 96 [(0, 4, 0x594B565A), (4, 1, 1), (8, 8, 1), (32, 1, 2), (33, 1, 1)]
def keyImage : List Byte := signed 3 keyHead

/-- Where the signatures verify and slot 0 holds the images' key pair, the bundle and the key image are accepted: the two
functions and the keys are the part's (Config), so that no term of the package shows one that verifies. -/
theorem witness_o52_accepted (h1 : ∀ p m t, Config.ed25519Verify p m t = true) (h2 : ∀ p m t, Config.mldsaVerify p m t = true)
    (h3 : Config.vendorKey 0 = blockKey bundleImage 160) (h4 : Config.vendorKey 0 = blockKey keyImage 96) :
    State.reset.bundleBad bundleImage = none ∧ State.reset.keyBad keyImage = none := by
  have d1 := signed_digest 1 bundleHead
  rw [show bundleHead.length = 160 by decide +kernel] at d1
  have d3 := signed_digest 3 keyHead
  rw [show keyHead.length = 96 by decide +kernel] at d3
  have a : State.reset.signBad 1 bundleImage 160 = none :=
    signBad_none (by decide +kernel) (by decide +kernel) (by decide +kernel) d1 (by decide +kernel) (by decide +kernel)
      (by rw [show fieldLE bundleImage (160 + 5) 1 = 0 by decide +kernel]; exact h3.symm) h1 h2
  have b : State.reset.signBad 3 keyImage 96 = none :=
    signBad_none (by decide +kernel) (by decide +kernel) (by decide +kernel) d3 (by decide +kernel) (by decide +kernel)
      (by rw [show fieldLE keyImage (96 + 5) 1 = 0 by decide +kernel]; exact h4.symm) h1 h2
  exact ⟨bundleBad_none (by decide +kernel) a (by decide +kernel) (by decide +kernel),
    keyBad_none (by decide +kernel) b (by decide +kernel) (by decide +kernel) (by decide +kernel) (by decide +kernel) (by decide +kernel)
      (by rw [show fieldLE keyImage (96 + 5) 1 = 0 by decide +kernel]; decide +kernel)⟩

/-- The boot buffer has the digest that was measured. -/
def goodBuffer (s : State) : State := { s with boot := { s.boot with mfw := sha384 (s.boot.buffer.take (fieldLE s.boot.buffer 0x10 8)) } }

theorem goodBuffer_good (s : State) : (goodBuffer s).bufferGood = true := by simp [goodBuffer, State.bufferGood]

def waitState : State :=
  let s := State.reset.setFwUp 0 true
  goodBuffer { s with boot := { s.boot with waiting := [(1, 3, 0)] } }

theorem witness_o53_buffer : waitState.bufferGood = true := goodBuffer_good _

/-- An empty buffer under another digest. -/
theorem witness_o53_refetch : ({ waitState with boot := { waitState.boot with buffer := [], mfw := 1 } } : State).bufferGood = false := by
  decide +kernel

/-- PWR runs and has crashed seven times, or not at all; it waits for its restart; a report is asked for. -/
theorem witness_o53 :
    (let s := State.reset.setFwUp 1 true
     let u := { s with boot := { s.boot with crashes := [(1, List.replicate 7 0)] } }
     s.fwUp (fwNum .pwr) = true ∧ (s.recentCrashes 1).length < 7 ∧ 7 ≤ (u.recentCrashes 1).length) ∧
    (waitState.boot.waiting.find? (fun w => w.1 == fwNum .pwr) = some (1, 3, 0) ∧ waitState.nextRestart (fwNum .pwr) = true) ∧
    (let s := (State.reset.setFlag (rg fnSec 0) 0 true).setFlag (rg fnClk 0) 9 true
     let s := { s with boot := { s.boot with asked := true } }
     s.secReady = true ∧ s.boot.asked = true) := by decide +kernel

/-- A check at the check core of cluster 0 of a fill of core 0: the pair sent, and the pair replayed. -/
def check0 (sent : W32) (replayed mismatch : Bool) : Check :=
  { core := 0, fill := { k := 0, f := 0, job := 0, vc := 0, step := 9, attempt := 0, items := [], size := 0, updated := [], captured := []
                         wNeeded := false, hasMma := false, abandoned := false }
    replayed, result := [(0, [(1, 0)])], sent := [(0, [⟨sent, 0, false⟩])], compared := false, mismatch }
def checkState (q : Check) : State := podState [(20, 1, 1)] |>.setCluster 0 { (podState []).cluster 0 with checks := [q] }

theorem witness_o54_shadow :
    (let s := checkState (check0 1 false false)
     (s.checkCore 0).isSome ∧ s.contain.digests = [] ∧ (s.cluster 0).nextReplay = some (0, check0 1 false false)) ∧
    ((checkState (check0 1 true false)).cluster 0).checks.find? (fun q => q.replayed && !q.sent.isEmpty) = some (check0 1 true false) ∧
    ((checkState (check0 2 true false)).cluster 0).checks.find? (fun q => q.replayed && !q.sent.isEmpty) = some (check0 2 true false) ∧
    (check0 1 true false).differ false = [] ∧ (check0 2 true false).differ false ≠ [] ∧
    (let s := checkState (check0 2 true false)
     s.runsStep 0 9 0 = false ∧ (s.setFlag (rg (fnCluster 0) 0x020) 0 true).flag (rg (fnCluster 0) 0x020) 0 = true ∧
       s.servedBy 0 = some 0) := by decide +kernel

/-- A step that is complete and waits for nothing, under a child that has not passed; cross-check digests of three, equal and with
one that differs; core 0 unbound and suspect, its cluster still. -/
theorem witness_o54_others :
    (let s := podState [(20, 1, 1)]
     let s := s.setJob 0 { s.job 0 with unsealed := some (0, 0) }
     (s.job 0).unsealed = some (0, 0) ∧ (s.job 0).failed = false ∧ s.stopped 0 = false ∧ (s.job 0).retract = none ∧
       s.unresolved 0 0 0 = false ∧ (s.childDirs (s.group 0)).all (s.grp (s.group 0)).passed.contains = false) ∧
    (let s := State.reset.setFlag (rg fnSch 0) 0 true
     let u (d : BitVec 128) : State := { s with contain := { s.contain with digests := [(0, 1), (1, 1), (2, d)] } }
     s.schReady = true ∧ s.beat.toNat = 10000000 * (0 : W64).toNat ∧ s.contain.crossed ≠ 1 ∧ s.beat.toNat ≠ 10000000 * (1 : W64).toNat ∧
       s.contain.digests = [] ∧ 3 ≤ (u 1).contain.digests.length ∧  (u 1).contain.digests ≠ [] ∧
       (u 1).contain.digests.all (fun e => e.2 == 1) = true ∧ majority (u 2).contain.digests = some 1 ∧
       ((u 2).contain.digests.filter (fun e => e.2 != 1)).map (·.1) = [2] ∧ (u 2).role 2 = 0) ∧
    (let s := State.reset
     s.role 0 = 0 ∧ s.katOccasion 0 = true ∧ s.contain.suspects = [] ∧ (∀ g, g < 16 → (s.grp g).retracted = 0)) := by decide +kernel

/-- Resets: one under way, a function that has none, core 0, job 0 and a job that the braid has not; their ends. -/
theorem witness_o55 :
    (let s := slotState 0 0 true
     let s := (s.setFlag (rg fnClk 0) 11 true)
     s.fnOn fnChip = true ∧ (s.setFlag kFrst 15 true).flag kFrst 15 = true ∧ s.flag kFrst 15 = false ∧
       s.frstRefused fnPwr = some 2 ∧ (0x200 : BitVec 10).toNat = fnCore 0 ∧ s.jobDefined 1 = false ∧ s.jobDefined 0 = true) ∧
    (let s := State.reset
     let f : Frst := ⟨fnCore 0, false⟩
     let s := { s with contain := { s.contain with frst := some f } }
     let u := { s with contain := { s.contain with kats := [0] } }
     s.contain.frst = some f ∧ s.contain.kats.any (fun p => (s.frstClusters f).contains (clusterOf p)) = false ∧
       u.contain.kats.any (fun p => (u.frstClusters f).contains (clusterOf p)) = true) ∧
    (slotState 0 0 true).mem.wf = true := by decide +kernel
theorem witness_o55_sound : ((slotState 0 0 true).setFlag (rg fnClk 0) 11 true).Sound := by unfold State.Sound; decide +kernel

/-- LEDGER.STATUS of a domain that is off, and on; a register of the expert page without EXPERT_EN; the expert pages open. -/
theorem witness_o56 :
    (let s := State.reset
     let u := s.setFlag (rg fnClk 0) 11 true
     blkOf fnLedger = some .ledger ∧ s.fnOn fnLedger = false ∧ u.fnOn fnLedger = true ∧ u.flag (rg fnLedger 0x020) 0 = false ∧
       u.writeActs .ledger fnLedger 0 0 = none) ∧
    (let s := (State.reset.setFlag (rg (fnCore 0) 0x020) 0 true).setFlag (rg fnClk 0) 13 true
     State.reset.expertOn (fnCore 0) = false ∧ s.expertOn (fnCore 0) = true ∧ rowMapOk 0xFFFF = false ∧ rowMapOk 0 = true ∧
       s.fuseRows 0 0 = []) ∧
    (let s := ((State.reset.setFlag (rg fnLog 0x020) 0 true).setFlag (rg fnPagemap 0x020) 0 true).setFlag (rg fnClk 0) 11 true
     let u := s.setJob 0 { s.job 0 with prog := some ⟨0, [], 0⟩ }
     s.expertOn fnLog = true ∧ s.log.entries.length < 4096 ∧ s.expertOn fnPagemap = true ∧ s.noProgram = true ∧ u.noProgram = false) ∧
    (let s := (State.reset.setFlag (rg (fnHbm 0) 0x020) 0 true).setFlag (rg fnClk 0) 13 true
     s.expertOn (fnHbm 0) = true) := by decide +kernel

theorem witness_o57 :
    (let s := (State.reset.setFlag (rg fnClk 0) 13 true).setFlag (rg fnClk 0) 11 true
     s.bist.started.contains (partNum (.cluster 0)) = false ∧ s.partOn (.cluster 0) = true ∧
       (s.setFlag (rg fnBist 0x020) 0 true).flag (rg fnBist 0x020) 0 = true ∧ s.fnOn fnBist = true) ∧
    (let s := { State.reset with bist := { State.reset.bist with started := [0, 33] } }
     s.bist.started.contains (33 + 0) = true ∧ s.bist.done.contains (33 + 0) = false ∧ s.bist.started.contains 0 = true ∧
       s.bist.done.contains 0 = false ∧ 0 ∈ coresOf 0 ∧ s.role 0 < 2) ∧
    (State.reset.setFlag (rg fnBist 0) 3 true).flag (rg fnBist 0) 3 = true := by decide +kernel

/-! Power, clocks and pins. -/

/-- Out of reset with the AON PLL locked, a stable crystal, and PWR up, in a power state. -/
def onState (n : Nat) : State :=
  let s := ((State.reset.setFlag (rg fnSec 0x008) 1 true).setFlag (rg fnClk 0) 9 true).setFlag (rg fnClk 0) 0 true
  ({ s with pins := { s.pins with resetN := true } }).setPwrState n

def entry0 (step : Nat) (trigger : Bool) : StateEntry := ⟨true, step, trigger, [], [], 0⟩

theorem witness_o58_requests :
    (onState 0).stateRefused 0 = some 3 ∧ (slotState 0 0 true).stateRefused 1 = some 1 ∧ (slotState 0 0 true).stateRefused 2 = some 1 ∧
      (onState 0).stateRefused 1 = none ∧ (onState 0).stateRefused 2 = none ∧ (onState 0).pwrState = 0 ∧
      (onState 1).stateRefused 2 = none ∧ (onState 1).pwrState = 1 ∧ (onState 1).stateRefused 0 = none ∧ (onState 1).power.entry = none ∧
      (onState 2).stateRefused 0 = none ∧ (onState 2).pwrState = 2 ∧
      (let s := (onState 3).setEntry (some (entry0 2 false))
       s.stateRefused 0 = none ∧ s.power.entry = some (entry0 2 false)) := by decide +kernel

theorem witness_o58_steps :
    (∀ x ∈ [entry0 4 true, entry0 4 false, entry0 5 false], ∀ r ∈ [true, false],
     let s := (({ onState 3 with power := { (onState 3).power with refresh := r } }).setEntry (some x))
     s.pending = [] ∧ s.power.entry = some x ∧ s.power.refresh = r ∧ x.standby = true ∧ x.step ≤ 5) ∧
    (let s := onState 0
     (s.cluster 0).asleep = false ∧ (s.cluster 0).vcl = none ∧ s.jobOf 0 = none ∧ s.contain.kats.any (fun p => clusterOf p == 0) = false) ∧
    (let s := slotState 0 0 true
     let g : Program := ⟨0, progImage, 0⟩
     let s := (s.setJob 0 { s.job 0 with binding := true, pending := some g }).setCluster 0 { s.cluster 0 with asleep := true }
     (s.cluster 0).asleep = true ∧ s.power.entry = none ∧ s.pwrState = 0 ∧ 0 ∈ s.definedJobs ∧ (s.job 0).binding = true ∧
       (s.job 0).pending = some g ∧ (s.takes 0 (headerOf g.image)).contains 0 = true) ∧
    (inPhase .span .running).chipUnspliced = false ∧
    (let s := State.reset.setFlag (rg fnSch 0) 0 true
     let e := plainEntry s 0xEF 0 fnLog none
     let s := { s with log := { s.log with entries := [e] }, braid := ⟨[(15, fields 1064 [(8 + 16 * 65 + 14, 1, 4)])], 0, 0⟩ }
     s.chipUnspliced = true ∧ s.log.records = [] ∧ s.ledger.shadow = [] ∧ s.log.entries = [e] ∧ s.ldRoom ≠ 0) := by decide +kernel

/-- A warning of a rail, taken, escalated 20 ms ago or not yet. -/
def warn0 (rail : Nat) (escalated : Bool) : Warn := ⟨rail, 0, 700, 0, true, escalated, 0, false⟩
def warnState (rail : Nat) (escalated : Bool) : State :=
  { onState 0 with clk := 20000000, power := { (onState 0).power with warns := [warn0 rail escalated] } }

theorem witness_o59_supply :
    (onState 0).running = true ∧ (warnState 2 false).power.warns.any (fun w => w.is 2 0) = true ∧
      (onState 0).power.warns.any (fun w => w.is 2 0) = false ∧ (onState 0).power.warns.all (fun w => w.rail != 2) = true ∧
      (warnState 2 false).power.warns.all (fun w => w.rail != 2) = false ∧ warn0 2 false ∈ (warnState 2 false).power.warns ∧
      (warn0 2 false).since + 1000000 < (warnState 2 false).clk ∧ (onState 0).pwrUp = true ∧
      (warnState 2 true).power.warns.find? (fun w => w.rail == 2 && w.escalated && !w.done &&
        decide (w.escAt + 20000000 ≤ (warnState 2 true).clk)) = some (warn0 2 true) ∧
      railGroup 8 = 2 ∧ railGroup 5 ≠ 2 ∧ (core0.bound = none) := by decide +kernel

theorem witness_o59_heat :
    (let l : List Int := List.replicate 80 60000
     l.length = 80 ∧ l.all (fun r => decide (r < 105000)) = true ∧ l.all (fun r => decide (r < 103000)) = true) ∧
    (∀ r ∈ (onState 0).bist.fuses, r.core < 288) ∧ (680 : W16).toNat ≤ (onState 0).tripAmps ∧ (onState 0).tripAmps < (681 : W16).toNat ∧
    (onState 0).releaseAmps ≤ (620 : W16).toNat ∧ (619 : W16).toNat < (onState 0).releaseAmps := by decide +kernel
/-- The warnings of a chip whose PWR core is down, and a step whose first reading reaches 105 °C. -/
theorem witness_o59_down : ((warnState 5 false).setFlag (rg fnSec 0x008) 1 false).pwrUp = false ∧
    warn0 5 false ∈ ((warnState 5 false).setFlag (rg fnSec 0x008) 1 false).power.warns ∧
    (105000 : Int) ≤ ((105000 : Int) :: List.replicate 79 60000).getD 0 0 ∧ (onState 0).temp 0 < 105000 := by decide +kernel
theorem witness_o59_sound : (onState 0).Sound := by unfold State.Sound; decide +kernel

/-- A reading of 95 °C on a die raises its thermal H by 4 (R482). -/
theorem test_thermal_step : (match exec (.thermalStep ((95000 : Int) :: List.replicate 79 60000)) (onState 0) with
    | .next t => (t.thermH 0, t.thermH 1)
    | _ => (9, 9)) = (4, 0) := by decide +kernel

/-- A reading of 105 °C makes its die's thermal H 63 at once (R483). -/
theorem test_thermal_limit_step : (match exec (.thermalStep ((105000 : Int) :: List.replicate 79 60000)) (onState 0) with
    | .next t => (t.thermH 0, t.thermH 1, t.power.hot)
    | _ => (9, 9, false)) = (63, 0, true) := by decide +kernel

theorem witness_o60_clocks :
    (onState 0).running = true ∧ (onState 0).refInput = 0 ∧ (onState 0).flag kClk 0 = true ∧
      ((onState 0).setFlag kClk 2 true).flag kClk 2 = true ∧ (onState 0).flag kClk 2 = false ∧ (onState 0).pwrUp = true ∧
      (onState 0).flag (rg fnClk 0x100) 0 = false ∧
      (let s := { State.reset with pins := { State.reset.pins with resetN := true } }
       s.flag kClk (pllBit .aon) = false ∧ s.pllFed .aon = true ∧ s.power.waking = false ∧ s.stage = 0) ∧
      (let s := ((List.range 7).foldl (fun s i => s.setFlag kClk (10 + i) true) (onState 3)).setFlag kClk 12 false
       let s := { s with power := { s.power with waking := true } }
       let s := [8, 9, 10].foldl (fun s r => s.setFlag kRails r true) s
       s.flag kClk (pllBit .hbm) = false ∧ s.pllFed .hbm = true ∧ s.power.waking = true ∧
         ∀ i, i < 8 → i + 9 ≠ pllBit .hbm → s.flag kClk (9 + i) = true) ∧
      (onState 0).flag kClk (pllBit .aon) = true ∧ ((onState 0).setFlag kClk 11 true).flag kClk (pllBit .hub) = true ∧
      (∀ r ∈ (onState 0).bist.fuses, r.core < 288) := by decide +kernel

theorem witness_o60_rails :
    (let s := { onState 0 with power := { (onState 0).power with ons := railOrder } }
     let u := { onState 0 with power := { (onState 0).power with offs := railOrder.reverse } }
     s.busOk 5 = true ∧ s.flag kClk 0 = true ∧ (0x17 : W16).toNat / 32 % 8 = 0 ∧ (8 : W16).toNat.testBit 3 = true ∧ s.power.offs = [] ∧
       s.power.ons.head? = some 5 ∧ s.groupsSettled 5 = true ∧ u.power.offs.head? = some 9 ∧ u.busOk 9 = true ∧ voutLow 9 0 0x17 = true) ∧
    (let s := (onState 0).setRail 5 { rail0 0 with on := true, since := 1 }
     let s := { s with clk := 20000000 }
     (s.rail 5).on = true ∧ (s.rail 5).since ≠ 0 ∧ s.good 5 = false ∧ s.railFault 5 = false ∧ (s.rail 5).since - 1 + 20000000 ≤ s.clk) ∧
    (let s := (onState 0).setRail 5 { rail0 0 with fails := 2 }
     (onState 0).busOk 5 = true ∧ ((onState 0).rail 5).fails < 2 ∧ s.busOk 5 = true ∧ 2 ≤ (s.rail 5).fails) := by decide +kernel

theorem witness_o60_pins :
    (let s := onState 0
     let u := { s with pins := { s.pins with pgHub := true, pgCmp := true }, power := { s.power with groupOn := [0, 1], onceGood := [0, 1] } }
     s.groupPin (pgNum .hub) = false ∧ u.groupPin (pgNum .hub) = true ∧ s.power.groupOn.contains (pgNum .hub) = false ∧ u.running = true ∧
       u.power.groupOn.contains (pgNum .cmp) = true ∧ u.power.onceGood.contains (pgNum .cmp) = true ∧ s.pins.resetN = true ∧
       State.reset.pins.resetN = false ∧ State.reset.pins.tap.isTest = false ∧
       ({ State.reset with pins := { State.reset.pins with tap := .extest } }).pins.tap.isTest = true ∧ s.pins.tapHold = false) := by
  decide +kernel

/-- EXTEST takes effect while RESET_N is low, and else BYPASS does (R520). -/
theorem test_extest : (match exec .extest State.reset, exec .extest (onState 0) with
    | .next t, .next u => (t.pins.tap, u.pins.tap)
    | _, _ => (.idcode, .idcode)) = (.extest, .bypass) := by decide +kernel

end Sys2Proof.Tests
end

/-! PROOFS. Fields of registers: what a field reads after a write to the same and to another field. -/
section
namespace Sys2Proof.Machine

/-- The bits inside a written field come from the value, the others stay. -/
theorem testBit_setField {w : W64} {hi lo v i : Nat} (h : i < 64) :
    (setField w hi lo v).toNat.testBit i = if lo ≤ i ∧ i ≤ hi then v.testBit (i - lo) else w.toNat.testBit i := by
  simp only [setField, BitVec.testBit_toNat, BitVec.getLsbD_or, BitVec.getLsbD_and, BitVec.getLsbD_not,
    BitVec.getLsbD_shiftLeft, BitVec.getLsbD_ofNat, Nat.testBit_two_pow_sub_one, h, decide_true, Bool.true_and]
  by_cases hlo : lo ≤ i
  · have hlt : i - lo < 64 := by omega
    by_cases hhi : i ≤ hi
    · simp [hlo, hhi, hlt, show ¬ i < lo by omega, show i - lo < hi + 1 - lo by omega]
    · simp [hlo, hhi, show ¬ i - lo < hi + 1 - lo by omega]
  · simp [hlo, show i < lo by omega]

theorem testBit_getField {w : W64} {hi lo i : Nat} :
    (getField w hi lo).testBit i = (decide (i < hi + 1 - lo) && w.toNat.testBit (lo + i)) := by
  simp [getField, bits, Nat.testBit_mod_two_pow, Nat.testBit_shiftRight]

/-- A field of a word reads what was written to it, cut to its width. -/
theorem getField_setField_same {w : W64} {hi lo v : Nat} (h : hi < 64) :
    getField (setField w hi lo v) hi lo = v % 2 ^ (hi + 1 - lo) := by
  refine Nat.eq_of_testBit_eq fun i => ?_
  rw [testBit_getField, Nat.testBit_mod_two_pow]
  by_cases hi' : i < hi + 1 - lo
  · rw [testBit_setField (by omega), if_pos (by omega), Nat.add_sub_cancel_left]
  · simp [hi']

/-- A write to one field leaves a field that shares no bit with it. -/
theorem getField_setField_disjoint {w : W64} {hi lo hi' lo' v : Nat} (h : hi' < 64) (g : hi < lo' ∨ hi' < lo) :
    getField (setField w hi lo v) hi' lo' = getField w hi' lo' := by
  refine Nat.eq_of_testBit_eq fun i => ?_
  rw [testBit_getField, testBit_getField]
  by_cases hi'' : i < hi' + 1 - lo'
  · rw [testBit_setField (by omega), if_neg (by omega)]
  · simp [hi'']

variable {s : State}

theorem State.fld_setFld_same {k hi lo v : Nat} (h : hi < 64) : (s.setFld k hi lo v).fld k hi lo = v % 2 ^ (hi + 1 - lo) := by
  rw [State.fld, State.setFld, State.rd_wr_same, getField_setField_same h]

theorem State.fld_setFld_disjoint {k hi lo hi' lo' v : Nat} (h : hi' < 64) (g : hi < lo' ∨ hi' < lo) :
    (s.setFld k hi lo v).fld k hi' lo' = s.fld k hi' lo' := by
  rw [State.fld, State.setFld, State.rd_wr_same, getField_setField_disjoint h g, State.fld]

theorem State.rd_setFld_ne {k hi lo v i : Nat} (h : i ≠ k) : (s.setFld k hi lo v).rd i = s.rd i := State.rd_wr_ne h

end Sys2Proof.Machine
end

/-! PROOFS. Writes of registers (R15 to R18, R473) and the writes of the expert pages that act (R140, R266, R528, R531). -/
section
namespace Sys2Proof.Machine

variable {s : State}

/-! A plain write. -/

/-- Table 0.3, bit by bit: a W1C bit clears on 1, an RW bit takes the written value, every other bit stays. -/
theorem testBit_accWrite {a : Acc} {v w : W64} {i : Nat} (h : i < 64) :
    (accWrite a v w).toNat.testBit i =
      (if a.w1c.testBit i && w.toNat.testBit i then false
       else if a.rw.testBit i then w.toNat.testBit i else v.toNat.testBit i) := by
  simp only [accWrite, BitVec.testBit_toNat, BitVec.getLsbD_or, BitVec.getLsbD_and, BitVec.getLsbD_not,
    BitVec.getLsbD_ofNat, h, decide_true, Bool.true_and]
  by_cases hc : (a.w1c.testBit i && w.getLsbD i) = true
  · simp [hc]
  · by_cases hr : a.rw.testBit i <;> simp [hc, hr]

theorem exec_csrWrite_unaligned {f : BitVec 10} {o : BitVec 12} {w : W64} (h : o.toNat % 8 ≠ 0) :
    exec (.csrWrite f o w) s = .next s := if_neg h

theorem exec_csrWrite_aligned {f : BitVec 10} {o : BitVec 12} {w : W64} (h : o.toNat % 8 = 0) :
    exec (.csrWrite f o w) s = .next (s.writeReg f.toNat o.toNat w) := if_pos h

variable {b : Blk} {f o : Nat} {w : W64}

/-- Nothing is taken in a domain that is off, nor on the expert page without EXPERT_EN (R18, R473). -/
theorem State.writeReg_discarded (hb : blkOf f = some b)
    (h : s.fnOn f = false ∨ (0x100 ≤ o ∧ s.flag (rg f 0x020) 0 = false)) : s.writeReg f o w = s := by
  simp only [State.writeReg, hb]
  exact if_pos (by simpa using h)

/-- A register whose write only stores takes the value by its access codes. -/
theorem State.writeReg_plain (hb : blkOf f = some b) (hon : s.fnOn f = true)
    (hp : o < 0x100 ∨ s.flag (rg f 0x020) 0 = true) (ha : s.writeActs b f o w = none) :
    s.writeReg f o w = s.wr (rg f o) (accWrite (accOf b o) (s.rd (rg f o)) w) := by
  have hopen : ¬ ((!s.fnOn f) = true ∨ (0x100 ≤ o ∧ (!s.flag (rg f 0x020) 0) = true)) := by
    rcases hp with hp | hp
    · simp [hon, show ¬ 0x100 ≤ o by omega]
    · simp [hon, hp]
  simp only [State.writeReg, hb, if_neg hopen, ha, Option.getD_none]

/-! Row maps. -/

/-- Only the table of repairs and its counts in BIST change. -/
structure RepairsOnly (s t : State) : Prop where
  frame : t = { s with csr := t.csr, bist := t.bist }
  rd : ∀ k, k ≠ rg fnBist 0x018 → t.rd k = s.rd k

theorem RepairsOnly.refl (s : State) : RepairsOnly s s := ⟨rfl, fun _ _ => rfl⟩

theorem RepairsOnly.trans {r s t : State} (a : RepairsOnly r s) (b : RepairsOnly s t) : RepairsOnly r t where
  frame := by rw [b.frame, a.frame]
  rd k h := (b.rd k h).trans (a.rd k h)

theorem RepairsOnly.mem {s t : State} (h : RepairsOnly s t) : t.mem = s.mem := by rw [h.frame]
theorem RepairsOnly.cores {s t : State} (h : RepairsOnly s t) : t.cores = s.cores := by rw [h.frame]

theorem State.repairsOnly_bist (s : State) (x : Bist) : RepairsOnly s { s with bist := x } := ⟨rfl, fun _ _ => rfl⟩

theorem State.repairsOnly_setFld (s : State) (hi lo v : Nat) : RepairsOnly s (s.setFld (rg fnBist 0x018) hi lo v) :=
  ⟨rfl, fun _ h => State.rd_setFld_ne h⟩

theorem State.repairsOnly_bump (s : State) (hi lo n : Nat) : RepairsOnly s (s.bump (rg fnBist 0x018) hi lo n) :=
  s.repairsOnly_setFld hi lo _

theorem State.repairsOnly_addRepair (s : State) (r : Repair) : RepairsOnly s (s.addRepair r) := by
  unfold State.addRepair
  split
  · exact .refl s
  · have counted := (s.repairsOnly_bist { s.bist with table := s.bist.table ++ [r] }).trans (State.repairsOnly_bump _ 47 32 1)
    dsimp only
    split
    · exact counted.trans (State.repairsOnly_bump _ 15 0 1)
    · split
      · exact counted.trans (State.repairsOnly_bump _ 31 16 1)
      · exact counted

theorem State.repairsOnly_dropRows (s : State) (p n : Nat) (rows : List Nat) : RepairsOnly s (s.dropRows p n rows) :=
  (s.repairsOnly_bist _).trans (State.repairsOnly_setFld _ 47 32 _)

theorem State.repairsOnly_addRepairs (s : State) (f : Nat → Repair) (l : List Nat) :
    RepairsOnly s (l.foldl (fun s r => s.addRepair (f r)) s) := by
  induction l generalizing s with
  | nil => exact .refl s
  | cons r l ih => exact (s.repairsOnly_addRepair (f r)).trans (ih _)

theorem length_mapRows_le (w : W64) : (mapRows w).length ≤ 2 := by
  unfold mapRows
  split <;> split <;> simp

theorem kRowmap_ne_bist (p n : Nat) : kRowmap p n ≠ rg fnBist 0x018 := by
  simp only [kRowmap, rg, fnCore, fnBist]
  omega

variable {p n : Nat}

/-- A value that ROWMAPn does not take only sets its error bit (R140). -/
theorem State.writeRowmap_bad (h : rowMapOk w = false) :
    s.writeRowmap p n w = s.setFlag (rg (fnCore p) 0x040) (16 + n) true := by
  simp [State.writeRowmap, h]

/-- Without fused rows the array takes the written rows, which become its soft repairs (R140). -/
theorem State.writeRowmap_unfused (h : rowMapOk w = true) (hf : s.fuseRows p n = []) :
    s.writeRowmap p n w = (mapRows w).foldl (fun s r => s.addRepair ⟨p, 0, n, r, false⟩)
      ((s.wr (kRowmap p n) (w &&& 0xFFFF)).dropRows p n (mapRows w)) := by
  have hl : ¬ 2 < (mapRows w).length := Nat.not_lt.mpr (length_mapRows_le w)
  have unfused : (mapRows w).filter (fun r => !([] : List Nat).contains r) = mapRows w :=
    List.filter_eq_self.mpr fun _ _ => rfl
  simp only [State.writeRowmap, h, hf, unfused, List.nil_append, hl, List.all_nil, Bool.not_true, Bool.false_eq_true,
    if_false, if_true]

/-- After its register is written, only the table of repairs changes. -/
theorem State.writeRowmap_repairsOnly (h : rowMapOk w = true) (hf : s.fuseRows p n = []) :
    RepairsOnly (s.wr (kRowmap p n) (w &&& 0xFFFF)) (s.writeRowmap p n w) := by
  rw [State.writeRowmap_unfused h hf]
  exact (State.repairsOnly_dropRows _ p n (mapRows w)).trans
    (State.repairsOnly_addRepairs _ (fun r => ⟨p, 0, n, r, false⟩) (mapRows w))

theorem exec_rowmapWrite_closed {p : CoreId} {n : Fin 4} (h : s.expertOn (fnCore p) = false) :
    exec (.rowmapWrite p n w) s = .next s := if_neg (by simp [h])

theorem exec_rowmapWrite_open {p : CoreId} {n : Fin 4} (h : s.expertOn (fnCore p) = true) :
    exec (.rowmapWrite p n w) s = .next (s.writeRowmap p n w) := if_pos h

/-! Test entries, page entries and injections. -/

/-- With room in the buffer an entry is appended, with the number of entries lost before it (R448). -/
theorem State.logPut_entries {e : LogEntry} (h : s.log.entries.length < 4096) :
    (s.logPut e).log.entries = s.log.entries ++ [{ e with lostN := min 65535 s.log.lostRun }] := by
  unfold State.logPut
  rw [if_pos h]
  rfl

@[simp] theorem State.logPut_mem {e : LogEntry} : (s.logPut e).mem = s.mem := by
  unfold State.logPut
  split
  · rfl
  · split <;> rfl

theorem exec_logInject_open (h : s.expertOn fnLog = true) : exec (.logInject w) s = .next (s.testEntry w) := if_pos h

@[simp] theorem State.pageFault_hbm {src job page : Nat} : (s.pageFault src job page).hbm = s.hbm := rfl

/-- PAGEMAP's last fault names its source. -/
theorem State.fld_pageFault_src {src job page : Nat} (h : src < 16) :
    (s.pageFault src job page).fld (rg fnPagemap 0x010) 55 52 = src := by
  unfold State.pageFault
  rw [State.fld_setFld_disjoint (by omega) (by omega), State.fld_setFld_disjoint (by omega) (by omega),
    State.fld_setFld_same (by omega)]
  exact Nat.mod_eq_of_lt h

theorem State.writeEntry_noProgram (h : s.noProgram = true) :
    s.writeEntry w = s.setPage (s.fld (rg fnPagemap 0x108) 20 0) (w &&& 0xFFE0FFFFFFFF0000) := if_pos h

/-- While a program is bound the entry stays and the refusal is recorded (R266). -/
theorem State.writeEntry_bound (h : s.noProgram = false) :
    s.writeEntry w = s.pageFault 3 (pageJob (s.page (s.fld (rg fnPagemap 0x108) 20 0))) (s.fld (rg fnPagemap 0x108) 20 0) :=
  if_neg (by simp [h])

theorem exec_entryDataWrite_open (h : s.expertOn fnPagemap = true) :
    exec (.entryDataWrite w) s = .next (s.writeEntry w) := if_pos h

theorem State.armStack_armed : tget noInject (s.armStack n w).hbm.armed n =
    some ⟨getField w 36 0 / 64 * 64, w.toNat.testBit 37⟩ := tget_tput_same

theorem exec_hbmInject_open {n : StackId} (h : s.expertOn (fnHbm n) = true) :
    exec (.hbmInject n w) s = .next (s.armStack n w) := if_pos h

/-- Settles O56: a plain write by the bits of accWrite, each write that acts by its own equation above. -/
theorem registerWritesFollowTheirAccessCodes : Obligations.RegisterWritesFollowTheirAccessCodes := by
  unfold Obligations.RegisterWritesFollowTheirAccessCodes
  refine ⟨fun s f o w => ⟨exec_csrWrite_unaligned, fun b hb ha => ⟨fun hoff => ?_, fun hon hp hplain => ?_⟩⟩,
    fun s p n w => ⟨exec_rowmapWrite_closed, fun hx hbad => ?_, fun hx hok hf => ?_⟩,
    fun s w => ⟨fun hx hroom => ?_, fun hx hfree => ?_, fun hx hbound => ?_, fun n hx => ?_⟩⟩
  · rw [exec_csrWrite_aligned ha, State.writeReg_discarded hb hoff]
  · refine ⟨_, exec_csrWrite_aligned ha, ?_⟩
    rw [State.writeReg_plain hb hon hp hplain]
    refine ⟨rfl, fun k hk => State.rd_wr_ne hk, fun i hi => ?_⟩
    rw [State.rd_wr_same, testBit_accWrite hi]
  · rw [exec_rowmapWrite_open hx, State.writeRowmap_bad hbad]
  · have frame := State.writeRowmap_repairsOnly hok hf
    refine ⟨_, exec_rowmapWrite_open hx, ?_, frame.cores, frame.mem⟩
    rw [frame.rd _ (kRowmap_ne_bist p n), State.rd_wr_same]
  · exact ⟨_, exec_logInject_open hx, State.logPut_entries hroom, State.logPut_mem⟩
  · rw [exec_entryDataWrite_open hx, State.writeEntry_noProgram hfree]
  · refine ⟨_, exec_entryDataWrite_open hx, ?_⟩
    rw [State.writeEntry_bound hbound]
    exact ⟨State.pageFault_hbm, State.fld_pageFault_src (by omega)⟩
  · exact ⟨_, exec_hbmInject_open hx, State.armStack_armed, rfl⟩

end Sys2Proof.Machine
end

/-! PROOFS. The ledger: FOLD_MESSAGE and LEDGER_CLEAR_DONE (R54, R58 to R60, R68). -/
section
namespace Sys2Proof.Machine

variable {s : State}

/-- A written bit of a register reads as written. -/
theorem State.flag_setFlag_same {k i : Nat} {b : Bool} (h : i < 64) : (s.setFlag k i b).flag k i = b := by
  rw [State.flag, State.setFlag, State.setFld, State.rd_wr_same, testBit_setField h, if_pos ⟨Nat.le_refl i, Nat.le_refl i⟩,
    Nat.sub_self]
  cases b <;> rfl

/-- A message changes the ledger and its registers only. -/
theorem State.applyFold_frame (m : FoldMsg) :
    s.applyFold m = { s with ledger := (s.applyFold m).ledger, csr := (s.applyFold m).csr } := by
  unfold State.applyFold
  split
  · rfl
  · dsimp only
    split <;> rfl

/-- A message adds to the slot it names and to no other; slot 0 is never written. -/
theorem State.slot_applyFold (m : FoldMsg) (n : Nat) :
    tget slot0 (s.applyFold m).ledger.slots n =
      if n = m.slot ∧ n ≠ 0 then (tget slot0 s.ledger.slots n).add m else tget slot0 s.ledger.slots n := by
  unfold State.applyFold
  by_cases hm : m.slot = 0
  · rw [if_pos hm, if_neg (by omega)]
  · have added : tget slot0 (tput slot0 s.ledger.slots m.slot ((tget slot0 s.ledger.slots m.slot).add m)) n =
        if n = m.slot ∧ n ≠ 0 then (tget slot0 s.ledger.slots n).add m else tget slot0 s.ledger.slots n := by
      by_cases hn : n = m.slot
      · subst hn
        rw [tget_tput_same, if_pos ⟨rfl, hm⟩]
      · rw [tget_tput_ne hn, if_neg (fun h => hn h.1)]
    rw [if_neg hm]
    dsimp only
    split <;> exact added

/-- While READY the message at the head of the cluster's fold queue leaves it for the ledger. -/
theorem exec_foldMessage_ready {c : ClusterId} {m : FoldMsg} {r : List FoldMsg} (hq : (s.cluster c).folds = m :: r)
    (hr : s.flag (rg fnLedger 0) 0 = true) :
    exec (.foldMessage c) s = .next ((s.setCluster c { s.cluster c with folds := r }).applyFold m) := by
  change execFoldMessage c s = _
  simp [execFoldMessage, hq, hr]

/-- While READY is 0 the fold queues keep what they hold (R68). -/
theorem exec_foldMessage_notReady {c : ClusterId} (hr : s.flag (rg fnLedger 0) 0 = false) :
    exec (.foldMessage c) s = .next s := by
  change execFoldMessage c s = _
  unfold execFoldMessage
  dsimp only
  split
  · rfl
  · simp [hr]

theorem exec_ledgerClearDone_clears (hr : s.flag (rg fnLedger 0) 0 = false) (hu : s.running = true) (hh : s.hubOn = true) :
    exec .ledgerClearDone s = .next ({ s with ledger := ⟨[], []⟩ }.setFlag (rg fnLedger 0) 0 true) :=
  if_neg (by simp [hr, hu, hh])

theorem exec_ledgerClearDone_idle (h : s.flag (rg fnLedger 0) 0 = true ∨ s.running = false ∨ s.hubOn = false) :
    exec .ledgerClearDone s = .next s := if_pos (by simpa using h)

/-- Settles O27: a message by slot_applyFold, the rest by the equations of the two commands. -/
theorem ledgerAppliesFoldMessages : Obligations.LedgerAppliesFoldMessages := by
  unfold Obligations.LedgerAppliesFoldMessages
  refine ⟨fun s c m r hq hr => ?_, fun s c hr => exec_foldMessage_notReady hr, fun s hr hu hh => ?_,
    fun s h => exec_ledgerClearDone_idle h⟩
  · have frame := State.applyFold_frame (s := s.setCluster c { s.cluster c with folds := r }) m
    refine ⟨_, exec_foldMessage_ready hq hr, ?_, ?_, ?_, fun n => State.slot_applyFold m n⟩
    · rw [frame]
      exact congrArg Cluster.folds State.cluster_setCluster_same
    · rw [frame]
      rfl
    · rw [frame]
      rfl
  · exact ⟨_, exec_ledgerClearDone_clears hr hu hh, rfl, State.flag_setFlag_same (by omega), rfl, rfl⟩

end Sys2Proof.Machine
end

/-! PROOFS. What a completing instruction leaves: INSTRUCTION_COMPLETE (R60, R156, R168, R223). -/
section
namespace Sys2Proof.Machine

variable {s t : State} {p : Nat} {f : Flight} {c : Core}

/-! A completion. -/

/-- Core c as the completion of f leaves it before the effects of f: f is no longer in flight, the areas that it read are
given back, and the core's clk has come to that of f. -/
def Core.completed (c : Core) (f : Flight) : Core :=
  { ({ c with fly := c.fly.filter (fun g => !(g.bundle == f.bundle && g.slot == f.slot)) } : Core).giveBack with
    now := max c.now f.due }

/-- A completed instruction signals its token, but not on a core that has stopped (R156, R435). -/
def State.signalEnd (s : State) (p : Nat) (f : Flight) : State :=
  match f.tok with
  | none => s
  | some t => if (s.core p).v.run = .stopped then s else s.signal p ⟨t, 1, f.bundle, f.slot, f.pc.toNat⟩

/-- f is the next to complete on core p, which takes the clk: the bundle in its issue buffer, once issued, has issued every
slot, and f does not hold the staging buffer. -/
structure State.Completing (s : State) (p : Nat) (f : Flight) : Prop where
  next : nextFlight (s.core p).fly = some f
  ticking : s.ticking p = true
  issued : ∀ b, (s.core p).ib = some b → b.issued = true → b.complete = true
  unstaged : ∀ r, (s.cluster (clusterOf p)).stage = some r → ¬ (r.core = p ∧ r.bundle = f.bundle ∧ r.slot = f.slot)

/-- The clk of f has come: on a core that issues no further bundle at once (log entry 1). -/
def State.Due (s : State) (p : Nat) (f : Flight) : Prop := (s.core p).v.run ≠ .running ∨ f.due ≤ (s.core p).now

theorem State.freeStage_unstaged
    (h : ∀ r, (s.cluster (clusterOf p)).stage = some r → ¬ (r.core = p ∧ r.bundle = f.bundle ∧ r.slot = f.slot)) :
    s.freeStage p f = s := by
  unfold State.freeStage
  dsimp only
  split
  · rfl
  · next r hr => exact if_neg (h r hr)

theorem exec_instructionComplete_early {p : CoreId} (h : s.Completing p f) (run : (s.core p).v.run = .running)
    (early : (s.core p).now < f.due) : exec (.instructionComplete p) s = .next s := by
  change execInstructionComplete p s = _
  unfold execInstructionComplete
  simp only [h.next, run, early, and_self, or_true, if_true]

/-- In the clk of f only a full fold queue keeps it; else its effects are made in order, the staging buffer becomes free and
its token is signalled. -/
theorem exec_instructionComplete_due {p : CoreId} (h : s.Completing p f) (due : s.Due p f) :
    exec (.instructionComplete p) s =
      if f.eff.any Eff.isFold ∧ 32 ≤ (s.cluster (clusterOf p)).folds.length then
        .next (s.bump (rg fnLedger 0x008) 47 0 1)
      else
        let u := f.eff.foldl (fun s e => s.applyEff p f e) (s.setCore p ((s.core p).completed f))
        .next ((u.freeStage p f).signalEnd p f) := by
  have notEarly : ¬ ((s.core p).v.run = .running ∧ (s.core p).now < f.due) := fun e =>
    due.elim (fun run => run e.1) (fun clk => Nat.not_lt.2 clk e.2)
  change execInstructionComplete p s = _
  unfold execInstructionComplete
  extract_lets c issuing
  have issues : issuing = true := by
    unfold issuing
    split
    · rfl
    · next b hb => cases hi : b.issued <;> simp [h.issued b hb, hi]
  unfold c
  simp only [h.next, issues, h.ticking, notEarly, Bool.not_true, Bool.false_eq_true, or_self, if_false]
  split
  · rfl
  · unfold State.signalEnd
    cases f.tok with
    | none => rfl
    | some t => exact (apply_ite Host.Outcome.next _ _ _).symm

/-- An instruction of one effect that leaves the staging buffer as it is. -/
theorem exec_instructionComplete_effect {p : CoreId} {e : Eff} (h : s.Completing p f) (due : s.Due p f) (he : f.eff = [e])
    (room : e.isFold = true → (s.cluster (clusterOf p)).folds.length < 32)
    (stage : (((s.setCore p ((s.core p).completed f)).applyEff p f e).cluster (clusterOf p)).stage =
      (s.cluster (clusterOf p)).stage) :
    exec (.instructionComplete p) s = .next (((s.setCore p ((s.core p).completed f)).applyEff p f e).signalEnd p f) := by
  have notFull : ¬ (e.isFold = true ∧ 32 ≤ (s.cluster (clusterOf p)).folds.length) := fun g => Nat.not_lt.2 g.2 (room g.1)
  rw [exec_instructionComplete_due h due, he]
  simp only [List.any_cons, List.any_nil, Bool.or_false, if_neg notFull, List.foldl_cons, List.foldl_nil]
  rw [State.freeStage_unstaged (stage ▸ h.unstaged)]

/-- A full fold queue keeps the instruction, and the wait is counted (R60). -/
theorem exec_instructionComplete_foldFull {p : CoreId} {e : Eff} (h : s.Completing p f) (due : s.Due p f) (he : f.eff = [e])
    (fold : e.isFold = true) (full : 32 ≤ (s.cluster (clusterOf p)).folds.length) :
    exec (.instructionComplete p) s = .next (s.bump (rg fnLedger 0x008) 47 0 1) := by
  rw [exec_instructionComplete_due h due, he]
  exact if_pos ⟨by simpa using fold, full⟩

/-! The effects on a virtual core: from s to t core p has taken the value c. -/

theorem CoreStep.completed : CoreStep s (s.setCore p ((s.core p).completed f)) p ((s.core p).completed f) :=
  CoreStep.start.setCore

theorem CoreStep.effGreg {d : Nat} {x : W64} (h : CoreStep s t p c) :
    CoreStep s (t.applyEff p f (.greg d x)) p { c with v := c.v.setG d x } := by
  rw [State.applyEff, h.1]
  exact h.setV

theorem CoreStep.effAreg {d : Nat} {x : BitVec 48} (h : CoreStep s t p c) :
    CoreStep s (t.applyEff p f (.areg d x)) p { c with v := c.v.setA d x } := by
  rw [State.applyEff, h.1]
  exact h.setV

theorem CoreStep.effVreg {r : Nat} {l : List Lane} (h : CoreStep s t p c) :
    CoreStep s (t.applyEff p f (.vreg r l)) p { c with v := c.v.setLanes r l } := by
  rw [State.applyEff, h.1]
  exact h.setV

theorem CoreStep.effWeights {n r : Nat} {x : WTile} (h : CoreStep s t p c) :
    CoreStep s (t.applyEff p f (.weights n r x)) p
      { c with v := { c.v with wt := tput wt0 c.v.wt (2 * n + r) (some x) } } := by
  rw [State.applyEff, h.1]
  exact h.setV

/-! A fold message. -/

theorem State.cluster_applyEff_fold {slot n : Nat} {l0 l1 : W64} {q full : Bool} :
    (t.applyEff p f (.fold slot l0 l1 n q full)).cluster (clusterOf p) =
      { t.cluster (clusterOf p) with
        folds := (t.cluster (clusterOf p)).folds ++ [⟨t.jobN p, slot, l0, l1, n, q, full⟩] } :=
  State.cluster_setCluster_same

/-- A completion leaves the core bound as it is. -/
theorem State.jobN_completed : (s.setCore p ((s.core p).completed f)).jobN p = s.jobN p := by
  rw [State.jobN, State.core_setCore_same]
  rfl

/-! The bytes that an element's write reaches. -/

@[simp] theorem length_leBytes {x n : Nat} : (leBytes x n).length = n := by
  induction n generalizing x with
  | zero => rfl
  | succ n ih => rw [leBytes, List.length_cons, ih]

variable {m : Mem} {pz : List Nat} {at0 bit w code : Nat} {q : Bool}

/-- A write of w bits leaves every byte that none of them lies in. -/
theorem byte_putBits_outside {a : Nat} (h : a < at0 + bit / 8 ∨ at0 + bit / 8 + (bit % 8 + w + 7) / 8 ≤ a) :
    (putBits m pz at0 bit w code q).1.byte a = m.byte a := by
  rcases h with h | h
  · exact Mem.byte_store_of_lt h
  · exact Mem.byte_store_of_ge (by rwa [length_leBytes])

/-- Eight bits at a byte's start are that byte. -/
theorem byte_putBits_whole (h : bit % 8 = 0) :
    (putBits m pz at0 bit 8 code q).1.byte (at0 + bit / 8) = BitVec.ofNat 8 code := by
  have covered : ∀ b : Byte, b.toNat - (b.toNat &&& 255) = 0 := fun b => by
    rw [show (255 : Nat) = 2 ^ 8 - 1 from rfl, Nat.and_two_pow_sub_one_eq_mod, Nat.mod_eq_of_lt b.isLt, Nat.sub_self]
  have one : (putBits m pz at0 bit 8 code q).1 = m.setByte (at0 + bit / 8) (BitVec.ofNat 8 (code % 256)) := by
    simp [putBits, h, Mem.le, Mem.bytes, leNat, leBytes, Mem.store, covered]
  rw [one, Mem.byte_setByte, if_pos rfl]
  exact BitVec.eq_of_toNat_eq (by simp)

theorem State.mem_applyEff_put : (t.applyEff p f (.put false bit w code q)).mem =
    (putBits t.mem t.poison (window p) bit w code q).1 := rfl

/-- Settles O25: each effect from exec_instructionComplete_effect and what applyEff does with it. -/
theorem completionMakesTheEffects : Obligations.CompletionMakesTheEffects := by
  unfold Obligations.CompletionMakesTheEffects
  intro s p f hn ht hi hs
  have h : s.Completing p f := ⟨hn, ht, hi, hs⟩
  have ready : CoreStep s (s.setCore p ((s.core p).completed f)) p ((s.core p).completed f) := CoreStep.completed
  refine ⟨fun run early => exec_instructionComplete_early h run early, fun (due : s.Due p f) =>
    ⟨fun d x he => ?_, fun d x he => ?_, fun r l he => ?_, fun n r x he _ _ => ?_, fun bit w code q he => ?_,
      fun n l0 l1 m q full he => ⟨fun room => ?_, fun hfull => exec_instructionComplete_foldFull h due he rfl hfull⟩⟩⟩
  · exact ⟨_, exec_instructionComplete_effect h due he nofun rfl, ready.effGreg⟩
  · exact ⟨_, exec_instructionComplete_effect h due he nofun rfl, ready.effAreg⟩
  · exact ⟨_, exec_instructionComplete_effect h due he nofun rfl, ready.effVreg⟩
  · obtain ⟨core, -, frame⟩ := ready.effWeights (f := f) (n := n) (r := r) (x := x)
    refine ⟨_, exec_instructionComplete_effect h due he nofun rfl, ?_, frame⟩
    rw [core]
    exact tget_tput_same
  · refine ⟨_, exec_instructionComplete_effect h due he nofun rfl, fun a ha => ?_, fun hb hw => ?_, rfl, ready.1⟩
    · rw [State.mem_applyEff_put]
      exact byte_putBits_outside ha
    · rw [State.mem_applyEff_put, hw]
      exact byte_putBits_whole hb
  · refine ⟨_, exec_instructionComplete_effect h due he (fun _ => room) ?_, ?_, ready.1⟩
    · rw [State.cluster_applyEff_fold]
      rfl
    · rw [State.cluster_applyEff_fold, State.jobN_completed]
      rfl

end Sys2Proof.Machine
end

/-! PROOFS. Operations that neither a core nor a job takes part in: the Contrail log (R448 to R450), HBM granules (R254,
R259), events (R392) and what firmware samples, reads and retires at a splice (R251, R258, R388). -/
section
namespace Sys2Proof.Machine

/-- From s to t every core and every job stays as it is. -/
structure UnitsKept (s t : State) : Prop where
  cores : t.cores = s.cores
  jobs : t.jobs = s.jobs

variable {r s t : State}

theorem UnitsKept.refl (s : State) : UnitsKept s s := ⟨rfl, rfl⟩

theorem UnitsKept.trans (a : UnitsKept r s) (b : UnitsKept s t) : UnitsKept r t :=
  ⟨b.cores.trans a.cores, b.jobs.trans a.jobs⟩

theorem UnitsKept.foldl {α : Type} {f : State → α → State} {l : List α}
    (hf : ∀ t x, UnitsKept r t → UnitsKept r (f t x)) (h : UnitsKept r s) : UnitsKept r (l.foldl f s) := by
  induction l generalizing s with
  | nil => exact h
  | cons x l ih => exact ih (hf s x h)

theorem UnitsKept.job (h : UnitsKept s t) (j : Nat) : t.job j = s.job j := by
  rw [State.job, h.jobs, State.job]

/-! Registers, the log and events. -/

theorem UnitsKept.setHbm {x : Hbm} (h : UnitsKept r s) : UnitsKept r { s with hbm := x } := ⟨h.cores, h.jobs⟩

theorem UnitsKept.bump {k hi lo n : Nat} (h : UnitsKept r s) : UnitsKept r (s.bump k hi lo n) := ⟨h.cores, h.jobs⟩

theorem UnitsKept.logPut {e : LogEntry} (h : UnitsKept r s) : UnitsKept r (s.logPut e) := by
  unfold State.logPut
  dsimp only
  split
  · exact ⟨h.cores, h.jobs⟩
  · split <;> exact ⟨h.cores, h.jobs⟩

theorem UnitsKept.logWrite {e : LogEntry} (h : UnitsKept r s) : UnitsKept r (s.logWrite e) := by
  unfold State.logWrite
  split
  · exact h
  · exact h.logPut

theorem UnitsKept.note {type sev func : Nat} {job : Option Nat} {b : Body} (h : UnitsKept r s) :
    UnitsKept r (s.note type sev func job b) := h.logWrite

theorem UnitsKept.report {type sev func : Nat} {job : Option Nat} {b : Body} (h : UnitsKept r s) :
    UnitsKept r (s.report type sev func job b) := h.logWrite

theorem UnitsKept.corrected {func memory : Nat} {job : Option Nat} (h : UnitsKept r s) :
    UnitsKept r (s.corrected func memory job) := by
  unfold State.corrected
  dsimp only
  split
  · exact UnitsKept.note ⟨h.cores, h.jobs⟩
  · exact ⟨h.cores, h.jobs⟩

theorem UnitsKept.readGranule {g : Nat} (h : UnitsKept r s) : UnitsKept r (s.readGranule g).1 := by
  unfold State.readGranule
  split
  · exact h
  · dsimp only
    split
    · exact h
    · exact UnitsKept.corrected ⟨h.cores, h.jobs⟩
    · split <;> exact UnitsKept.report ⟨h.cores, h.jobs⟩

theorem UnitsKept.sealGranule {g : Nat} {poison : Bool} (h : UnitsKept r s) : UnitsKept r (s.sealGranule g poison) := by
  unfold State.sealGranule
  dsimp only
  split
  · exact ⟨h.cores, h.jobs⟩
  · split <;> exact ⟨h.cores, h.jobs⟩

theorem UnitsKept.writeGranule {a : Nat} {bs : List Byte} {poison : Bool} (h : UnitsKept r s) :
    UnitsKept r (s.writeGranule a bs poison) := by
  have stored {t : State} (k : UnitsKept r t) : UnitsKept r { t with mem := t.mem.store a bs } := ⟨k.cores, k.jobs⟩
  unfold State.writeGranule
  dsimp only
  split
  · exact (stored h.bump.readGranule).sealGranule
  · exact (stored h).sealGranule

theorem UnitsKept.writeHbm {a : Nat} {bs : List Byte} (h : UnitsKept r s) : UnitsKept r (s.writeHbm a bs) :=
  h.foldl fun _ _ k => k.writeGranule

theorem UnitsKept.drainEvents {n : Nat} (h : UnitsKept r s) : UnitsKept r (s.drainEvents n) := by
  induction n generalizing s with
  | zero => exact h
  | succ n ih =>
    unfold State.drainEvents
    split
    · exact h
    · dsimp only
      split
      · exact h
      · refine ih (UnitsKept.writeHbm ?_)
        exact UnitsKept.trans h.writeHbm ⟨rfl, rfl⟩

theorem UnitsKept.event {type func : Nat} {job : Option Nat} {detail : List Byte} (h : UnitsKept r s) :
    UnitsKept r (s.event type func job detail) := by
  unfold State.event
  split
  · exact UnitsKept.drainEvents ⟨h.cores, h.jobs⟩
  · exact ⟨h.cores, h.jobs⟩

/-! Firmware's work at a splice. -/

theorem UnitsKept.fenceNote {kind idx func : Nat} {job : Option Nat} {reason addr here : Nat} (h : UnitsKept r s) :
    UnitsKept r (s.fenceNote kind idx func job reason addr here) := h.report.event

theorem UnitsKept.retirePages (h : UnitsKept r s) : UnitsKept r s.retirePages :=
  UnitsKept.foldl (fun _ _ k => k.setHbm.fenceNote) h.setHbm

theorem UnitsKept.readStack {n : Nat} (h : UnitsKept r s) : UnitsKept r (s.readStack n) := by
  unfold State.readStack
  split
  · exact h
  · exact ⟨h.cores, h.jobs⟩

theorem UnitsKept.ringEvent {p code : Nat} {job : Option Nat} (h : UnitsKept r s) :
    UnitsKept r (s.ringEvent p code job) := by
  unfold State.ringEvent
  dsimp only
  split
  · exact h.event
  · exact UnitsKept.event ⟨h.cores, h.jobs⟩

theorem UnitsKept.ringFault {p code : Nat} (h : UnitsKept r s) : UnitsKept r (s.ringFault p code) := by
  unfold State.ringFault
  split
  · exact h
  · exact UnitsKept.ringEvent ⟨h.cores, h.jobs⟩

theorem UnitsKept.samplePair {lim p : Nat} (h : UnitsKept r s) : UnitsKept r (s.samplePair lim p) := by
  unfold State.samplePair
  split
  · exact h
  · dsimp only
    split
    · exact h.ringFault
    · exact ⟨h.cores, h.jobs⟩

theorem UnitsKept.sampleRings {j : Nat} (h : UnitsKept r s) : UnitsKept r (s.sampleRings j) :=
  h.foldl fun _ _ k => k.samplePair

theorem UnitsKept.latchCluster {c : Nat} (h : UnitsKept r s) : UnitsKept r (s.latchCluster c) := ⟨h.cores, h.jobs⟩

theorem UnitsKept.latchCore {p : Nat} (h : UnitsKept r s) : UnitsKept r (s.latchCore p) := by
  unfold State.latchCore
  split
  · exact h
  · exact ⟨h.cores, h.jobs⟩

end Sys2Proof.Machine
end

/-! PROOFS. The beginning of a splice: SPLICE_BEGIN (R53, R277, R278). -/
section
namespace Sys2Proof.Machine

variable {s : State} {j sidx : Nat} {binding : Bool}

/-- From s to t every core stays, and of job j only what the first clk of a splice takes from elsewhere changes: whether the
entry is aligned, whether the ring sample waits, and the register values in force. -/
structure SampledOnly (j : Nat) (s t : State) : Prop where
  cores : t.cores = s.cores
  job : t.job j = { s.job j with
    aligned := (t.job j).aligned, sampleDue := (t.job j).sampleDue, age := (t.job j).age, hold := (t.job j).hold }

theorem UnitsKept.sampledOnly {s t : State} (h : UnitsKept s t) : SampledOnly j s t :=
  ⟨h.cores, by rw [h.job]⟩

theorem SampledOnly.trans {r s t : State} (a : SampledOnly j r s) (b : SampledOnly j s t) : SampledOnly j r t := by
  refine ⟨b.cores.trans a.cores, ?_⟩
  have h := b.job
  rw [a.job] at h
  exact h

theorem SampledOnly.setJob {x : Job} (h : x = { s.job j with
    aligned := x.aligned, sampleDue := x.sampleDue, age := x.age, hold := x.hold }) : SampledOnly j s (s.setJob j x) :=
  ⟨rfl, by rw [State.job_setJob_same]; exact h⟩

theorem State.latchJob_sampledOnly : SampledOnly j s (s.latchJob j) := by
  unfold State.latchJob
  extract_lets a b c
  have latched : UnitsKept s c :=
    UnitsKept.foldl (fun _ _ k => k.latchCore) (UnitsKept.foldl (fun _ _ k => k.latchCluster) ⟨rfl, rfl⟩)
  exact latched.sampledOnly.trans (SampledOnly.setJob rfl)

/-- The job as a splice begins it: the entry and the phase are set and the splice's counts are 0. -/
def Job.opened (x : Job) (sidx : Nat) (binding : Bool) : Job :=
  { x with phase := .quiesce, sidx, binding, waited := 0, gateClk := 0, sampleDue := false, promote := 0, applying := 0 }

/-- Beside that the first clk of a splice only samples. -/
theorem State.openSplice_sampledOnly :
    SampledOnly j (s.setJob j ((s.job j).opened sidx binding)) (s.openSplice j sidx binding) := by
  unfold State.openSplice
  extract_lets x a e y b z c
  have aligned : SampledOnly j a b := SampledOnly.setJob rfl
  have sampled : SampledOnly j b c := by
    unfold c
    split
    · exact (UnitsKept.sampleRings (.refl b)).sampledOnly
    · exact SampledOnly.setJob rfl
  have read : SampledOnly j c ((List.range 8).foldl (fun s n => s.readStack n) c).retirePages :=
    (UnitsKept.retirePages (UnitsKept.foldl (fun _ _ k => k.readStack) (.refl c))).sampledOnly
  exact ((aligned.trans sampled).trans read).trans State.latchJob_sampledOnly

/-- No outbound stream is stuck, so that none faults (R527). -/
theorem State.faultStuck_none {cs : List Nat} {last : Bool} (h : s.stuckOf j cs last = none) :
    s.faultStuck j cs last = s := by
  rw [State.faultStuck, h]

/-! The command. -/

/-- A splice of job j can begin: its span runs, it has not stopped, and no retract is under way. -/
structure State.InSpan (s : State) (j : Nat) : Prop where
  phase : (s.job j).phase = .span
  running : s.stopped j = false
  noRetract : (s.job j).retract = none

theorem State.InSpan.begins (h : s.InSpan j) :
    ¬ ((s.job j).phase ≠ .span ∨ s.stopped j = true ∨ (s.job j).retract.isSome = true) := by
  simp [h.phase, h.running, h.noRetract]

/-- What SPLICE_BEGIN does in the span of a job whose virtual cores have not arrived at different entries. -/
theorem exec_spliceBegin_matched {j : JobId} (h : s.InSpan j) (hm : s.mismatched j = false) : exec (.spliceBegin j) s =
    if (s.job j).prog.isSome && !s.allHalted j then
      if !(s.runsOf j).all (fun r => r.isArrived || r.isHalted) || (s.boundClusters j).any (fun c => (s.cluster c).swapping)
      then .next s
      else if s.boot.dead.contains 2 then .next (s.reportStop 0x60 fnSch j { unit := 2 })
      else .next ((s.openSplice j ((s.job j).firstSidx.getD 0) false).faultStuck j (s.boundClusters j) true)
    else if (s.job j).pending.isSome then .next (s.openSplice j 0 true)
    else .next s :=
  (if_neg h.begins).trans (if_neg (by simp [hm]))

/-- Virtual cores that arrived at different entries stop the job with bind fault 0x14 (R277). -/
theorem exec_spliceBegin_mismatched {j : JobId} (h : s.InSpan j) (hm : s.mismatched j = true) :
    exec (.spliceBegin j) s = .next (s.bindStop j 0x14 ((s.job j).firstSidx.getD 0)) :=
  (if_neg h.begins).trans (if_pos hm)

/-- Settles O28: the cases of exec_spliceBegin_matched, and openSplice_sampledOnly for what a begun splice leaves. -/
theorem spliceBeginsWhenAllHaveArrived : Obligations.SpliceBeginsWhenAllHaveArrived := by
  unfold Obligations.SpliceBeginsWhenAllHaveArrived
  intro s j x n begins hphase hstop hretract
  have h : s.InSpan j := ⟨hphase, hstop, hretract⟩
  have opened (sidx : Nat) (binding : Bool) (he : exec (.spliceBegin j) s = .next (s.openSplice j sidx binding)) :
      begins sidx binding := by
    obtain ⟨cores, job⟩ := State.openSplice_sampledOnly (s := s) (j := j) (sidx := sidx) (binding := binding)
    rw [State.job_setJob_same] at job
    refine ⟨_, he, ?_⟩
    rw [job]
    exact ⟨rfl, rfl, rfl, rfl, rfl, cores⟩
  refine ⟨exec_spliceBegin_mismatched h, fun hm (hprog : (s.job j).prog.isSome = true) hhalt => ?_,
    fun hm (hnone : (s.job j).prog = none ∨ s.allHalted j = true) => ?_⟩
  · have splices : ((s.job j).prog.isSome && !s.allHalted j) = true := by simp [hprog, hhalt]
    have matched := (exec_spliceBegin_matched h hm).trans (if_pos splices)
    refine ⟨fun hrun => matched.trans (if_pos (by simp [hrun])), fun hall hswap hsch hstuck => opened n false ?_,
      fun hall hswap hsch => ?_⟩
    · rw [matched, if_neg (by simp [hall, hswap]), if_neg (Bool.eq_false_iff.1 hsch), State.faultStuck_none hstuck]
    · rw [matched, if_neg (by simp [hall, hswap]), if_pos hsch]
  · have noSpan : ¬ ((s.job j).prog.isSome && !s.allHalted j) = true := by
      rcases hnone with hprog | hhalt
      · simp [hprog]
      · simp [hhalt]
    have matched := (exec_spliceBegin_matched h hm).trans (if_neg noSpan)
    exact ⟨fun hpend => opened 0 true (matched.trans (if_pos hpend)),
      fun (hpend : (s.job j).pending = none) => matched.trans (if_neg (by simp [hpend]))⟩

end Sys2Proof.Machine
end

/-! PROOFS. The end of a span: QUIESCE_DONE (R53, R62, R245, R278, R426). -/
section
namespace Sys2Proof.Machine

/-- From s to t job j stays as it is but for the context images of its virtual cores and its promoted drain. -/
structure QuiesceOnly (j : Nat) (s t : State) : Prop where
  job : t.job j = { s.job j with contexts := (t.job j).contexts, promote := (t.job j).promote }

variable {r s t : State} {j : Nat}

theorem QuiesceOnly.refl (j : Nat) (s : State) : QuiesceOnly j s s := ⟨rfl⟩

theorem QuiesceOnly.kept (h : QuiesceOnly j r s) (k : t.jobs = s.jobs) : QuiesceOnly j r t :=
  ⟨by rw [State.job, k]; exact h.job⟩

theorem QuiesceOnly.foldl {α : Type} {f : State → α → State} {l : List α}
    (hf : ∀ t x, QuiesceOnly j r t → QuiesceOnly j r (f t x)) (h : QuiesceOnly j r s) :
    QuiesceOnly j r (l.foldl f s) := by
  induction l generalizing s with
  | nil => exact h
  | cons x l ih => exact ih (hf s x h)

theorem QuiesceOnly.setJob {x : Job} (h : QuiesceOnly j r s)
    (hx : x = { s.job j with contexts := x.contexts, promote := x.promote }) : QuiesceOnly j r (s.setJob j x) := by
  constructor
  rw [State.job_setJob_same]
  rw [h.job] at hx
  exact hx

theorem QuiesceOnly.setContext {vc : Nat} {x : Option Context} (h : QuiesceOnly j r s) :
    QuiesceOnly j r (s.setContext j vc x) := h.setJob rfl

theorem QuiesceOnly.onVCores {f : State → Nat → VCore → State × VCore}
    (hf : ∀ t vc v, QuiesceOnly j r t → QuiesceOnly j r (f t vc v).1) (h : QuiesceOnly j r s) :
    QuiesceOnly j r (s.onVCores j f) := by
  unfold State.onVCores
  refine QuiesceOnly.foldl (fun t e k => ?_) (QuiesceOnly.foldl (fun t p k => ?_) h)
  · split
    · exact (hf _ _ _ k).setContext
    · exact k
  · split
    · exact (hf _ _ _ k).kept rfl
    · exact k

/-! What the quiesce drops. -/

theorem QuiesceOnly.countDiscard {c k q n : Nat} (h : QuiesceOnly j r s) :
    QuiesceOnly j r (s.countDiscard j c k q n) := by
  unfold State.countDiscard
  split
  · exact h
  · exact h.kept (UnitsKept.note (UnitsKept.bump (.refl s))).jobs

theorem QuiesceOnly.dropEntries {c vc : Nat} {v : VCore} (h : QuiesceOnly j r s) :
    QuiesceOnly j r (s.dropEntries j c vc v).1 :=
  h.foldl fun _ _ k => k.countDiscard

theorem QuiesceOnly.setCluster {c : Nat} {x : Cluster} (h : QuiesceOnly j r s) : QuiesceOnly j r (s.setCluster c x) :=
  h.kept rfl

theorem QuiesceOnly.setRxBytes {c n : Nat} (h : QuiesceOnly j r s) : QuiesceOnly j r (s.setRxBytes c n) := h.kept rfl

theorem QuiesceOnly.dropInbound {c : Nat} (h : QuiesceOnly j r s) : QuiesceOnly j r (s.dropInbound j c) := by
  unfold State.dropInbound
  refine QuiesceOnly.setRxBytes (QuiesceOnly.setCluster ?_)
  refine QuiesceOnly.foldl (fun t e k => ?_) (QuiesceOnly.onVCores (fun t vc v k => ?_) h)
  · split
    · exact k.countDiscard
    · exact k
  · split
    · exact k
    · dsimp only
      exact k.dropEntries

theorem QuiesceOnly.dropUncompared {n a : Nat} (h : QuiesceOnly j r s) : QuiesceOnly j r (s.dropUncompared j n a) :=
  h.foldl fun _ _ k => QuiesceOnly.foldl (fun _ _ k => k.kept rfl) (k.kept rfl)

/-- The streams of the clusters cs and the requests of job j, emptied at its quiesce. -/
def State.emptied (s : State) (j : Nat) (cs : List Nat) : State :=
  (cs.foldl (fun s c => s.dropInbound j c) s).dropRequests j

theorem QuiesceOnly.emptied {cs : List Nat} (h : QuiesceOnly j r s) : QuiesceOnly j r (s.emptied j cs) :=
  (h.foldl fun _ _ k => k.dropInbound).kept rfl

/-! The ledger drain and the step boundary. -/

theorem QuiesceOnly.drainLedger {e : Splice} {b : List Byte} (h : QuiesceOnly j r s) :
    QuiesceOnly j r (s.drainLedger j e b) := by
  unfold State.drainLedger
  dsimp only
  exact QuiesceOnly.foldl (fun _ _ k => k.kept rfl) (QuiesceOnly.setJob (h.kept rfl) rfl)

/-- At a step boundary the next step begins with attempt 0, and the step that ends waits for its seal (R53). -/
theorem State.job_endStep : ((s.endStep j).job j).step = (s.job j).step + 1 ∧ ((s.endStep j).job j).attempt = 0 ∧
    ((s.endStep j).job j).vary = false ∧ ((s.endStep j).job j).unsealed = some ((s.job j).step, (s.job j).attempt) ∧
    ((s.endStep j).job j).unsealedVary = (s.job j).vary ∧ ((s.endStep j).job j).sidx = (s.job j).sidx := by
  have cleared : QuiesceOnly j s ((s.dropUncompared j (s.job j).step (s.job j).attempt).onVCores j
      (fun s _ v => (s, { v with fillNo := [], ended := [] }))) :=
    QuiesceOnly.onVCores (fun _ _ _ k => k) (QuiesceOnly.dropUncompared (.refl j s))
  unfold State.endStep
  dsimp only
  rw [State.job_setJob_same]
  refine ⟨rfl, rfl, rfl, rfl, rfl, ?_⟩
  rw [cleared.job]

/-! The command. -/

/-- Job j stands at the quiesce of a splice, it has not stopped, and no outbound stream of it is stuck. -/
structure State.Quiescing (s : State) (j : Nat) : Prop where
  phase : (s.job j).phase = .quiesce
  running : s.stopped j = false
  noneStuck : s.stuckOf j (s.boundClusters j) true = none

/-- The ledger of a quiet job, drained for the splice under way. -/
def State.drained (s : State) (j : Nat) : State :=
  (s.emptied j (s.boundClusters j)).drainLedger j (s.entry j)
    (if (s.job j).binding then ((s.job j).pending.map (·.image)).getD (s.image j) else s.image j)

theorem State.drained_quiesceOnly : QuiesceOnly j s (s.drained j) := (QuiesceOnly.emptied (.refl j s)).drainLedger

/-- A quiet job behind its quiesce: at a step boundary its next step begins, else the next span of the step (R53). -/
def State.quiesced (s : State) (j : Nat) : State :=
  if (s.job j).stepMark then (s.drained j).endStep j
  else (s.drained j).setJob j { (s.drained j).job j with ordinal := (s.job j).ordinal + 1 }

theorem State.job_quiesced_inStep (hm : (s.job j).stepMark = false) : (s.quiesced j).job j = { s.job j with
    ordinal := (s.job j).ordinal + 1, contexts := ((s.drained j).job j).contexts
    promote := ((s.drained j).job j).promote } := by
  rw [State.quiesced, if_neg (Bool.eq_false_iff.1 hm), State.job_setJob_same, State.drained_quiesceOnly.job]

theorem State.quiesced_stepEnd (hm : (s.job j).stepMark = true) : s.quiesced j = (s.drained j).endStep j := if_pos hm

/-- What has not ended keeps the splice; a quiet job goes on to the gates. -/
theorem exec_quiesceDone {j : JobId} (h : s.Quiescing j) : exec (.quiesceDone j) s =
    if s.quiet j then .next ((s.quiesced j).setJob j { (s.quiesced j).job j with phase := .gates })
    else .next ((s.setJob j { s.job j with waited := (s.job j).waited + 1 }).spliceWait
      (if (s.job j).waited < 32 then 0 else 1)) := by
  have quiescing : ¬ ((s.job j).phase ≠ .quiesce ∨ s.stopped j = true) := by simp [h.phase, h.running]
  refine (if_neg quiescing).trans ?_
  rw [State.faultStuck_none h.noneStuck]
  refine (if_neg (Bool.eq_false_iff.1 h.running)).trans ?_
  cases s.quiet j <;> rfl

/-- Settles O29: exec_quiesceDone, and what a quiet job's splice leaves of it by job_quiesced_inStep and job_endStep. -/
theorem quiesceEndsTheSpan : Obligations.QuiesceEndsTheSpan := by
  unfold Obligations.QuiesceEndsTheSpan
  intro s j x hphase hstop hstuck
  have done := exec_quiesceDone (j := j) (s := s) ⟨hphase, hstop, hstuck⟩
  refine ⟨fun hq => ⟨_, done.trans (if_neg (Bool.eq_false_iff.1 hq)), State.job_setJob_same, rfl, rfl⟩,
    fun hq => ⟨_, done.trans (if_pos hq), ?_⟩⟩
  rw [State.job_setJob_same]
  cases hm : (s.job j).stepMark with
  | false =>
    rw [State.job_quiesced_inStep hm]
    exact ⟨rfl, rfl, fun _ => ⟨rfl, rfl, rfl⟩, nofun⟩
  | true =>
    obtain ⟨step, attempt, vary, unsealed, unsealedVary, sidx⟩ := State.job_endStep (s := s.drained j) (j := j)
    rw [State.drained_quiesceOnly.job] at step unsealed unsealedVary sidx
    rw [State.quiesced_stepEnd hm]
    exact ⟨rfl, sidx, nofun,
      fun _ => ⟨step, attempt, vary, unsealed, unsealedVary⟩⟩

end Sys2Proof.Machine
end

/-! PROOFS. Slots whose instruction joins those in flight of its core (R161, R168), and one-clk instructions that raise no flag. -/
section
namespace Sys2Proof.Machine

variable {s t : State} {p n lat : Nat} {b : Bundle} {c : Core} {v : VCore} {w : W64} {x : Needs} {eff : List Eff}

theorem State.Issued.ib {op : Nat} (h : s.Issued p n op b) : (s.core p).ib = some b := h.1

theorem State.Issued.opcode {op : Nat} (h : s.Issued p n op b) : Machine.opcode (b.slots.getD n 0) = op := h.2.2.1

@[simp] theorem State.v_slotDone : ((s.slotDone p n).core p).v = (s.core p).v := by simp [State.slotDone]

/-- An instruction without operands in the scratchpad leaves its slot done and itself in flight, and nothing else changes. -/
theorem CoreStep.flies (ib : (s.core p).ib = some b) (hr : x.rd = []) (hw : x.wr = []) :
    CoreStep s ((s.launch p b n w x eff).slotDone p n) p
      (flying (s.core p) b n ((s.core p).flightOf b n w x eff 0 false)) :=
  (CoreStep.start.launch hr hw).slotDone ib

@[simp] theorem State.v_launch : ((s.launch p b n w x eff).core p).v = (s.core p).v := by
  by_cases h : x.rd = [] ∧ x.wr = []
  · rw [(CoreStep.start.launch h.1 h.2).1]
  · rw [State.launch_core (Classical.not_and_iff_not_or_not.1 h)]

@[simp] theorem State.mem_launch : (s.launch p b n w x eff).mem = s.mem := by rw [State.launch_rest.2.1]

@[simp] theorem State.mbx_launch : (s.launch p b n w x eff).mbx = s.mbx := by rw [State.launch_rest.2.1]

/-- A slot that changes its virtual core to v, which has the same g, a and v registers, and then launches its instruction. -/
theorem joins_launch (h : CoreStep s t p { s.core p with v := v }) (ib : (s.core p).ib = some b)
    (g : v.g = (s.core p).v.g) (a : v.a = (s.core p).v.a) (vs : v.v = (s.core p).v.v) (hl : x.lat = lat) :
    joins s ((t.launch p b n (b.slots.getD n 0) x eff).slotDone p n) p n b x lat eff := by
  obtain ⟨core, -, rest⟩ := h
  have launched : Launched s ((t.launch p b n (b.slots.getD n 0) x eff).slotDone p n) p n b x eff :=
    Launched.launch (by rw [core]) (by rw [core]) (by rw [core, ← ib])
  refine ⟨hl, launched, ?_, ?_, ?_, ?_, ?_⟩
  · rw [State.v_slotDone, State.v_launch, core, g]
  · rw [State.v_slotDone, State.v_launch, core, a]
  · rw [State.v_slotDone, State.v_launch, core, vs]
  · exact State.mem_launch.trans (by rw [rest])
  · exact State.mbx_launch.trans (by rw [rest])

/-- Beside its core a slot whose instruction is launched touches the registers only, where BANKHOLD counts. -/
theorem State.launch_slotDone_rest :
    let t := (s.launch p b n w x eff).slotDone p n
    (∀ q, q ≠ p → t.core q = s.core q) ∧ t = { s with cores := t.cores, csr := t.csr } := by
  obtain ⟨others, rest, -⟩ := State.launch_rest (s := s) (p := p) (n := n) (b := b) (w := w) (x := x) (eff := eff)
    (late := 0) (waiting := false)
  refine ⟨fun q hq => (State.core_setCore_ne hq).trans (others q hq), ?_⟩
  rw [State.slotDone, rest]
  rfl

/-- A V instruction that writes no byte of the scratchpad puts its lanes and their flags in flight. -/
theorem vJoins_vResult {lane : Nat → Fl Lane} (ib : (s.core p).ib = some b)
    (hl : (needV b.snap 0 (b.slots.getD 2 0)).lat = lat) (hw : (needV b.snap 0 (b.slots.getD 2 0)).wr = []) :
    vJoins s ((s.vResult p b (b.slots.getD 2 0) (lanes128 lane)).slotDone p 2) p b lat lane := by
  have flags : (lanes128 lane).foldl (fun f r => f ||| r.flags) 0 =
      (List.range 128).foldl (fun f i => f ||| (lane i).flags) 0 := List.foldl_map
  have vals : (lanes128 lane).map (·.val) = (List.range 128).map (fun i => (lane i).val) := List.map_map
  unfold State.vResult
  rw [flags, vals]
  obtain ⟨others, rest⟩ := State.launch_slotDone_rest
  exact ⟨_, joins_launch CoreStep.start ib rfl rfl rfl hl, rfl, others, rest, fun hr => by rw [(CoreStep.flies ib hr hw).2.2]⟩

theorem CoreStep.raise_zero {pc : Nat} (h : CoreStep s t p c) : CoreStep s (t.raise p pc 0) p c := by
  have kept : { c.v with nflags := c.v.nflags ||| 0 } = c.v := congrArg (fun f => { c.v with nflags := f }) BitVec.or_zero
  have raised : t.raise p pc 0 = t.setV p { (t.core p).v with nflags := (t.core p).v.nflags ||| 0 } := rfl
  rw [raised, h.1, kept]
  exact h.setV

theorem State.signalTok_none (h : tokc w = none) : s.signalTok p b n w = s := by
  rw [State.signalTok, h]

/-- A one-clk instruction without a flag and a token leaves what its slot made of the virtual core. -/
theorem CoreStep.endsQuietly {pc : Nat} (h : CoreStep s t p { s.core p with v := v }) (ib : (s.core p).ib = some b)
    (tok : tokc w = none) :
    CoreStep s (((t.raise p pc 0).signalTok p b n w).slotDone p n) p (doneSlot (s.core p) b n v) := by
  rw [State.signalTok_none tok]
  exact h.raise_zero.ran ib

end Sys2Proof.Machine
end

/-! PROOFS. The histogram (R104, R105): which of the elements of instructions in flight countDue counts. -/
section
namespace Sys2Proof.Machine

variable {s : State} {p n : Nat} {f : Flight} {e : Eff} {v : VCore}

/-- Effect e of flight f is an element that has been written in a clk before n. -/
def Flight.wrote (f : Flight) (n : Nat) : Eff → Bool
  | .hist k _ => !f.waiting && k < n
  | _ => false

/-- v with the element counted that effect e of flight f has written in a clk before n. -/
def Flight.counts (f : Flight) (n : Nat) (v : VCore) (e : Eff) : VCore :=
  match e with
  | .hist k x => if !f.waiting && k < n then v.countHist x else v
  | _ => v

theorem Flight.counts_unwritten (h : f.wrote n e = false) : f.counts n v e = v := by
  cases e with
  | hist k x => exact if_neg (Bool.eq_false_iff.1 h)
  | _ => rfl

/-- countDue counts the elements written in each flight's order and takes them from the flights. -/
theorem State.countDue_eq : s.countDue p n = s.setCore p { s.core p with
    v := (s.core p).fly.foldl (fun v f => f.eff.foldl (f.counts n) v) (s.core p).v
    fly := (s.core p).fly.map (fun f => { f with eff := f.eff.filter (fun e => !f.wrote n e) }) } := rfl

theorem CoreStep.countDue : CoreStep s (s.countDue p n) p ((s.countDue p n).core p) := by
  rw [State.countDue_eq, State.core_setCore_same]
  exact CoreStep.start.setCore

@[simp] theorem State.ib_countDue : ((s.countDue p n).core p).ib = (s.core p).ib := by
  rw [State.countDue_eq, State.core_setCore_same]

/-- Without an element written before clk n nothing is counted. -/
theorem State.core_countDue_none (h : ∀ f ∈ (s.core p).fly, ∀ e ∈ f.eff, f.wrote n e = false) :
    (s.countDue p n).core p = s.core p := by
  have uncounted : (s.core p).fly.foldl (fun v f => f.eff.foldl (f.counts n) v) (s.core p).v = (s.core p).v :=
    List.foldlRecOn (motive := (· = (s.core p).v)) _ _ rfl fun v hv f hf =>
      List.foldlRecOn (motive := (· = (s.core p).v)) _ _ hv fun u hu e he => by
        rw [Flight.counts_unwritten (h f hf e he), hu]
  have left (f : Flight) (hf : f ∈ (s.core p).fly) : { f with eff := f.eff.filter (fun e => !f.wrote n e) } = f := by
    rw [List.filter_eq_self.2 fun e he => by rw [h f hf e he]; rfl]
  rw [State.countDue_eq, State.core_setCore_same, uncounted, List.map_congr_left left, List.map_id']

/-- One element of one instruction in flight, written before clk n, is counted. -/
theorem State.core_countDue_one {k : Nat} {y : Num} (hf : (s.core p).fly = [f]) (he : f.eff = [.hist k y])
    (hw : f.waiting = false) (hk : k < n) :
    (s.countDue p n).core p = { s.core p with v := (s.core p).v.countHist y, fly := [{ f with eff := [] }] } := by
  have written : f.wrote n (.hist k y) = true := by simp [Flight.wrote, hw, hk]
  have counted : f.counts n (s.core p).v (.hist k y) = (s.core p).v.countHist y := if_pos written
  rw [State.countDue_eq, State.core_setCore_same, hf]
  simp [he, written, counted]

end Sys2Proof.Machine
end

/-! PROOFS. The C slot's flags and timed reads: FLAGS, SCAL MUL, TIME and ENTROPY (R102, R105, R148, R183, Table 5.10). -/
section
namespace Sys2Proof.Machine

variable {s : State} {p : CoreId} {b : Bundle} {w x : W64} {v : VCore}

theorem needC_mul (h : opcode w = 0x02) (fn : sf w 31 26 = 0x08) :
    needC v w = { reads := scalReads w, writes := [crDest w], lat := 3 } := by simp [needC, h, fn]

theorem needC_time (h : opcode w = 0x0F) : needC v w = { writes := [crDest w], lat := 2 } := by simp [needC, h]

theorem needC_entropy (h : opcode w = 0x10) : needC v w = { writes := [crDest w], lat := 16 } := by simp [needC, h]

@[simp] theorem Eff.move_destEff {n : Nat} : (destEff w x).move n = destEff w x := by
  unfold destEff
  split <;> rfl

theorem State.setVary_bound {j vc p : Nat} (h : (s.core p).bound = some (j, vc)) :
    s.setVary p = s.setJob j { s.job j with vary := true } := by
  rw [State.setVary, h]

/-- The state on which FLAGS makes its changes: a new HBASE first lets the elements be counted that are written by then. -/
def State.countedForHbase (s : State) (p : Nat) (w : W64) : State :=
  if (sf w 31 26).testBit 1 then s.countDue p ((s.core p).now + 1) else s

theorem CoreStep.countedForHbase {p : Nat} : CoreStep s (s.countedForHbase p w) p ((s.countedForHbase p w).core p) := by
  unfold State.countedForHbase
  split
  · exact CoreStep.countDue
  · exact CoreStep.start

@[simp] theorem State.ib_countedForHbase {p : Nat} : ((s.countedForHbase p w).core p).ib = (s.core p).ib := by
  unfold State.countedForHbase
  split
  · exact State.ib_countDue
  · rfl

theorem CoreStep.setDest {t : State} {p : Nat} {c : Core} (h : CoreStep s t p c) :
    CoreStep s (t.setDest p w x) p { c with v := c.v.setDest (sf w 13 13 == 1) (sf w 12 8) x } := by
  rw [State.setDest, h.1]
  exact h.setV

theorem exec_flags_issued (h : s.Issued p 0 0x0D b) :
    let w := b.slots.getD 0 0
    let u := s.countedForHbase p w
    let v := (u.core p).v
    let clear := BitVec.ofNat 8 (sf w 39 32) &&& b.snap.nflags.setWidth 8
    exec (.flags p) s = .next (((u.setV p { v with
        nflags := v.nflags &&& ~~~ (clear.setWidth _)
        ftz := if (sf w 31 26).testBit 0 then sf w 48 48 == 1 else v.ftz
        hbase := if (sf w 31 26).testBit 1 then BitVec.ofNat 8 (sf w 47 40) else v.hbase }).setDest p w
          (b.snap.nflags.setWidth 64)).slotDone p 0) :=
  congrArg Host.Outcome.next (slotStep_issued h rfl)

theorem exec_scal_mul_issued (h : s.Issued p 0 0x02 b) (fn : sf (b.slots.getD 0 0) 31 26 = 0x08) :
    let w := b.slots.getD 0 0
    exec (.scal p) s = .next ((s.launch p b 0 w (needC b.snap w) [destEff w (scalA b.snap w * scalB b.snap w)]).slotDone p 0) := by
  have step : exec (.scal p) s = .next (s.slotStep p 0 _ _) := rfl
  rw [step, slotStep_issued h rfl, fn]
  rfl

theorem exec_time_issued (h : s.Issued p 0 0x0F b) :
    let w := b.slots.getD 0 0
    exec (.time p) s = .next (((s.setVary p).launch p b 0 w (needC b.snap w) [destEff w s.beat]).slotDone p 0) :=
  congrArg Host.Outcome.next (slotStep_issued h rfl)

theorem exec_entropy_issued (h : s.Issued p 0 0x10 b) :
    let w := b.slots.getD 0 0
    exec (.entropy p) s = .next (((s.draw.2.setVary p).launch p b 0 w (needC b.snap w)
      [destEff w (Config.freeValue s.free)]).slotDone p 0) :=
  congrArg Host.Outcome.next (slotStep_issued h rfl)

/-- From s to t slot 0 of bundle b is done; its instruction is in flight and writes x to the destination of slot word w in
lat clk. -/
def writesLater (s t : State) (p : Nat) (b : Bundle) (w : W64) (lat : Nat) (x : W64) : Prop :=
  ∃ f : Flight, t.core p = flying (s.core p) b 0 f ∧ f.due = (s.core p).now + lat ∧ f.eff = [destEff w x]

/-- An instruction of the CR format whose needs Table 5.10 gives lat clk. -/
theorem State.flies_destEff {y : Needs} {rs ws : List Reg} {lat : Nat} (ib : (s.core p).ib = some b)
    (needs : y = { reads := rs, writes := ws, lat := lat }) :
    let t := (s.launch p b 0 w y [destEff w x]).slotDone p 0
    writesLater s t p b w lat x ∧ t = { s with cores := t.cores } := by
  subst needs
  obtain ⟨core, -, rest⟩ := CoreStep.flies (s := s) (w := w) (eff := [destEff w x])
    (x := { reads := rs, writes := ws, lat := lat }) ib rfl rfl
  exact ⟨⟨_, core, rfl, congrArg (fun e => [e]) Eff.move_destEff⟩, rest⟩

/-- The same after the step has been marked as varying. -/
theorem State.varies_flies_destEff {j vc lat : Nat} {y : Needs} {rs ws : List Reg} (bound : (s.core p).bound = some (j, vc))
    (ib : (s.core p).ib = some b) (needs : y = { reads := rs, writes := ws, lat := lat }) :
    let t := ((s.setVary p).launch p b 0 w y [destEff w x]).slotDone p 0
    writesLater s t p b w lat x ∧ (t.job j).vary = true ∧ t = { s with cores := t.cores, jobs := t.jobs } := by
  rw [State.setVary_bound bound]
  obtain ⟨flight, rest⟩ := State.flies_destEff (s := s.setJob j { s.job j with vary := true }) (w := w) (x := x) ib needs
  refine ⟨flight, ?_, ?_⟩
  · rw [rest]
    exact congrArg Job.vary State.job_setJob_same
  · rw [rest]
    rfl

/-- Settles O13: each command by its equation on an issued bundle; what joins those in flight by flies_destEff. -/
theorem flagsTimeAndEntropy : Obligations.FlagsTimeAndEntropy := by
  unfold Obligations.FlagsTimeAndEntropy
  intro s p b
  refine ⟨fun h => ?_, fun h fn => ?_, fun j vc bound => ⟨fun h => ?_, fun h => ?_⟩⟩
  · exact ⟨_, exec_flags_issued h, CoreStep.countedForHbase.setV.setDest.slotDone (State.ib_countedForHbase.trans h.ib)⟩
  · exact ⟨_, exec_scal_mul_issued h fn, State.flies_destEff h.ib (needC_mul h.opcode fn)⟩
  · exact ⟨_, exec_time_issued h, State.varies_flies_destEff bound h.ib (needC_time h.opcode)⟩
  · exact ⟨_, exec_entropy_issued h, State.varies_flies_destEff (s := s.draw.2) bound h.ib (needC_entropy h.opcode)⟩

end Sys2Proof.Machine
end

/-! PROOFS. Vector registers and rows: the lanes that a write leaves, VLD and VST, VHIST, VSEL and VKEY (R105, R156, R176, R190,
R191, R197). -/
section
namespace Sys2Proof.Machine

variable {s : State} {p : CoreId} {n : Nat} {b : Bundle} {v : VCore} {w : W64}

/-! Lanes. -/

theorem tget_tputAll_ne {α : Type} [DecidableEq α] {d : Nat → α} {t : Tab α} {l : List (Nat × α)} {k : Nat}
    (h : ∀ e ∈ l, e.1 ≠ k) : tget d (tputAll d t l) k = tget d t k := by
  induction l generalizing t with
  | nil => rfl
  | cons e l ih =>
    rw [tputAll, ih fun e he => h e (List.mem_cons_of_mem _ he), tget_tput_ne (h e List.mem_cons_self).symm]

/-- Values written at successive keys read back. -/
theorem tget_tputAll_mapIdx {α : Type} [DecidableEq α] {d : Nat → α} {t : Tab α} {l : List α} {k i : Nat} (h : i < l.length) :
    tget d (tputAll d t (l.mapIdx (fun i x => (k + i, x)))) (k + i) = l[i] := by
  induction l generalizing t k i with
  | nil => nomatch h
  | cons x l ih =>
    have next : l.mapIdx (fun i x => (k + (i + 1), x)) = l.mapIdx (fun i x => (k + 1 + i, x)) := by
      simp only [Nat.add_assoc, Nat.add_comm 1]
    rw [List.mapIdx_cons, next, tputAll]
    cases i with
    | zero =>
      have above : ∀ e ∈ l.mapIdx (fun i x => (k + 1 + i, x)), e.1 ≠ k + 0 := by
        intro e he
        obtain ⟨i, hi, rfl⟩ := List.mem_mapIdx.1 he
        dsimp only
        omega
      rw [tget_tputAll_ne above]
      exact tget_tput_same
    | succ i =>
      rw [show k + (i + 1) = k + 1 + i by omega]
      exact ih (Nat.lt_of_succ_lt_succ h)

theorem VCore.lane_setLanes {r i : Nat} {l : List Lane} (h : i < l.length) : (v.setLanes r l).lane r i = l[i] :=
  tget_tputAll_mapIdx h

/-- A write of lanes leaves the rest of the virtual core. -/
theorem VCore.setLanes_eq {r : Nat} {l : List Lane} : { v with v := (v.setLanes r l).v } = v.setLanes r l := rfl

/-- Lane i of a register written with lanes128. -/
theorem VCore.lane_setLanes_lanes128 {r i : Nat} {f : Nat → Fl Lane} (h : i < 128) :
    (v.setLanes r ((lanes128 f).map (·.val))).lane r i = (f i).val := by
  rw [VCore.lane_setLanes (by simpa [lanes128] using h)]
  simp [lanes128]

/-! Loads and stores of rows. -/

theorem needV_vld (h : opcode w = 0x01) {slots : Nat} : (needV v slots w).lat = 5 ∧ (needV v slots w).wr = [] := by
  simp [needV, h]

theorem needV_vst (h : opcode w = 0x02) {slots : Nat} : (needV v slots w).lat = 4 := by simp [needV, h]

theorem needV_vhist (h : opcode w = 0x33) {slots : Nat} : (needV v slots w).lat = 2 := by simp [needV, h]

theorem exec_vld_issued (h : s.Issued p 2 0x01 b) :
    let w := b.slots.getD 2 0
    exec (.vld p) s = .next ((s.vResult p b w (lanes128 (fun i =>
      loadLane (s.scratch p) b.snap (vmTd b.snap w) w (128 * sf w 29 23 + i)))).slotDone p 2) :=
  congrArg Host.Outcome.next (slotStep_issued h rfl)

/-- Lane i of the row that VST stores, read under tag src, with its flags; none if it is poisoned. -/
def vstIn (v : VCore) (w : W64) (src : Tag) (i : Nat) : Fl Val :=
  let l := v.lane (sf w 12 8) i
  if l.poison then ⟨none, flPOISON⟩
  else
    let r := vin v src l.val
    ⟨some r.val, r.flags⟩

theorem val_vstIn {src : Tag} {i : Nat} : (vstIn v w src i).val =
    if (v.lane (sf w 12 8) i).poison then none else some (vin v src (v.lane (sf w 12 8) i).val).val :=
  apply_ite Fl.val _ _ _

theorem flags_vstIn {src : Tag} {i : Nat} : (vstIn v w src i).flags =
    if (v.lane (sf w 12 8) i).poison then flPOISON else (vin v src (v.lane (sf w 12 8) i).val).flags :=
  apply_ite Fl.flags _ _ _

theorem exec_vst_issued (h : s.Issued p 2 0x02 b) :
    let w := b.slots.getD 2 0
    let v := b.snap
    let t := vmTd v w
    let e0 := 128 * sf w 29 23
    let n := min 128 (t.count - e0)
    let src : Tag := if t.tg.isInt ∧ t.bs = 0 then .int32 else .fp32
    let ins := (List.range n).map (vstIn v w src)
    let r := storeVals v (sf w 32 30) (sf w 33 33 = 1) (sf w 34 34 = 1) t e0 (ins.map (·.val))
    let f := ins.foldl (fun f r => f ||| r.flags) 0 ||| r.flags ||| (if badKey v (sf w 32 30) && n != 0 then flPOISON else 0)
    exec (.vst p) s = .next ((s.launch p b 2 w (needV v (s.ledgerCount (s.jobN p)) w)
      (s.writeEffs (s.jobN p) t (fun _ => 3) r.val ++ collapseEff r.val ++ flagEff f)).slotDone p 2) :=
  congrArg Host.Outcome.next (slotStep_issued h rfl)

/-- An unscaled element is one write, where the element lies. -/
theorem storeOne_bit {rnd e : Nat} {sat iov : Bool} {t : Td} {y : Val} :
    (storeOne v rnd sat iov t e y).val.map (·.bit) = [(t.bit e).toNat] := by
  cases y with
  | none => rfl
  | some y =>
    unfold storeOne
    dsimp only
    split <;> rfl

/-- Unscaled elements are written one after the other, each where it lies. -/
theorem storeVals_bit {rnd e0 : Nat} {sat iov : Bool} {t : Td} {xs : List Val} (h : t.bs = 0) :
    (storeVals v rnd sat iov t e0 xs).val.map (·.bit) = (List.range xs.length).map (fun i => (t.bit (e0 + i)).toNat) := by
  unfold storeVals
  rw [if_pos h, List.map_flatMap, List.mapIdx_eq_zipIdx_map, List.flatMap_map]
  simp only [storeOne_bit]
  rw [← List.map_eq_flatMap, List.range_eq_range', ← List.zipIdx_map_snd 0 xs, List.map_map]
  rfl

/-! VHIST. -/

/-- CLR of VHIST. -/
theorem CoreStep.clearHist {t : State} {p : Nat} {q : Prop} [Decidable q] (h : CoreStep s t p (t.core p)) :
    CoreStep s (if q then t.setV p { (t.core p).v with hist := [] } else t) p
      { t.core p with v := { (t.core p).v with hist := if q then [] else (t.core p).v.hist } } := by
  by_cases hq : q
  · rw [if_pos hq, if_pos hq]
    exact h.setV
  · rw [if_neg hq, if_neg hq]
    exact h

theorem exec_vhist_issued (h : s.Issued p 2 0x33 b) :
    let w := b.slots.getD 2 0
    let u := s.countDue p (s.core p).now
    let v := (u.core p).v
    exec (.vhist p) s = .next (((if sf w 16 16 = 1 then u.setV p { v with hist := [] } else u).launch p b 2 w (needV b.snap 0 w)
      [.vreg (sf w 12 8) ((List.range 128).map (fun i => ⟨if i < 64 then tget z32 v.hist i else 0, false⟩))]).slotDone p 2) :=
  congrArg Host.Outcome.next (slotStep_issued h rfl)

/-! VSEL and VKEY. -/

/-- The lane that VSEL selects (R190), and whether it or its condition is poisoned; the other lane does not contribute (R176). -/
def vselPick (v : VCore) (w : W64) (i : Nat) : Lane := if (opC v w i).val.toNat % 2 = 1 then opA v w i else opB v w i
def vselBad (v : VCore) (w : W64) (i : Nat) : Bool := (opC v w i).poison || (vselPick v w i).poison

/-- Lane i of VSEL's result with its flags. -/
def vselLane (v : VCore) (w : W64) (i : Nat) : Fl Lane := if vselBad v w i then poisonLane else ⟨vselPick v w i, 0⟩

/-- Virtual core v after the VSEL of bundle b. -/
def VCore.selected (v : VCore) (b : Bundle) : VCore :=
  let w := b.slots.getD 2 0
  v.setLanes (sf w 12 8) ((lanes128 (vselLane b.snap w)).map (·.val))

/-- The flags that the VSEL of bundle b raises. -/
def vselFlags (b : Bundle) : Flags :=
  (List.range 128).foldl (fun f i => f ||| if vselBad b.snap (b.slots.getD 2 0) i then flPOISON else 0) 0

theorem VCore.selected_eq : { v with v := (v.selected b).v } = v.selected b := VCore.setLanes_eq

theorem VCore.lane_selected {i : Nat} (h : i < 128) : (v.selected b).lane (sf (b.slots.getD 2 0) 12 8) i =
    if vselBad b.snap (b.slots.getD 2 0) i then ⟨0, true⟩ else vselPick b.snap (b.slots.getD 2 0) i :=
  (VCore.lane_setLanes_lanes128 h).trans (apply_ite Fl.val _ _ _)

theorem flags_vselLanes : (lanes128 (vselLane b.snap (b.slots.getD 2 0))).foldl (fun f r => f ||| r.flags) 0 = vselFlags b := by
  have flags (i : Nat) : (vselLane b.snap (b.slots.getD 2 0) i).flags =
      if vselBad b.snap (b.slots.getD 2 0) i then flPOISON else 0 := apply_ite Fl.flags _ _ _
  rw [lanes128, List.foldl_map]
  simp only [flags]
  rfl

/-- Without a poisoned lane selected VSEL raises nothing. -/
theorem vselFlags_clean (h : ∀ i, i < 128 → vselBad b.snap (b.slots.getD 2 0) i = false) : vselFlags b = 0 := by
  refine List.foldlRecOn (motive := (· = 0)) _ _ rfl fun f hf i hi => ?_
  rw [hf, h i (List.mem_range.1 hi)]
  rfl

theorem exec_vsel_issued (h : s.Issued p 2 0x16 b) :
    exec (.vsel p) s = .next ((((s.setV p ((s.core p).v.selected b)).raise p b.pc.toNat (vselFlags b)).signalTok p b 2
      (b.slots.getD 2 0)).slotDone p 2) := by
  rw [← flags_vselLanes]
  exact congrArg Host.Outcome.next (slotStep_issued h rfl)

/-- A lane that the VKEY of bundle b takes for its key is poisoned. -/
def vkeyBad (b : Bundle) : Bool := (opA b.snap (b.slots.getD 2 0) 0).poison || (opA b.snap (b.slots.getD 2 0) 1).poison

/-- Virtual core v after the VKEY of bundle b (R197). -/
def VCore.keyed (v : VCore) (b : Bundle) : VCore :=
  let w := b.slots.getD 2 0
  { v with sk := tput key0 v.sk (sf w 9 8) ⟨(opA b.snap w 1).val ++ (opA b.snap w 0).val, vkeyBad b⟩ }

theorem VCore.key_keyed_same : (v.keyed b).key (sf (b.slots.getD 2 0) 9 8) =
    ⟨(opA b.snap (b.slots.getD 2 0) 1).val ++ (opA b.snap (b.slots.getD 2 0) 0).val, vkeyBad b⟩ := tget_tput_same

theorem VCore.key_keyed_ne {k : Nat} (h : k ≠ sf (b.slots.getD 2 0) 9 8) : (v.keyed b).key k = v.key k := tget_tput_ne h

theorem exec_vkey_issued (h : s.Issued p 2 0x34 b) :
    exec (.vkey p) s = .next ((((s.setV p ((s.core p).v.keyed b)).raise p b.pc.toNat
      (if vkeyBad b then flPOISON else 0)).signalTok p b 2 (b.slots.getD 2 0)).slotDone p 2) :=
  congrArg Host.Outcome.next (slotStep_issued h rfl)

/-- VSEL or VKEY of bundle b that makes v of the virtual core and raises nothing. -/
theorem CoreStep.setV_endsQuietly {v : VCore} (h : s.Issued p 2 n b) (tok : tokc (b.slots.getD 2 0) = none) :
    let t := (((s.setV p v).raise p b.pc.toNat 0).signalTok p b 2 (b.slots.getD 2 0)).slotDone p 2
    CoreStep s t p (doneSlot (s.core p) b 2 v) ∧ (t.core p).v = v := by
  have made := CoreStep.endsQuietly (pc := b.pc.toNat) (n := 2) (CoreStep.start.setV (s := s) (v := v)) h.ib tok
  exact ⟨made, congrArg Core.v made.1⟩

/-- Settles O19: each command by its equation on an issued bundle; VLD, VST and VHIST by vJoins_vResult and joins_launch, VSEL and
VKEY by the virtual cores selected and keyed, the counting of elements by the lemmas on countDue. -/
theorem rowsHistogramSelectAndKeys : Obligations.RowsHistogramSelectAndKeys := by
  unfold Obligations.RowsHistogramSelectAndKeys
  intro s p b
  refine ⟨fun h => ?_, fun h => ?_, fun h => ?_, fun h => ?_, fun f k x hf he hw hk => ?_, fun h => ⟨?_, fun tok clean => ?_⟩,
    fun h => ⟨?_, fun tok c0 c1 => ?_⟩⟩
  · obtain ⟨lat, wr⟩ := needV_vld (v := b.snap) (slots := 0) h.opcode
    exact ⟨_, exec_vld_issued h, vJoins_vResult h.ib lat wr⟩
  · have stored := exec_vst_issued h
    simp only [List.foldl_map, List.map_map, Function.comp_def, val_vstIn, flags_vstIn] at stored
    refine ⟨_, stored, joins_launch CoreStep.start h.ib rfl rfl rfl (needV_vst h.opcode), fun bs => ?_⟩
    rw [storeVals_bit bs, List.length_map, List.length_range]
  · have cleared := CoreStep.clearHist (q := sf (b.slots.getD 2 0) 16 16 = 1)
      (CoreStep.start (s := s.countDue p (s.core p).now) (p := p))
    refine ⟨_, exec_vhist_issued h, joins_launch cleared (State.ib_countDue.trans h.ib) rfl rfl rfl (needV_vhist h.opcode), ?_⟩
    rw [State.v_slotDone, State.v_launch, cleared.1]
  · refine State.core_countDue_none fun f hf e he => ?_
    cases e with
    | hist k x =>
      rcases h f hf k x he with waiting | later
      · simp [Flight.wrote, waiting]
      · simp [Flight.wrote, later]
    | _ => rfl
  · exact State.core_countDue_one hf he hw hk
  · refine ⟨_, exec_vsel_issued h, ?_, fun i hi => ?_⟩
    · rw [State.core_setV_same, VCore.selected_eq]
      exact CoreStep.start.setV
    · rw [State.core_setV_same]
      exact VCore.lane_selected hi
  · obtain ⟨made, own⟩ := CoreStep.setV_endsQuietly (v := (s.core p).v.selected b) h tok
    rw [exec_vsel_issued h, vselFlags_clean clean]
    refine ⟨_, rfl, ?_, fun i hi => ?_⟩
    · rw [own, VCore.selected_eq]
      exact made
    · rw [own]
      exact (VCore.lane_selected hi).trans (if_neg (Bool.eq_false_iff.1 (clean i hi)))
  · refine ⟨_, exec_vkey_issued h, ?_, ?_, fun k hk => ?_⟩
    · rw [State.core_setV_same]
      exact CoreStep.start.setV
    · rw [State.core_setV_same]
      exact VCore.key_keyed_same
    · rw [State.core_setV_same]
      exact VCore.key_keyed_ne hk
  · have clean : vkeyBad b = false := Bool.or_eq_false_iff.2 ⟨c0, c1⟩
    obtain ⟨made, own⟩ := CoreStep.setV_endsQuietly (v := (s.core p).v.keyed b) h tok
    rw [exec_vkey_issued h, if_neg (Bool.eq_false_iff.1 clean)]
    refine ⟨_, rfl, ?_, ?_, fun k hk => ?_⟩
    · rw [own]
      exact made
    · rw [own]
      exact VCore.key_keyed_same.trans (congrArg (Key.mk _) clean)
    · rw [own]
      exact VCore.key_keyed_ne hk

end Sys2Proof.Machine
end

/-! PROOFS. What the A slot's operations leave: their own registers of the virtual core, and what the shadow tap notes (R111, R119,
R122, R423, R424). -/
section
namespace Sys2Proof.Machine

variable {s t u : State} {p n m lat : Nat} {b : Bundle} {w : W64} {x : Needs} {eff : List Eff}

/-! The shadow tap leaves the array registers. -/

theorem TapOnly.acc (h : TapOnly p s t) : (t.core p).v.acc = (s.core p).v.acc := by rw [h.own]
theorem TapOnly.active (h : TapOnly p s t) : (t.core p).v.active = (s.core p).v.active := by rw [h.own]
theorem TapOnly.curw (h : TapOnly p s t) : (t.core p).v.curw = (s.core p).v.curw := by rw [h.own]
theorem TapOnly.wt (h : TapOnly p s t) : (t.core p).v.wt = (s.core p).v.wt := by rw [h.own]
theorem TapOnly.upset (h : TapOnly p s t) : (t.core p).upset = (s.core p).upset := by rw [h.own]
theorem TapOnly.mem (h : TapOnly p s t) : t.mem = s.mem := by rw [h.rest]

@[simp] theorem State.mem_slotDone : (s.slotDone p n).mem = s.mem := rfl

@[simp] theorem State.fly_slotDone : ((s.slotDone p n).core p).fly = (s.core p).fly := by simp [State.slotDone]

theorem State.ib_slotDone : ((s.slotDone p n).core p).ib = (s.core p).ib.map (fun b => { b with done := sins n b.done }) := by
  simp [State.slotDone]

/-! Only the arrays' registers differ. -/

/-- From s to t only core p's switches, accumulators with their waiting errors, and fills, the clusters and the registers differ. -/
structure ArrayOnly (p : Nat) (s t : State) : Prop where
  own  : t.core p = { s.core p with
    v := { (s.core p).v with
      curw := (t.core p).v.curw, active := (t.core p).v.active, acc := (t.core p).v.acc
      fillNo := (t.core p).v.fillNo, fills := (t.core p).v.fills, ended := (t.core p).v.ended }
    upset := (t.core p).upset }
  rest : t = { s with cores := t.cores, csr := t.csr, clusters := t.clusters }

theorem ArrayOnly.refl : ArrayOnly p s s := ⟨rfl, rfl⟩

theorem ArrayOnly.trans (a : ArrayOnly p s t) (c : ArrayOnly p t u) : ArrayOnly p s u := by
  constructor
  · have h := c.own
    rw [a.own] at h
    exact h
  · have h := c.rest
    rw [a.rest] at h
    exact h

theorem TapOnly.array (h : TapOnly p s t) : ArrayOnly p s t := by
  refine ⟨?_, h.rest⟩
  rw [h.own]

/-- A write of core p that changes its accumulators and their waiting errors. -/
theorem ArrayOnly.setAcc {acc : Tab Pair} {upset : Tab Nat} :
    ArrayOnly p s (s.setCore p { s.core p with v := { (s.core p).v with acc := acc }, upset := upset }) := by
  refine ⟨?_, rfl⟩
  rw [State.core_setCore_same]

theorem ArrayOnly.foldl {α : Type} {f : State → α → State} {l : List α} (h : ∀ t x, ArrayOnly p t (f t x)) :
    ArrayOnly p s (l.foldl f s) := by
  induction l generalizing s with
  | nil => exact ArrayOnly.refl
  | cons x l ih => exact (h s x).trans ih

/-! An A instruction that joins those in flight. -/

/-- What a launch in slot 1 of bundle b leaves of state u once the slot is done. -/
def State.aFlies (u : State) (p : Nat) (b : Bundle) (x : Needs) (eff : List Eff) : State :=
  ((u.launch p b 1 (b.slots.getD 1 0) x eff).closeSpan p b 1).slotDone p 1

@[simp] theorem State.acc_aFlies : ((u.aFlies p b x eff).core p).v.acc = (u.core p).v.acc := by
  rw [State.aFlies, State.v_slotDone, TapOnly.refl.closeSpan.acc, State.v_launch]

/-- What the shadow tap changes does not concern a launch. -/
theorem Launched.tapped {r : State} (h : Launched r (s.slotDone p n) p n b x eff) (g : TapOnly p s t) :
    Launched r (t.slotDone p n) p n b x eff := by
  have ib : ((t.slotDone p n).core p).ib = ((s.slotDone p n).core p).ib := by rw [State.ib_slotDone, State.ib_slotDone, g.own]
  have fly : ((t.slotDone p n).core p).fly = ((s.slotDone p n).core p).fly := by
    rw [State.fly_slotDone, State.fly_slotDone, g.own]
  unfold Launched
  rw [ib, fly]
  exact h

theorem joins_aFlies (h : ArrayOnly p s u) (ib : (s.core p).ib = some b) (hl : x.lat = lat) :
    joins s (u.aFlies p b x eff) p 1 b x lat eff := by
  obtain ⟨own, rest⟩ := h
  have launched : Launched s ((u.launch p b 1 (b.slots.getD 1 0) x eff).slotDone p 1) p 1 b x eff :=
    Launched.launch (by rw [own]) (by rw [own]) (by rw [own, ← ib])
  have tap : TapOnly p (u.launch p b 1 (b.slots.getD 1 0) x eff) ((u.launch p b 1 (b.slots.getD 1 0) x eff).closeSpan p b 1) :=
    TapOnly.refl.closeSpan
  refine ⟨hl, launched.tapped tap, ?_, ?_, ?_, ?_, ?_⟩
  · rw [State.aFlies, State.v_slotDone, tap.own, State.v_launch, own]
  · rw [State.aFlies, State.v_slotDone, tap.own, State.v_launch, own]
  · rw [State.aFlies, State.v_slotDone, tap.own, State.v_launch, own]
  · exact tap.mem.trans (State.mem_launch.trans (by rw [rest]))
  · exact (congrArg State.mbx tap.rest).trans (State.mbx_launch.trans (by rw [rest]))

end Sys2Proof.Machine
end

/-! PROOFS. The A slot's switches and clears: SWAPW, ACCSW and ACCCLR (R111, R122, R156). -/
section
namespace Sys2Proof.Machine

variable {s t u : State} {p : CoreId} {b : Bundle} {w : W64}

/-- The state in which SWAPW signals its token: the weights switched, their fills to be captured anew. -/
def State.swapWeights (s : State) (p : Nat) (w : W64) : State :=
  (arraysOf (sf w 11 8)).foldl (fun s n =>
    (s.onFill p (2 * n) (fun f => { f with wNeeded := true })).onFill p (2 * n + 1) (fun f => { f with wNeeded := true }))
    (s.setV p { (s.core p).v with curw := (s.core p).v.curw ^^^ BitVec.ofNat 4 (sf w 11 8) })

/-- The state after the fills that ACCSW ends. -/
def State.endTiles (s : State) (p : Nat) (w : W64) : State :=
  (arraysOf (sf w 11 8)).foldl (fun s n => s.endFill p ((s.core p).v.activeTile n)) s

/-- The state in which ACCSW signals its token: the tiles switched, the fills of the old ones ended and those of the new begun. -/
def State.swapTiles (s : State) (p : Nat) (w : W64) : State :=
  let t := s.endTiles p w
  (arraysOf (sf w 11 8)).foldl (fun s n => s.beginFill p ((s.core p).v.activeTile n))
    (t.setV p { (t.core p).v with active := (t.core p).v.active ^^^ BitVec.ofNat 4 (sf w 11 8) })

theorem exec_swapw_issued (h : s.Issued p 1 0x03 b) :
    let w := b.slots.getD 1 0
    exec (.swapw p) s = .next ((((s.swapWeights p w).signalTok p b 1 w).closeSpan p b 1).slotDone p 1) :=
  congrArg Host.Outcome.next (slotStep_issued h rfl)

theorem exec_accsw_issued (h : s.Issued p 1 0x08 b) :
    let w := b.slots.getD 1 0
    exec (.accsw p) s = .next ((((s.swapTiles p w).signalTok p b 1 w).closeSpan p b 1).slotDone p 1) :=
  congrArg Host.Outcome.next (slotStep_issued h rfl)

theorem TapOnly.swapWeights {p : Nat} :
    TapOnly p (s.setV p { (s.core p).v with curw := (s.core p).v.curw ^^^ BitVec.ofNat 4 (sf w 11 8) }) (s.swapWeights p w) :=
  TapOnly.foldl (fun _ _ h => h.onFill.onFill) TapOnly.refl

theorem TapOnly.endTiles {p : Nat} : TapOnly p s (s.endTiles p w) := TapOnly.foldl (fun _ _ h => h.endFill) TapOnly.refl

theorem TapOnly.swapTiles {p : Nat} :
    TapOnly p ((s.endTiles p w).setV p { ((s.endTiles p w).core p).v with
      active := ((s.endTiles p w).core p).v.active ^^^ BitVec.ofNat 4 (sf w 11 8) }) (s.swapTiles p w) :=
  TapOnly.foldl (fun _ _ h => h.beginFill) TapOnly.refl

/-- Without a token only the tap changes anything at the end of a slot. -/
theorem TapOnly.signalTok_closeSpan {p n : Nat} (tok : tokc w = none) :
    TapOnly p u ((u.signalTok p b n w).closeSpan p b n) := by
  rw [State.signalTok_none tok]
  exact TapOnly.refl.closeSpan

theorem State.swapWeights_leaves {p : Nat} :
    let t := s.swapWeights p w
    (t.core p).v.curw = (s.core p).v.curw ^^^ BitVec.ofNat 4 (sf w 11 8) ∧ (t.core p).v.active = (s.core p).v.active ∧
      (t.core p).v.acc = (s.core p).v.acc ∧ (t.core p).v.wt = (s.core p).v.wt ∧ t.mem = s.mem := by
  have tap := TapOnly.swapWeights (s := s) (w := w) (p := p)
  simp [tap.curw, tap.active, tap.acc, tap.wt, tap.mem]

theorem State.swapTiles_leaves {p : Nat} :
    let t := s.swapTiles p w
    (t.core p).v.active = (s.core p).v.active ^^^ BitVec.ofNat 4 (sf w 11 8) ∧ (t.core p).v.curw = (s.core p).v.curw ∧
      (t.core p).v.acc = (s.core p).v.acc ∧ t.mem = s.mem := by
  have tap := TapOnly.swapTiles (s := s) (w := w) (p := p)
  have ended := TapOnly.endTiles (s := s) (w := w) (p := p)
  simp [tap.curw, tap.active, tap.acc, tap.mem, ended.curw, ended.active, ended.acc, ended.mem]

/-! ACCCLR. -/

/-- Core c with tile k cleared. -/
def Core.clearTile (c : Core) (k : Nat) : Core :=
  { c with v := { c.v with acc := tclear c.v.acc (8192 * k) 8192 }, upset := tclear c.upset (8192 * k) 8192 }

/-- The state in which ACCCLR is launched. -/
def State.clearTiles (s : State) (p : Nat) (ks : List Nat) : State :=
  ks.foldl (fun s k => (s.setCore p ((s.core p).clearTile k)).tapLoad p k 0 128) s

theorem exec_accclr_issued (h : s.Issued p 1 0x07 b) :
    exec (.accclr p) s = .next ((s.clearTiles p (clrTiles (b.slots.getD 1 0))).aFlies p b (needA b.snap 0 (b.slots.getD 1 0)) []) :=
  congrArg Host.Outcome.next (slotStep_issued h rfl)

theorem ArrayOnly.clearTiles {p : Nat} {ks : List Nat} : ArrayOnly p s (s.clearTiles p ks) :=
  ArrayOnly.foldl fun _ _ => ArrayOnly.setAcc.trans TapOnly.refl.tapLoad.array

theorem State.acc_clearTiles {p : Nat} {ks : List Nat} :
    ((s.clearTiles p ks).core p).v.acc = ks.foldl (fun t k => tclear t (8192 * k) 8192) (s.core p).v.acc := by
  induction ks generalizing s with
  | nil => rfl
  | cons k ks ih =>
    rw [State.clearTiles, List.foldl_cons, ← State.clearTiles, ih, TapOnly.refl.tapLoad.acc, State.core_setCore_same]
    rfl

/-- A key that no entry has reads as the default. -/
theorem tget_unlisted {α : Type} {d : Nat → α} {t : Tab α} {k : Nat} (h : ∀ e ∈ t, e.1 ≠ k) : tget d t k = d k := by
  induction t with
  | nil => rfl
  | cons e t ih =>
    rw [tget, if_neg (h e List.mem_cons_self), ih fun e he => h e (List.mem_cons_of_mem _ he), ite_self]

theorem mem_of_mem_tclears {α : Type} {t : Tab α} {ks : List Nat} {e : Nat × α}
    (h : e ∈ ks.foldl (fun t k => tclear t (8192 * k) 8192) t) : e ∈ t ∧ ∀ k ∈ ks, e.1 < 8192 * k ∨ 8192 * k + 8192 ≤ e.1 := by
  induction ks generalizing t with
  | nil => exact ⟨h, nofun⟩
  | cons k ks ih =>
    obtain ⟨kept, outside⟩ := ih h
    obtain ⟨listed, here⟩ := List.mem_filter.1 kept
    exact ⟨listed, List.forall_mem_cons.2 ⟨by simpa using here, outside⟩⟩

/-- The elements of the tiles cleared are (+0, +0) without poison. -/
theorem State.pair_clearTiles {p k row col : Nat} {ks : List Nat} (hk : k ∈ ks) (hr : row < 128) (hc : col < 64) :
    ((s.clearTiles p ks).core p).v.pair k row col = ⟨0, 0, false⟩ := by
  rw [VCore.pair, State.acc_clearTiles]
  refine tget_unlisted fun e he => ?_
  have outside := (mem_of_mem_tclears he).2 k hk
  omega

/-- Settles O14: what SWAPW and ACCSW leave by swapWeights_leaves and swapTiles_leaves, which the slot's end keeps without a token;
the cleared tiles by pair_clearTiles. -/
theorem switchesAndClears : Obligations.SwitchesAndClears := by
  unfold Obligations.SwitchesAndClears
  intro s p b
  refine ⟨fun h => ?_, fun h => ?_, fun h => ?_⟩
  · obtain ⟨curw, active, acc, wt, mem⟩ := State.swapWeights_leaves (s := s) (p := p) (w := b.slots.getD 1 0)
    refine ⟨_, exec_swapw_issued h, curw, active, acc, wt, mem, fun tok => ?_⟩
    have tap := TapOnly.signalTok_closeSpan (u := s.swapWeights p (b.slots.getD 1 0)) (p := p) (b := b) (n := 1) tok
    rw [State.v_slotDone, State.mem_slotDone, tap.curw, tap.active, tap.acc, tap.wt, tap.mem]
    exact ⟨curw, active, acc, wt, mem⟩
  · obtain ⟨active, curw, acc, mem⟩ := State.swapTiles_leaves (s := s) (p := p) (w := b.slots.getD 1 0)
    refine ⟨_, exec_accsw_issued h, active, curw, acc, mem, fun tok => ?_⟩
    have tap := TapOnly.signalTok_closeSpan (u := s.swapTiles p (b.slots.getD 1 0)) (p := p) (b := b) (n := 1) tok
    rw [State.v_slotDone, State.mem_slotDone, tap.curw, tap.active, tap.acc, tap.mem]
    exact ⟨active, curw, acc, mem⟩
  · obtain ⟨-, -, g, -, -, mem, -⟩ := joins_aFlies (x := needA b.snap 0 (b.slots.getD 1 0)) (eff := [])
      (ArrayOnly.clearTiles (s := s) (ks := clrTiles (b.slots.getD 1 0))) h.ib rfl
    refine ⟨_, exec_accclr_issued h, fun k row col hk bit hr hc => ?_, mem, g⟩
    have named : k ∈ clrTiles (b.slots.getD 1 0) := List.mem_filter.2 ⟨List.mem_range.2 hk, bit⟩
    rw [VCore.pair, State.acc_aFlies]
    exact State.pair_clearTiles named hr hc

end Sys2Proof.Machine
end

/-! PROOFS. The A slot's loads: LDW, LDW.T and ACCLD (R111, R112, R123, R125, Table 5.10). -/
section
namespace Sys2Proof.Machine

variable {s : State} {p : CoreId} {b : Bundle} {v : VCore} {w : W64}

/-- A key at which a list of writes has one value reads as that value. -/
theorem tget_tputAll_of_mem {α : Type} [DecidableEq α] {d : Nat → α} {t : Tab α} {l : List (Nat × α)} {k : Nat} {a : α}
    (h : (k, a) ∈ l) (one : ∀ e ∈ l, e.1 = k → e.2 = a) : tget d (tputAll d t l) k = a := by
  induction l generalizing t with
  | nil => nomatch h
  | cons e l ih =>
    rw [tputAll]
    by_cases again : (k, a) ∈ l
    · exact ih again fun e he => one e (List.mem_cons_of_mem _ he)
    · have unlisted : ∀ e ∈ l, e.1 ≠ k := fun e he key =>
        again (by rw [← key, ← one e (List.mem_cons_of_mem _ he) key]; exact he)
      obtain rfl : (k, a) = e := (List.mem_cons.1 h).resolve_right again
      rw [tget_tputAll_ne unlisted, tget_tput_same]

/-! Weight loads. -/

/-- The effect of the weight load of slot word w. -/
def ldwEff (s : State) (p : Nat) (v : VCore) (w : W64) (tr : Bool) : List Eff :=
  [.weights (sf w 9 8) (1 - v.current (sf w 9 8))
    (loadTile (s.scratch p) (v.tdArv (sf w 14 10) (sf w 26 26 = 1) (sf w 25 22)) (sf w 21 15) tr)]

theorem exec_ldw_issued (h : s.Issued p 1 0x01 b) :
    let w := b.slots.getD 1 0
    exec (.ldw p) s = .next (s.aFlies p b (needLdw b.snap w false) (ldwEff s p b.snap w false)) :=
  congrArg Host.Outcome.next (slotStep_issued h rfl)

theorem exec_ldwT_issued (h : s.Issued p 1 0x02 b) :
    let w := b.slots.getD 1 0
    exec (.ldwT p) s = .next (s.aFlies p b (needLdw b.snap w true) (ldwEff s p b.snap w true)) :=
  congrArg Host.Outcome.next (slotStep_issued h rfl)

/-! ACCLD. -/

/-- The pairs that the ACCLD of slot word w loads, in the order of its elements. -/
def accldPairs (s : State) (p : Nat) (v : VCore) (w : W64) : List (Fl Pair) :=
  loadPairs (s.scratch p) v (aaTd v w) (sf w 38 38 = 1) (sf w 30 23 * sf w 37 31)

/-- The flags that they raise. -/
def accldFlags (s : State) (p : Nat) (v : VCore) (w : W64) : Flags := (accldPairs s p v w).foldl (fun f r => f ||| r.flags) 0

/-- Where the ACCLD of slot word w puts the pairs ps. -/
def accldWrites (w : W64) (ps : List (Fl Pair)) : List (Nat × Pair) :=
  ps.mapIdx (fun e r => (8192 * sf w 10 8 + 64 * (sf w 22 16 + e / sf w 37 31) + e % sf w 37 31, r.val))

/-- Core p with its accumulators written: a pair written whole holds no waiting error. -/
def State.putPairs (s : State) (p : Nat) (l : List (Nat × Pair)) : State :=
  let c := s.core p
  s.setCore p { c with v := { c.v with acc := tputAll pair0 c.v.acc l }, upset := l.foldl (fun u x => tput z0 u x.1 0) c.upset }

/-- The state in which ACCLD is launched: the region written, the fill of its tile told. -/
def State.loadRegion (s : State) (p : Nat) (v : VCore) (w : W64) : State :=
  let t := (s.putPairs p (accldWrites w (accldPairs s p v w))).tapLoad p (sf w 10 8) (sf w 22 16) (sf w 30 23)
  if accldFlags s p v w &&& flPOISON != 0 then t.abandon p (sf w 10 8) else t

theorem exec_accld_issued (h : s.Issued p 1 0x05 b) :
    let w := b.slots.getD 1 0
    exec (.accld p) s =
      .next ((s.loadRegion p b.snap w).aFlies p b (needAccld b.snap w) (flagEff (accldFlags s p b.snap w))) :=
  congrArg Host.Outcome.next (slotStep_issued h rfl)

theorem TapOnly.loadRegion {p : Nat} :
    TapOnly p (s.putPairs p (accldWrites w (accldPairs s p v w))) (s.loadRegion p v w) := by
  unfold State.loadRegion
  dsimp only
  split
  · exact TapOnly.refl.tapLoad.abandon
  · exact TapOnly.refl.tapLoad

theorem ArrayOnly.loadRegion {p : Nat} : ArrayOnly p s (s.loadRegion p v w) := ArrayOnly.setAcc.trans TapOnly.loadRegion.array

theorem State.acc_loadRegion {p : Nat} : ((s.loadRegion p v w).core p).v.acc =
    tputAll pair0 (s.core p).v.acc (accldWrites w (accldPairs s p v w)) := by
  rw [TapOnly.loadRegion.acc, State.putPairs, State.core_setCore_same]

/-- Element e of a region of n columns lies in row e / n and column e % n: of two elements only one lies at a place. -/
theorem regionElement_unique {n e row col : Nat} (hn : n ≤ 64) (hc : col < n)
    (h : 64 * (e / n) + e % n = 64 * row + col) : e = row * n + col := by
  have := Nat.mod_lt e (Nat.zero_lt_of_lt hc)
  obtain ⟨hrow, hcol⟩ : e / n = row ∧ e % n = col := by omega
  rw [← hrow, ← hcol, Nat.div_add_mod']

/-- Row and column of an element of a region that ACCLD loads hold that element. -/
theorem State.pair_loadRegion {p row col : Nat} (hr : row < sf w 30 23) (hc : col < sf w 37 31) (hn : sf w 37 31 ≤ 64) :
    ((s.loadRegion p v w).core p).v.pair (sf w 10 8) (sf w 22 16 + row) col =
      ((accldPairs s p v w).getD (row * sf w 37 31 + col) ⟨⟨0, 0, false⟩, 0⟩).val := by
  have len : (accldPairs s p v w).length = sf w 30 23 * sf w 37 31 := by simp [accldPairs, loadPairs]
  have bound : row * sf w 37 31 + col < (accldPairs s p v w).length := by
    rw [len]
    calc row * sf w 37 31 + col < (row + 1) * sf w 37 31 := by rw [Nat.succ_mul]; omega
      _ ≤ _ := Nat.mul_le_mul_right _ hr
  have hrow : (row * sf w 37 31 + col) / sf w 37 31 = row := Nat.div_eq_of_lt_le (by omega) (by rw [Nat.succ_mul]; omega)
  have hcol : (row * sf w 37 31 + col) % sf w 37 31 = col := by rw [Nat.mul_add_mod', Nat.mod_eq_of_lt hc]
  rw [VCore.pair, State.acc_loadRegion, List.getD_eq_getElem?_getD, List.getElem?_eq_getElem bound, Option.getD_some]
  refine tget_tputAll_of_mem (List.mem_mapIdx.2 ⟨_, bound, by rw [hrow, hcol]⟩) fun e he key => ?_
  obtain ⟨i, hi, rfl⟩ := List.mem_mapIdx.1 he
  obtain rfl := regionElement_unique hn hc (e := i) (row := row) (by dsimp only at key; omega)
  rfl

/-- Settles O15: each command joins those in flight by joins_aFlies; the elements of a loaded region by pair_loadRegion. -/
theorem weightAndAccumulatorLoads : Obligations.WeightAndAccumulatorLoads := by
  unfold Obligations.WeightAndAccumulatorLoads
  intro s p b
  refine ⟨fun h => ?_, fun h => ?_, fun h => ?_⟩
  · exact ⟨_, exec_ldw_issued h, joins_aFlies ArrayOnly.refl h.ib rfl⟩
  · exact ⟨_, exec_ldwT_issued h, joins_aFlies ArrayOnly.refl h.ib rfl⟩
  · refine ⟨_, exec_accld_issued h, joins_aFlies ArrayOnly.loadRegion h.ib rfl, fun row col hr hc hn _ => ?_⟩
    rw [VCore.pair, State.acc_aFlies]
    exact State.pair_loadRegion hr hc hn

end Sys2Proof.Machine
end

/-! PROOFS. The A slot's passes and stores: MMA and ACCST (R105, R107, R119, R124, R126, Table 5.10). -/
section
namespace Sys2Proof.Machine

variable {s t : State} {p k n row0 klen m : Nat} {b : Bundle} {v snap : VCore} {w : W64} {td : Td}

/-! A pass on one array. -/

/-- Row i of 64 pairs of tile k. -/
def VCore.pairRow (v : VCore) (k i : Nat) : List Pair := (List.range 64).map (fun c => v.pair k i c)

@[simp] theorem VCore.length_pairRow {i : Nat} : (v.pairRow k i).length = 64 := by simp [VCore.pairRow]

theorem VCore.getD_pairRow {i c : Nat} {d : Pair} (h : c < 64) : (v.pairRow k i).getD c d = v.pair k i c := by
  simp [VCore.pairRow, List.getD, h]

/-- A row of pairs after a pass of klen K positions: without one it stays. -/
def passedRow (klen : Nat) (td : Td) (w : Option WTile) (r : ActRow) (before : List Pair) : Fl (List Pair) :=
  if klen = 0 then ⟨before, 0⟩ else passRow td.tg (td.bs != 0) w r before

theorem length_passedRow {tile : Option WTile} {r : ActRow} {ps : List Pair} :
    (passedRow klen td tile r ps).val.length = ps.length := by
  unfold passedRow
  split
  · rfl
  · simp [passRow]

theorem getD_passedRow {tile : Option WTile} {r : ActRow} {i c : Nat} {d : Pair} (h : c < 64) :
    (passedRow klen td tile r (v.pairRow k i)).val.getD c d =
      if klen = 0 then v.pair k i c else (passRow td.tg (td.bs != 0) tile r (v.pairRow k i)).val.getD c d := by
  unfold passedRow
  split
  · exact VCore.getD_pairRow h
  · rfl

/-- The rows of array n's active tile after a pass over m activation rows, from row row0 on. -/
def passedRows (v snap : VCore) (n row0 klen m : Nat) (td : Td) (act : Nat → ActRow) : List (Fl (List Pair)) :=
  (List.range m).map (fun i =>
    passedRow klen td (snap.weight n (snap.current n)) (act i) (v.pairRow (snap.activeTile n) (row0 + i)))

/-- The accumulators written with rows of 64 pairs of tile k, from row row0 on. -/
def rowWrites (k row0 : Nat) (rows : List (Fl (List Pair))) : List (Nat × Pair) :=
  (rows.mapIdx (fun i r => r.val.mapIdx (fun c q => (8192 * k + 64 * (row0 + i) + c, q)))).flatten

theorem State.readAcc_clean {row0 rows ncol : Nat} (h : (s.core p).upset = []) : s.readAcc p k row0 rows ncol = s := by
  simp [State.readAcc, h]

/-- A pass finds no waiting error where none is; it writes the rows, and the tap sees it. -/
theorem passArray_clean {act : Nat → ActRow} (h : (s.core p).upset = []) :
    ∃ u, TapOnly p s u ∧ (s.passArray p snap n row0 klen td ((List.range m).map act)).1 =
      u.setV p { (u.core p).v with acc := tputAll pair0 (u.core p).v.acc (rowWrites (snap.activeTile n) row0
        (passedRows (s.core p).v snap n row0 klen m td act)) } := by
  have read : (if klen = 0 then s else s.readAcc p (snap.activeTile n) row0 ((List.range m).map act).length 64) = s := by
    rw [State.readAcc_clean h, ite_self]
  unfold State.passArray passedRows passedRow VCore.pairRow
  dsimp only
  rw [read, List.length_map, List.length_range]
  by_cases idle : klen = 0
  · simp only [if_pos idle, List.map_map]
    exact ⟨_, TapOnly.refl.tapMma, rfl⟩
  · simp only [if_neg idle, List.zip_map', List.map_map]
    exact ⟨_, TapOnly.refl.tapMma, rfl⟩

theorem mem_rowWrites {rows : List (Fl (List Pair))} {e : Nat × Pair} : e ∈ rowWrites k row0 rows ↔
    ∃ (i : Nat) (_ : i < rows.length) (c : Nat) (_ : c < rows[i].val.length),
      (8192 * k + 64 * (row0 + i) + c, rows[i].val[c]) = e := by
  simp only [rowWrites, List.mem_flatten, List.mem_mapIdx]
  constructor
  · rintro ⟨_, ⟨i, hi, rfl⟩, he⟩
    exact ⟨i, hi, List.mem_mapIdx.1 he⟩
  · rintro ⟨i, hi, he⟩
    exact ⟨_, ⟨i, hi, rfl⟩, List.mem_mapIdx.2 he⟩

variable {acc : Tab Pair} {rows : List (Fl (List Pair))}

/-- A row written reads back. -/
theorem VCore.pairRow_written {i : Nat} (len : ∀ r ∈ rows, r.val.length = 64) (hi : i < rows.length) :
    ({ v with acc := tputAll pair0 acc (rowWrites k row0 rows) } : VCore).pairRow k (row0 + i) = rows[i].val := by
  have cols := len rows[i] (List.getElem_mem hi)
  refine List.ext_getElem (VCore.length_pairRow.trans cols.symm) fun c _ hc => ?_
  simp only [VCore.pairRow, List.getElem_map, List.getElem_range]
  refine tget_tputAll_of_mem (mem_rowWrites.2 ⟨i, hi, c, hc, rfl⟩) fun e he key => ?_
  obtain ⟨j, hj, d, hd, rfl⟩ := mem_rowWrites.1 he
  have := len rows[j] (List.getElem_mem hj)
  obtain ⟨rfl, rfl⟩ : j = i ∧ d = c := by dsimp only at key; omega
  rfl

/-- The rows of another tile stay. -/
theorem VCore.pairRow_unwritten {j row : Nat} (len : ∀ r ∈ rows, r.val.length = 64) (room : row0 + rows.length ≤ 128)
    (hj : j ≠ k) (hr : row < 128) :
    ({ v with acc := tputAll pair0 v.acc (rowWrites k row0 rows) } : VCore).pairRow j row = v.pairRow j row := by
  refine List.map_congr_left fun c hc => tget_tputAll_ne fun e he => ?_
  obtain ⟨i, hi, d, hd, rfl⟩ := mem_rowWrites.1 he
  have := len rows[i] (List.getElem_mem hi)
  have := List.mem_range.1 hc
  dsimp only
  omega

theorem length_passedRows {act : Nat → ActRow} : ∀ r ∈ passedRows v snap n row0 klen m td act, r.val.length = 64 := by
  intro r hr
  obtain ⟨i, -, rfl⟩ := List.mem_map.1 hr
  rw [length_passedRow, VCore.length_pairRow]

/-! The passes of an MMA. -/

variable {act : Nat → ActRow} {as : List Nat} {z : State × Flags}

/-- The pass on array n, after those that have left z.1 and the flags z.2 (R120). -/
def passStep (p : Nat) (snap : VCore) (row0 klen : Nat) (td : Td) (rows : List ActRow) (z : State × Flags) (n : Nat) :
    State × Flags :=
  let r := z.1.passArray p snap n row0 klen td rows
  (r.1, z.2 ||| (r.2 &&& (flNAN ||| flINV ||| flOVF ||| flPOISON)))

theorem VCore.activeTile_injective : Function.Injective v.activeTile := by
  intro n m h
  unfold VCore.activeTile at h
  split at h <;> split at h <;> omega

/-- What the pass on array n leaves where no error waits. -/
theorem passArray_leaves (clean : (s.core p).upset = []) (room : row0 + m ≤ 128) :
    let t := (s.passArray p snap n row0 klen td ((List.range m).map act)).1
    ArrayOnly p s t ∧ (t.core p).upset = [] ∧
      (∀ i, i < m → (t.core p).v.pairRow (snap.activeTile n) (row0 + i) =
        (passedRow klen td (snap.weight n (snap.current n)) (act i) ((s.core p).v.pairRow (snap.activeTile n) (row0 + i))).val) ∧
      ∀ k row, k ≠ snap.activeTile n → row < 128 → (t.core p).v.pairRow k row = (s.core p).v.pairRow k row := by
  obtain ⟨u, tap, made⟩ := passArray_clean (snap := snap) (n := n) (row0 := row0) (klen := klen) (m := m) (td := td)
    (act := act) clean
  have count : (passedRows (s.core p).v snap n row0 klen m td act).length = m := by simp [passedRows]
  rw [made]
  refine ⟨tap.array.trans ArrayOnly.setAcc, ?_, fun i hi => ?_, fun k row hk hr => ?_⟩
  · rw [State.core_setV_same]
    exact tap.upset.trans clean
  · rw [State.core_setV_same, VCore.pairRow_written length_passedRows (by rwa [count])]
    simp [passedRows]
  · rw [State.core_setV_same, VCore.pairRow_unwritten length_passedRows (by rwa [count]) hk hr]
    simp only [VCore.pairRow, VCore.pair, tap.acc]

/-- The passes on several arrays act each on its own tile. -/
theorem foldl_passStep_leaves (distinct : as.Nodup) (clean : (z.1.core p).upset = []) (room : row0 + m ≤ 128) :
    let t := (as.foldl (passStep p snap row0 klen td ((List.range m).map act)) z).1
    ArrayOnly p z.1 t ∧
      (∀ n ∈ as, ∀ i, i < m → (t.core p).v.pairRow (snap.activeTile n) (row0 + i) =
        (passedRow klen td (snap.weight n (snap.current n)) (act i)
          ((z.1.core p).v.pairRow (snap.activeTile n) (row0 + i))).val) ∧
      ∀ n ∉ as, ∀ row, row < 128 →
        (t.core p).v.pairRow (snap.activeTile n) row = (z.1.core p).v.pairRow (snap.activeTile n) row := by
  induction as generalizing z with
  | nil => exact ⟨ArrayOnly.refl, nofun, fun _ _ _ _ => rfl⟩
  | cons a as ih =>
    obtain ⟨fresh, distinct⟩ := List.nodup_cons.1 distinct
    obtain ⟨only, clean, own, others⟩ := passArray_leaves (s := z.1) (snap := snap) (n := a) (klen := klen) (td := td)
      (act := act) clean room
    obtain ⟨onlys, owns, frame⟩ := ih (z := passStep p snap row0 klen td ((List.range m).map act) z a) distinct clean
    refine ⟨only.trans onlys, fun n hn i hi => ?_, fun n hn row hr => ?_⟩
    · rcases List.mem_cons.1 hn with rfl | hn
      · exact (frame n fresh _ (by omega)).trans (own i hi)
      · have other : snap.activeTile n ≠ snap.activeTile a := fun e => fresh (VCore.activeTile_injective e ▸ hn)
        rw [List.foldl_cons, owns n hn i hi]
        exact congrArg (fun q => (passedRow klen td _ (act i) q).val) (others _ _ other (by omega))
    · obtain ⟨first, hn⟩ := not_or.1 (mt List.mem_cons.2 hn)
      exact (frame n hn row hr).trans (others _ row (fun e => first (VCore.activeTile_injective e)) hr)

/-- MMA's passes on state s. -/
def mmaPasses (s : State) (p : Nat) (snap : VCore) (w : W64) : State × Flags :=
  let t := snap.tdArv (sf w 16 12) (sf w 44 44 = 1) (sf w 43 40)
  (arraysOf (sf w 11 8)).foldl (passStep p snap (sf w 23 17) (sf w 39 32) t
    ((List.range (sf w 31 24)).map (actRow (s.scratch p) t (sf w 39 32)))) (s, 0)

theorem exec_mma_issued {p : CoreId} (h : s.Issued p 1 0x04 b) :
    let w := b.slots.getD 1 0
    let r := mmaPasses s p b.snap w
    exec (.mma p) s = .next (r.1.aFlies p b (needMma b.snap w) (flagEff r.2 ++ [.count 0x048 47 0 1])) :=
  congrArg Host.Outcome.next (slotStep_issued h rfl)

/-! ACCST. -/

/-- The check of a store touches clusters only. -/
theorem State.tapStore_eq {row0 rows : Nat} : ∃ l, s.tapStore p k row0 rows = { s with clusters := l } := by
  unfold State.tapStore
  dsimp only
  split
  · exact ⟨_, rfl⟩
  · split
    · exact ⟨_, rfl⟩
    · exact ⟨_, rfl⟩

/-- The effects of the ACCST of slot word w. -/
def accstEff (s : State) (p : Nat) (v : VCore) (w : W64) : List Eff :=
  let r := storePairs v (s.core p).v (aaTd v w) w
  s.writeEffs (s.jobN p) (aaTd v w) (accstClk w) r.val ++ collapseEff r.val ++ flagEff r.flags

theorem exec_accst_issued {p : CoreId} (h : s.Issued p 1 0x06 b) (clean : (s.core p).upset = []) :
    let w := b.slots.getD 1 0
    exec (.accst p) s = .next ((s.tapStore p (sf w 10 8) (sf w 22 16) (sf w 30 23)).aFlies p b
      (needAccst b.snap (s.ledgerCount (s.jobN p)) w) (accstEff s p b.snap w)) := by
  have step : exec (.accst p) s = .next (s.slotStep p 1 _ _) := rfl
  rw [step, slotStep_issued h rfl]
  dsimp only
  rw [State.readAcc_clean clean]
  obtain ⟨l, tapped⟩ := State.tapStore_eq (s := s) (p := p) (k := sf (b.slots.getD 1 0) 10 8)
    (row0 := sf (b.slots.getD 1 0) 22 16) (rows := sf (b.slots.getD 1 0) 30 23)
  rw [tapped]
  rfl

/-- Settles O16: the rows of each active tile by foldl_passStep_leaves; both commands join those in flight by joins_aFlies. -/
theorem mmaUpdatesItsRowsAndAccstStoresThem : Obligations.MmaUpdatesItsRowsAndAccstStoresThem := by
  unfold Obligations.MmaUpdatesItsRowsAndAccstStoresThem
  intro s p b w v t klen before row r clean
  refine ⟨fun h room => ?_, fun h => ?_⟩
  · have distinct : (arraysOf (sf w 11 8)).Nodup := List.nodup_range.filter _
    obtain ⟨only, rows, -⟩ := foldl_passStep_leaves (snap := v) (klen := klen) (td := t) (act := actRow (s.scratch p) t klen)
      (z := (s, 0)) distinct clean room
    refine ⟨_, _, exec_mma_issued h, joins_aFlies only h.ib rfl, fun n hn i c hi hc => ?_⟩
    rw [VCore.pair, State.acc_aFlies, ← VCore.pair, ← VCore.getD_pairRow (d := ⟨0, 0, false⟩) hc]
    have own : ((mmaPasses s p v w).1.core p).v.pairRow (v.activeTile n) (sf w 23 17 + i) = _ := rows n hn i hi
    rw [own]
    exact getD_passedRow hc
  · exact ⟨_, exec_accst_issued h clean, joins_aFlies TapOnly.refl.tapStore.array h.ib rfl⟩

end Sys2Proof.Machine
end

/-! PROOFS. Issue: the core that a bundle leaves which issues (R155, R156, R158). -/
section
namespace Sys2Proof.Machine

variable {s : State} {p : Nat} {b : Bundle} {ns : List (Nat × Needs)} {v : VCore} {x : Option (Nat × Nat)}

/-- The virtual core v less what a TWAIT takes: a token and its count (R156). -/
def VCore.less (v : VCore) (x : Option (Nat × Nat)) : VCore :=
  match x with
  | some (k, n) => v.setTok k (v.getTok k - n)
  | none => v

theorem VCore.getTok_less_some {k n m : Nat} : (v.less (some (k, n))).getTok m = if m = k then v.getTok k - n else v.getTok m :=
  VCore.getTok_setTok

theorem VCore.g_less : (v.less x).g = v.g := by
  cases x <;> rfl

theorem VCore.pend_less : (v.less x).pend = v.pend := by
  cases x <;> rfl

/-- What the TWAIT among the slots' needs takes. -/
def twaitOf (ns : List (Nat × Needs)) : Option (Nat × Nat) := (ns.map (·.2)).findSome? (·.tok)

/-- No error waits in what the slots read. -/
def State.CleanReads (s : State) (p : Nat) (ns : List (Nat × Needs)) : Prop :=
  ∀ y ∈ ns, ∀ r ∈ y.2.touch, s.readElems p r.1 r.2.1 r.2.2 = s

/-- Core c when bundle b issues whose slots need ns. -/
def Core.issue (c : Core) (b : Bundle) (ns : List (Nat × Needs)) : Core :=
  { c with
    v := { c.v.less (twaitOf ns) with pc := b.pc + 1, overrun := b.pc == 8191, lastPc := b.pc }
    heldN := 0, issues := c.issues + 1
    ib := some { b with issued := true, num := c.issues, snap := c.v, late := slotsN.map (lateOf ns) } }

/-- Beside its core a bundle that issues only counts. -/
theorem State.issueBundle_clean (clean : s.CleanReads p ns) :
    s.issueBundle p b ns = (s.setCore p ((s.core p).issue b ns)).bump (rg (fnCore p) 0x070) 47 0 1 := by
  obtain ⟨v, issued, rfl⟩ := issueBundle_eq (s := s) (p := p) (b := b) (ns := ns)
  rw [issued, readSlots_eq clean]
  rfl

theorem State.core_issueBundle (clean : s.CleanReads p ns) : (s.issueBundle p b ns).core p = (s.core p).issue b ns := by
  rw [State.issueBundle_clean clean]
  exact State.core_setCore_same

/-- Settles O8: the fields of Core.issue, which a bundle that issues leaves by core_issueBundle. -/
theorem issueMovesThePcOn : Obligations.IssueMovesThePcOn := by
  unfold Obligations.IssueMovesThePcOn
  intro s p j b clean
  have core := State.core_issueBundle (b := b) clean
  dsimp only
  rw [core]
  refine ⟨rfl, rfl, rfl, fun n => ?_, ?_, fun free => ?_, fun k n taken m => ?_⟩
  · exact congrArg (fun g => if n = 0 then 0 else tget z64 g n) VCore.g_less
  · rw [State.issueBundle_clean clean]
    rfl
  · exact congrArg (fun x => ((s.core p).v.less x).tok) free
  · exact (congrArg (fun x => ((s.core p).v.less x).getTok m) taken).trans VCore.getTok_less_some

end Sys2Proof.Machine
end

/-! PROOFS. BUNDLE_FETCH: the bundle at the PC enters the issue buffer, or the fetch faults (R142, R155, R524). -/
section
namespace Sys2Proof.Machine

variable {s : State} {p : CoreId}

/-- Core p takes the clk and fetches in it: it runs in its round, its issue buffer is free and no completion is due. -/
structure State.Fetches (s : State) (p : Nat) : Prop where
  bound   : (s.core p).bound.isSome = true
  running : (s.core p).v.run = .running
  ticking : s.ticking p = true
  free    : ∀ b, (s.core p).ib = some b → b.complete = true
  notDue  : (s.core p).dueNow = false
  onRound : s.onRound p = true

/-- The clk of the fetch comes for core p. -/
def State.fetchClk (s : State) (p : Nat) : State := s.setCore p { (s.core p).giveBack with now := (s.core p).now + 1 }

/-- The single-bit errors waiting in the words of the bundle at core p's PC are corrected, and no error waits in them (R142). -/
def State.fetchFound (s : State) (p : Nat) : State :=
  let n := (s.fetchUpsets p (s.core p).v.pc.toNat).1
  let t := s.fetchClk p
  let u := if n = 0 then t else (t.bump (rg (fnCore p) 0x0A8) 63 32 n).corrected (fnCore p) 3 (t.jobOfCore p)
  { u with upset := tclear u.upset (bundleMem p + 32 * (s.core p).v.pc.toNat) 32 }

/-- The bundle of core p's bundle memory at the PC of v, not issued. -/
def State.bundleAt (s : State) (p : Nat) (v : VCore) : Bundle :=
  ⟨v.pc, slotsN.map (fun n => BitVec.ofNat 64 (s.mem.le (bundleMem p + 32 * v.pc.toNat + 8 * n) 8)), false, 0, [], v, []⟩

theorem State.fetchFound_clean (h : (s.fetchUpsets p (s.core p).v.pc.toNat).1 = 0) : s.fetchFound p =
    { s.fetchClk p with upset := tclear s.upset (bundleMem p + 32 * (s.core p).v.pc.toNat) 32 } := by
  unfold State.fetchFound
  rw [h]
  rfl

/-- What the clk of the fetch leaves: a fault past the code and one of a word with an uncorrectable error, else the bundle in the
issue buffer. -/
theorem exec_bundleFetch_fetches (h : s.Fetches p) :
    let c := s.core p
    let pc := c.v.pc.toNat
    let ue := (s.fetchUpsets p pc).2
    let t := s.fetchFound p
    exec (.bundleFetch p) s =
      if c.v.overrun = true ∨ c.v.codeLen ≤ pc then .next ((s.fetchClk p).coreFault p c.v.lastPc.toNat 0x08 0)
      else if ue ≠ 0 then
        let u := t.bump (rg (fnCore p) 0x0A8) 31 0 (slotsN.filter ue.testBit).length
        let u := u.report 0x30 3 (fnCore p) (u.jobOfCore p) { code := 3, action := 4, addr := pc }
        .next ((u.countUe p).coreFault p pc 0x09 ue)
      else .next (t.setCore p { t.core p with ib := some (t.bundleAt p c.v), heldN := 0 }) := by
  obtain ⟨bound, running, ticking, free, notDue, onRound⟩ := h
  have isBound : (s.core p).bound.isNone = false := by simp [bound]
  change execBundleFetch p s = _
  unfold execBundleFetch
  refine if_neg ?_
  cases hb : (s.core p).ib with
  | none => simp [isBound, running, ticking, notDue, onRound]
  | some b => simp [isBound, running, ticking, free b hb, notDue, onRound]

/-- Within the code an uncorrectable word faults the core. -/
theorem exec_bundleFetch_failed (h : s.Fetches p) (going : (s.core p).v.overrun = false)
    (inCode : (s.core p).v.pc.toNat < (s.core p).v.codeLen) (failed : (s.fetchUpsets p (s.core p).v.pc.toNat).2 ≠ 0) :
    ∃ u : State, exec (.bundleFetch p) s =
      .next (u.coreFault p (s.core p).v.pc.toNat 0x09 (s.fetchUpsets p (s.core p).v.pc.toNat).2) :=
  ⟨_, (exec_bundleFetch_fetches h).trans ((if_neg (by simp [going, inCode])).trans (if_pos failed))⟩

/-- Within the code a bundle without an uncorrectable word enters the issue buffer. -/
theorem exec_bundleFetch_fetched (h : s.Fetches p) (going : (s.core p).v.overrun = false)
    (inCode : (s.core p).v.pc.toNat < (s.core p).v.codeLen) (good : (s.fetchUpsets p (s.core p).v.pc.toNat).2 = 0) :
    let t := s.fetchFound p
    exec (.bundleFetch p) s = .next (t.setCore p { t.core p with ib := some (t.bundleAt p (s.core p).v), heldN := 0 }) :=
  (exec_bundleFetch_fetches h).trans ((if_neg (by simp [going, inCode])).trans (if_neg fun failed => failed good))

/-- Settles O6: each case from its branch of exec_bundleFetch_fetches; without waiting errors the fetch finds none. -/
theorem bundleFetchReadsTheBundleAtThePc : Obligations.BundleFetchReadsTheBundleAtThePc := by
  unfold Obligations.BundleFetchReadsTheBundleAtThePc
  intro s p c pc bound running ticking free notDue onRound
  have h : s.Fetches p := ⟨bound, running, ticking, free, notDue, onRound⟩
  refine ⟨fun going inCode => ⟨fun clean => ?_, fun good => ?_, exec_bundleFetch_failed h going inCode⟩,
    fun past => (exec_bundleFetch_fetches h).trans (if_pos past)⟩
  · have found := State.fetchFound_clean (congrArg Prod.fst clean)
    have core : (s.fetchFound p).core p = { c.giveBack with now := c.now + 1 } := by
      rw [found]
      exact State.core_setCore_same
    refine ⟨_, exec_bundleFetch_fetched h going inCode (congrArg Prod.snd clean), ?_, fun q hq => ?_, ?_⟩
    · rw [State.core_setCore_same, core, found]
      rfl
    · rw [State.core_setCore_ne hq, found]
      exact State.core_setCore_ne hq
    · rw [found]
      rfl
  · exact ⟨_, _, exec_bundleFetch_fetched h going inCode good, congrArg Core.ib State.core_setCore_same, rfl, rfl, rfl⟩

end Sys2Proof.Machine
end

/-! PROOFS. One-clk instructions of the C slot that change the virtual core only: LDI, SCAL and the control transfers (R146, R147,
R155). -/
section
namespace Sys2Proof.Machine

variable {s t u : State} {p : CoreId} {n op : Nat} {b : Bundle} {c : Core} {v v' : VCore} {w x : W64}

/-- A slot's command whose body makes v of the virtual core leaves its slot done. -/
theorem State.Issued.ran {ok : Nat → Bool} {body : State → Bundle → W64 → State} (h : s.Issued p n op b)
    (is : ok op = true) (made : CoreStep s (body s b (b.slots.getD n 0)) p { s.core p with v := v }) :
    ∃ u, (.next (s.slotStep p n ok body) : Out) = .next u ∧ CoreStep s u p (doneSlot (s.core p) b n v) :=
  ⟨_, congrArg Host.Outcome.next (slotStep_issued h is), made.ran h.ib⟩

/-! Control transfers (R155). -/

theorem CoreStep.branch {p : Nat} {i : BitVec 13} (h : CoreStep s t p c) :
    CoreStep s (t.branch p i) p { c with v := jumped c.v i } := by
  rw [State.branch, h.1]
  exact h.setV

theorem CoreStep.ite {p : Nat} {q : Prop} [Decidable q] (h : CoreStep s t p { c with v := v })
    (k : CoreStep s u p { c with v := v' }) :
    CoreStep s (if q then t else u) p { c with v := if q then v else v' } := by
  split
  · exact h
  · exact k

/-- Settles O10: each body sets the virtual core or branches, by Issued.ran. -/
theorem controlTransfersSetThePc : Obligations.ControlTransfersSetThePc := by
  unfold Obligations.ControlTransfersSetThePc
  intro s p b
  refine ⟨fun h => h.ran rfl ?_, fun h => h.ran rfl ?_, fun h => h.ran rfl ?_, fun h => h.ran rfl ?_, fun h => h.ran rfl ?_,
    fun h r l stack => h.ran rfl ?_⟩
  · exact CoreStep.ite CoreStep.start.setV.branch CoreStep.start.setV
  · exact CoreStep.ite CoreStep.start.setV CoreStep.start.setV.branch
  · exact CoreStep.start.branch
  · exact CoreStep.ite CoreStep.start.branch CoreStep.start
  · exact CoreStep.start.setV.branch
  · dsimp only
    rw [stack]
    exact CoreStep.start.setV.branch

/-! Destinations (R146). -/

theorem VCore.setG_zero : v.setG 0 x = v := if_pos rfl

theorem VCore.setDest_eq {df : Bool} {d : Nat} :
    v.setDest df d x = { v with g := (v.setDest df d x).g, a := (v.setDest df d x).a } := by
  unfold VCore.setDest VCore.setG VCore.setA
  split
  · rfl
  · split <;> rfl

theorem sf_bit {i : Nat} : sf w i i = 0 ∨ sf w i i = 1 := by
  have lt : sf w i i < 2 ^ (i + 1 - i) := Nat.mod_lt _ (Nat.two_pow_pos _)
  rw [Nat.add_sub_cancel_left] at lt
  omega

theorem VCore.getG_setDest {i d m : Nat} :
    (v.setDest (sf w i i == 1) d x).getG m = if sf w i i = 0 ∧ m = d ∧ m ≠ 0 then x else v.getG m := by
  rcases sf_bit (w := w) (i := i) with bit | bit
  · have nonzero : m = d → (d ≠ 0 ↔ m ≠ 0) := by rintro rfl; rfl
    simp [bit, VCore.setDest, VCore.getG_setG, and_congr_right nonzero]
  · simp [bit, VCore.setDest]

theorem VCore.getA_setDest {i d m : Nat} :
    (v.setDest (sf w i i == 1) d x).getA m = if sf w i i = 1 ∧ m = d then x.setWidth 48 else v.getA m := by
  rcases sf_bit (w := w) (i := i) with bit | bit
  · simp [bit, VCore.setDest]
  · simp [bit, VCore.setDest, VCore.getA_setA]

/-- An issued instruction that writes x to the destination of its slot word. -/
theorem State.Issued.writesDest {ok : Nat → Bool} {body : State → Bundle → W64 → State} (h : s.Issued p 0 op b)
    (is : ok op = true) (made : body s b (b.slots.getD 0 0) = s.setDest p (b.slots.getD 0 0) x) :
    ∃ t, (.next (s.slotStep p 0 ok body) : Out) = .next t ∧ writesDest s t p b (b.slots.getD 0 0) x := by
  obtain ⟨t, step, left⟩ := h.ran is (made ▸ CoreStep.start.setDest)
  have own : (t.core p).v = (s.core p).v.setDest (sf (b.slots.getD 0 0) 13 13 == 1) (sf (b.slots.getD 0 0) 12 8) x :=
    congrArg Core.v left.1
  refine ⟨t, step, ?_, fun n => ?_, fun n => ?_⟩
  · rw [own, ← VCore.setDest_eq]
    exact left
  · rw [own, VCore.getG_setDest]
  · rw [own, VCore.getA_setDest]

/-- Settles O9: the registers by the rules on setDest, LDI and SCAL by Issued.writesDest. -/
theorem ldiAndScalWriteTheirDestination : Obligations.LdiAndScalWriteTheirDestination := by
  unfold Obligations.LdiAndScalWriteTheirDestination
  refine ⟨fun v n x => ⟨VCore.getG_zero, VCore.setG_zero, VCore.getA_setA.trans (if_pos rfl)⟩,
    fun s p b => ⟨fun h => h.writesDest rfl rfl, fun h fn => h.writesDest rfl (if_neg fn)⟩⟩

end Sys2Proof.Machine
end

/-! PROOFS. Tokens: the signals of a clk, TSIG, TOKC, TWAIT, QWAIT and NOP (R143, R156, R157, R178, R524). -/
section
namespace Sys2Proof.Machine

variable {s t u : State} {p j k m n : Nat} {b : Bundle} {c : Core} {v : VCore} {w : W64} {g : Sig}

/-! Counts (R157). -/

/-- The counts take the signals of a list. -/
theorem VCore.getTok_foldl_setTok {l : List Sig} :
    (l.foldl (fun u g => u.setTok g.tok (u.getTok g.tok + g.n)) v).getTok m =
      v.getTok m + ((l.filter (fun g => g.tok == m)).map (·.n)).sum := by
  induction l generalizing v with
  | nil => rfl
  | cons g l ih =>
    rw [List.foldl_cons, ih, VCore.getTok_setTok]
    by_cases h : g.tok = m
    · subst h
      simp [Nat.add_assoc]
    · simp [h, Ne.symm h]

theorem VCore.getTok_settle : v.settle.getTok m = v.visible m := VCore.getTok_foldl_setTok

theorem VCore.settle_quiet (h : v.pend = []) : v.settle = v := by
  obtain ⟨⟩ := v
  simp only at h
  subst h
  rfl

/-- A choice among the members of a list finds one unless the list is empty. -/
theorem isSome_foldl_iff {α : Type} {f : Option α → α → Option α} {l : List α} (hf : ∀ b x, (f b x).isSome = true) :
    (l.foldl f none).isSome = true ↔ l ≠ [] := by
  cases l with
  | nil => simp
  | cons x l =>
    have found : (l.foldl f (f none x)).isSome = true :=
      List.foldlRecOn (motive := fun b => b.isSome = true) l f (hf none x) fun b _ y _ => hf b y
    simp [found]

/-- How much of token k a TWAIT takes. -/
def takesOf (x : Option (Nat × Nat)) (k : Nat) : Nat :=
  match x with
  | some (m, n) => if k = m then n else 0
  | none => 0

/-- A fault 0x05 is due when a signalled token is above 63, less what a TWAIT takes in the clk. -/
theorem VCore.isSome_overflow {x : Option (Nat × Nat)} :
    (v.overflow x).isSome = true ↔ ∃ g ∈ v.pend, 63 < v.visible g.tok - takesOf x g.tok := by
  unfold VCore.overflow
  refine (isSome_foldl_iff fun b g => ?_).trans ?_
  · cases b with
    | none => rfl
    | some h =>
      dsimp only
      split <;> rfl
  · cases x with
    | none => simp [takesOf]
    | some x =>
      have left (i : Nat) : (if x.1 = i then v.visible i - x.2 else v.visible i) = v.visible i - takesOf (some x) i := by
        by_cases h : x.1 = i
        · simp [takesOf, h]
        · simp [takesOf, h, Ne.symm h]
      simp [left, Nat.lt_sub_iff_add_lt]

/-! Signals. -/

/-- The virtual core v with one more signal of its clk. -/
def VCore.signalled (v : VCore) (g : Sig) : VCore := { v with pend := v.pend ++ [g] }

/-- A running core keeps the signal for the bundle that would issue in the clk. -/
theorem CoreStep.signal (h : CoreStep s t p c) (run : c.v.run = .running) :
    CoreStep s (t.signal p g) p { c with v := c.v.signalled g } := by
  have kept : t.signal p g = t.setV p ((t.core p).v.signalled g) := if_pos (by rw [h.1, run])
  rw [kept, h.1]
  exact h.setV

/-- On a core that issues no further bundle the counts take the signal at once. -/
theorem State.signal_still (run : (s.core p).v.run ≠ .running) :
    s.signal p g = (s.setV p ((s.core p).v.signalled g)).settleTok p := if_neg run

theorem State.settleTok_room (h : (s.core p).v.overflow none = none) : s.settleTok p = s.setV p (s.core p).v.settle := by
  simp only [State.settleTok, h]

theorem State.settleTok_overflow (h : (s.core p).v.overflow none = some g) :
    s.settleTok p = s.coreFault p g.pc 0x05 (2 ^ g.slot) := by
  simp only [State.settleTok, h]

theorem CoreStep.signal_room (h : CoreStep s t p c) (run : c.v.run ≠ .running) (room : (c.v.signalled g).overflow none = none) :
    CoreStep s (t.signal p g) p { c with v := (c.v.signalled g).settle } := by
  have joined : CoreStep s (t.setV p (c.v.signalled g)) p { c with v := c.v.signalled g } := h.setV
  have own : ((t.setV p (c.v.signalled g)).core p).v = c.v.signalled g := congrArg Core.v joined.1
  rw [State.signal_still (by rwa [h.1]), h.1, State.settleTok_room (by rwa [own]), own]
  exact joined.setV

theorem State.signalTok_stopped (run : (s.core p).v.run = .stopped) : s.signalTok p b n w = s := by
  unfold State.signalTok
  split
  · rfl
  · exact if_pos run

theorem State.signalTok_some (tok : tokc w = some k) (run : (s.core p).v.run ≠ .stopped) :
    s.signalTok p b n w = s.signal p (sigOf b n k 1) := by
  simp only [State.signalTok, tok, if_neg run]
  rfl

theorem exec_tsig_stopped {p : CoreId} (h : s.Issued p 0 0x09 b) (run : (s.core p).v.run = .stopped) :
    exec (.tsig p) s = .next (s.slotDone p 0) := by
  have step : exec (.tsig p) s = .next (s.slotStep p 0 _ _) := rfl
  rw [step, slotStep_issued h rfl, if_pos run]

/-- The signal of the TSIG of bundle b. -/
def tsigOf (b : Bundle) : Sig := sigOf b 0 (sf (b.slots.getD 0 0) 13 8) (sf (b.slots.getD 0 0) 21 16)

theorem exec_tsig_signals {p : CoreId} (h : s.Issued p 0 0x09 b) (run : (s.core p).v.run ≠ .stopped) :
    exec (.tsig p) s = .next ((s.signal p (tsigOf b)).slotDone p 0) := by
  have step : exec (.tsig p) s = .next (s.slotStep p 0 _ _) := rfl
  rw [step, slotStep_issued h rfl, if_neg run]
  rfl

theorem exec_tsig_overflow {p : CoreId} (h : s.Issued p 0 0x09 b) (still : (s.core p).v.run ≠ .running)
    (going : (s.core p).v.run ≠ .stopped) (spills : ((s.core p).v.signalled (tsigOf b)).overflow none = some g) :
    exec (.tsig p) s =
      .next (((s.setV p ((s.core p).v.signalled (tsigOf b))).coreFault p g.pc 0x05 (2 ^ g.slot)).slotDone p 0) := by
  rw [exec_tsig_signals h going, State.signal_still still, State.settleTok_overflow (g := g) (by rwa [State.core_setV_same])]

theorem assigned_zero (x : Fin 4) : assigned x 0 = false :=
  match x with
  | 0 | 1 | 2 | 3 => rfl

/-! TWAIT: its subtraction is made by the issue of its bundle (R156). -/

theorem CoreStep.settled : CoreStep s (s.settled p) p { s.core p with v := (s.core p).v.settle } := by
  unfold State.settled
  split
  · next quiet =>
    rw [VCore.settle_quiet quiet]
    exact CoreStep.start
  · exact CoreStep.start.setV

theorem State.ticking_settled : (s.settled p).ticking p = s.ticking p := by
  unfold State.settled
  split <;> rfl

/-- A bundle whose TWAIT finds too few is held (R162). -/
theorem holdOf_none_tok {ns : List (Nat × Needs)} {y : Nat × Needs} (h : s.holdOf p c ns = none) (hy : y ∈ ns)
    (tok : y.2.tok = some (k, n)) : n ≤ c.v.getTok k := by
  refine Nat.not_lt.1 fun few => ?_
  have held : s.holdOf p c ns = some 0x098 :=
    if_pos (List.any_eq_true.2 ⟨y.2, List.mem_map_of_mem hy, by simpa only [tok, decide_eq_true_eq] using few⟩)
  exact nomatch held.symm.trans h

theorem needC_twait (h : opcode w = 0x0A) : needC v w = { tok := some (sf w 13 8, sf w 21 16) } := by simp [needC, h]

theorem State.asks_twait (h : opcode (b.slots.getD 0 0) = 0x0A) :
    let w := b.slots.getD 0 0
    (0, { tok := some (sf w 13 8, sf w 21 16) }) ∈ s.asks p j b ∧ twaitOf (s.asks p j b) = some (sf w 13 8, sf w 21 16) := by
  have first : s.slotNeeds p j (s.core p).v 0 (b.slots.getD 0 0) = _ := needC_twait h
  simp only [State.asks, twaitOf, slotsN, List.map_cons, first]
  exact ⟨List.mem_cons_self, rfl⟩

theorem State.Fetched.opcode {op : Nat} (h : s.Fetched p j n op b) : Machine.opcode (b.slots.getD n 0) = op := h.2.2.1

theorem State.Fetched.undone {op : Nat} (h : s.Fetched p j n op b) : b.done.contains n = false := h.2.2.2.1

theorem State.Fetched.ticking {op : Nat} (h : s.Fetched p j n op b) : s.ticking p = true := h.2.2.2.2.1

/-- In its clk bundle b of core p issues for job j: its tokens have room, nothing holds it, no slot faults, and no error waits in
what it reads (R157, R162, R166). -/
structure State.Issues (s : State) (p j : Nat) (b : Bundle) : Prop where
  room  : (s.core p).v.overflow ((s.settled p).twaitTakes p j b) = none
  free  : (s.settled p).holdOf p ((s.settled p).core p) ((s.settled p).asks p j b) = none
  right : faultsOf ((s.settled p).asks p j b) = []
  clean : (s.settled p).CleanReads p ((s.settled p).asks p j b)

/-- A bundle that issues with its command: the command of its slot leaves on the issued bundle what its body does. -/
theorem slotStep_issues_clean {op : Nat} {ok : Nat → Bool} {body : State → Bundle → W64 → State}
    (h : s.Fetched p j n op b) (is : ok op = true) (i : s.Issues p j b) :
    ∃ d, s.slotStep p n ok body =
      (body ((s.settled p).issueBundle p b ((s.settled p).asks p j b)) d (b.slots.getD n 0)).slotDone p n := by
  have ticks : ((s.settled p).issueBundle p b ((s.settled p).asks p j b)).ticking p = true := by
    rw [State.issueBundle_clean i.clean, State.ticking_bump, State.ticking_setCore, State.ticking_settled, h.ticking]
  obtain ⟨d, ib, slots, done, issued, -⟩ :=
    issueBundle_ib (s := s.settled p) (p := p) (b := b) (ns := (s.settled p).asks p j b)
  refine ⟨d, ?_⟩
  rw [slotStep_issues h is i.room i.free i.right ticks,
    slotStep_issued ⟨ib, issued, by rw [slots, h.opcode], by rw [done, h.undone], ticks⟩ is, slots]

/-- The bundle of a TWAIT that issues takes from its token. -/
theorem twait_issues {p : CoreId} (h : s.Fetched p j 0 0x0A b) (i : s.Issues p j b) :
    let w := b.slots.getD 0 0
    ∃ t, exec (.twait p) s = .next t ∧ (t.core p).v.pend = [] ∧
      ∀ m, (t.core p).v.getTok m = ((s.core p).v.settle.less (some (sf w 13 8, sf w 21 16))).getTok m := by
  obtain ⟨-, takes⟩ := State.asks_twait (s := s.settled p) (p := p) (j := j) h.opcode
  obtain ⟨d, step⟩ := slotStep_issues_clean (body := fun s _ _ => s) (ok := (· == 0x0A)) h rfl i
  refine ⟨_, congrArg Host.Outcome.next step, ?_⟩
  rw [State.v_slotDone, State.core_issueBundle i.clean, CoreStep.settled.1]
  refine ⟨VCore.pend_less, fun m => ?_⟩
  rw [← takes]
  rfl

/-- Settles O11: the counts by getTok_settle and isSome_overflow, TSIG and TOKC by what a signal leaves, TWAIT by twait_issues. -/
theorem tokensAreSignalledAndAwaited : Obligations.TokensAreSignalledAndAwaited := by
  unfold Obligations.TokensAreSignalledAndAwaited
  refine ⟨fun v m => ⟨VCore.getTok_settle, rfl, ?_, fun n => ?_⟩, fun s p b => ?_⟩
  · simp only [VCore.getTok_settle]
    exact VCore.isSome_overflow
  · simp only [VCore.getTok_settle]
    exact VCore.isSome_overflow
  · refine ⟨fun h => ⟨fun run => ?_, fun run => ?_, fun still going => ⟨fun room => ?_,
        fun g => exec_tsig_overflow h still going⟩⟩, fun x => ⟨fun silent => ?_, fun k tok run => ?_⟩,
      fun j h room free right clean => ⟨?_, ?_⟩,
      fun h => h.ran rfl CoreStep.start, fun h => h.ran rfl CoreStep.start, fun x h => h.ran ?_ CoreStep.start⟩
    · exact ⟨_, exec_tsig_signals h (by simp [run]), (CoreStep.start.signal run).ran h.ib⟩
    · exact ⟨_, exec_tsig_stopped h run, CoreStep.start.ran h.ib⟩
    · exact ⟨_, exec_tsig_signals h going, (CoreStep.start.signal_room still room).ran h.ib⟩
    · rcases silent with tok | run
      · exact State.signalTok_none tok
      · exact State.signalTok_stopped run
    · rw [State.signalTok_some tok (by simp [run])]
      exact CoreStep.start.signal run
    · have there := holdOf_none_tok free (State.asks_twait h.opcode).1 rfl
      rwa [CoreStep.settled.1, VCore.getTok_settle] at there
    · obtain ⟨t, step, pend, counts⟩ := twait_issues h ⟨room, free, right, clean⟩
      simp only [VCore.getTok_less_some, VCore.getTok_settle] at counts
      exact ⟨t, step, (counts _).trans (if_pos rfl), pend, fun m other => (counts m).trans (if_neg other)⟩
    · simp [assigned_zero]

end Sys2Proof.Machine
end

/-! PROOFS. Faults of a core: CORE.FAULT, the report and the stop of the job (R100, R165, R166, R204, R433, R524). -/
section
namespace Sys2Proof.Machine

variable {s : State} {p : CoreId} {j vc pc code mask : Nat} {f : Flight} {b : Bundle}

/-- CORE.FAULT, with value w before, takes a fault (R166). -/
def faultWord (w : W64) (pc code mask : Nat) : W64 :=
  setField (setField (setField (setField w 40 40 1) 39 36 mask) 31 24 code) 12 0 pc

theorem getField_faultWord_mask {w : W64} (h : mask < 16) : getField (faultWord w pc code mask) 39 36 = mask := by
  rw [faultWord, getField_setField_disjoint (by omega) (by omega), getField_setField_disjoint (by omega) (by omega),
    getField_setField_same (by omega)]
  exact Nat.mod_eq_of_lt h

theorem getField_faultWord_code {w : W64} (h : code < 256) : getField (faultWord w pc code mask) 31 24 = code := by
  rw [faultWord, getField_setField_disjoint (by omega) (by omega), getField_setField_same (by omega)]
  exact Nat.mod_eq_of_lt h

theorem getField_faultWord_pc {w : W64} (h : pc < 8192) : getField (faultWord w pc code mask) 12 0 = pc := by
  rw [faultWord, getField_setField_same (by omega)]
  exact Nat.mod_eq_of_lt h

/-- The register says that a fault is recorded. -/
theorem testBit_faultWord {w : W64} : (faultWord w pc code mask).toNat.testBit 40 = true := by
  simp [faultWord, testBit_setField]

/-- The CORE.FAULT register of core p takes a fault. -/
def State.recordFault (s : State) (p pc code mask : Nat) : State :=
  let k := rg (fnCore p) 0x0A0
  (((s.setFlag k 40 true).setFld k 39 36 mask).setFld k 31 24 code).setFld k 12 0 pc

theorem State.rd_recordFault {p : Nat} :
    (s.recordFault p pc code mask).rd (rg (fnCore p) 0x0A0) = faultWord (s.rd (rg (fnCore p) 0x0A0)) pc code mask := by
  simp [State.recordFault, State.setFlag, State.setFld, faultWord]

/-- A recorded fault stays, and the job stops all the same. -/
theorem State.coreFault_recorded {p : Nat} (bound : (s.core p).bound = some (j, vc))
    (h : s.flag (rg (fnCore p) 0x0A0) 40 = true) :
    s.coreFault p pc code mask = s.reportStop 0x20 (fnCore p) j { code, unit := mask, addr := pc, d0 := vc } := by
  simp only [State.coreFault, h, if_true, bound]

theorem State.coreFault_first {p : Nat} (bound : (s.core p).bound = some (j, vc)) (h : s.flag (rg (fnCore p) 0x0A0) 40 = false) :
    s.coreFault p pc code mask =
      (s.recordFault p pc code mask).reportStop 0x20 (fnCore p) j { code, unit := mask, addr := pc, d0 := vc } := by
  have still : ((s.recordFault p pc code mask).core p).bound = some (j, vc) := bound
  unfold State.coreFault
  simp only [h, Bool.false_eq_true, if_false]
  rw [← State.recordFault, still]

/-- Flags that an instruction raises stay in NFLAGS, and POISON stops the job (R100, R433). -/
theorem State.raise_bound {p : Nat} {fl : Flags} (bound : (s.core p).bound = some (j, vc)) :
    let u := s.setV p { (s.core p).v with nflags := (s.core p).v.nflags ||| fl }
    s.raise p pc fl = if fl &&& flPOISON = 0 then u else u.reportStop 0x26 (fnCore p) j { unit := vc, addr := pc, d0 := p } := by
  simp only [State.raise, bound]

/-- Flight f, whose index was out of range, leaves core p and its cluster's staging. -/
def State.dropScatter (s : State) (p : Nat) (f : Flight) : State :=
  let c := s.core p
  let x := s.cluster (clusterOf p)
  let mine (r : StageReq) : Bool := r.core == p && r.bundle == f.bundle
  (s.setCore p { c with fly := c.fly.filter (fun g => !(g.bundle == f.bundle && g.slot == f.slot)) }).setCluster (clusterOf p)
    { x with stageQ := x.stageQ.filter (fun r => !mine r), stage := if x.stage.any mine then none else x.stage }

theorem exec_saddIndexFault_found (found : (s.core p).fly.find? (fun f => f.eff == [.badIndex]) = some f)
    (starts : f.waiting = false) (ticking : s.ticking p = true) :
    exec (.saddIndexFault p) s = .next ((s.dropScatter p f).coreFault p f.pc.toNat 0x02 0x8) := by
  have goes : ¬ (f.waiting || !s.ticking p) = true := by simp [starts, ticking]
  change execSaddIndexFault p s = _
  unfold execSaddIndexFault
  simp only [found]
  exact if_neg goes

theorem exec_waitTimeout_late (ib : (s.core p).ib = some b) (waits : b.issued = false) (running : (s.core p).v.run = .running)
    (late : s.waitLimit p < (s.core p).heldN) : exec (.waitTimeout p) s = .next (s.coreFault p b.pc.toNat 0x06 0) := by
  have faults : ¬ (b.issued = true ∨ (s.core p).v.run ≠ .running ∨ (s.core p).heldN ≤ s.waitLimit p) := by
    simp [waits, running, late]
  change execWaitTimeout p s = _
  unfold execWaitTimeout
  simp only [ib]
  exact if_neg faults

/-- Settles O23: the fault by coreFault_recorded and coreFault_first, the fields of the record by those of faultWord. -/
theorem coreFaultIsRecordedOnceAndStopsTheJob : Obligations.CoreFaultIsRecordedOnceAndStopsTheJob := by
  unfold Obligations.CoreFaultIsRecordedOnceAndStopsTheJob
  intro s p j vc bound
  refine ⟨fun pc code mask hpc hcode hmask => ⟨State.coreFault_recorded bound, fun first => ?_⟩,
    fun f found starts ticking => ?_, fun b => exec_waitTimeout_late, fun pc fl => State.raise_bound bound⟩
  · exact ⟨_, testBit_faultWord, getField_faultWord_mask hmask, getField_faultWord_code hcode, getField_faultWord_pc hpc,
      State.coreFault_first bound first, State.rd_recordFault⟩
  · refine ⟨_, exec_saddIndexFault_found found starts ticking, rfl, rfl, ?_⟩
    exact congrArg Core.fly State.core_setCore_same

end Sys2Proof.Machine
end

/-! PROOFS. Lanes of the VR format: VADD, VMUL, VMAX, VMIN and VAMAX, VFMA, VCMP, the special functions, VCVT, VRED and VSCAN (R176,
R189, R190, R192 to R197, Table 5.10). -/
section
namespace Sys2Proof.Machine

variable {s : State} {p : CoreId} {op i : Nat} {b : Bundle} {v : VCore} {w : W64}

/-- The opcodes of the VR format that are in flight with a result of 128 lanes and touch no byte of the scratchpad. -/
def laneCodes : List Nat := [0x10, 0x11, 0x12, 0x13, 0x14, 0x15, 0x17, 0x20, 0x21, 0x22, 0x23, 0x24, 0x30, 0x31, 0x32]

theorem needV_laneCodes {slots : Nat} (h : opcode w ∈ laneCodes) :
    needV v slots w = { faults := chk (vFields w) 0x03, reads := vGs w ++ vReads w, writes := [.v (sf w 12 8)]
                        lat := vLat (opcode w) } := by
  simp only [laneCodes, List.mem_cons, List.not_mem_nil, or_false] at h
  rcases h with h | h | h | h | h | h | h | h | h | h | h | h | h | h | h <;> simp only [needV, h]

/-- An issued instruction of the VR format whose lanes have the given values puts them in flight for its clk. -/
theorem State.Issued.lanes {ok : Nat → Bool} {lane : Bundle → W64 → Nat → Fl Lane} {val : Nat → Lane} (h : s.Issued p 2 op b)
    (is : ok op = true) (coded : op ∈ laneCodes) (vals : ∀ i, (lane b (b.slots.getD 2 0) i).val = val i) :
    ∃ t g, (.next (s.slotStep p 2 ok (fun s b w => s.vResult p b w (lanes128 (lane b w)))) : Out) = .next t ∧
      vJoins s t p b (vLat op) g ∧ ∀ i, i < 128 → (g i).val = val i := by
  have needs := needV_laneCodes (v := b.snap) (slots := 0) (h.opcode.symm ▸ coded)
  refine ⟨_, _, congrArg Host.Outcome.next (slotStep_issued h is), vJoins_vResult h.ib ?_ ?_, fun i _ => vals i⟩
  · rw [needs, h.opcode]
  · rw [needs]

/-- What laneOf leaves in a lane: nothing of a poisoned one, else the operation's code (R176). -/
theorem val_laneOf {ls : List Lane} {bad : Bool} {go : Unit → Fl Nat} :
    (laneOf ls bad go).val = if ls.any (·.poison) || bad then ⟨0, true⟩ else ⟨BitVec.ofNat 32 (go ()).val, false⟩ :=
  apply_ite Fl.val _ _ _

theorem val_arith2 {f : Num → Num → Fl Num} : (arith2 v w i f).val =
    if (opA v w i).poison || (opB v w i).poison || vBad v w then ⟨0, true⟩
    else ⟨BitVec.ofNat 32 (vround v w (f (vin v (vFmt w) (opA v w i).val).val (vin v (vFmt w) (opB v w i).val).val).val i).val,
      false⟩ := by
  rw [arith2, val_laneOf]
  simp only [List.any_cons, List.any_nil, Bool.or_false]

/-- Settles O17: each command's lanes by val_arith2, in flight by Issued.lanes. -/
theorem laneArithmetic : Obligations.LaneArithmetic := by
  unfold Obligations.LaneArithmetic
  intro s p b
  simp only [List.forall_mem_cons, List.not_mem_nil, false_imp_iff, implies_true, and_true]
  refine ⟨?_, ?_, ?_, ?_, ?_⟩ <;> exact fun h => h.lanes rfl (by decide) fun _ => val_arith2

/-- What one operand's poison and the key's leave. -/
theorem val_laneOf_one {l : Lane} {bad : Bool} {go : Unit → Fl Nat} :
    (laneOf [l] bad go).val = if l.poison || bad then ⟨0, true⟩ else ⟨BitVec.ofNat 32 (go ()).val, false⟩ := by
  rw [val_laneOf, List.any_cons, List.any_nil, Bool.or_false]

/-- A reading that replaces the flags keeps the value. -/
theorem val_ite_flags {α : Type} {q : Prop} [Decidable q] {r : Fl α} {f : Flags} :
    (if q then ⟨r.val, f⟩ else r : Fl α).val = r.val := by
  split <;> rfl

/-- Lane i of a special function (R193). -/
def specialLane (v : VCore) (w : W64) (f : Sp) (i : Nat) : Fl Lane :=
  laneOf [opA v w i] (vBad v w) (fun _ =>
    let x := vin v (vFmt w) (opA v w i).val
    let g := (v.getG (sf w 45 41)).toNat
    let r := special f x.val (vFmt w)
      (rndCtx v (sf w 34 32) (sf w 35 35 = 1) (sf w 36 36 = 1) (bits g 59 40) ((bits g 39 0 + i) % 2 ^ 40))
    ⟨r.val, x.flags ||| r.flags⟩)

/-- Lane i of VCVT (R194). -/
def cvtLane (v : VCore) (w : W64) (i : Nat) : Fl Lane :=
  laneOf [opA v w i] (vBad v w) (fun _ =>
    let t := (Tag.ofCode (vFn w)).getD .fp32
    let x := if t = .e8m0 ∧ (opA v w i).val.toNat % 256 = 255 then ⟨.nan, flNAN⟩ else vin v t (opA v w i).val
    let r := vround v w x.val i
    ⟨r.val, x.flags ||| r.flags⟩)

theorem val_cvtLane {t : Tag} (tag : Tag.ofCode (vFn w) = some t) : (cvtLane v w i).val =
    if (opA v w i).poison || vBad v w then ⟨0, true⟩
    else ⟨BitVec.ofNat 32 (vround v w
      (if t = .e8m0 ∧ (opA v w i).val.toNat % 256 = 255 then .nan else (vin v t (opA v w i).val).val) i).val, false⟩ := by
  rw [cvtLane, val_laneOf_one, tag]
  simp only [Option.getD_some, apply_ite Fl.val]

/-- The rounded reduction of values ps, with their flags, into lane i (R196). -/
def reduceLane (v : VCore) (w : W64) (i : Nat) (ps : List (Fl Num)) : Fl Nat :=
  let f := ps.foldl (fun f r => f ||| r.flags) 0
  let q := reduceNums (vFn w) (vRdn w) (ps.map (·.val))
  let o := vround v w q.val i
  ⟨o.val, f ||| q.flags ||| o.flags⟩

/-- Lane i of VSCAN (R196). -/
def scanLane (v : VCore) (w : W64) (i : Nat) : Fl Lane :=
  laneOf ((List.range (i + 1)).map (opA v w)) (vBad v w) (fun _ =>
    reduceLane v w i (((List.range (i + 1)).map (opA v w)).map (fun l => vin v (vFmt w) l.val)))

theorem val_scanLane : (scanLane v w i).val =
    if ((List.range (i + 1)).map (opA v w)).any (·.poison) || vBad v w then ⟨0, true⟩
    else ⟨BitVec.ofNat 32 (vround v w (reduceNums (vFn w) (vRdn w)
      ((List.range (i + 1)).map (fun k => (vin v (vFmt w) (opA v w k).val).val))).val i).val, false⟩ := by
  rw [scanLane, val_laneOf, reduceLane, List.map_map, List.map_map]
  rfl

/-- The lane that VRED writes into all lanes (R196). -/
def redLane (v : VCore) (w : W64) : Fl Lane :=
  let as := (List.range 128).map (opA v w)
  let bs := if vFn w = 4 then (List.range 128).map (opB v w) else []
  laneOf (as ++ bs) (vBad v w) (fun _ =>
    let xs := as.map (fun l => vin v (vFmt w) l.val)
    let ys := bs.map (fun l => vin v (vFmt w) l.val)
    reduceLane v w 0 (if vFn w = 4 then (xs.zip ys).map (fun (x, y) =>
        let m := fmul x.val y.val true
        (⟨m.val, x.flags ||| y.flags ||| m.flags⟩ : Fl Num))
      else xs))

theorem val_redLane_of_ne (fn : vFn w ≠ 4) : (redLane v w).val =
    if ((List.range 128).map (opA v w)).any (·.poison) || vBad v w then ⟨0, true⟩
    else ⟨BitVec.ofNat 32 (vround v w (reduceNums (vFn w) (vRdn w)
      ((List.range 128).map (fun i => (vin v (vFmt w) (opA v w i).val).val))).val 0).val, false⟩ := by
  rw [redLane, val_laneOf]
  simp only [if_neg fn, List.append_nil]
  rw [reduceLane, List.map_map, List.map_map]
  rfl

/-- The dot product of FN 4. -/
theorem val_redLane_dot (fn : vFn w = 4) : (redLane v w).val =
    if ((List.range 128).map (opA v w) ++ (List.range 128).map (opB v w)).any (·.poison) || vBad v w then ⟨0, true⟩
    else ⟨BitVec.ofNat 32 (vround v w (fsum ((List.range 128).map (fun i =>
      (fmul (vin v (vFmt w) (opA v w i).val).val (vin v (vFmt w) (opB v w i).val).val true).val)) (vRdn w)).val 0).val, false⟩ := by
  rw [redLane, val_laneOf]
  simp only [reduceLane, fn, ↓reduceIte, List.map_map, List.zip_map']
  rfl

/-- Settles O18: each command's lanes by their values, in flight by Issued.lanes. -/
theorem fusedComparedAndReducedLanes : Obligations.FusedComparedAndReducedLanes := by
  unfold Obligations.FusedComparedAndReducedLanes
  intro s p b w v bad rd A B C f clean out
  refine ⟨fun h => ?_, fun h => ?_, ?_, fun t tag h => ?_, fun fn h => ?_, fun fn h => ?_, fun h => ?_⟩
  · refine h.lanes rfl (by decide) fun i => ?_
    rw [val_laneOf]
    simp only [List.any_cons, List.any_nil, Bool.or_false, ← Bool.or_assoc]
    rfl
  · refine h.lanes rfl (by decide) fun i => ?_
    rw [val_laneOf]
    simp only [List.any_cons, List.any_nil, Bool.or_false, val_ite_flags]
    rfl
  · simp only [List.forall_mem_cons, List.not_mem_nil, false_imp_iff, implies_true, and_true]
    refine ⟨?_, ?_, ?_, ?_, ?_⟩ <;>
      exact fun h => h.lanes (lane := fun b w => specialLane b.snap w _) rfl (by decide) fun _ => val_laneOf_one
  · exact h.lanes (lane := fun b w => cvtLane b.snap w) rfl (by decide) fun _ => val_cvtLane tag
  · exact h.lanes (lane := fun b w _ => redLane b.snap w) rfl (by decide) fun _ => val_redLane_of_ne (Nat.ne_of_lt fn)
  · exact h.lanes (lane := fun b w _ => redLane b.snap w) rfl (by decide) fun _ => val_redLane_dot fn
  · exact h.lanes (lane := fun b w => scanLane b.snap w) rfl (by decide) fun _ => val_scanLane

end Sys2Proof.Machine
end

/-! PROOFS. The stream and network queues: SPUSH, SPOP and NETQ (R156, R202, R203, R244, R301). -/
section
namespace Sys2Proof.Machine

variable {s : State} {p : CoreId} {b : Bundle} {v : VCore}

/-- An M instruction of one clk without a token leaves what its slot made of the virtual core. -/
theorem CoreStep.endsSilently {t : State} {w : W64} {n : Nat} {p : Nat} (h : CoreStep s t p { s.core p with v := v })
    (ib : (s.core p).ib = some b) (tok : tokc w = none) :
    CoreStep s ((t.signalTok p b n w).slotDone p n) p (doneSlot (s.core p) b n v) := by
  rw [State.signalTok_none tok]
  exact h.ran ib

/-- Virtual core v after the SPUSH of bundle b. -/
def VCore.pushed (v : VCore) (b : Bundle) : VCore :=
  let w := b.slots.getD 3 0
  let q := v.queue (sf w 11 8)
  v.setQueue (sf w 11 8) { q with out := q.out ++ [(mqTd b.snap w).span] }

theorem exec_spush_issued (h : s.Issued p 3 0x04 b) :
    exec (.spush p) s = .next (((s.setV p ((s.core p).v.pushed b)).signalTok p b 3 (b.slots.getD 3 0)).slotDone p 3) :=
  congrArg Host.Outcome.next (slotStep_issued h rfl)

/-- Address of the k-th entry of an inbound queue's area (R244). -/
def SQueue.entryAt (q : SQueue) (k : Nat) : Nat := q.area + k % (max 1 q.depth) * q.entry

/-- Queue q after an SPOP: the head entry popped, the area popped before given back once nothing in flight reads it (R202). -/
def SQueue.pop (q : SQueue) (fly : List Flight) : SQueue :=
  { SQueue.giveBack { q with back := if q.held then q.back ++ [q.entryAt (q.popped - 1)] else q.back } fly with
    popped := q.popped + 1, held := true }

/-- Virtual core v after the SPOP of bundle b, with instructions fly in flight. -/
def VCore.popped (v : VCore) (b : Bundle) (fly : List Flight) : VCore :=
  let w := b.slots.getD 3 0
  let q := v.queue (sf w 11 8)
  let d := v.desc (sf w 16 12)
  { v with td := tput td0 v.td (sf w 16 12) ((d >>> 64 <<< 64) ||| BitVec.ofNat 512 (q.entryAt q.popped)) }.setQueue (sf w 11 8)
    (q.pop fly)

theorem exec_spop_issued (h : s.Issued p 3 0x05 b) :
    exec (.spop p) s = .next (((s.setV p ((s.core p).v.popped b (s.core p).fly)).signalTok p b 3
      (b.slots.getD 3 0)).slotDone p 3) :=
  congrArg Host.Outcome.next (slotStep_issued h rfl)

/-- The low 64 bits of a descriptor whose BASE word takes a. -/
theorem base_word {d : BitVec 512} {a : Nat} : ((d >>> 64 <<< 64) ||| BitVec.ofNat 512 a).toNat % 2 ^ 64 = a % 2 ^ 64 := by
  refine Nat.eq_of_testBit_eq fun i => ?_
  rw [Nat.testBit_mod_two_pow, Nat.testBit_mod_two_pow, BitVec.testBit_toNat, BitVec.getLsbD_or, BitVec.getLsbD_shiftLeft,
    BitVec.getLsbD_ofNat]
  by_cases low : i < 64
  · simp [low, show i < 512 by omega]
  · simp [low]

theorem VCore.desc_popped {fly : List Flight} :
    ((v.popped b fly).desc (sf (b.slots.getD 3 0) 16 12)).toNat % 2 ^ 64 =
      (v.queue (sf (b.slots.getD 3 0) 11 8)).entryAt (v.queue (sf (b.slots.getD 3 0) 11 8)).popped % 2 ^ 64 := by
  rw [VCore.desc, VCore.popped, VCore.setQueue, tget_tput_same]
  exact base_word

theorem VCore.queue_popped_same {fly : List Flight} :
    (v.popped b fly).queue (sf (b.slots.getD 3 0) 11 8) = (v.queue (sf (b.slots.getD 3 0) 11 8)).pop fly := tget_tput_same

theorem VCore.queue_popped_ne {fly : List Flight} {k : Nat} (h : k ≠ sf (b.slots.getD 3 0) 11 8) :
    (v.popped b fly).queue k = v.queue k := tget_tput_ne h

variable {q : SQueue} {fly : List Flight}

theorem SQueue.giveBack_none (back : q.back = []) : q.giveBack fly = q := by
  obtain ⟨⟩ := q
  simp only at back
  subst back
  rfl

/-- The area popped before is given back, or waits for a read in flight. -/
theorem SQueue.giveBack_one {a : Nat} (back : q.back = [a]) : q.giveBack fly =
    if fly.any (fun f => f.rd.any (Span.meets ⟨a, q.entry⟩)) then q else { q with back := [], credits := q.credits + 1 } := by
  unfold SQueue.giveBack
  rw [back]
  split
  · next busy =>
    obtain ⟨⟩ := q
    simp only at back busy
    subst back
    simp [busy]
  · next free => simp [free]

theorem SQueue.pop_first (back : q.back = []) (held : q.held = false) :
    (q.pop fly).credits = q.credits ∧ (q.pop fly).back = [] := by
  rw [SQueue.pop, if_neg (by simp [held]), SQueue.giveBack_none back]
  exact ⟨rfl, back⟩

theorem SQueue.pop_free (back : q.back = []) (held : q.held = true)
    (free : ∀ f ∈ fly, ∀ y ∈ f.rd, Span.meets ⟨q.entryAt (q.popped - 1), q.entry⟩ y = false) :
    (q.pop fly).credits = q.credits + 1 ∧ (q.pop fly).back = [] := by
  have unread : ¬ fly.any (fun f => f.rd.any (Span.meets ⟨q.entryAt (q.popped - 1), q.entry⟩)) = true := by
    simpa using free
  rw [SQueue.pop, if_pos held, back, List.nil_append, SQueue.giveBack_one rfl, if_neg unread]
  exact ⟨rfl, rfl⟩

theorem SQueue.pop_busy (back : q.back = []) (held : q.held = true)
    (busy : ∃ f ∈ fly, ∃ y ∈ f.rd, Span.meets ⟨q.entryAt (q.popped - 1), q.entry⟩ y = true) :
    (q.pop fly).credits = q.credits ∧ (q.pop fly).back = [q.entryAt (q.popped - 1)] := by
  have read : fly.any (fun f => f.rd.any (Span.meets ⟨q.entryAt (q.popped - 1), q.entry⟩)) = true := by
    simpa using busy
  rw [SQueue.pop, if_pos held, back, List.nil_append, SQueue.giveBack_one rfl, if_pos read]
  exact ⟨rfl, rfl⟩

theorem exec_netq_issued (h : s.Issued p 3 0x08 b) :
    let w := b.slots.getD 3 0
    exec (.netq p) s = .next (((s.setNq (sf w 27 22) (s.nq (sf w 27 22) ++
      [⟨p, (mqTd b.snap w).span, s.beat.toNat + 48, 0⟩])).signalTok p b 3 w).slotDone p 3) :=
  congrArg Host.Outcome.next (slotStep_issued h rfl)

/-- Settles O22: each command by its equation on an issued bundle, SPUSH and SPOP by the virtual cores pushed and popped. -/
theorem queueInstructions : Obligations.QueueInstructions := by
  unfold Obligations.QueueInstructions
  intro s p b
  refine ⟨fun h => ⟨_, exec_spush_issued h, CoreStep.start.setV, fun tok => CoreStep.start.setV.endsSilently h.ib tok⟩,
    fun h => ?_, fun h => ?_⟩
  · refine ⟨_, exec_spop_issued h, ?_⟩
    rw [State.core_setV_same]
    refine ⟨CoreStep.start.setV, VCore.desc_popped, fun k hk => VCore.queue_popped_ne hk, ?_⟩
    dsimp only
    rw [VCore.queue_popped_same]
    refine ⟨rfl, rfl, rfl, rfl, SQueue.pop_first, SQueue.pop_free, SQueue.pop_busy⟩
  · refine ⟨_, exec_netq_issued h, State.nq_setNq_same, fun k hk => State.nq_setNq_ne hk, rfl, fun tok => ?_⟩
    dsimp only
    rw [State.signalTok_none tok, State.v_slotDone]
    exact ⟨rfl, rfl⟩

end Sys2Proof.Machine
end

/-! PROOFS. SPLICE and HALT: the virtual core leaves the running state (R157, R181, R182, R277). -/
section
namespace Sys2Proof.Machine

variable {s t : State} {p : Nat} {b : Bundle} {c : Core} {v : VCore} {r : Run}

/-- The counts that take the signals are all that settling changes. -/
theorem VCore.settle_eq : v.settle = { v with tok := v.settle.tok, pend := [] } := by
  have counted (l : List Sig) : l.foldl (fun u g => u.setTok g.tok (u.getTok g.tok + g.n)) v =
      { v with tok := (l.foldl (fun u g => u.setTok g.tok (u.getTok g.tok + g.n)) v).tok } :=
    List.foldlRecOn (motive := fun u : VCore => u = { v with tok := u.tok }) l _ rfl fun u hu g _ =>
      congrArg (fun x => x.setTok g.tok (u.getTok g.tok + g.n)) hu
  exact congrArg (fun u : VCore => { u with pend := [] }) (counted v.pend)

theorem VCore.run_settle : v.settle.run = v.run := by rw [VCore.settle_eq]

theorem VCore.g_settle : v.settle.g = v.g := by rw [VCore.settle_eq]

/-- A running virtual core whose tokens have room leaves the running state with the signals of the clk counted. -/
theorem CoreStep.setRun (running : (s.core p).v.run = .running) (room : (s.core p).v.overflow none = none) :
    CoreStep s (s.setRun p r) p { s.core p with v := { (s.core p).v.settle with run := r } } := by
  have counted : (if (s.core p).v.pend = [] then s else s.settleTok p) = s.settled p := by
    rw [State.settleTok_room room, State.settled]
  have core := (CoreStep.settled (s := s) (p := p)).1
  have still : ((s.settled p).core p).v.run = .running := by rw [core, VCore.run_settle, running]
  unfold State.setRun
  dsimp only
  rw [counted, if_pos still, core]
  exact CoreStep.settled.setV

/-- The shadow tap's notes at the end of a span leave the rest of the core, the memory and the jobs. -/
theorem CoreStep.closeSpan_leaves {n : Nat} (h : CoreStep s t p c) :
    let u := t.closeSpan p b n
    (u.core p).v.run = c.v.run ∧ (u.core p).v.g = c.v.g ∧ (u.core p).v.tok = c.v.tok ∧ (u.core p).bound = c.bound ∧
      u.mem = s.mem ∧ u.jobs = s.jobs := by
  obtain ⟨own, -, rest⟩ := TapOnly.refl.closeSpan (s := t) (p := p) (b := b) (n := n)
  obtain ⟨core, -, kept⟩ := h
  refine ⟨?_, ?_, ?_, ?_, (congrArg State.mem rest).trans (by rw [kept]), (congrArg State.jobs rest).trans (by rw [kept])⟩
  all_goals rw [own, core]

/-- The first virtual core that arrives names the splice, and any STEP marks it (R181, R277). -/
theorem State.noteArrival_arrived {j vc i sidx : Nat} {m step : Bool} (bound : (s.core p).bound = some (j, vc))
    (arrived : (s.core p).v.run = .arrived i m) : s.noteArrival p sidx step =
      s.setJob j { s.job j with firstSidx := some ((s.job j).firstSidx.getD sidx), stepMark := (s.job j).stepMark || step } := by
  unfold State.noteArrival
  rw [bound, arrived]

theorem exec_splice_issued {p : CoreId} (h : s.Issued p 0 0x0C b) :
    let w := b.slots.getD 0 0
    exec (.splice p) s = .next ((((s.setRun p (.arrived (sf w 31 16) (sf w 8 8 == 1))).closeSpan p b 0).noteArrival p
      (sf w 31 16) (sf w 8 8 == 1)).slotDone p 0) :=
  congrArg Host.Outcome.next (slotStep_issued h rfl)

theorem exec_halt_issued {p : CoreId} (h : s.Issued p 0 0x0E b) :
    exec (.halt p) s = .next (((s.setRun p .halted).closeSpan p b 0).slotDone p 0) :=
  congrArg Host.Outcome.next (slotStep_issued h rfl)

/-- Settles O12: the virtual core by CoreStep.setRun, which the shadow tap leaves; the job of a SPLICE by noteArrival_arrived. -/
theorem spliceArrivesAndHaltHalts : Obligations.SpliceArrivesAndHaltHalts := by
  unfold Obligations.SpliceArrivesAndHaltHalts
  intro s p b j vc w v running bound room
  refine ⟨fun h => ?_, fun h => ?_⟩
  · obtain ⟨run, g, tok, still, mem, jobs⟩ := CoreStep.closeSpan_leaves (b := b) (n := 0)
      (CoreStep.setRun (r := .arrived (sf w 31 16) (sf w 8 8 == 1)) running room)
    refine ⟨_, exec_splice_issued h, ?_⟩
    have job : ((s.setRun p (.arrived (sf w 31 16) (sf w 8 8 == 1))).closeSpan p b 0).job j = s.job j := by
      rw [State.job, jobs, State.job]
    rw [State.noteArrival_arrived (still.trans bound) run, job, State.v_slotDone, State.core_setJob]
    refine ⟨run, ?_, ?_, g.trans VCore.g_settle, tok, mem⟩
    · exact congrArg Job.firstSidx State.job_setJob_same
    · exact congrArg Job.stepMark State.job_setJob_same
  · obtain ⟨run, g, tok, -, mem, jobs⟩ := CoreStep.closeSpan_leaves (b := b) (n := 0) (CoreStep.setRun (r := .halted) running room)
    refine ⟨_, exec_halt_issued h, ?_⟩
    rw [State.v_slotDone]
    exact ⟨run, g.trans VCore.g_settle, tok, mem, jobs⟩

end Sys2Proof.Machine
end

/-! PROOFS. M instructions in flight: directly, or waiting for the staging buffer (R168, R220 to R224). -/
section
namespace Sys2Proof.Machine

variable {s u : State} {p n lat : Nat} {b : Bundle} {w : W64} {x y : Needs} {eff : List Eff} {path : Path}

/-- A launch from a state whose core and memories are those of s. -/
theorem joins_launch_of_same (core : u.core p = s.core p) (mem : u.mem = s.mem) (mbx : u.mbx = s.mbx) (ib : (s.core p).ib = some b)
    (hl : x.lat = lat) : joins s ((u.launch p b n (b.slots.getD n 0) x eff).slotDone p n) p n b x lat eff := by
  have launched : Launched s ((u.launch p b n (b.slots.getD n 0) x eff).slotDone p n) p n b x eff :=
    Launched.launch (by rw [core]) (by rw [core]) (by rw [core, ib])
  refine ⟨hl, launched, ?_, ?_, ?_, State.mem_launch.trans mem, State.mbx_launch.trans mbx⟩
  all_goals rw [State.v_slotDone, State.v_launch, core]

theorem State.jobN_bound {j vc : Nat} (h : (s.core p).bound = some (j, vc)) : s.jobN p = j := by
  rw [State.jobN, h]
  rfl

theorem State.job_launch {i : Nat} : (s.launch p b n w x eff).job i = s.job i := by
  rw [State.job, State.launch_rest.2.1, State.job]

/-! The staging buffer. -/

/-- A launch puts its flight among those in flight, moved by the clk that it loses. -/
theorem State.launch_mem {late : Nat} {waiting : Bool} :
    ∃ k, ((s.core p).flightOf b n w x eff late waiting).move k ∈ ((s.launch p b n w x eff late waiting).core p).fly := by
  by_cases h : x.rd = [] ∧ x.wr = []
  · refine ⟨0, ?_⟩
    rw [(CoreStep.start.launch h.1 h.2).1, Flight.move_zero]
    exact List.mem_append_right _ List.mem_cons_self
  · refine ⟨(s.core p).slipOf b n x ((s.core p).flightOf b n w x eff late waiting), ?_⟩
    rw [State.launch_core (Classical.not_and_iff_not_or_not.1 h)]
    exact List.mem_append_right _ List.mem_cons_self

theorem mem_stageInsert {r : StageReq} {l : List StageReq} : r ∈ stageInsert r l := by
  induction l with
  | nil => exact List.mem_cons_self
  | cons z l ih =>
    unfold stageInsert
    split
    · exact List.mem_cons_self
    · exact List.mem_cons_of_mem _ ih

/-- A path adds at least the clk of Table 7.5. -/
theorem State.added_le_pathClk : path.added ≤ (s.pathClk path).1 := by
  cases path with
  | spilled v =>
    unfold State.pathClk
    dsimp only
    split
    · exact Nat.le_refl _
    · exact Nat.le_add_right _ _
  | direct | staged => exact Nat.le_refl _

/-- A path goes through the spill area (R222). -/
def Path.spills : Path → Bool
  | .spilled _ => true
  | _ => false

theorem Path.spills_iff : path.spills = true ↔ ∃ v, path = .spilled v := by
  cases path <;> simp [Path.spills]

/-- The request of the M instruction of bundle b on core c, number p, which gets n added clk (R223, R224). -/
def Core.stageReq (c : Core) (p : Nat) (b : Bundle) (n : Nat) (spill : Bool) : StageReq :=
  ⟨p, b.num, 3, (c.bound.map (·.2)).getD 0, c.now, n, spill⟩

/-- The M instruction of bundle b is launched waiting on core p, and its request enters the staging queue (R223). -/
def State.launchWaiting (s : State) (p : Nat) (b : Bundle) (w : W64) (x : Needs) (eff : List Eff) (clk : Nat) (spill : Bool) : State :=
  let t := (s.launch p b 3 w x eff clk true).bump (rg (fnCore p) 0x0C0) (if spill then 63 else 31) (if spill then 32 else 0) 1
  let c := t.cluster (clusterOf p)
  t.setCluster (clusterOf p) { c with stageQ := stageInsert ((s.core p).stageReq p b clk spill) c.stageQ }

theorem State.launchPath_waits (overlap : path ≠ .direct) :
    s.launchPath p b w x path eff = (s.pathClk path).2.launchWaiting p b w x eff (s.pathClk path).1 path.spills := by
  cases path with
  | direct => exact absurd rfl overlap
  | staged | spilled => rfl

/-- An overlap leaves the instruction of slot 3 waiting for the staging buffer. -/
theorem staged_launchPath (overlap : path ≠ .direct) (lat : y.lat ≤ x.lat) :
    staged ((s.launchPath p b (b.slots.getD 3 0) x path eff).slotDone p 3) p b y path := by
  rw [State.launchPath_waits overlap]
  have clk := State.added_le_pathClk (s := s) (path := path)
  generalize s.pathClk path = z at clk
  obtain ⟨k, flies⟩ := State.launch_mem (s := z.2) (p := p) (n := 3) (b := b) (w := b.slots.getD 3 0) (x := x) (eff := eff)
    (late := z.1) (waiting := true)
  refine ⟨((z.2.core p).flightOf b 3 (b.slots.getD 3 0) x eff z.1 true).move k, (z.2.core p).stageReq p b z.1 path.spills,
    ?_, rfl, rfl, rfl, rfl, ?_, ?_, rfl, rfl, rfl, Path.spills_iff⟩
  · rw [State.fly_slotDone]
    exact flies
  · change (z.2.core p).now + y.lat + path.added ≤ (z.2.core p).now + x.lat + z.1 + k
    omega
  · have queue : ((z.2.launchWaiting p b (b.slots.getD 3 0) x eff z.1 path.spills).cluster (clusterOf p)).stageQ = _ :=
      congrArg Cluster.stageQ State.cluster_setCluster_same
    rw [State.slotDone, State.cluster_setCore, queue]
    exact mem_stageInsert

end Sys2Proof.Machine
end

/-! PROOFS. The copies of the M slot: TMOV, TXP and TPERM, DIGEST and NETPEEK (R195, R199, R201, R203). -/
section
namespace Sys2Proof.Machine

variable {s u : State} {p : CoreId} {op j vc k : Nat} {b : Bundle} {v : VCore} {w : W64}

/-- Clk that a transposing copy takes over a TMOV (R226). -/
def crossClk (op : Nat) : Nat := if op = 0x01 then 0 else xl

theorem lat_needMove {slots : Nat} : (needMove v slots w).lat = 4 + beats (mtSrc v w).span.len + crossClk (opcode w) := rfl

/-- Effects of a copy by the mover (R199). -/
def State.moveEffs (s : State) (p j : Nat) (v : VCore) (w : W64) : List Eff :=
  let r := moveWrites (s.scratch p) v (mtSrc v w) (mtDst v w) w
  s.writeEffs j (mtDst v w) (moveClk (mtSrc v w) w) r.val ++ collapseEff r.val ++ flagEff r.flags

theorem State.moveOp_direct {p : Nat} (path : s.pathM p b.snap w = .direct) (bound : (s.core p).bound = some (j, vc)) :
    s.moveOp p b w = s.launch p b 3 w (needMove b.snap (s.ledgerCount j) w) (s.moveEffs p j b.snap w) := by
  unfold State.moveOp
  dsimp only
  rw [path, State.jobN_bound bound]
  rfl

theorem State.moveOp_overlap {p : Nat} : ∃ (u : State) (eff : List Eff),
    s.moveOp p b w = u.launchPath p b w (needMove b.snap (u.ledgerCount (s.jobN p)) w) (s.pathM p b.snap w) eff := ⟨_, _, rfl⟩

/-- TMOV, TXP or TPERM on an issued bundle, its clk and its writes with XL where it transposes. -/
theorem State.Issued.moves {ok : Nat → Bool} (h : s.Issued p 3 op b) (is : ok op = true) (bound : (s.core p).bound = some (j, vc))
    (cross : crossClk op = k) :
    let w := b.slots.getD 3 0
    let v := b.snap
    let a := mtSrc v w
    let r := moveWrites (s.scratch p) v a (mtDst v w) w
    let o : Out := .next (s.slotStep p 3 ok (fun s b w => s.moveOp p b w))
    (s.pathM p v w = .direct → ∃ t, o = .next t ∧
      joins s t p 3 b (needMove v (s.ledgerCount j) w) (4 + beats a.span.len + k)
        (s.writeEffs j (mtDst v w) (fun e => 4 + k + e * beats a.span.len / max 1 a.count) r.val ++ collapseEff r.val ++
          flagEff r.flags)) ∧
    (s.pathM p v w ≠ .direct → ∃ t, o = .next t ∧ staged t p b (needMove v (s.ledgerCount j) w) (s.pathM p v w)) := by
  subst cross
  intro w v a r o
  have step : o = .next ((s.moveOp p b w).slotDone p 3) := congrArg Host.Outcome.next (slotStep_issued h is)
  rw [← h.opcode]
  refine ⟨fun path => ⟨_, step, ?_⟩, fun overlap => ⟨_, step, ?_⟩⟩
  · rw [State.moveOp_direct path bound]
    exact joins_launch_of_same rfl rfl rfl h.ib lat_needMove
  · obtain ⟨u, eff, moved⟩ := State.moveOp_overlap (s := s) (p := p) (b := b) (w := w)
    rw [moved]
    exact staged_launchPath overlap (Nat.le_refl _)

theorem lat_needM_digest {slots : Nat} {free : Nat → Bool} (h : opcode w = 0x07) :
    (needM v slots free w).lat = 3 + beats (mtSrc v w).span.len := by simp [needM, h]

theorem lat_needM_netpeek {slots : Nat} {free : Nat → Bool} (h : opcode w = 0x09) : (needM v slots free w).lat = 4 := by
  simp [needM, h]

theorem exec_digest_issued (h : s.Issued p 3 0x07 b) :
    let w := b.slots.getD 3 0
    let a := mtSrc b.snap w
    exec (.digest p) s = .next ((s.launch p b 3 w (needM b.snap (s.ledgerCount (s.jobN p)) (fun _ => true) w)
      (s.foldOf (s.jobN p) a ((List.range a.count).flatMap (fun e => copyElem false (s.scratch p) a a e e)))).slotDone p 3) :=
  congrArg Host.Outcome.next (slotStep_issued h rfl)

theorem exec_netpeek_issued (h : s.Issued p 3 0x09 b) :
    let w := b.slots.getD 3 0
    let n := (s.nq (sf w 27 22)).length
    exec (.netpeek p) s = .next (((s.setVary p).launch p b 3 w (needM b.snap 0 (fun _ => true) w)
      [.greg (sf w 21 17) (BitVec.ofNat 64 ((32 - n) + n * 65536))]).slotDone p 3) :=
  congrArg Host.Outcome.next (slotStep_issued h rfl)

end Sys2Proof.Machine
end

/-! PROOFS. MBX: a bit copy to and from the cluster's mailbox, its lines through the mailbox's port (R200, R238). -/
section
namespace Sys2Proof.Machine

variable {s t u : State} {p : Nat} {n lat j vc : Nat} {b : Bundle} {v : VCore} {w : W64} {x : Needs} {eff : List Eff}
  {first : Flight → Option (Nat × Nat)}

@[simp] theorem State.core_countBank {q : Nat} : (s.countBank p n).core q = s.core q := by
  unfold State.countBank
  split <;> rfl

@[simp] theorem State.mem_countBank : (s.countBank p n).mem = s.mem := by
  unfold State.countBank
  split <;> rfl

@[simp] theorem State.mbx_countBank : (s.countBank p n).mbx = s.mbx := by
  unfold State.countBank
  split <;> rfl

/-! The mailbox's port. -/

/-- The MBX in flight of the other cores of core p's cluster, each with its core (R238). -/
def State.boxRivals (s : State) (p : Nat) : List (Nat × Flight) :=
  ((coresOf (clusterOf p)).filter (· != p)).flatMap (fun q =>
    ((s.core q).fly.filter (fun g => g.op == 0x06 && g.slot == 3 && (s.core p).now < g.due)).map (fun g => (q, g)))

theorem State.boxRivals_other {y : Nat × Flight} (h : y ∈ s.boxRivals p) : y.1 ≠ p := by
  obtain ⟨q, hq, hy⟩ := List.mem_flatMap.1 h
  obtain ⟨g, -, rfl⟩ := List.mem_map.1 hy
  simpa using (List.mem_filter.1 hq).2

/-- Without an MBX of another core in flight nothing contends. -/
theorem State.boxRivals_none (h : ∀ q ∈ coresOf (clusterOf p), q ≠ p → ∀ g ∈ (s.core q).fly, g.op ≠ 0x06) :
    s.boxRivals p = [] := by
  refine List.eq_nil_iff_forall_not_mem.2 fun y hy => ?_
  obtain ⟨q, hq, hy⟩ := List.mem_flatMap.1 hy
  obtain ⟨g, hg, -⟩ := List.mem_map.1 hy
  obtain ⟨hq, other⟩ := List.mem_filter.1 hq
  obtain ⟨hg, mbx⟩ := List.mem_filter.1 hg
  simp only [Bool.and_eq_true, beq_iff_eq] at mbx
  exact h q hq (by simpa using other) g hg mbx.1.1

/-- Flight f, if it is the MBX of bundle b, with the clk of its first line, moved by the lines that it loses. -/
def Flight.contended (b : Bundle) (first : Flight → Option (Nat × Nat)) (lost : Nat) (f : Flight) : Flight :=
  if f.bundle == b.num && f.slot == 3 then ({ f with box := first f } : Flight).move lost else f

/-- Core c with the MBX of bundle b contended. -/
def Core.contended (c : Core) (b : Bundle) (first : Flight → Option (Nat × Nat)) (lost : Nat) : Core :=
  { c with fly := c.fly.map (Flight.contended b first lost) }

/-- Contention for the mailbox moves the MBX of core p, by nothing where no other core's is in flight. -/
theorem State.contendBox_leaves : ∃ lost, (s.boxRivals p = [] → lost = 0) ∧
    (s.contendBox p b first).core p = (s.core p).contended b first lost ∧
    (s.contendBox p b first).mem = s.mem ∧ (s.contendBox p b first).mbx = s.mbx := by
  unfold State.contendBox
  extract_lets c mine vcOf key others me lost z
  refine ⟨lost, fun none => ?_, ?_⟩
  · change (List.map _ (List.filter _ others)).sum = 0
    rw [show others = [] from none]
    rfl
  · refine List.foldlRecOn
      (motive := fun t : State => t.core p = (s.core p).contended b first lost ∧ t.mem = s.mem ∧ t.mbx = s.mbx)
      _ _ ?_ fun t ht y hy => ?_
    · exact ⟨State.core_countBank.trans State.core_setCore_same, State.mem_countBank, State.mbx_countBank⟩
    · obtain ⟨core, mem, mbx⟩ := ht
      have other : y.1 ≠ p := State.boxRivals_other (List.mem_filter.1 hy).1
      refine ⟨?_, State.mem_countBank.trans mem, State.mbx_countBank.trans mbx⟩
      rw [State.core_countBank, State.core_setCore_ne other.symm, core]

/-- Where nothing contends, an MBX that has no clk at the mailbox stays as it is. -/
theorem Core.contended_none {c : Core} (h : ∀ f ∈ c.fly, f.bundle = b.num → f.slot = 3 → first f = f.box) :
    c.contended b first 0 = c := by
  have kept : c.fly.map (Flight.contended b first 0) = c.fly.map id := by
    refine List.map_congr_left fun f hf => ?_
    unfold Flight.contended
    split
    · next mine =>
      simp only [Bool.and_eq_true, beq_iff_eq] at mine
      rw [h f hf mine.1 mine.2, Flight.move_zero]
      rfl
    · rfl
  rw [Core.contended, kept, List.map_id]

/-- joins speaks of the core and the memories alone. -/
theorem joins_of_same (h : joins s (u.slotDone p n) p n b x lat eff) (core : t.core p = u.core p) (mem : t.mem = u.mem)
    (mbx : t.mbx = u.mbx) : joins s (t.slotDone p n) p n b x lat eff := by
  have done : (t.slotDone p n).core p = (u.slotDone p n).core p := by
    simp only [State.slotDone, State.core_setCore_same, core]
  obtain ⟨hl, launched, g, a, vs, hm, hb⟩ := h
  unfold joins Launched
  rw [done]
  exact ⟨hl, launched, g, a, vs, mem.trans hm, mbx.trans hb⟩

/-! The command. -/

/-- MBX of slot word w goes out to the mailbox. -/
abbrev mbxOut (w : W64) : Prop := sf w 43 43 = 1

/-- What the MBX of slot word w writes: elements read from the scratchpad, or from the mailbox as it reads it (R200). -/
def State.mbxWrites (s : State) (p : Nat) (v : VCore) (w : W64) : List Write :=
  let a := mtSrc v w
  (List.range a.count).flatMap (fun e => copyElem (decide (mbxOut w))
    (if mbxOut w then s.scratch p else s.mailboxView p ((s.core p).now + boxReadAt, a.span.addr)) a (mtDst v w) e e)

/-- Its effects, each line in its clk. -/
def State.mbxEffs (s : State) (p j : Nat) (v : VCore) (w : W64) : List Eff :=
  let a := mtSrc v w
  s.writeEffs j (mtDst v w) (fun e => 8 + e * cdiv a.span.len 64 / max 1 a.count) (s.mbxWrites p v w) ++
    collapseEff (s.mbxWrites p v w)

/-- The clk in which an MBX that goes out writes its first line of the mailbox, and that line. -/
def mbxBox (v : VCore) (w : W64) (f : Flight) : Option (Nat × Nat) :=
  if mbxOut w then some (f.due - (8 + cdiv (mtSrc v w).span.len 64) + boxWriteAt, (mtDst v w).span.addr) else none

/-- The MBX of bundle b launched on core p for job j. -/
def State.mbxFlies (s : State) (p j : Nat) (b : Bundle) : State :=
  let w := b.slots.getD 3 0
  s.launch p b 3 w (needMbx b.snap (s.ledgerCount j) w) (s.mbxEffs p j b.snap w)

theorem exec_mbx_issued {p : CoreId} (h : s.Issued p 3 0x06 b) (bound : (s.core p).bound = some (j, vc))
    (quiet : mbxOut (b.slots.getD 3 0) ∨ s.readMbx (clusterOf p) (mtSrc b.snap (b.slots.getD 3 0)) = s) :
    exec (.mbx p) s = .next (((s.mbxFlies p j b).contendBox p b (mbxBox b.snap (b.slots.getD 3 0))).slotDone p 3) := by
  have read : (if mbxOut (b.slots.getD 3 0) then s else s.readMbx (clusterOf p) (mtSrc b.snap (b.slots.getD 3 0))) = s := by
    split
    · rfl
    · next inward => exact quiet.resolve_left inward
  have step : exec (.mbx p) s = .next (s.slotStep p 3 _ _) := rfl
  rw [step, slotStep_issued h rfl]
  dsimp only
  rw [read, State.jobN_bound bound]
  rfl

/-- After a launch the instructions in flight are those before, moved, and the new one, moved. -/
theorem State.fly_launch_cases {f : Flight} (h : f ∈ ((s.launch p b n w x eff).core p).fly) :
    (∃ g ∈ (s.core p).fly, ∃ m, f = g.move m) ∨ ∃ k, f = ((s.core p).flightOf b n w x eff 0 false).move k := by
  by_cases quiet : x.rd = [] ∧ x.wr = []
  · rw [(CoreStep.start.launch quiet.1 quiet.2).1] at h
    rcases List.mem_append.1 h with old | new
    · exact .inl ⟨f, old, 0, Flight.move_zero.symm⟩
    · exact .inr ⟨0, by rw [List.mem_singleton.1 new, Flight.move_zero]⟩
  · rw [State.launch_core (Classical.not_and_iff_not_or_not.1 quiet)] at h
    rcases List.mem_append.1 h with old | new
    · obtain ⟨y, hy, rfl⟩ := List.mem_map.1 old
      exact .inl ⟨y.1, (List.of_mem_zip hy).1, y.2, rfl⟩
    · exact .inr ⟨_, List.mem_singleton.1 new⟩

/-- The MBX is in flight for its clk at least, and nothing is written yet. -/
theorem State.mbxFlies_contended : ∃ f ∈ (((s.mbxFlies p j b).contendBox p b first).core p).fly,
    f.slot = 3 ∧ f.bundle = b.num ∧ f.op = opcode (b.slots.getD 3 0) ∧
      (s.core p).now + 8 + cdiv (mtSrc b.snap (b.slots.getD 3 0)).span.len 64 ≤ f.due := by
  obtain ⟨k, flies⟩ := State.launch_mem (s := s) (p := p) (n := 3) (b := b) (w := b.slots.getD 3 0) (late := 0) (waiting := false)
    (x := needMbx b.snap (s.ledgerCount j) (b.slots.getD 3 0)) (eff := s.mbxEffs p j b.snap (b.slots.getD 3 0))
  obtain ⟨lost, -, core, -⟩ := State.contendBox_leaves (s := s.mbxFlies p j b) (p := p) (b := b) (first := first)
  rw [core]
  refine ⟨_, List.mem_map_of_mem flies, ?_⟩
  rw [Flight.contended, if_pos (by simp [Flight.move, Core.flightOf])]
  refine ⟨rfl, rfl, rfl, ?_⟩
  change _ ≤ (s.core p).now + (8 + cdiv _ 64) + 0 + k + lost
  omega

/-- An MBX that reads the mailbox, alone there, joins those in flight. -/
theorem joins_mbxFlies {p : CoreId} (ib : (s.core p).ib = some b) (inward : ¬ mbxOut (b.slots.getD 3 0))
    (alone : ∀ q ∈ coresOf (clusterOf p), q ≠ p → ∀ g ∈ (s.core q).fly, g.op ≠ 0x06)
    (own : ∀ g ∈ (s.core p).fly, g.bundle = b.num → g.slot ≠ 3) :
    joins s (((s.mbxFlies p j b).contendBox p b (mbxBox b.snap (b.slots.getD 3 0))).slotDone p 3) p 3 b
      (needMbx b.snap (s.ledgerCount j) (b.slots.getD 3 0)) (8 + cdiv (mtSrc b.snap (b.slots.getD 3 0)).span.len 64)
      (s.mbxEffs p j b.snap (b.slots.getD 3 0)) := by
  obtain ⟨lost, free, core, mem, mbx⟩ := State.contendBox_leaves (s := s.mbxFlies p j b) (p := p) (b := b)
    (first := mbxBox b.snap (b.slots.getD 3 0))
  obtain rfl := free (State.boxRivals_none fun q hq other g hg => alone q hq other g (by
    rwa [State.mbxFlies, State.launch_rest.1 q other] at hg))
  refine joins_of_same (joins_launch_of_same rfl rfl rfl ib rfl) (core.trans (Core.contended_none fun f hf mine slot => ?_)) mem mbx
  rw [mbxBox, if_neg inward]
  rcases State.fly_launch_cases hf with ⟨g, hg, m, rfl⟩ | ⟨k, rfl⟩
  · exact absurd slot (own g hg mine)
  · rfl

/-- An MBX out to the mailbox that nothing else is in flight beside. -/
theorem State.mbxFlies_alone {p : CoreId} (out : mbxOut (b.slots.getD 3 0)) (still : (s.core p).fly = [])
    (alone : ∀ q ∈ coresOf (clusterOf p), q ≠ p → (s.core q).fly = []) :
    let w := b.slots.getD 3 0
    let v := b.snap
    let y := needMbx v (s.ledgerCount j) w
    ∃ f, (((s.mbxFlies p j b).contendBox p b (mbxBox v w)).core p).fly = [f] ∧
      f.box = some (f.due - 8 - cdiv (mtSrc v w).span.len 64 + boxWriteAt, (mtDst v w).span.addr) ∧
      f.due = (s.core p).now + 8 + cdiv (mtSrc v w).span.len 64 + y.slip + b.late.getD 3 0 := by
  intro w v y
  obtain ⟨lost, free, core, -⟩ := State.contendBox_leaves (s := s.mbxFlies p j b) (p := p) (b := b) (first := mbxBox v w)
  obtain rfl := free (State.boxRivals_none fun q hq other g hg => by
    rw [State.mbxFlies, State.launch_rest.1 q other, alone q hq other] at hg
    exact absurd hg List.not_mem_nil)
  have reads : y.rd ≠ [] := by
    change (if mbxOut w then [(mtSrc v w).span] else []) ≠ []
    rw [if_pos out]
    exact List.cons_ne_nil _ _
  have fly : ((s.mbxFlies p j b).core p).fly =
      [((s.core p).flightOf b 3 w y (s.mbxEffs p j v w) 0 false).move (y.slip + b.late.getD 3 0)] := by
    rw [State.mbxFlies, State.launch_core (.inl reads), Core.slipOf, still]
    rfl
  refine ⟨_, (congrArg Core.fly core).trans (congrArg (List.map _) fly), ?_⟩
  rw [Flight.contended, if_pos (by simp [Flight.move, Core.flightOf]), mbxBox, if_pos out]
  refine ⟨?_, ?_⟩
  · rw [Nat.sub_sub]
    rfl
  · change (s.core p).now + (8 + cdiv (mtSrc v w).span.len 64) + 0 + (y.slip + b.late.getD 3 0) + 0 = _
    omega

/-- Settles O20: the copies by Issued.moves, MBX by what contention for the mailbox leaves, DIGEST and NETPEEK by their equations on
an issued bundle. -/
theorem copiesOfTheMSlot : Obligations.CopiesOfTheMSlot := by
  unfold Obligations.CopiesOfTheMSlot
  intro s p b j vc w c v a d r out ws n bound
  refine ⟨?_, fun h quiet => ?_, fun h => ?_, fun h => ?_⟩
  · simp only [List.forall_mem_cons, List.not_mem_nil, false_imp_iff, implies_true, and_true]
    exact ⟨fun h => h.moves rfl bound rfl, fun h => h.moves rfl bound rfl, fun h => h.moves rfl bound rfl⟩
  · have step := exec_mbx_issued h bound quiet
    refine ⟨?_, fun alone own inward => ⟨_, step, joins_mbxFlies h.ib inward alone own⟩, fun outward still alone => ?_⟩
    · obtain ⟨f, flies, slot, bundle, op, due⟩ := State.mbxFlies_contended (s := s) (p := p) (j := j) (b := b)
        (first := mbxBox v w)
      obtain ⟨-, -, -, mem, mbx⟩ := State.contendBox_leaves (s := s.mbxFlies p j b) (p := p) (b := b) (first := mbxBox v w)
      refine ⟨_, f, step, ?_, slot, bundle, op.trans h.opcode, due, mem.trans State.mem_launch, mbx.trans State.mbx_launch⟩
      rw [State.fly_slotDone]
      exact flies
    · obtain ⟨f, flies, box, due⟩ := State.mbxFlies_alone (j := j) outward still alone
      exact ⟨_, f, step, State.fly_slotDone.trans flies, box, due⟩
  · refine ⟨_, exec_digest_issued h, ?_⟩
    rw [State.jobN_bound bound]
    exact joins_launch_of_same rfl rfl rfl h.ib (lat_needM_digest h.opcode)
  · refine ⟨_, exec_netpeek_issued h, ?_, ?_⟩
    · rw [State.slotDone, State.job_setCore, State.job_launch, State.setVary_bound bound, State.job_setJob_same]
    · rw [State.setVary_bound bound]
      exact joins_launch_of_same rfl rfl rfl h.ib (lat_needM_netpeek h.opcode)

end Sys2Proof.Machine
end

/-! PROOFS. Errors that wait in the scratchpad (R235): a read that finds one counts it, so that a read which leaves the state finds none.
Beside the count itself nothing that follows, up to the fence of a core (R442) and the stop of a job (R435), changes the clock or
what containment has counted. -/
section
namespace Sys2Proof.Machine

variable {s : State} {p j : Nat}

/-- The clock and what containment has counted. -/
def State.tally (s : State) : Nat × Contain := (s.clk, s.contain)

theorem tally_foldl {α : Type} {f : State → α → State} {l : List α} (hf : ∀ t x, (f t x).tally = t.tally) :
    (l.foldl f s).tally = s.tally :=
  List.foldlRecOn (motive := fun t : State => t.tally = s.tally) l f rfl fun t ht x _ => (hf t x).trans ht

theorem tally_ite {t u : State} {x : Nat × Contain} {q : Prop} [Decidable q] (ht : t.tally = x) (hu : u.tally = x) :
    (if q then t else u).tally = x := by
  split
  · exact ht
  · exact hu

/-! The log, HBM and events. -/

/-- An entry of the log leaves the counts of corrected errors too. -/
theorem State.logWrite_counts {e : LogEntry} : (s.logWrite e).tally = s.tally ∧ (s.logWrite e).ceLog = s.ceLog := by
  unfold State.logWrite State.logPut
  dsimp only
  split
  · exact ⟨rfl, rfl⟩
  · split
    · exact ⟨rfl, rfl⟩
    · split <;> exact ⟨rfl, rfl⟩

theorem tally_report {type sev func : Nat} {job : Option Nat} {b : Body} : (s.report type sev func job b).tally = s.tally :=
  State.logWrite_counts.1

theorem tally_corrected {func memory : Nat} {job : Option Nat} : (s.corrected func memory job).tally = s.tally := by
  unfold State.corrected
  dsimp only
  split
  · exact State.logWrite_counts.1
  · rfl

theorem tally_readGranule {g : Nat} : (s.readGranule g).1.tally = s.tally := by
  unfold State.readGranule
  split
  · rfl
  · dsimp only
    split
    · rfl
    · exact tally_corrected
    · split <;> exact tally_report

theorem tally_sealGranule {g : Nat} {poison : Bool} : (s.sealGranule g poison).tally = s.tally := by
  unfold State.sealGranule
  dsimp only
  split
  · rfl
  · split <;> rfl

theorem tally_writeGranule {a : Nat} {bs : List Byte} {poison : Bool} : (s.writeGranule a bs poison).tally = s.tally := by
  unfold State.writeGranule
  dsimp only
  split
  · exact tally_sealGranule.trans tally_readGranule
  · exact tally_sealGranule

theorem tally_writeHbm {a : Nat} {bs : List Byte} : (s.writeHbm a bs).tally = s.tally := tally_foldl fun _ _ => tally_writeGranule

theorem tally_putIndex {o : Nat} {v : W32} : (s.putIndex o v).tally = s.tally := tally_writeHbm

theorem tally_drainEvents {n : Nat} : (s.drainEvents n).tally = s.tally := by
  induction n generalizing s with
  | zero => rfl
  | succ n ih =>
    unfold State.drainEvents
    split
    · rfl
    · extract_lets k a written popped
      have kept : written.tally = s.tally := tally_writeHbm
      clear_value written
      exact tally_ite rfl (ih.trans (tally_putIndex.trans kept))

theorem tally_event {type func : Nat} {job : Option Nat} {detail : List Byte} : (s.event type func job detail).tally = s.tally := by
  unfold State.event
  split
  · exact tally_drainEvents
  · rfl

/-! The stop of a job. -/

theorem tally_complete {pair op status seq : Nat} {id : W64} {result : List Byte} :
    (s.complete pair op status seq id result).tally = s.tally := by
  unfold State.complete
  extract_lets k e written
  have kept : written.tally = s.tally := tally_writeHbm
  clear_value written
  exact tally_ite rfl (tally_putIndex.trans kept)

theorem tally_finish {pair op status seq : Nat} {id : W64} {result : List Byte} :
    (s.finish pair op status seq id result).tally = s.tally := tally_ite tally_complete rfl

theorem tally_settleStrand {x : PendStrand} : (s.settleStrand x).tally = s.tally := tally_ite tally_finish rfl

theorem tally_applyCheck {i : Nat} : (s.applyCheck j i).tally = s.tally := by
  unfold State.applyCheck
  extract_lets c checked
  have kept : checked.tally = s.tally := tally_ite rfl rfl
  exact kept

theorem tally_applyStaged {i : Nat} : (s.applyStaged j i).tally = s.tally := by
  unfold State.applyStaged
  extract_lets checked
  have kept : checked.tally = s.tally := tally_applyCheck
  clear_value checked
  split
  · exact kept
  · exact tally_settleStrand.trans kept

theorem tally_applyStrands {n : Nat} : (s.applyStrands j n).tally = s.tally := by
  unfold State.applyStrands
  exact tally_foldl fun _ _ => tally_applyStaged

theorem tally_quietJob : (s.quietJob j).tally = s.tally := by
  unfold State.quietJob
  extract_lets cores clusters
  have cores_kept : cores.tally = s.tally := tally_foldl fun _ _ => rfl
  have clusters_kept : clusters.tally = cores.tally := tally_foldl fun _ _ => rfl
  clear_value clusters
  exact Eq.trans (tally_foldl fun _ _ => tally_ite rfl rfl) (clusters_kept.trans cores_kept)

theorem tally_stopJob {cause func : Nat} : (s.stopJob j cause func).tally = s.tally := by
  unfold State.stopJob
  extract_lets quiet job spanned marked told
  have quiet_kept : quiet.tally = s.tally := tally_quietJob
  clear_value quiet
  have told_kept : told.tally = s.tally := tally_event.trans quiet_kept
  exact tally_ite rfl (tally_applyStrands.trans told_kept)

theorem tally_bindStop {code sidx : Nat} : (s.bindStop j code sidx).tally = s.tally := by
  have recorded : (s.recordBind j code sidx).tally = s.tally := by
    unfold State.recordBind
    dsimp only
    split <;> rfl
  exact tally_stopJob.trans (tally_report.trans recorded)

/-! The fence of a core. -/

theorem tally_fenceNote {kind idx func reason addr here : Nat} {job : Option Nat} :
    (s.fenceNote kind idx func job reason addr here).tally = s.tally := tally_event.trans tally_report

theorem tally_fenceCluster {c reason : Nat} : (s.fenceCluster c reason).tally = s.tally := by
  unfold State.fenceCluster
  dsimp only
  split
  · rfl
  · split
    · exact tally_fenceNote
    · split
      · exact tally_bindStop.trans tally_fenceNote
      · exact tally_fenceNote

theorem tally_fenceCore {reason : Nat} : (s.fenceCore p reason).tally = s.tally := by
  unfold State.fenceCore
  extract_lets r k c marked fenced counted noted
  have kept : noted.tally = s.tally := tally_fenceNote.trans (tally_ite rfl rfl)
  exact tally_ite rfl (tally_ite (tally_fenceCluster.trans kept) kept)

end Sys2Proof.Machine
end

/-! PROOFS. A read that leaves the state finds no waiting error (R235): each error found is counted. -/
section
namespace Sys2Proof.Machine

variable {s u : State} {p : Nat} {e : Nat × Nat} {read : Nat → Bool}

/-- The error e waiting in the scratchpad of core p is found: corrected and counted, or its word poisoned, counted and reported. -/
def State.findError (s : State) (p : Nat) (e : Nat × Nat) : State :=
  let s := s.clearUpset e.1
  let k := rg (fnCore p) 0x0E0
  if e.2 = 1 then (s.bump k 63 32 1).corrected (fnCore p) 1 (s.jobOfCore p)
  else
    (({ s with poison := markBytes s.poison e.1 8 true }.bump k 31 0 1).uncorrected (fnCore p) 1 (s.jobOfCore p)
      ((e.1 - window p) / 8 % 32) (e.1 - window p)).countUe p

/-- The errors waiting in the words of core p that are read. -/
def State.hits (s : State) (p : Nat) (read : Nat → Bool) : List (Nat × Nat) :=
  s.upset.filter (fun e => window p ≤ e.1 && e.1 < window p + 0x200000 && read (e.1 - window p))

theorem State.findPad_eq : s.findPad p read = (s.hits p read).foldl (fun s e => s.findError p e) s := rfl

/-- Entry f of the log of corrected errors: how many since the last entry, and the clk + 1 of that one. -/
def State.ceCount (s : State) (f : Nat) : Nat × Nat := tget (fun _ => (0, 0)) s.ceLog f

/-- How many uncorrectable errors of core p have been counted in the present clk. -/
def State.ueNow (s : State) (p : Nat) : Nat := (tget noTimes s.tally.2.ueTimes p).count s.tally.1

/-- From s to t errors of core p have been found: more uncorrectable ones are counted, or a corrected one is logged later than the last,
or more have been corrected since that one. -/
def FoundMore (p : Nat) (s t : State) : Prop :=
  let f := 16 * fnCore p + 1
  s.ueNow p < t.ueNow p ∨ s.ueNow p = t.ueNow p ∧
    ((s.ceCount f).2 < (t.ceCount f).2 ∨ (s.ceCount f).2 = (t.ceCount f).2 ∧ (s.ceCount f).1 < (t.ceCount f).1)

theorem FoundMore.trans {t : State} (h : FoundMore p s t) (g : FoundMore p t u) : FoundMore p s u := by
  unfold FoundMore at *
  omega

theorem FoundMore.irrefl (h : FoundMore p s s) : False := by
  unfold FoundMore at h
  omega

theorem State.ceCount_corrected {func memory : Nat} {job : Option Nat} :
    let k := 16 * func + memory
    let c := s.ceCount k
    (s.corrected func memory job).ceCount k =
      if c.2 = 0 ∨ c.2 - 1 + 1000000000 ≤ s.clk then (0, s.clk + 1) else (c.1 + 1, c.2) := by
  intro k c
  unfold State.corrected
  dsimp only
  split
  · next due =>
    refine Eq.trans ?_ (if_pos due).symm
    rw [State.ceCount, State.note, State.logWrite_counts.2]
    exact tget_tput_same
  · next recent =>
    exact tget_tput_same.trans (if_neg recent).symm

/-- A corrected error makes an entry, later than the last, or raises the count since. -/
theorem FoundMore.corrected {job : Option Nat} : FoundMore p s (s.corrected (fnCore p) 1 job) := by
  have kept : (s.corrected (fnCore p) 1 job).ueNow p = s.ueNow p := by
    rw [State.ueNow, tally_corrected, State.ueNow]
  refine .inr ⟨kept.symm, ?_⟩
  rw [State.ceCount_corrected]
  split
  · next due => exact .inl (by dsimp only; omega)
  · exact .inr ⟨rfl, Nat.lt_succ_self _⟩

/-- An uncorrectable error is counted in its clk. -/
theorem State.ueNow_countUe : s.ueNow p < (s.countUe p).ueNow p := by
  unfold State.countUe State.ueNow
  extract_lets now times before counted
  have kept : (if times.length < 4 then counted else counted.fenceCore p 0x30).tally = counted.tally := tally_ite rfl tally_fenceCore
  have there : tget noTimes counted.tally.2.ueTimes p = times := tget_tput_same
  rw [kept, there]
  change List.count now _ < List.count now (_ ++ [now])
  have recent (l : List Nat) : (l.filter (fun t => now < t + 86400000000000)).count now = l.count now :=
    List.count_filter (decide_eq_true (Nat.lt_add_of_pos_right (Nat.succ_pos _)))
  rw [List.count_append, recent, List.count_singleton_self]
  exact Nat.lt_succ_self _

theorem FoundMore.findError : FoundMore p s (s.findError p e) := by
  unfold State.findError
  extract_lets u k
  split
  · exact FoundMore.corrected (s := u.bump k 63 32 1)
  · refine .inl (Nat.lt_of_le_of_lt (Nat.le_of_eq ?_) State.ueNow_countUe)
    rw [State.uncorrected, State.ueNow, State.ueNow, tally_report]
    rfl

/-- A list of errors found, one at least. -/
theorem FoundMore.foldl {l : List (Nat × Nat)} : FoundMore p s (l.foldl (fun s e => s.findError p e) (s.findError p e)) :=
  List.foldlRecOn (motive := FoundMore p s) l _ FoundMore.findError fun _ ht _ _ => ht.trans FoundMore.findError

/-- A read that leaves the state finds no error. -/
theorem State.hits_of_findPad (h : s.findPad p read = s) : s.hits p read = [] := by
  rw [State.findPad_eq] at h
  cases found : s.hits p read with
  | nil => rfl
  | cons e l =>
    rw [found, List.foldl_cons] at h
    have more : FoundMore p s (l.foldl (fun s e => s.findError p e) (s.findError p e)) := FoundMore.foldl
    rw [h] at more
    exact more.irrefl.elim

/-- Which errors wait is all that a read without an error depends on. -/
theorem State.readElems_quiet {t : Td} {n : Nat} {ix : Nat → Nat} (h : s.readElems p t n ix = s) (upset : u.upset = s.upset) :
    u.readElems p t n ix = u := by
  have none := State.hits_of_findPad h
  rw [State.hits, ← upset] at none
  rw [State.readElems, State.findPad_eq, State.hits, none]
  rfl

end Sys2Proof.Machine
end

/-! PROOFS. Scatter-adds: SADD.ORD and SADD.ANY (R204, R205, R218). -/
section
namespace Sys2Proof.Machine

variable {s u : State} {p : Nat} {j vc lat per : Nat} {b : Bundle} {v : VCore} {w : W64} {order : List Nat}

/-- Indices as the scatter-add of slot word w reads them. -/
def saddIx (src : View) (v : VCore) (w : W64) : List Elem :=
  (List.range (saddS v w).count).map (fun k => src.elem (saddI v w) k)

/-- An index lies outside the destination (R204). -/
def saddWide (v : VCore) (w : W64) (ix : List Elem) : Bool :=
  ix.any (fun y => sext y.code 32 < 0 || ((saddD v w).count : Int) ≤ sext y.code 32)

/-- The destination elements that indices name. -/
def saddHit (ix : List Elem) : List Nat := (ix.map (·.code)).foldl (fun l c => sins c l) []

/-- The sources of destination element e, in an order of all. -/
def saddTo (ix : List Elem) (order : List Nat) (e : Nat) : List Nat :=
  order.filter (fun k => (ix.getD k ⟨0, false, 0⟩).code == e)

/-- What a scatter-add makes of each destination element that its indices name, its sources added in an order: the element, how many
sources, and its code (R204, R205). -/
def saddResults (src : View) (v : VCore) (w : W64) (ix : List Elem) (order : List Nat) : List (Nat × Nat × Fl (Nat × Bool)) :=
  (saddHit ix).map (fun e =>
    (e, (saddTo ix order e).length, scatterElem src v (saddS v w) (saddD v w) w e (saddTo ix order e)))

/-- The effects of a scatter-add with given results, its elements written in the clk before its completion. -/
def State.saddEffs (s : State) (j lat : Nat) (v : VCore) (w : W64) (rs : List (Nat × Nat × Fl (Nat × Bool))) : List Eff :=
  let d := saddD v w
  let many : Nat := rs.foldl (fun n r => n + (r.2.1 - 1)) 0
  s.writeEffs j d (fun _ => lat - 1) (rs.map (fun (e, _, r) => elemWrite false d e r.val.1 127 r.val.2)) ++
    flagEff (rs.foldl (fun f r => f ||| r.2.2.flags) 0) ++ (if many = 0 then [] else [.count 0x0B0 47 0 many])

/-- Destination element e with its sources added in an order. -/
def saddAt (src : View) (v : VCore) (w : W64) (ix : List Elem) (order : List Nat) (e : Nat) : Fl (Nat × Bool) :=
  scatterElem src v (saddS v w) (saddD v w) w e (saddTo ix order e)

/-- The effects, element by element, with the collisions. -/
theorem State.saddEffs_results {src : View} {ix : List Elem} :
    let d := saddD v w
    let at_ := saddAt src v w ix order
    let many : Nat := (saddHit ix).foldl (fun n e => n + ((saddTo ix order e).length - 1)) 0
    s.saddEffs j lat v w (saddResults src v w ix order) =
      s.writeEffs j d (fun _ => lat - 1) ((saddHit ix).map (fun e => elemWrite false d e (at_ e).val.1 127 (at_ e).val.2)) ++
        flagEff ((saddHit ix).foldl (fun f e => f ||| (at_ e).flags) 0) ++
        (if many = 0 then [] else [.count 0x0B0 47 0 many]) := by
  unfold State.saddEffs saddResults
  simp only [List.map_map, List.foldl_map]
  rfl

/-- A poisoned index poisons the whole destination (R205). -/
def saddDark (v : VCore) (w : W64) : List Write :=
  (List.range (saddD v w).count).map (fun e => elemWrite false (saddD v w) e 0 127 true)

theorem State.scatter_dark (path : s.pathM p b.snap w = .direct) (bound : (s.core p).bound = some (j, vc))
    (dark : (saddIx (s.scratch p) b.snap w).any (·.poison) = true) (hl : (needSadd b.snap (s.ledgerCount j) w).lat = lat) :
    s.scatter p b w order = s.launch p b 3 w (needSadd b.snap (s.ledgerCount j) w)
      (s.writeEffs j (saddD b.snap w) (fun _ => lat - 1) (saddDark b.snap w) ++ flagEff flPOISON) := by
  subst hl
  unfold State.scatter
  dsimp only
  rw [path, State.jobN_bound bound]
  exact if_pos dark

theorem State.scatter_wide (path : s.pathM p b.snap w = .direct) (bound : (s.core p).bound = some (j, vc))
    (bright : (saddIx (s.scratch p) b.snap w).any (·.poison) = false)
    (wide : saddWide b.snap w (saddIx (s.scratch p) b.snap w) = true) (hp : (if opcode w = 0x0A then 16 else 64) = per) :
    s.scatter p b w order = s.launch p b 3 w
      { needSadd b.snap (s.ledgerCount j) w with lat := 2 + cdiv (saddS b.snap w).count per } [.badIndex] := by
  subst hp
  unfold State.scatter
  dsimp only
  rw [path, State.jobN_bound bound]
  exact (if_neg (Bool.eq_false_iff.1 bright)).trans (if_pos wide)

theorem State.scatter_adds (path : s.pathM p b.snap w = .direct) (bound : (s.core p).bound = some (j, vc))
    (bright : (saddIx (s.scratch p) b.snap w).any (·.poison) = false)
    (narrow : saddWide b.snap w (saddIx (s.scratch p) b.snap w) = false)
    (quiet : ∀ n i, s.readElems p (saddD b.snap w) n i = s) (hl : (needSadd b.snap (s.ledgerCount j) w).lat = lat) :
    s.scatter p b w order = s.launch p b 3 w (needSadd b.snap (s.ledgerCount j) w)
      (s.saddEffs j lat b.snap w (saddResults (s.scratch p) b.snap w (saddIx (s.scratch p) b.snap w) order)) := by
  subst hl
  have same : s.poison.filter (fun a => !s.poison.contains a) = [] :=
    List.filter_eq_nil_iff.2 fun a ha => by simpa using ha
  let hit := saddHit (saddIx (s.scratch p) b.snap w)
  have adds : s.scatter p b w order =
      let u := s.readElems p (saddD b.snap w) hit.length (fun k => hit.getD k 0)
      u.launch p b 3 w (needSadd b.snap (s.ledgerCount j) w) (u.saddEffs j (needSadd b.snap (s.ledgerCount j) w).lat b.snap w
        (saddResults { s.scratch p with poison := s.poison ++ u.poison.filter (fun a => !s.poison.contains a) } b.snap w
          (saddIx (s.scratch p) b.snap w) order)) := by
    unfold State.scatter
    dsimp only
    rw [path, State.jobN_bound bound]
    exact (if_neg (Bool.eq_false_iff.1 bright)).trans (if_neg (Bool.eq_false_iff.1 narrow))
  rw [adds, quiet]
  dsimp only
  rw [same, List.append_nil]
  rfl

theorem two_le_lat_needSadd {slots : Nat} : 2 ≤ (needSadd v slots w).lat := by
  change 2 ≤ (if opcode w = 0x0A then 12 else 8) + _
  split <;> omega

/-- With an overlap to resolve every scatter-add takes the path of its copy, for at least 2 clk. -/
theorem State.scatter_overlap : ∃ (u : State) (x : Needs) (eff : List Eff), 2 ≤ x.lat ∧
    s.scatter p b w order = u.launchPath p b w x (s.pathM p b.snap w) eff := by
  unfold State.scatter
  dsimp only
  split
  · exact ⟨_, _, _, two_le_lat_needSadd, rfl⟩
  · split
    · exact ⟨_, _, _, Nat.le_add_right _ _, rfl⟩
    · exact ⟨_, _, _, two_le_lat_needSadd, rfl⟩

/-! The open order (R205). -/

/-- A place among keys moves nothing else. -/
theorem perm_insertByKey {x : Nat × Nat} {l : List (Nat × Nat)} :
    (l.takeWhile (fun y => y.1 < x.1) ++ x :: l.dropWhile (fun y => y.1 < x.1)).Perm (x :: l) := by
  have whole : l.takeWhile (fun y => decide (y.1 < x.1)) ++ l.dropWhile (fun y => decide (y.1 < x.1)) = l :=
    List.takeWhile_append_dropWhile
  have moved := List.perm_middle (a := x) (l₁ := l.takeWhile (fun y => decide (y.1 < x.1)))
    (l₂ := l.dropWhile (fun y => decide (y.1 < x.1)))
  rwa [whole] at moved

theorem drawOrder_perm {n : Nat} : (drawOrder s n).Perm (List.range n) := by
  unfold drawOrder
  extract_lets put
  have sorted (l : List Nat) :
      ((l.foldr (fun i l => put ((Config.freeValue (s.free + i)).toNat, i) l) []).map (·.2)).Perm l := by
    induction l with
    | nil => exact List.Perm.nil
    | cons i l ih => exact (perm_insertByKey.map _).trans (ih.cons i)
  exact sorted _

/-! The commands. -/

/-- State s with draws made and jobs marked as varying. -/
def State.varied (s : State) (free : Nat) (jobs : Tab Job) : State := { s with free := free, jobs := jobs }

section
variable {f : Nat} {J : Tab Job} (ib : (s.core p).ib = some b) (word : b.slots.getD 3 0 = w)
  (path : s.pathM p b.snap w = .direct) (bound : (s.core p).bound = some (j, vc))
include ib word path bound

theorem joins_scatter_dark (dark : (saddIx (s.scratch p) b.snap w).any (·.poison) = true)
    (hl : (needSadd b.snap (s.ledgerCount j) w).lat = lat) :
    joins s (((s.varied f J).scatter p b w order).slotDone p 3) p 3 b (needSadd b.snap (s.ledgerCount j) w) lat
      (s.writeEffs j (saddD b.snap w) (fun _ => lat - 1) (saddDark b.snap w) ++ flagEff flPOISON) := by
  subst word
  rw [State.scatter_dark (s := s.varied f J) path bound dark hl]
  exact joins_launch_of_same rfl rfl rfl ib hl

theorem joins_scatter_wide (bright : (saddIx (s.scratch p) b.snap w).any (·.poison) = false)
    (wide : saddWide b.snap w (saddIx (s.scratch p) b.snap w) = true)
    (hp : (if opcode w = 0x0A then 16 else 64) = per) :
    joins s (((s.varied f J).scatter p b w order).slotDone p 3) p 3 b
      { needSadd b.snap (s.ledgerCount j) w with lat := 2 + cdiv (saddS b.snap w).count per }
      (2 + cdiv (saddS b.snap w).count per) [.badIndex] := by
  subst word
  rw [State.scatter_wide (s := s.varied f J) path bound bright wide hp]
  exact joins_launch_of_same rfl rfl rfl ib rfl

/-- A scatter-add that adds joins those in flight, and leaves the jobs as they are marked. -/
theorem joins_scatter_adds (bright : (saddIx (s.scratch p) b.snap w).any (·.poison) = false)
    (narrow : saddWide b.snap w (saddIx (s.scratch p) b.snap w) = false)
    (quiet : ∀ n i, s.readElems p (saddD b.snap w) n i = s)
    (hl : (needSadd b.snap (s.ledgerCount j) w).lat = lat) :
    let t := ((s.varied f J).scatter p b w order).slotDone p 3
    joins s t p 3 b (needSadd b.snap (s.ledgerCount j) w) lat
      (s.saddEffs j lat b.snap w (saddResults (s.scratch p) b.snap w (saddIx (s.scratch p) b.snap w) order)) ∧
      t.job j = (s.varied f J).job j := by
  subst word
  intro t
  have adds := State.scatter_adds (s := s.varied f J) (order := order) path bound bright narrow
    (fun n i => State.readElems_quiet (quiet n i) rfl) hl
  refine ⟨?_, ?_⟩
  · simp only [t, adds]
    exact joins_launch_of_same rfl rfl rfl ib hl
  · simp only [t, adds]
    exact State.job_launch

end

theorem exec_saddOrd_issued {p : CoreId} (h : s.Issued p 3 0x0A b) :
    let w := b.slots.getD 3 0
    exec (.saddOrd p) s =
      .next (((s.varied s.free s.jobs).scatter p b w (List.range (saddS b.snap w).count)).slotDone p 3) :=
  congrArg Host.Outcome.next (slotStep_issued h rfl)

theorem exec_saddAny_issued {p : CoreId} (h : s.Issued p 3 0x0B b) (bound : (s.core p).bound = some (j, vc)) :
    let w := b.slots.getD 3 0
    let n := (saddS b.snap w).count
    exec (.saddAny p) s = .next (((s.varied (s.free + n) (s.setJob j { s.job j with vary := true }).jobs).scatter p b w
      (drawOrder s n)).slotDone p 3) := by
  intro w n
  have step : exec (.saddAny p) s = .next (s.slotStep p 3 _ _) := rfl
  rw [step, slotStep_issued h rfl]
  dsimp only
  rw [State.setVary_bound (s := { s with free := s.free + n }) bound]
  rfl

theorem lat_needSadd_ord {slots : Nat} (h : opcode w = 0x0A) :
    (needSadd v slots w).lat = 12 + cdiv (saddS v w).count 16 := by simp [needSadd, h]

theorem lat_needSadd_any {slots : Nat} (h : opcode w = 0x0B) :
    (needSadd v slots w).lat = 8 + cdiv (saddS v w).count 64 := by simp [needSadd, h]

/-- Settles O21: with no overlap by joins_scatter_adds, joins_scatter_dark and joins_scatter_wide, SADD.ANY in the order drawn; with one by
staged_launchPath. -/
theorem scatterAddsInTheirOrder : Obligations.ScatterAddsInTheirOrder := by
  unfold Obligations.ScatterAddsInTheirOrder
  intro s p b j vc w v a d src x ix to_ at_ hit wr fl many adds dark wide bound
  have waits {u : State} {order : List Nat} (overlap : s.pathM p v w ≠ .direct) (same : u.pathM p v w = s.pathM p v w) :
      staged ((u.scatter p b w order).slotDone p 3) p b { x with lat := 2 } (s.pathM p v w) := by
    obtain ⟨t, y, eff, lat, moved⟩ := State.scatter_overlap (s := u) (p := p) (b := b) (w := w) (order := order)
    rw [moved, same]
    exact staged_launchPath overlap lat
  refine ⟨fun path => ⟨fun bright narrow quiet => ⟨fun h => ?_, fun h => ?_⟩, ?_⟩, fun overlap => ⟨fun h => ?_, fun h => ?_⟩⟩
  · have added := (joins_scatter_adds (f := s.free) (J := s.jobs) (order := List.range a.count) h.ib rfl path bound bright narrow quiet
      (lat_needSadd_ord h.opcode)).1
    rw [State.saddEffs_results] at added
    exact ⟨_, exec_saddOrd_issued h, added⟩
  · obtain ⟨added, job⟩ := joins_scatter_adds (f := s.free + a.count) (J := (s.setJob j { s.job j with vary := true }).jobs)
      (order := drawOrder s a.count) h.ib rfl path bound bright narrow quiet (lat_needSadd_any h.opcode)
    rw [State.saddEffs_results] at added
    exact ⟨_, _, exec_saddAny_issued h bound, drawOrder_perm,
      (congrArg Job.vary job).trans (congrArg Job.vary State.job_setJob_same), added⟩
  · simp only [List.forall_mem_cons, List.not_mem_nil, false_imp_iff, implies_true, and_true]
    refine ⟨fun h => ⟨fun poisoned => ?_, fun bright out => ?_⟩, fun h => ⟨fun poisoned => ?_, fun bright out => ?_⟩⟩
    · exact ⟨_, exec_saddOrd_issued h, joins_scatter_dark h.ib rfl path bound poisoned (lat_needSadd_ord h.opcode)⟩
    · exact ⟨_, exec_saddOrd_issued h, joins_scatter_wide h.ib rfl path bound bright out (if_pos h.opcode)⟩
    · exact ⟨_, exec_saddAny_issued h bound, joins_scatter_dark h.ib rfl path bound poisoned (lat_needSadd_any h.opcode)⟩
    · exact ⟨_, exec_saddAny_issued h bound, joins_scatter_wide h.ib rfl path bound bright out (if_neg (by rw [h.opcode]; decide))⟩
  · exact ⟨_, exec_saddOrd_issued h, waits overlap rfl⟩
  · exact ⟨_, exec_saddAny_issued h bound, waits overlap rfl⟩

end Sys2Proof.Machine
end

/-! PROOFS. The staging buffer: STAGING_GRANT, and the completion that frees it (R223). -/
section
namespace Sys2Proof.Machine

variable {s : State} {r : StageReq} {l : List StageReq}

/-- Request r waits a clk, which its core counts in STAGEWAIT (R223, Table 7.7). -/
def State.stageWait (s : State) (r : StageReq) : State :=
  (s.setCore r.core (r.delay (s.core r.core))).bump (rg (fnCore r.core) 0x0C8) 47 0 1

/-- The staging buffer of cluster c goes to request r, and rest remains waiting. -/
def State.stageTo (s : State) (c : Nat) (r : StageReq) (rest : List StageReq) : State :=
  (s.setCluster c { s.cluster c with stage := some r, stageQ := rest }).setCore r.core (r.grant (s.core r.core))

/-! STAGING_GRANT, an equation for each of its cases. -/

section
variable {c : ClusterId}

theorem exec_stagingGrant_idle (h : (s.cluster c).hold ≠ [] ∨ (s.cluster c).asleep = true) :
    exec (.stagingGrant c) s = .next s := if_pos (by simpa using h)

variable (unheld : (s.cluster c).hold = []) (awake : (s.cluster c).asleep = false)
include unheld awake

theorem exec_stagingGrant_free {rest : List StageReq} (free : (s.cluster c).stage = none)
    (queue : (s.cluster c).stageQ = r :: rest) :
    exec (.stagingGrant c) s = .next (rest.foldl State.stageWait (s.stageTo c r rest)) := by
  change execStagingGrant c s = _
  unfold execStagingGrant
  dsimp only
  rw [if_neg (by simp [unheld, awake]), free, queue]
  rfl

theorem exec_stagingGrant_taken (taken : (s.cluster c).stage = some r) :
    exec (.stagingGrant c) s = .next ((s.cluster c).stageQ.foldl State.stageWait s) := by
  change execStagingGrant c s = _
  unfold execStagingGrant
  dsimp only
  rw [if_neg (by simp [unheld, awake]), taken]
  rfl

end

/-! A clk of waiting. -/

@[simp] theorem State.core_stageWait_same : (s.stageWait r).core r.core = r.delay (s.core r.core) := tget_tput_same

theorem State.core_stageWait_ne {q : Nat} (h : q ≠ r.core) : (s.stageWait r).core q = s.core q := tget_tput_ne h

theorem State.rd_stageWait_ne {i : Nat} (h : i ≠ rg (fnCore r.core) 0x0C8) : (s.stageWait r).rd i = s.rd i :=
  State.rd_setFld_ne h

/-- STAGEWAIT counts one clk. -/
theorem State.rd_stageWait_same :
    (s.stageWait r).rd (rg (fnCore r.core) 0x0C8) =
      (s.bump (rg (fnCore r.core) 0x0C8) 47 0 1).rd (rg (fnCore r.core) 0x0C8) :=
  State.rd_wr_same.trans State.rd_wr_same.symm

/-- Each flight of the delayed core stays as it is or moves one clk. -/
theorem StageReq.mem_delay {c : Core} {f : Flight} (h : f ∈ (r.delay c).fly) : ∃ g ∈ c.fly, f = g ∨ f = g.move 1 := by
  obtain ⟨g, hg, rfl⟩ := List.mem_map.1 h
  refine ⟨g, hg, ?_⟩
  split
  · exact .inr rfl
  · exact .inl rfl

/-- The instruction that waits moves one clk. -/
theorem StageReq.move_mem_delay {c : Core} {f : Flight} (h : f ∈ c.fly) (bundle : f.bundle = r.bundle) (slot : f.slot = r.slot) :
    f.move 1 ∈ (r.delay c).fly :=
  List.mem_map.2 ⟨f, h, if_pos (by simp [bundle, slot])⟩

/-! The clk of all that wait: only cores and registers change. -/

theorem State.stageWaits_frame :
    l.foldl State.stageWait s =
      { s with cores := (l.foldl State.stageWait s).cores, csr := (l.foldl State.stageWait s).csr } :=
  List.foldlRecOn (motive := fun t : State => t = { s with cores := t.cores, csr := t.csr }) l _ rfl fun t ht r _ => by
    rw [ht]
    rfl

theorem State.cluster_stageWaits {c : Nat} : (l.foldl State.stageWait s).cluster c = s.cluster c := by
  rw [State.stageWaits_frame]
  rfl

/-- A core that none of them issued on stays as it is. -/
theorem State.core_stageWaits_ne {q : Nat} (h : ∀ y ∈ l, y.core ≠ q) : (l.foldl State.stageWait s).core q = s.core q :=
  List.foldlRecOn (motive := fun t : State => t.core q = s.core q) l _ rfl fun _ ht y hy =>
    (State.core_stageWait_ne (h y hy).symm).trans ht

/-! The instruction that gets the buffer. -/

theorem State.cluster_stageTo {c : Nat} :
    (s.stageTo c r l).cluster c = { s.cluster c with stage := some r, stageQ := l } := State.cluster_setCluster_same

theorem State.core_stageTo_ne {c q : Nat} (h : q ≠ r.core) : (s.stageTo c r l).core q = s.core q := State.core_setCore_ne h

/-- The instruction of request r waits no longer on its core. -/
def State.served (s : State) (r : StageReq) : Prop :=
  ∀ f ∈ (s.core r.core).fly, f.bundle = r.bundle → f.slot = r.slot → f.waiting = false

theorem State.served_stageTo {c : Nat} : (s.stageTo c r l).served r := by
  intro f hf bundle slot
  rw [State.stageTo, State.core_setCore_same] at hf
  obtain ⟨g, -, rfl⟩ := List.mem_map.1 hf
  by_cases mine : g.bundle = r.bundle ∧ g.slot = r.slot
  · rw [if_pos mine]
  · rw [if_neg mine] at bundle slot
    exact absurd ⟨bundle, slot⟩ mine

/-- Another request's clk of waiting, on the same core or another, lets it run. -/
theorem State.served.stageWait {y : StageReq} (h : s.served r) : (s.stageWait y).served r := by
  intro f hf bundle slot
  by_cases same : r.core = y.core
  · rw [same, State.core_stageWait_same, ← same] at hf
    obtain ⟨g, hg, rfl | rfl⟩ := StageReq.mem_delay hf
    · exact h f hg bundle slot
    · exact h g hg bundle slot
  · rw [State.core_stageWait_ne same] at hf
    exact h f hf bundle slot

theorem State.served.stageWaits (h : s.served r) : (l.foldl State.stageWait s).served r :=
  List.foldlRecOn (motive := fun t : State => t.served r) l _ h fun _ ht _ _ => ht.stageWait

/-! The completion of the instruction that has the buffer. -/

theorem State.freeStage_holder {p : Nat} {f : Flight} (holds : (s.cluster (clusterOf p)).stage = some r) (core : r.core = p)
    (bundle : r.bundle = f.bundle) (slot : r.slot = f.slot) :
    s.freeStage p f = s.setCluster (clusterOf p) { s.cluster (clusterOf p) with stage := none } := by
  unfold State.freeStage
  dsimp only
  rw [holds]
  exact if_pos ⟨core, bundle, slot⟩

/-- Settles O26: the grant by served_stageTo, which the waiting of the others keeps; a clk of waiting by the stageWait lemmas; the
completion by freeStage_holder. -/
theorem stagingBufferIsGrantedInOrder : Obligations.StagingBufferIsGrantedInOrder := by
  unfold Obligations.StagingBufferIsGrantedInOrder
  intro s c
  refine ⟨exec_stagingGrant_idle, fun unheld awake => ⟨fun r rest free queue => ?_, fun y r taken queue => ?_⟩,
    fun p f r holds cluster core bundle slot => ?_⟩
  · refine ⟨_, exec_stagingGrant_free unheld awake free queue, ?_, ?_, State.served_stageTo.stageWaits, fun q hq others => ?_, ?_,
      fun alone => ?_⟩
    · rw [State.cluster_stageWaits, State.cluster_stageTo]
    · rw [State.cluster_stageWaits, State.cluster_stageTo]
    · rw [State.core_stageWaits_ne others, State.core_stageTo_ne hq]
    · rw [State.stageWaits_frame]
      rfl
    · rw [alone]
      rfl
  · have waits := exec_stagingGrant_taken unheld awake taken
    rw [queue] at waits
    refine ⟨s.stageWait r, waits, State.core_stageWait_same, fun q => State.core_stageWait_ne, rfl,
      fun i => State.rd_stageWait_ne, State.rd_stageWait_same, fun f hf bundle slot => ?_⟩
    rw [State.core_stageWait_same]
    exact StageReq.move_mem_delay hf bundle slot
  · rw [← cluster] at holds ⊢
    exact State.freeStage_holder holds core bundle slot

end Sys2Proof.Machine
end

/-! PROOFS. What stays of the streams under an entry of the log (R448), an access to a granule of HBM (R254, R259), an event
(R392) and the strands that apply at a job's stop (R383, R435). -/
section
namespace Sys2Proof.Machine

/-- From s to t the clusters, the FIFOs, the spill queues and the stops of jobs (CHIP.JOBSTOP) stay as they are. -/
structure StreamsKept (s t : State) : Prop where
  clusters : t.clusters = s.clusters
  fifo : t.hbm.fifo = s.hbm.fifo
  spillq : t.hbm.spillq = s.hbm.spillq
  stops : t.rd (rg fnChip 0x048) = s.rd (rg fnChip 0x048)

variable {r s : State}

theorem StreamsKept.refl (s : State) : StreamsKept s s := ⟨rfl, rfl, rfl, rfl⟩

theorem StreamsKept.foldl {α : Type} {f : State → α → State} {l : List α} (hf : ∀ t x, StreamsKept r t → StreamsKept r (f t x))
    (h : StreamsKept r s) : StreamsKept r (l.foldl f s) :=
  List.foldlRecOn (motive := StreamsKept r) l f h fun t ht x _ => hf t x ht

theorem StreamsKept.setFld {k hi lo v : Nat} (h : StreamsKept r s) (hk : rg fnChip 0x048 ≠ k) : StreamsKept r (s.setFld k hi lo v) :=
  ⟨h.clusters, h.fifo, h.spillq, (State.rd_setFld_ne hk).trans h.stops⟩

theorem StreamsKept.bump {k hi lo n : Nat} (h : StreamsKept r s) (hk : rg fnChip 0x048 ≠ k) : StreamsKept r (s.bump k hi lo n) :=
  h.setFld hk

/-- The registers of a stack are not those of the chip. -/
theorem jobStop_ne_hbm (n : Nat) {o : Nat} : rg fnChip 0x048 ≠ rg (fnHbm n) o := by
  simp only [rg, fnChip, fnHbm]
  omega

/-! The log. -/

theorem StreamsKept.logPut {e : LogEntry} (h : StreamsKept r s) : StreamsKept r (s.logPut e) := by
  have counted {x : LogBuf} {o : Nat} (ho : rg fnChip 0x048 ≠ rg fnLog o) :
      StreamsKept r ({ s with log := x }.bump (rg fnLog o) 63 0 1) :=
    StreamsKept.bump ⟨h.clusters, h.fifo, h.spillq, h.stops⟩ ho
  unfold State.logPut
  dsimp only
  split
  · exact counted (by decide)
  · split
    · exact (counted (by decide)).bump (by decide)
    · exact counted (by decide)

theorem StreamsKept.logWrite {e : LogEntry} (h : StreamsKept r s) : StreamsKept r (s.logWrite e) := by
  unfold State.logWrite
  split
  · exact h
  · exact h.logPut

theorem StreamsKept.report {type sev func : Nat} {job : Option Nat} {b : Body} (h : StreamsKept r s) :
    StreamsKept r (s.report type sev func job b) := h.logWrite

theorem StreamsKept.corrected {func memory : Nat} {job : Option Nat} (h : StreamsKept r s) :
    StreamsKept r (s.corrected func memory job) := by
  unfold State.corrected
  dsimp only
  split
  · exact StreamsKept.logWrite ⟨h.clusters, h.fifo, h.spillq, h.stops⟩
  · exact ⟨h.clusters, h.fifo, h.spillq, h.stops⟩

/-! Granules. -/

theorem StreamsKept.readGranule {g : Nat} (h : StreamsKept r s) : StreamsKept r (s.readGranule g).1 := by
  have counted (o n : Nat) (e : W64) : StreamsKept r ((s.bump (rg (fnHbm (g / 0x2000000000)) o) 63 0 1).setPage n e) :=
    ⟨h.clusters, h.fifo, h.spillq, (h.bump (jobStop_ne_hbm _)).stops⟩
  unfold State.readGranule
  split
  · exact h
  · dsimp only
    split
    · exact h
    · exact (counted _ _ _).corrected
    · have seen := counted 0x048 (pageOf g) (bumpPage (s.page (pageOf g)) 31 16)
      split
      · exact StreamsKept.report ⟨seen.clusters, seen.fifo, seen.spillq, seen.stops⟩
      · exact seen.report

theorem StreamsKept.sealGranule {g : Nat} {poison : Bool} (h : StreamsKept r s) : StreamsKept r (s.sealGranule g poison) := by
  unfold State.sealGranule
  dsimp only
  split
  · exact ⟨h.clusters, h.fifo, h.spillq, h.stops⟩
  · split <;> exact ⟨h.clusters, h.fifo, h.spillq, h.stops⟩

theorem StreamsKept.writeGranule {a : Nat} {bs : List Byte} {poison : Bool} (h : StreamsKept r s) :
    StreamsKept r (s.writeGranule a bs poison) := by
  have stored {u : State} (k : StreamsKept r u) : StreamsKept r { u with mem := u.mem.store a bs } :=
    ⟨k.clusters, k.fifo, k.spillq, k.stops⟩
  unfold State.writeGranule
  dsimp only
  split
  · exact (stored (h.bump (jobStop_ne_hbm _)).readGranule).sealGranule
  · exact (stored h).sealGranule

theorem StreamsKept.writeHbm {a : Nat} {bs : List Byte} (h : StreamsKept r s) : StreamsKept r (s.writeHbm a bs) :=
  h.foldl fun _ _ k => k.writeGranule

/-! Events, and the strands that apply. -/

theorem StreamsKept.drainEvents {n : Nat} (h : StreamsKept r s) : StreamsKept r (s.drainEvents n) := by
  induction n generalizing s with
  | zero => exact h
  | succ n ih =>
    unfold State.drainEvents
    split
    · exact h
    · extract_lets k a written popped
      have kept : StreamsKept r written := h.writeHbm
      clear_value written
      split
      · exact h
      · exact ih (StreamsKept.writeHbm ⟨kept.clusters, kept.fifo, kept.spillq, kept.stops⟩)

theorem StreamsKept.event {type func : Nat} {job : Option Nat} {detail : List Byte} (h : StreamsKept r s) :
    StreamsKept r (s.event type func job detail) := by
  unfold State.event
  split
  · exact StreamsKept.drainEvents ⟨h.clusters, h.fifo, h.spillq, h.stops⟩
  · exact StreamsKept.bump ⟨h.clusters, h.fifo, h.spillq, h.stops⟩ (by decide)

theorem StreamsKept.complete {pair op status seq : Nat} {id : W64} {result : List Byte} (h : StreamsKept r s) :
    StreamsKept r (s.complete pair op status seq id result) := by
  unfold State.complete
  extract_lets k e written
  have kept : StreamsKept r written := h.writeHbm
  clear_value written
  split
  · exact h
  · exact StreamsKept.writeHbm ⟨kept.clusters, kept.fifo, kept.spillq, kept.stops⟩

theorem StreamsKept.settleStrand {x : PendStrand} (h : StreamsKept r s) : StreamsKept r (s.settleStrand x) := by
  unfold State.settleStrand State.finish
  dsimp only
  split
  · split
    · exact StreamsKept.complete ⟨h.clusters, h.fifo, h.spillq, h.stops⟩
    · exact ⟨h.clusters, h.fifo, h.spillq, h.stops⟩
  · exact h

theorem StreamsKept.applyCheck {j i : Nat} (h : StreamsKept r s) : StreamsKept r (s.applyCheck j i) := by
  unfold State.applyCheck
  extract_lets c checked
  have kept : StreamsKept r checked := by
    unfold checked
    split
    · exact h
    · exact h.setFld (by decide)
  exact ⟨kept.clusters, kept.fifo, kept.spillq, kept.stops⟩

theorem StreamsKept.applyStaged {j i : Nat} (h : StreamsKept r s) : StreamsKept r (s.applyStaged j i) := by
  unfold State.applyStaged
  extract_lets checked
  have kept : StreamsKept r checked := h.applyCheck
  clear_value checked
  split
  · exact kept
  · exact StreamsKept.settleStrand ⟨kept.clusters, kept.fifo, kept.spillq, kept.stops⟩

theorem StreamsKept.applyStrands {j n : Nat} (h : StreamsKept r s) : StreamsKept r (s.applyStrands j n) :=
  StreamsKept.foldl (fun _ _ k => k.applyStaged) ⟨h.clusters, h.fifo, h.spillq, h.stops⟩

/-! What a read and a write of a granule leave in memory. -/

variable {g : Nat}

theorem State.mem_logWrite {e : LogEntry} : (s.logWrite e).mem = s.mem := by
  unfold State.logWrite
  split
  · rfl
  · exact State.logPut_mem

@[simp] theorem State.mem_readGranule : (s.readGranule g).1.mem = s.mem := by
  unfold State.readGranule
  split
  · rfl
  · dsimp only
    split
    · rfl
    · unfold State.corrected
      dsimp only
      split
      · exact State.mem_logWrite
      · rfl
    · split <;> exact State.mem_logWrite

@[simp] theorem State.mem_sealGranule {poison : Bool} : (s.sealGranule g poison).mem = s.mem := by
  unfold State.sealGranule
  dsimp only
  split
  · rfl
  · split <;> rfl

/-- A write leaves its bytes in memory, whether its granule is whole or partial. -/
@[simp] theorem State.mem_writeGranule {a : Nat} {bs : List Byte} {poison : Bool} :
    (s.writeGranule a bs poison).mem = s.mem.store a bs := by
  unfold State.writeGranule
  dsimp only
  rw [State.mem_sealGranule]
  split
  · exact congrArg (fun m : Mem => m.store a bs) State.mem_readGranule
  · rfl

end Sys2Proof.Machine
end

/-! PROOFS. Spill queues: SPILLQ_WRITE and SPILLQ_READ (R249, R250). -/
section
namespace Sys2Proof.Machine

variable {s t : State} {x : SpillQ}

@[simp] theorem State.spill_setSpill_same {q : Nat} : (s.setSpill q x).spill q = x := tget_tput_same

theorem State.spill_setSpill_ne {q k : Nat} (h : k ≠ q) : (s.setSpill q x).spill k = s.spill k := tget_tput_ne h

@[simp] theorem State.mem_setSpill {q : Nat} : (s.setSpill q x).mem = s.mem := rfl

theorem StreamsKept.spill (h : StreamsKept s t) (q : Nat) : t.spill q = s.spill q := by
  rw [State.spill, h.spillq, State.spill]

/-- A whole granule is written as it is. -/
theorem granule_padded {data : List Byte} (h : data.length = 64) : (data ++ List.replicate 64 0).take 64 = data := by
  rw [← h, List.take_left']
  rfl

variable {q : Fin 128} {data : List Byte} {poison : Bool}

theorem exec_spillqWrite_full (used : s.spillSize q ≠ 0) (full : s.spillFull q = true) :
    exec (.spillqWrite q data poison) s = .next (s.setSpill q { s.spill q with full := (s.spill q).full + 1 }) :=
  (if_neg used).trans (congrArg Host.Outcome.next (if_pos full))

theorem exec_spillqWrite_room (used : s.spillSize q ≠ 0) (room : s.spillFull q = false) (whole : data.length = 64) :
    exec (.spillqWrite q data poison) s =
      .next ((s.writeGranule (s.spillAt q (s.spill q).p) data poison).setSpill q { s.spill q with p := (s.spill q).p + 1 }) := by
  refine (if_neg used).trans (congrArg Host.Outcome.next ?_)
  rw [granule_padded whole]
  exact if_neg (by simp [room])

/-- Nothing is read that is not committed. -/
theorem exec_spillqRead_none (h : ahead (s.spill q).q (s.spill q).c = 0) : exec (.spillqRead q) s = .next s := if_pos (.inr h)

/-- Below C the granule at Q is read and Q moves on. -/
theorem exec_spillqRead_some (used : s.spillSize q ≠ 0) (h : ahead (s.spill q).q (s.spill q).c ≠ 0) :
    exec (.spillqRead q) s =
      let read := s.readGranule (s.spillAt q (s.spill q).q)
      .next (read.1.setSpill q { read.1.spill q with
        q := (s.spill q).q + 1, last := read.1.mem.bytes (s.spillAt q (s.spill q).q) 64, lastPoison := read.2 }) :=
  if_neg (by simp [used, h])

/-- Settles O36: the equations of the two commands; what their access to HBM leaves of the queues by StreamsKept. -/
theorem spillQueuesKeepTheirOrder : Obligations.SpillQueuesKeepTheirOrder := by
  unfold Obligations.SpillQueuesKeepTheirOrder
  intro s q data poison x used
  refine ⟨exec_spillqWrite_full used, fun room whole => ?_, exec_spillqRead_none, fun below => ?_⟩
  · have kept : StreamsKept s (s.writeGranule (s.spillAt q x.p) data poison) := (StreamsKept.refl s).writeGranule
    refine ⟨_, exec_spillqWrite_room used room whole, State.spill_setSpill_same, State.mem_writeGranule, fun k hk => ?_⟩
    rw [State.spill_setSpill_ne hk, kept.spill]
  · have kept : StreamsKept s (s.readGranule (s.spillAt q x.q)).1 := (StreamsKept.refl s).readGranule
    refine ⟨_, exec_spillqRead_some used below, ?_⟩
    rw [State.spill_setSpill_same, State.mem_setSpill, State.mem_readGranule, kept.spill]
    exact ⟨rfl, rfl, rfl, rfl, rfl⟩

end Sys2Proof.Machine
end

/-! PROOFS. HBM's FIFOs: FIFO_JOIN, HBM_SLOT_SERVE and HBM_REFRESH (R253 to R256, R525). -/
section
namespace Sys2Proof.Machine

variable {s t : State} {r : Request} {rest l : List Request}

/-! Stream threads and FIFOs. -/

@[simp] theorem State.thread_setThread_same {c n : Nat} {x : Thread} : (s.setThread c n x).thread c n = x := by
  rw [State.thread, State.setThread, State.cluster_setCluster_same]
  exact tget_tput_same

@[simp] theorem State.core_setThread {c n k : Nat} {x : Thread} : (s.setThread c n x).core k = s.core k := rfl
@[simp] theorem State.mem_setThread {c n : Nat} {x : Thread} : (s.setThread c n x).mem = s.mem := rfl
@[simp] theorem State.fifo_setThread {c k n pch cls : Nat} {x : Thread} :
    (s.setThread c k x).fifo n pch cls = s.fifo n pch cls := rfl

@[simp] theorem State.thread_setFifo {c k n pch cls : Nat} : (s.setFifo n pch cls l).thread c k = s.thread c k := rfl
@[simp] theorem State.mem_setFifo {n pch cls : Nat} : (s.setFifo n pch cls l).mem = s.mem := rfl
@[simp] theorem State.fifo_setFifo_same {n pch cls : Nat} : (s.setFifo n pch cls l).fifo n pch cls = l := tget_tput_same

theorem StreamsKept.fifos (h : StreamsKept s t) (n pch cls : Nat) : t.fifo n pch cls = s.fifo n pch cls := by
  rw [State.fifo, h.fifo, State.fifo]

/-- The count of hot FIFOs (R264) changes registers only, and of them HOTBANK and HOTLAST. -/
theorem State.countHot_frame {n pch pos : Nat} : s.countHot n pch pos = { s with csr := (s.countHot n pch pos).csr } := by
  unfold State.countHot
  dsimp only
  split
  · rfl
  · split <;> rfl

theorem State.rd_countHot {n pch pos i : Nat} (bank : i ≠ rg (fnHbm n) 0x058) (last : i ≠ rg (fnHbm n) 0x060) :
    (s.countHot n pch pos).rd i = s.rd i := by
  unfold State.countHot
  dsimp only
  split
  · rfl
  · split
    · rfl
    · rw [State.rd_setFld_ne last, State.rd_setFld_ne last, State.bump, State.rd_setFld_ne bank]

theorem State.mem_countHot {n pch pos : Nat} : (s.countHot n pch pos).mem = s.mem := by rw [State.countHot_frame]

theorem State.hbmReady_countHot {n pch pos : Nat} : (s.countHot n pch pos).hbmReady n = s.hbmReady n := by
  unfold State.hbmReady State.flag
  rw [State.rd_countHot] <;> (simp only [rg]; omega)

theorem State.fixed_countHot {n pch pos : Nat} : (s.countHot n pch pos).fixed = s.fixed := by
  unfold State.fixed State.flag
  rw [State.rd_countHot] <;> (simp only [rg, fnChip, fnHbm]; omega)

theorem State.fifo_countHot {n pch pos a b c : Nat} : (s.countHot n pch pos).fifo a b c = s.fifo a b c := by
  rw [State.countHot_frame]
  rfl

/-! FIFO_JOIN. -/

/-- Neither of what keeps a request from its FIFO (R254). -/
theorem joins_of_room {n pch cls : Nat} (ready : s.hbmReady n = true) (room : (s.fifo n pch cls).length < 32) :
    ¬ ((!s.hbmReady n) = true ∨ 32 ≤ (s.fifo n pch cls).length) := by
  rw [ready]
  exact fun h => h.elim nofun (Nat.not_le.2 room)

section
variable {n : StackId} {pch cls : Fin 32} (ready : s.hbmReady n = true) (next : s.joinNext n pch cls = some r)
  (room : (s.fifo n pch cls).length < 32)
include ready next room

/-- A request that the cadence has a slot for leaves its thread for the end of its FIFO. -/
theorem exec_fifoJoin_planned (plan : s.fixed = false ∨ s.servable r = true) :
    exec (.fifoJoin n pch cls) s = .next ((s.setThread r.cluster r.thread
      { s.thread r.cluster r.thread with waiting := (s.thread r.cluster r.thread).waiting.drop 1 }).setFifo n pch cls
        (s.fifo n pch cls ++ [r])) := by
  have planned : ¬ (s.fixed && !s.servable r) = true := by
    rcases plan with h | h <;> simp [h]
  change execFifoJoin n pch cls s = _
  simp only [execFifoJoin, next]
  exact (if_neg (joins_of_room ready room)).trans (if_neg planned)

theorem exec_fifoJoin_unplanned (fixed : s.fixed = true) (unserved : s.servable r = false) :
    exec (.fifoJoin n pch cls) s = .next (s.streamFault r.job r.cluster r.thread 0x05 (pageOf r.addr % 2 ^ 26)) := by
  have unplanned : (s.fixed && !s.servable r) = true := by rw [fixed, unserved]; rfl
  change execFifoJoin n pch cls s = _
  simp only [execFifoJoin, next]
  exact (if_neg (joins_of_room ready room)).trans (if_pos unplanned)

end

/-! HBM_SLOT_SERVE. -/

/-- A slot of this owner code serves the request: any one in open cadence. -/
def State.slotServes (s : State) (owner : Nat) (write : Bool) (r : Request) : Prop :=
  s.fixed = false ∨ ownerServes owner write r.use r.job = true

section
variable {n : StackId} {pch : Fin 32} {pos : Fin 192} {cls owner : Nat} (ready : s.hbmReady n = true)
  (slot : s.slotAt n pos = (0, cls, owner)) (queue : s.fifo n pch cls = r :: rest)
include ready slot queue

/-- A partial write at the head takes a read slot for its merge and stays there (R254). -/
theorem exec_hbmSlotServe_merge (write : r.write = true) (partly : r.merged = false) (serves : s.slotServes owner false r) :
    exec (.hbmSlotServe n pch pos) s =
      .next ((s.countHot n pch pos).setFifo n pch cls ({ r with merged := true } :: rest)) := by
  have served : (!(s.countHot n pch pos).fixed || ownerServes owner false r.use r.job) = true := by
    rw [State.fixed_countHot]
    rcases serves with h | h <;> simp [h]
  change execHbmSlotServe n pch pos s = _
  simp only [execHbmSlotServe, slot, ready, Nat.zero_ne_one, ne_eq, not_true_eq_false, Bool.not_true, Bool.false_eq_true, or_self,
    if_false, State.hbmReady_countHot, State.fifo_countHot, queue]
  exact (if_pos (by rw [write, partly]; rfl)).trans (if_pos served)

/-- Any other head is served by a slot of its direction. -/
theorem exec_hbmSlotServe_serve (whole : (r.write && !r.merged) = false) (serves : s.slotServes owner r.write r) :
    exec (.hbmSlotServe n pch pos) s = .next ((s.countHot n pch pos).serve n pch cls r rest) := by
  have served : (!(s.countHot n pch pos).fixed || ownerServes owner r.write r.use r.job) = true := by
    rw [State.fixed_countHot]
    rcases serves with h | h <;> simp [h]
  change execHbmSlotServe n pch pos s = _
  simp only [execHbmSlotServe, slot, ready, Nat.zero_ne_one, ne_eq, not_true_eq_false, Bool.not_true, Bool.false_eq_true, or_self,
    if_false, State.hbmReady_countHot, State.fifo_countHot, queue]
  exact (if_neg (Bool.eq_false_iff.1 whole)).trans (if_pos served)

end

section
variable {n pch cls : Nat}

theorem State.fifo_writeDone : (s.writeDone r).fifo n pch cls = s.fifo n pch cls := rfl

/-- A request served is no longer in its FIFO. -/
theorem State.fifo_serve : (s.serve n pch cls r rest).fifo n pch cls = rest := by
  have popped : (s.setFifo n pch cls rest).fifo n pch cls = rest := State.fifo_setFifo_same
  unfold State.serve
  dsimp only
  split
  · rw [State.fifo_writeDone, (StreamsKept.refl _).writeGranule.fifos, popped]
  · rw [State.fifo_setThread, (StreamsKept.refl _).readGranule.fifos, popped]

theorem State.mem_serve_write (write : r.write = true) : (s.serve n pch cls r rest).mem = s.mem.store r.addr r.data := by
  rw [State.serve, if_pos write]
  exact State.mem_writeGranule

theorem State.mem_serve_read (read : r.write = false) : (s.serve n pch cls r rest).mem = s.mem := by
  rw [State.serve, if_neg (by simp [read])]
  exact State.mem_readGranule

theorem mem_insertByPos : r ∈ insertByPos r l := by
  induction l with
  | nil => exact List.mem_singleton.2 rfl
  | cons q l ih =>
    unfold insertByPos
    split
    · exact List.mem_cons_self
    · exact List.mem_cons_of_mem q ih

/-- A read that is served waits at its thread with the bytes that HBM holds. -/
theorem State.served_serve_read (read : r.write = false) :
    ∃ q ∈ ((s.serve n pch cls r rest).thread r.cluster r.thread).served, q.pos = r.pos ∧ q.data = s.mem.bytes r.addr r.len := by
  rw [State.serve, if_neg (by simp [read])]
  dsimp only
  rw [State.thread_setThread_same]
  refine ⟨_, mem_insertByPos, rfl, ?_⟩
  dsimp only
  rw [State.mem_readGranule, State.mem_setFifo]

end

/-! HBM_REFRESH. -/

/-- A refresh of pseudo-channel k is counted, and one that is owed with it. -/
def Hbm.refreshed (h : Hbm) (k : Nat) : Hbm :=
  { h with
    refreshes := tput z0 h.refreshes k (tget z0 h.refreshes k + 1 + min (tget z0 h.owed k) 1)
    owed := tput z0 h.owed k (tget z0 h.owed k - 1) }

/-- The state in which a refresh slot counts: FIFOs that are hot in it are counted before. -/
def State.atRefresh (s : State) (n pch pos : Nat) : State := if (s.slotAt n pos).1 = 1 then s.countHot n pch pos else s

theorem State.atRefresh_frame {n pch pos : Nat} : s.atRefresh n pch pos = { s with csr := (s.atRefresh n pch pos).csr } := by
  unfold State.atRefresh
  split
  · exact State.countHot_frame
  · rfl

theorem exec_hbmRefresh_counts {n : StackId} {pch : Fin 32} {pos : Fin 192} (ready : s.hbmReady n = true)
    (plan : s.fixed = false ∨ (s.slotAt n pos).1 = 1) :
    exec (.hbmRefresh n pch pos) s =
      .next { s.atRefresh n pch pos with hbm := s.hbm.refreshed (32 * n.val + pch.val) } := by
  have goes : ¬ ((s.fixed && (s.slotAt n pos).1 != 1) || !s.hbmReady n) = true := by
    rcases plan with h | h <;> simp [h, ready]
  have same : (s.atRefresh n pch pos).hbm = s.hbm := by rw [State.atRefresh_frame]
  rw [← same]
  exact if_neg goes

/-- Settles O34: a join by exec_fifoJoin_planned, a data slot by the two equations of HBM_SLOT_SERVE and what serve leaves, a refresh by
exec_hbmRefresh_counts. -/
theorem hbmServesItsFifosInOrder : Obligations.HbmServesItsFifosInOrder := by
  unfold Obligations.HbmServesItsFifosInOrder
  intro s n pch ready
  refine ⟨fun cls r next room => ⟨fun plan => ?_, exec_fifoJoin_unplanned ready next room⟩, fun pos cls owner r rest slot queue =>
    ⟨fun read serves => ?_, fun write merged serves => ?_, fun write partly serves => ?_⟩, fun pos plan => ?_⟩
  · refine ⟨_, exec_fifoJoin_planned ready next room plan, State.fifo_setFifo_same, ?_, rfl⟩
    rw [State.thread_setFifo, State.thread_setThread_same]
  · refine ⟨_, exec_hbmSlotServe_serve ready slot queue (by simp [read]) (read ▸ serves), State.fifo_serve, ?_, ?_⟩
    · rw [State.mem_serve_read read, State.mem_countHot]
    · rw [← State.mem_countHot (s := s) (n := n) (pch := pch) (pos := pos)]
      exact State.served_serve_read read
  · refine ⟨_, exec_hbmSlotServe_serve ready slot queue (by simp [merged]) (write ▸ serves), State.fifo_serve, ?_⟩
    rw [State.mem_serve_write write, State.mem_countHot]
  · exact ⟨_, exec_hbmSlotServe_merge ready slot queue write partly serves, State.fifo_setFifo_same, State.mem_countHot⟩
  · refine ⟨_, exec_hbmRefresh_counts ready plan, tget_tput_same, tget_tput_same, ?_⟩
    rw [State.atRefresh_frame]

end Sys2Proof.Machine
end

/-! PROOFS. The stop of a job (R435): the threads that have stopped stay stopped, and CHIP.JOBSTOP shows the job. -/
section
namespace Sys2Proof.Machine

variable {s : State} {c n j : Nat}

theorem State.jobOf_lt (h : s.jobOf c = some j) : j < 16 := List.mem_range.1 (List.mem_of_find?_eq_some h)

/-- A write to other bits of a register leaves a bit as it is. -/
theorem State.flag_setFld_other {k hi lo v i : Nat} (h : i < 64) (g : i < lo ∨ hi < i) :
    (s.setFld k hi lo v).flag k i = s.flag k i := by
  rw [State.flag, State.setFld, State.rd_wr_same, testBit_setField h, if_neg (by omega), State.flag]

/-! Threads. -/

/-- Thread n of cluster c has stopped. -/
def State.halts (s : State) (c n : Nat) : Prop := (s.thread c n).stopped = true

theorem State.halts.of_clusters {t : State} (h : s.halts c n) (e : t.clusters = s.clusters) : t.halts c n := by
  unfold State.halts State.thread State.cluster
  rw [e]
  exact h

theorem State.halts.foldl {α : Type} {f : State → α → State} {l : List α} (hf : ∀ t x, t.halts c n → (f t x).halts c n)
    (h : s.halts c n) : (l.foldl f s).halts c n :=
  List.foldlRecOn (motive := fun t : State => t.halts c n) l f h fun t ht x _ => hf t x ht

/-- Where a listed thread stops, the one that had stopped already is listed and stays stopped. -/
theorem stopped_map {ts : Tab Thread} {f : Thread → Thread} (hf : ∀ x, (f x).stopped = true)
    (h : (tget thread0 ts n).stopped = true) : (tget thread0 (ts.map fun e => (e.1, f e.2)) n).stopped = true := by
  induction ts with
  | nil => exact h
  | cons e ts ih =>
    obtain ⟨k, x⟩ := e
    simp only [tget, List.map_cons] at h ⊢
    split
    · exact hf x
    · next hk =>
      rw [if_neg hk] at h
      split
      · next lt => rwa [if_pos lt] at h
      · next ge =>
        rw [if_neg ge] at h
        exact ih h

/-- A thread of a job that stops (R435). -/
def Thread.stop (t : Thread) : Thread := { t with stopped := true, waiting := [], served := [], pour := [] }

theorem Cluster.threads_stop {x : Cluster} : x.stop.threads = x.threads.map fun e => (e.1, e.2.stop) := rfl

theorem State.halts.stopCluster {k m : Nat} (h : s.halts c n) : ((s.setCluster k (s.cluster k).stop).setRxBytes k m).halts c n := by
  unfold State.halts State.thread
  have threads : (((s.setCluster k (s.cluster k).stop).setRxBytes k m).cluster c).threads =
      if c = k then (s.cluster k).stop.threads else (s.cluster c).threads := by
    rw [show ((s.setCluster k (s.cluster k).stop).setRxBytes k m).cluster c = _ from State.cluster_setCluster,
      State.cluster_setCluster_same]
    split
    · rfl
    · next ne => rw [State.cluster_setCluster_ne ne]
  rw [threads]
  split
  · next same =>
    rw [Cluster.threads_stop]
    exact stopped_map (f := Thread.stop) (fun _ => rfl) (same ▸ h)
  · exact h

theorem State.halts.quietJob (h : s.halts c n) : (s.quietJob j).halts c n := by
  unfold State.quietJob
  extract_lets cores clusters fifo asm drained
  have cores_halt : cores.halts c n := h.foldl fun _ _ k => k.of_clusters rfl
  have clusters_halt : clusters.halts c n := cores_halt.foldl fun _ _ k => k.stopCluster
  clear_value clusters
  refine State.halts.foldl (fun t q k => ?_) (clusters_halt.of_clusters rfl)
  split
  · exact k.of_clusters rfl
  · exact k

/-! The stop. -/

/-- The state of a job's stop once its cores and threads are quiet and its bit of CHIP.JOBSTOP is set. -/
def State.markStop (s : State) (j cause : Nat) : State :=
  let t := s.quietJob j
  let t := t.setJob j { t.job j with phase := .span, retract := none, release := none }
  ((t.setFlag (rg fnChip 0x048) j true).setFld (rg fnChip 0x048) 27 24 j).setFld (rg fnChip 0x048) 23 16 cause

/-- A job that has stopped stays as it is; the stop of another is its mark, and an event and strands behind it. -/
theorem State.stopJob_cases {cause func : Nat} : s.stopped j = true ∧ s.stopJob j cause func = s ∨
    StreamsKept (s.markStop j cause) (s.stopJob j cause func) := by
  unfold State.stopJob
  split
  · next h => exact .inl ⟨h, rfl⟩
  · exact .inr (StreamsKept.refl (s.markStop j cause)).event.applyStrands

theorem State.clusters_markStop {cause : Nat} : (s.markStop j cause).clusters = (s.quietJob j).clusters := by
  simp only [State.markStop, State.setFlag, State.setFld, State.wr_clusters, State.setJob_clusters]

theorem State.halts.stopJob {cause func : Nat} (h : s.halts c n) : (s.stopJob j cause func).halts c n := by
  rcases State.stopJob_cases (s := s) (j := j) (cause := cause) (func := func) with ⟨-, same⟩ | kept
  · rw [same]
    exact h
  · exact h.quietJob.of_clusters (kept.clusters.trans State.clusters_markStop)

theorem State.stopped_markStop {cause : Nat} (hj : j < 16) : (s.markStop j cause).stopped j = true := by
  unfold State.markStop State.stopped
  rw [State.flag_setFld_other (by omega) (by omega), State.flag_setFld_other (by omega) (by omega),
    State.flag_setFlag_same (by omega)]

theorem State.stopped_stopJob {cause func : Nat} (hj : j < 16) : (s.stopJob j cause func).stopped j = true := by
  rcases State.stopJob_cases (s := s) (j := j) (cause := cause) (func := func) with ⟨stopped, same⟩ | kept
  · rw [same]
    exact stopped
  · rw [State.stopped, State.flag, kept.stops]
    exact State.stopped_markStop hj

/-! A stream fault (R242, R263). -/

theorem State.halts_streamFault {code page : Nat} : (s.streamFault j c n code page).halts c n := by
  unfold State.streamFault
  extract_lets k recorded x t stopped
  have stops : stopped.halts c n := by
    unfold State.halts State.thread
    rw [show stopped.cluster c = _ from State.cluster_setCluster_same, tget_tput_same]
  clear_value stopped
  exact (stops.of_clusters (StreamsKept.refl stopped).report.clusters).stopJob

theorem State.stopped_streamFault {code page : Nat} (hj : j < 16) : (s.streamFault j c n code page).stopped j = true :=
  State.stopped_stopJob hj

end Sys2Proof.Machine
end

/-! PROOFS. Stream threads: STREAM_DESCRIPTOR_START, GRANULE_REQUEST and OUTBOUND_ENTRY_READ (R239, R242, R244, R245, R247, R257). -/
section
namespace Sys2Proof.Machine

variable {s : State} {j : Nat} {d : Sd}

/-! Queues of a core. -/

@[simp] theorem State.queue_setQueue {p sq : Nat} {v : VCore} {x : SQueue} :
    ((s.setV p (v.setQueue sq x)).core p).v.queue sq = x := by
  rw [State.core_setV_same, VCore.queue_setQueue, if_pos rfl]

/-! STREAM_DESCRIPTOR_START. -/

/-- The thread as descriptor d starts on it, for a queue of core p; an outbound one adds the queue to those that it reads. -/
def Thread.starts (t : Thread) (d : Sd) (p : Nat) : Thread :=
  { t with started := true, asked := 0, done := 0, buf := [], pour := [], planned := 0
           outQ := if d.out ∧ !t.outQ.contains (p, d.sq) then t.outQ ++ [(p, d.sq)] else t.outQ }

theorem Thread.starts_queue {t : Thread} {p : Nat} :
    (if d.out = true ∧ (!t.outQ.contains (p, d.sq)) = true then
      { t with started := true, asked := 0, done := 0, buf := [], pour := [], planned := 0, outQ := t.outQ ++ [(p, d.sq)] }
     else { t with started := true, asked := 0, done := 0, buf := [], pour := [], planned := 0 }) = t.starts d p := by
  unfold Thread.starts
  split <;> rfl

/-- Nothing of what keeps a descriptor from its start. -/
theorem startable {c n p : Nat} (fresh : (s.thread c n).started = false) (runs : (s.thread c n).stopped = false)
    (flows : s.flowing j c (s.thread c n).outbound = true) (core : s.coreFor j c d.vcore = some p) :
    ¬ ((s.thread c n).started = true ∨ (s.thread c n).stopped = true ∨ (!s.flowing j c (s.thread c n).outbound) = true ∨
      (s.coreFor j c d.vcore).isNone = true) := by
  simp only [fresh, runs, flows, core, Option.isNone_some, Bool.not_true, Bool.false_eq_true, or_self, not_false_eq_true]

section
variable {c : ClusterId} {n : Fin 64} {p : Nat} {r : BitVec 512} {l : List (BitVec 512)} (holds : s.jobOf c = some j)
  (head : (s.thread c n).list = r :: l) (fresh : (s.thread c n).started = false) (runs : (s.thread c n).stopped = false)
  (flows : s.flowing j c (s.thread c n).outbound = true) (core : s.coreFor j c (sdOf r).vcore = some p)
include holds head fresh runs flows core

/-- A descriptor that meets its checks starts; one of no byte is complete at once (log entry 22). -/
theorem exec_streamDescriptorStart_starts (meets : s.rejects j (sdOf r) = none) :
    exec (.streamDescriptorStart c n) s = .next (s.setThread c n
      (if (sdOf r).total = 0 then ((s.thread c n).starts (sdOf r) p).finish else (s.thread c n).starts (sdOf r) p)) := by
  change execStreamDescriptorStart c n s = _
  simp only [execStreamDescriptorStart, holds, head]
  refine (if_neg (startable fresh runs flows core)).trans ?_
  simp only [meets, core, ← head, Thread.starts_queue]

/-- One that fails a check is a stream fault, behind the record of the page that it may not use. -/
theorem exec_streamDescriptorStart_rejects {code page : Nat} (fails : s.rejects j (sdOf r) = some (code, page)) :
    exec (.streamDescriptorStart c n) s =
      .next ((if code = 0x04 then s.pageFault 0 j page else s).streamFault j c n code page) := by
  change execStreamDescriptorStart c n s = _
  simp only [execStreamDescriptorStart, holds, head]
  refine (if_neg (startable fresh runs flows core)).trans ?_
  simp only [fails]

end

/-! GRANULE_REQUEST. -/

theorem exec_granuleRequest {c : ClusterId} (holds : s.jobOf c = some j) :
    exec (.granuleRequest c) s = .next ((s.requests j c 8).setCluster c
      { (s.requests j c 8).cluster c with ticks := ((s.requests j c 8).cluster c).ticks + 1 }) := by
  change execGranuleRequest c s = _
  simp only [execGranuleRequest, holds]

/-- The request of descriptor d's next piece, as thread n of cluster c issues it to read HBM. -/
def State.inboundRequest (s : State) (j c n seq : Nat) (d : Sd) : Request :=
  { cluster := c, thread := n, job := j, use := 0, addr := (d.piece (s.thread c n).asked).1
    len := (d.piece (s.thread c n).asked).2, write := false, data := [], poison := false, issued := (s.cluster c).ticks, seq
    merged := (d.piece (s.thread c n).asked).2 == 64, pos := (s.thread c n).asked }

/-- The thread once its request r is out. -/
def Thread.request (t : Thread) (r : Request) : Thread :=
  { t with asked := t.asked + r.len, waiting := t.waiting ++ [r], flight := t.flight + 1 }

/-- The entries that the next n bytes of a stream begin in queue q, of whose credits as many are spent as there are (R244). -/
def SQueue.begin (q : SQueue) (asked n : Nat) : SQueue :=
  let new := cdiv (asked + n) q.entry - cdiv asked q.entry
  { q with credits := q.credits - min new q.credits, begun := q.begun + min new q.credits }

/-- Thread n of cluster c reads HBM for descriptor d into a queue of core p and has more to ask for. -/
structure State.Asking (s : State) (j c n p : Nat) (d : Sd) : Prop where
  running : (s.thread c n).running = some d
  core : s.coreFor j c d.vcore = some p
  inbound : d.out = false
  memory : d.net = false
  runs : (s.thread c n).stopped = false
  left : (s.thread c n).asked < d.total
  room : (s.cluster c).outstanding < 2048
  flows : s.flowing j c (s.thread c n).outbound = true

/-- It issues its next piece, but with no credit left it begins no entry (R244). -/
theorem State.requestOne_inbound {c n p seq : Nat} (h : s.Asking j c n p d) :
    let q := (s.core p).v.queue d.sq
    let r := s.inboundRequest j c n seq d
    s.requestOne j c n seq = if q.credits = 0 ∧ (s.thread c n).asked % q.entry = 0 then none
      else some ((s.setV p ((s.core p).v.setQueue d.sq (q.begin (s.thread c n).asked r.len))).setThread c n
        ((s.thread c n).request r)) := by
  simp only [State.requestOne, h.running, h.core, h.inbound, h.memory, h.runs, Nat.not_le.2 h.left, Nat.not_le.2 h.room, h.flows,
    Bool.not_true, Bool.not_false, Bool.false_eq_true, or_self, if_false, if_true, List.map_nil, List.any_nil, Thread.request,
    SQueue.begin, State.inboundRequest]

/-! OUTBOUND_ENTRY_READ. -/

/-- A head entry that has been read is there to leave its queue. -/
theorem SQueue.headRead_cons {q : SQueue} (h : q.headRead = true) :
    ∃ e l, q.out = e :: l ∧ q.dropHead = { q with out := l, readOff := q.readOff - e.len } := by
  unfold SQueue.headRead at h
  split at h
  · simp at h
  · next e l out => exact ⟨e, l, out, by simp [SQueue.dropHead, out]⟩

/-- The first queue of the thread whose head entry has been read to its last byte. -/
def State.readHead (s : State) (c n : Nat) : Option (Nat × Nat) :=
  (s.thread c n).outQ.find? (fun e => ((s.core e.1).v.queue e.2).headRead)

section
variable {c : ClusterId} {n : Fin 64} {p q : Nat}

theorem State.headRead_readHead (found : s.readHead c n = some (p, q)) : ((s.core p).v.queue q).headRead = true := by
  have read := List.find?_some found
  exact read

theorem exec_outboundEntryRead_none (unread : s.readHead c n = none) : exec (.outboundEntryRead c n) s = .next s := by
  change execOutboundEntryRead c n s = _
  unfold execOutboundEntryRead
  rw [show (s.thread c n).outQ.find? _ = _ from unread]

variable (found : s.readHead c n = some (p, q))
include found

theorem exec_outboundEntryRead_held (held : (s.cluster c).hold ≠ [] ∨ (s.cluster c).asleep = true) :
    exec (.outboundEntryRead c n) s = .next s := by
  change execOutboundEntryRead c n s = _
  unfold execOutboundEntryRead
  rw [show (s.thread c n).outQ.find? _ = _ from found]
  exact if_pos (by simpa using held)

theorem exec_outboundEntryRead_leaves (unheld : (s.cluster c).hold = []) (awake : (s.cluster c).asleep = false) :
    exec (.outboundEntryRead c n) s = .next (s.setV p ((s.core p).v.setQueue q ((s.core p).v.queue q).dropHead)) := by
  change execOutboundEntryRead c n s = _
  unfold execOutboundEntryRead
  rw [show (s.thread c n).outQ.find? _ = _ from found]
  exact if_neg (by simp [unheld, awake])

end

/-- Settles O33: the equations of the three commands; a rejected descriptor by what a stream fault leaves, a request by
requestOne_inbound, an entry that leaves its queue by headRead_cons. -/
theorem streamsStartRequestAndReturnCredits : Obligations.StreamsStartRequestAndReturnCredits := by
  unfold Obligations.StreamsStartRequestAndReturnCredits
  intro s c n j t holds
  refine ⟨fun r l head fresh runs flows p core => ⟨fun meets => ?_, fun code page fails => ?_⟩, exec_granuleRequest holds,
    fun seq d p running core inbound memory runs left room flows => ?_,
    exec_outboundEntryRead_none, fun p q found => ⟨exec_outboundEntryRead_held found, fun unheld awake => ?_⟩⟩
  · exact exec_streamDescriptorStart_starts holds head fresh runs flows core meets
  · exact ⟨_, exec_streamDescriptorStart_rejects holds head fresh runs flows core fails, State.halts_streamFault,
      State.stopped_streamFault (State.jobOf_lt holds)⟩
  · have issues := State.requestOne_inbound (seq := seq) ⟨running, core, inbound, memory, runs, left, room, flows⟩
    refine ⟨fun empty fresh => issues.trans (if_pos ⟨empty, fresh⟩), fun credit => ?_⟩
    refine ⟨_, issues.trans (if_neg fun h => credit.elim (· h.1) (· h.2)), State.queue_setQueue, ?_, ?_, rfl⟩
    · rw [State.thread_setThread_same]
      rfl
    · rw [State.thread_setThread_same]
      rfl
  · obtain ⟨e, l, out, left⟩ := SQueue.headRead_cons (State.headRead_readHead found)
    refine ⟨_, e, l, exec_outboundEntryRead_leaves found unheld awake, out, ?_, ?_, rfl, fun k hk => State.core_setV_ne hk⟩
    · rw [State.queue_setQueue, left]
    · rw [State.queue_setQueue, left]

end Sys2Proof.Machine
end

/-! PROOFS. What the bytes of a stream leave of their queue and of memory (R244). -/
section
namespace Sys2Proof.Machine

variable {s : State} {p sq n : Nat} {bs : List (Byte × Bool)}

/-! Contention for the scratchpad (R161, R233) moves clk, not contents. -/

theorem State.clusters_countBank : (s.countBank p n).clusters = s.clusters := by
  unfold State.countBank
  split <;> rfl

theorem State.v_contendPad : ((s.contendPad p sq n).core p).v = (s.core p).v := by
  unfold State.contendPad
  dsimp only
  split
  · rfl
  · rw [State.core_countBank, State.core_setCore_same]

theorem State.mem_contendPad : (s.contendPad p sq n).mem = s.mem := by
  unfold State.contendPad
  dsimp only
  split
  · rfl
  · rw [State.mem_countBank, State.setCore_mem]

theorem State.clusters_contendPad : (s.contendPad p sq n).clusters = s.clusters := by
  unfold State.contendPad
  dsimp only
  split
  · rfl
  · rw [State.clusters_countBank, State.setCore_clusters]

/-! Filling. -/

/-- Where the next byte of queue q goes in the window of core p: behind those of the entry being filled. -/
def SQueue.fillAt (q : SQueue) (p : Nat) : Nat := window p + q.area + q.visible % (max 1 q.depth) * q.entry + q.fill

/-- Queue q with one byte more in the entry being filled, which is visible once it is full. -/
def SQueue.fillOne (q : SQueue) : SQueue :=
  if q.fill + 1 = q.entry then { q with visible := q.visible + 1, fill := 0 } else { q with fill := q.fill + 1 }

/-- One byte of a stream reaches queue sq of core p. -/
def State.fillByte (s : State) (p sq : Nat) (x : Byte × Bool) : State :=
  let q := (s.core p).v.queue sq
  { s with mem := s.mem.setByte (q.fillAt p) x.1, poison := sset (q.fillAt p) x.2 s.poison }.setV p
    ((s.core p).v.setQueue sq q.fillOne)

theorem State.fillQueue_cons {x : Byte × Bool} : s.fillQueue p sq (x :: bs) = (s.fillByte p sq x).fillQueue p sq bs := rfl

theorem State.queue_fillByte {x : Byte × Bool} :
    ((s.fillByte p sq x).core p).v.queue sq = ((s.core p).v.queue sq).fillOne := State.queue_setQueue

/-- From s to t the clusters stay, and of queue sq of core p the count of entries begun. -/
structure Filled (p sq : Nat) (s t : State) : Prop where
  clusters : t.clusters = s.clusters
  begun : ((t.core p).v.queue sq).begun = ((s.core p).v.queue sq).begun

theorem Filled.trans {r s t : State} (a : Filled p sq r s) (b : Filled p sq s t) : Filled p sq r t :=
  ⟨b.clusters.trans a.clusters, b.begun.trans a.begun⟩

theorem State.filled_fillByte {x : Byte × Bool} : Filled p sq s (s.fillByte p sq x) := by
  refine ⟨rfl, ?_⟩
  rw [State.queue_fillByte, SQueue.fillOne]
  split <;> rfl

theorem State.filled_fillQueue : Filled p sq s (s.fillQueue p sq bs) := by
  induction bs generalizing s with
  | nil => exact ⟨rfl, rfl⟩
  | cons x bs ih => exact State.filled_fillByte.trans ih

theorem State.filled_padQueue : Filled p sq s (s.padQueue p sq) := by
  unfold State.padQueue
  dsimp only
  split
  · exact ⟨rfl, rfl⟩
  · exact State.filled_fillQueue

/-- Bytes that do not complete the entry being filled stand behind one another in it. -/
theorem State.fillQueue_inEntry {q : SQueue} (queue : (s.core p).v.queue sq = q) (h : q.fill + bs.length < q.entry) :
    ((s.fillQueue p sq bs).core p).v.queue sq = { q with fill := q.fill + bs.length } ∧
      (s.fillQueue p sq bs).mem = s.mem.store (q.fillAt p) (bs.map (·.1)) := by
  induction bs generalizing s q with
  | nil => exact ⟨queue, rfl⟩
  | cons x bs ih =>
    rw [List.length_cons] at h
    have one : ((s.fillByte p sq x).core p).v.queue sq = { q with fill := q.fill + 1 } := by
      rw [State.queue_fillByte, queue, SQueue.fillOne, if_neg (by omega)]
    obtain ⟨filled, stored⟩ := ih one (by dsimp only; omega)
    rw [State.fillQueue_cons, filled, stored]
    refine ⟨by rw [List.length_cons, Nat.add_assoc, Nat.add_comm 1], ?_⟩
    subst queue
    rfl

/-! GRANULE_DELIVERED. -/

/-- Room of a queue for bytes that wait: the rest of the entries begun, and what its credits allow (R244). -/
def SQueue.room (q : SQueue) : Nat := (q.begun - q.visible) * q.entry - q.fill + q.credits * q.entry

/-- Bytes that the queue has room for and that do not complete its entry are all written, in order. -/
theorem State.pourInto_inEntry {t : Thread} {q : SQueue} (queue : (s.core p).v.queue sq = q) (room : t.pour.length ≤ q.room)
    (h : q.fill + t.pour.length < q.entry) :
    (s.pourInto p sq t).2 = { t with pour := [] } ∧ (s.pourInto p sq t).1.clusters = s.clusters ∧
      (((s.pourInto p sq t).1.core p).v.queue sq).fill = q.fill + t.pour.length ∧
      (s.pourInto p sq t).1.mem = s.mem.store (q.fillAt p) (t.pour.map (·.1)) := by
  have all : t.pour.take q.room = t.pour := List.take_of_length_le room
  have rest : t.pour.drop q.room = [] := List.drop_of_length_le room
  have contended : ((s.contendPad p sq t.pour.length).core p).v.queue sq = q := by rw [State.v_contendPad, queue]
  obtain ⟨filled, stored⟩ := State.fillQueue_inEntry contended h
  unfold SQueue.room at all rest
  unfold State.pourInto
  rw [queue]
  dsimp only
  rw [all, rest, State.queue_setQueue, filled, State.setV_mem, stored, State.mem_contendPad, State.setV_clusters,
    State.filled_fillQueue.clusters, State.clusters_contendPad]
  exact ⟨rfl, rfl, rfl, rfl⟩

end Sys2Proof.Machine
end

/-! PROOFS. GRANULE_DELIVERED, PLANNED_ENTRY_RELEASE and HOLD_TIMEOUT (R241, R244, R280 to R284). -/
section
namespace Sys2Proof.Machine

variable {s : State} {j p : Nat} {d : Sd}

/-! GRANULE_DELIVERED. -/

/-- Thread n of cluster c runs descriptor d of job j for core p. -/
structure State.Streaming (s : State) (c n j p : Nat) (d : Sd) : Prop where
  holds : s.jobOf c = some j
  running : (s.thread c n).running = some d
  core : s.coreFor j c d.vcore = some p

/-- The thread as its next read r leaves those that wait for their turn: its bytes are ready for the queue. -/
def Thread.deliver (t : Thread) (r : Request) (l : List Request) : Thread :=
  { t with served := l, done := t.done + r.len, flight := t.flight - 1, pour := r.data.map (fun b => (b, r.poison)) }

theorem Thread.deliver_bytes {t : Thread} {r : Request} {l : List Request} : (t.deliver r l).pour.map (·.1) = r.data := by
  rw [Thread.deliver, List.map_map]
  exact List.map_id r.data

/-- The next read in stream order, of a stream without exchange and not its last, goes into the queue. -/
theorem exec_granuleDelivered_next {c : ClusterId} {n : Fin 64} {r : Request} {l : List Request} (h : s.Streaming c n j p d)
    (served : (s.thread c n).served = r :: l) (poured : (s.thread c n).pour = []) (next : r.pos = (s.thread c n).done)
    (flows : s.flowing j c (s.thread c n).outbound = true) (inbound : d.out = false) (memory : d.net = false)
    (plain : d.xch = false) (more : (s.thread c n).done + r.len < d.total) :
    exec (.granuleDelivered c n) s =
      let u := s.pourInto p d.sq ((s.thread c n).deliver r l)
      .next (u.1.setThread c n u.2) := by
  have unfinished : ¬ ((s.pourInto p d.sq ((s.thread c n).deliver r l)).2.done = d.total ∧
      (s.pourInto p d.sq ((s.thread c n).deliver r l)).2.pour = []) := fun e => Nat.ne_of_lt more e.1
  change execGranuleDelivered c n s = _
  unfold execGranuleDelivered
  simp only [h.holds, h.running, h.core, inbound, memory, flows, served, poured, next, Thread.exchange, plain, Bool.not_true,
    Bool.false_eq_true, or_self, if_false, ne_eq, not_true_eq_false]
  exact if_neg unfinished

/-! PLANNED_ENTRY_RELEASE. -/

theorem State.cluster_addHold {c : Nat} {w : HoldWhy} : (s.addHold c w).cluster c =
    { s.cluster c with hold := if (s.cluster c).hold.contains w then (s.cluster c).hold else (s.cluster c).hold ++ [w] } := by
  unfold State.addHold
  dsimp only
  split
  · rfl
  · exact State.cluster_setCluster_same

theorem State.contains_addHold {c : Nat} {w : HoldWhy} : ((s.addHold c w).cluster c).hold.contains w = true := by
  rw [State.cluster_addHold]
  dsimp only
  split
  · assumption
  · simp

theorem State.addHold_rest {c : Nat} {w : HoldWhy} : (s.addHold c w).mem = s.mem ∧ (s.addHold c w).cores = s.cores := by
  unfold State.addHold
  dsimp only
  split <;> exact ⟨rfl, rfl⟩

theorem State.cluster_countHold {c n : Nat} :
    (s.countHold c n).cluster c = { s.cluster c with holdClk := (s.cluster c).holdClk + n } := State.cluster_setCluster_same

theorem State.countHold_rest {c n : Nat} : (s.countHold c n).mem = s.mem ∧ (s.countHold c n).cores = s.cores := by
  simp only [State.countHold, State.bump, State.setFld, State.wr_mem, State.wr_cores, State.setCluster_mem, State.setCluster_cores,
    and_self]

@[simp] theorem State.cluster_setRxBytes {c n : Nat} :
    (s.setRxBytes c n).cluster c = { s.cluster c with rxBytes := n } := State.cluster_setCluster_same

/-- The exchange changes only what a thread holds for it. -/
theorem Thread.exchange_fst {t : Thread} {bs : List (Byte × Bool)} : (t.exchange d bs).1 = { t with buf := (t.exchange d bs).1.buf } := by
  unfold Thread.exchange
  split <;> rfl

theorem contains_filter_bne {w : HoldWhy} {l : List HoldWhy} : (l.filter (· != w)).contains w = false := by
  rw [Bool.eq_false_iff]
  intro h
  have kept := (List.mem_filter.1 (List.contains_iff_mem.1 h)).2
  exact bne_iff_ne.1 kept rfl

/-- Why the cluster is held while the entry of thread n is missing (R281). -/
def State.missing (s : State) (j n rq : Nat) : HoldWhy := if s.fromPlane j rq then .plane n else .tether n

/-- The entry of receive queue rq for thread n that came first. -/
def Cluster.entry (x : Cluster) (n rq : Nat) : Option RxEntry := x.rx.find? (fun e => e.thread == n && e.rq == rq)

/-- The planned clk of thread n's next network entry can come: its stream moves, its cluster is neither asleep nor throttled, and
its queue has a credit for the entry (R280, R281). -/
structure State.Planned (s : State) (c n j p : Nat) (d : Sd) : Prop where
  streaming : s.Streaming c n j p d
  net : d.net = true
  runs : (s.thread c n).stopped = false
  moves : (s.job j).phase = .span ∨ ((s.job j).phase = .quiesce ∧ (s.thread c n).outbound = true)
  awake : (s.cluster c).asleep = false
  unthrottled : (s.cluster c).hold.contains .throttle = false
  credit : 0 < ((s.core p).v.queue d.sq).credits ∨ ((s.core p).v.queue d.sq).depth = 0

theorem State.Planned.late {c n : Nat} (h : s.Planned c n j p d) :
    (s.cluster c).hold.filter (· != .throttle) = (s.cluster c).hold := by
  have unthrottled := h.unthrottled
  refine List.filter_eq_self.2 fun w hw => ?_
  rw [bne_iff_ne]
  rintro rfl
  simp [hw] at unthrottled

/-- The state in the planned clk of thread n's next entry, which the cluster's clk has then reached. -/
def State.atPlanned (s : State) (c n first period : Nat) : State :=
  s.setCluster c { s.cluster c with spanClk := max (s.cluster c).spanClk (first + (s.thread c n).planned * period) }

/-- In that clk a missing entry joins the causes of the hold; the clk counts at the one that was missing first (log entry 1). -/
def State.missPlanned (s : State) (c n first period : Nat) (why : HoldWhy) : State :=
  let u := (s.atPlanned c n first period).addHold c why
  if ((s.cluster c).hold ++ [why]).head? = some why then u.countHold c 1 else u

theorem State.missPlanned_holds {c n first period : Nat} {why : HoldWhy} :
    ((s.missPlanned c n first period why).cluster c).hold.contains why = true ∧
      ((s.missPlanned c n first period why).cluster c).holdClk =
        (s.cluster c).holdClk + (if ((s.cluster c).hold ++ [why]).head? = some why then 1 else 0) := by
  have clk : (((s.atPlanned c n first period).addHold c why).cluster c).holdClk = (s.cluster c).holdClk := by
    rw [State.cluster_addHold, State.atPlanned, State.cluster_setCluster_same]
  unfold State.missPlanned
  dsimp only
  split
  · rw [State.cluster_countHold]
    exact ⟨State.contains_addHold, congrArg (· + 1) clk⟩
  · exact ⟨State.contains_addHold, clk⟩

theorem State.missPlanned_rest {c n first period : Nat} {why : HoldWhy} :
    (s.missPlanned c n first period why).mem = s.mem ∧ (s.missPlanned c n first period why).cores = s.cores := by
  have added : ((s.atPlanned c n first period).addHold c why).mem = s.mem ∧
      ((s.atPlanned c n first period).addHold c why).cores = s.cores := State.addHold_rest
  unfold State.missPlanned
  dsimp only
  split
  · exact ⟨State.countHold_rest.1.trans added.1, State.countHold_rest.2.trans added.2⟩
  · exact added

/-- In that clk entry y is taken out of the receive buffer for queue sq of core p, and its cause out of the hold (R282). -/
def State.takePlanned (s : State) (c n p sq first period : Nat) (why : HoldWhy) (y : RxEntry) : State :=
  let u := (s.atPlanned c n first period).dropHold c why
  let u := u.setCluster c { u.cluster c with rx := (s.cluster c).rx.erase y }
  let u := u.setRxBytes c ((s.cluster c).rxBytes - beats256 y.data.length)
  let q := (s.core p).v.queue sq
  u.setV p ((u.core p).v.setQueue sq { q with credits := q.credits - 1, begun := q.begun + 1 })

theorem State.takePlanned_takes {c n p sq first period : Nat} {why : HoldWhy} {y : RxEntry} :
    ((s.takePlanned c n p sq first period why y).cluster c).rx = (s.cluster c).rx.erase y ∧
      ((s.takePlanned c n p sq first period why y).cluster c).hold = (s.cluster c).hold.filter (· != why) ∧
      (((s.takePlanned c n p sq first period why y).core p).v.queue sq).begun = ((s.core p).v.queue sq).begun + 1 := by
  refine ⟨?_, ?_, congrArg SQueue.begun State.queue_setQueue⟩
  · simp only [State.takePlanned, State.cluster_setV, State.cluster_setRxBytes, State.cluster_setCluster_same]
  · simp only [State.takePlanned, State.cluster_setV, State.cluster_setRxBytes, State.cluster_setCluster_same, State.dropHold,
      State.atPlanned]

/-- Another cause holds the cluster, and the entry of receive queue rq is there to wait for its end. -/
def Cluster.heldByOther (x : Cluster) (why : HoldWhy) (rq : Nat) : Bool :=
  !x.hold.isEmpty && !x.hold.contains why && x.rx.any (fun y => y.rq == rq)

theorem Cluster.heldByOther_eq_false {x : Cluster} {why : HoldWhy} {rq : Nat}
    (h : x.hold = [] ∨ x.hold.contains why = true ∨ x.rx.any (fun y => y.rq == rq) = false) : x.heldByOther why rq = false := by
  unfold Cluster.heldByOther
  rcases h with free | mine | gone
  · rw [free]
    rfl
  · rw [mine, Bool.not_true, Bool.and_false, Bool.false_and]
  · rw [gone, Bool.and_false]

theorem State.Planned.moving {c n : Nat} (h : s.Planned c n j p d) :
    ((s.job j).phase == .span || ((s.job j).phase == .quiesce && (s.thread c n).outbound)) = true := by
  rcases h.moves with span | ⟨quiesce, out⟩
  · simp [span]
  · simp [quiesce, out]

theorem State.Planned.credited {c n : Nat} (h : s.Planned c n j p d) :
    (decide (((s.core p).v.queue d.sq).credits = 0) && ((s.core p).v.queue d.sq).depth != 0) = false := by
  rcases h.credit with credit | depth
  · simp [Nat.ne_of_gt credit]
  · simp [depth]

section
variable {c : ClusterId} {n : Fin 64} {f e : Nat} {l : List (Nat × Nat)} (h : s.Planned c n j p d)
  (plan : (s.thread c n).plan = (f, e) :: l) (first : (s.cluster c).heldByOther (s.missing j n d.rq) d.rq = false)
include h plan first

theorem exec_plannedEntryRelease_missing (absent : (s.cluster c).entry n d.rq = none) :
    exec (.plannedEntryRelease c n) s =
      .next (s.missPlanned c n f e (s.missing j n d.rq)) := by
  unfold Cluster.heldByOther State.missing at first
  unfold Cluster.entry at absent
  change execPlannedEntryRelease c n s = _
  simp only [execPlannedEntryRelease, h.streaming.holds, h.streaming.running, h.streaming.core, plan, h.late, absent]
  refine if_neg ?_
  simp only [h.net, h.runs, h.moving, h.awake, h.unthrottled, first, h.credited, Bool.not_true, Bool.false_eq_true, or_self,
    not_false_eq_true]

/-- An entry that is there leaves the receive buffer for the queue, as one of the entries that it has begun. -/
theorem exec_plannedEntryRelease_taken {y : RxEntry} (there : (s.cluster c).entry n d.rq = some y)
    (more : (s.thread c n).done + ((s.core p).v.queue d.sq).entry < d.total) :
    ∃ u t, exec (.plannedEntryRelease c n) s = .next (u.setThread c n t) ∧
      Filled p d.sq (s.takePlanned c n p d.sq f e (s.missing j n d.rq) y) u ∧
      t.planned = (s.thread c n).planned + 1 := by
  unfold Cluster.heldByOther State.missing at first
  unfold Cluster.entry at there
  change ∃ u t, execPlannedEntryRelease c n s = _ ∧ _
  unfold execPlannedEntryRelease
  simp -zeta only [h.streaming.holds]
  extract_lets t x late
  simp -zeta only [show t.running = some d from h.streaming.running, show t.plan = (f, e) :: l from plan, h.streaming.core]
  extract_lets why q reached dropped k
  simp -zeta only [show List.find? (fun e => e.thread == n.val && e.rq == d.rq) x.rx = some y from there]
  extract_lets removed buffered taken bytes filled exchanged padded
  have same : s.takePlanned c n p d.sq f e (s.missing j n d.rq) y = taken := rfl
  rw [same]
  have bought : exchanged.planned = t.planned + 1 := by
    unfold exchanged
    rw [Thread.exchange_fst]
  have unfinished : exchanged.done < d.total := by
    unfold exchanged
    rw [Thread.exchange_fst]
    exact more
  have filled_taken : Filled p d.sq taken filled := State.filled_fillQueue
  clear_value exchanged filled
  refine ⟨padded, _, if_neg ?_, ?_, ?_⟩
  · simp only [t, x, h.net, h.runs, h.moving, h.awake, h.unthrottled, late, h.late, why, first, q, h.credited, Bool.not_true,
      Bool.false_eq_true, or_self, not_false_eq_true]
  · unfold padded
    split
    · exact filled_taken
    · exact filled_taken.trans State.filled_padQueue
  · rw [if_neg (Nat.not_le.2 unfinished)]
    exact bought

end

/-! HOLD_TIMEOUT. -/

theorem exec_holdTimeout_stops {c : ClusterId} (holds : s.jobOf c = some j) (held : (s.cluster c).hold ≠ [])
    (late : s.holdLimit c < (s.cluster c).holdClk) : exec (.holdTimeout c) s =
      .next (s.reportStop 0x24 (fnCluster c) j { code := 0, unit := c, d0 := (s.cluster c).holdClk / 1000 }) := by
  change execHoldTimeout c s = _
  unfold execHoldTimeout
  simp only [holds]
  exact if_neg (by simp [held, late])

/-- Settles O35: the delivery of a granule by pourInto_inEntry, whose bytes are those of a store; a planned entry by the two equations
of its release, which Filled follows through the filling of the queue. -/
theorem deliveryFillsTheQueueInOrder : Obligations.DeliveryFillsTheQueueInOrder := by
  unfold Obligations.DeliveryFillsTheQueueInOrder
  intro s c n j p d t x q w holds running core
  have streaming : s.Streaming c n j p d := ⟨holds, running, core⟩
  refine ⟨fun r l served poured next flows inbound memory plain more inEntry room => ?_,
    fun f e l plan net runs moves awake unthrottled credit => ?_, exec_holdTimeout_stops holds⟩
  · have bytes : (t.deliver r l).pour.map (·.1) = r.data := Thread.deliver_bytes
    have length : (t.deliver r l).pour.length = r.data.length := List.length_map ..
    rw [← length] at inEntry room
    obtain ⟨emptied, clusters, filled, stored⟩ :=
      State.pourInto_inEntry (q := q) (t := t.deliver r l) (p := p) (sq := d.sq) (s := s) rfl room inEntry
    rw [bytes] at stored
    refine ⟨_, exec_granuleDelivered_next streaming served poured next flows inbound memory plain more, ?_, ?_, ?_,
      fun i hi => ?_, fun a outside => ?_⟩
    · rw [State.thread_setThread_same]
      rfl
    · rw [State.thread_setThread_same]
      rfl
    · rw [State.core_setThread, filled, length]
    · rw [State.mem_setThread, stored, List.getD_eq_getElem?_getD, List.getElem?_eq_getElem hi, Option.getD_some]
      exact Mem.byte_store_in hi
    · rw [State.mem_setThread, stored]
      exact outside.elim Mem.byte_store_of_lt Mem.byte_store_of_ge
  · extract_lets why
    have planned : s.Planned c n j p d := ⟨streaming, net, runs, moves, awake, unthrottled, credit⟩
    refine ⟨fun absent first => ?_, fun y there first more => ?_⟩
    · obtain ⟨holds, clk⟩ := State.missPlanned_holds (s := s) (c := c) (n := n) (first := f) (period := e) (why := why)
      obtain ⟨mem, cores⟩ := State.missPlanned_rest (s := s) (c := c) (n := n) (first := f) (period := e) (why := why)
      exact ⟨_, exec_plannedEntryRelease_missing planned plan (Cluster.heldByOther_eq_false first) absent, holds, clk, mem, cores⟩
    · have alone : x.heldByOther why d.rq = false := Cluster.heldByOther_eq_false (first.imp_right .inl)
      obtain ⟨u, v, releases, filled, counted⟩ := exec_plannedEntryRelease_taken planned plan alone there more
      obtain ⟨rx, hold, begun⟩ := State.takePlanned_takes (s := s) (c := c) (n := n) (p := p) (sq := d.sq) (first := f) (period := e)
        (why := why) (y := y)
      have cluster : (u.setThread c n v).cluster c = { (s.takePlanned c n p d.sq f e why y).cluster c with
          threads := ((u.setThread c n v).cluster c).threads } := by
        rw [State.setThread, State.cluster_setCluster_same]
        dsimp only
        rw [show u.cluster c = _ from congrArg (tget cluster0 · c) filled.clusters]
        rfl
      refine ⟨_, releases, ?_, ?_, ?_, ?_⟩
      · rw [cluster]
        exact rx
      · rw [cluster]
        exact (congrArg (·.contains why) hold).trans contains_filter_bne
      · rw [State.thread_setThread_same]
        exact counted
      · rw [State.core_setThread]
        exact filled.begun.trans begun

end Sys2Proof.Machine
end

/-! PROOFS. What an entry of the log (R448), an access to a granule of HBM (R254, R259), an event (R392) and a completion (R390)
leave of the rest. -/
section
namespace Sys2Proof.Machine

/-- From s to t only HBM with its marks, the log and registers differ, and CHIP.MODE does not. -/
structure HbmOnly (s t : State) : Prop where
  frame : t = { s with csr := t.csr, mem := t.mem, poison := t.poison, upset := t.upset, hbm := t.hbm, log := t.log, ceLog := t.ceLog }
  mode : t.rd (rg fnChip 0x030) = s.rd (rg fnChip 0x030)

variable {r s t : State}

theorem HbmOnly.refl (s : State) : HbmOnly s s := ⟨rfl, rfl⟩

theorem HbmOnly.trans (a : HbmOnly r s) (b : HbmOnly s t) : HbmOnly r t := by
  refine ⟨?_, b.mode.trans a.mode⟩
  have h := b.frame
  rw [a.frame] at h
  exact h

theorem HbmOnly.foldl {α : Type} {f : State → α → State} {l : List α} (hf : ∀ t x, HbmOnly r t → HbmOnly r (f t x))
    (h : HbmOnly r s) : HbmOnly r (l.foldl f s) :=
  List.foldlRecOn (motive := HbmOnly r) l f h fun t ht x _ => hf t x ht

theorem HbmOnly.units (h : HbmOnly s t) : UnitsKept s t := by
  rw [h.frame]
  exact ⟨rfl, rfl⟩

theorem HbmOnly.clusters (h : HbmOnly s t) : t.clusters = s.clusters := by rw [h.frame]
theorem HbmOnly.rings (h : HbmOnly s t) : t.rings = s.rings := by rw [h.frame]

theorem HbmOnly.bump {k hi lo n : Nat} (h : HbmOnly r s) (hk : rg fnChip 0x030 ≠ k) : HbmOnly r (s.bump k hi lo n) :=
  h.trans ⟨rfl, State.rd_setFld_ne hk⟩

/-- The registers of a stack are not those of the chip. -/
theorem chipMode_ne_hbm (n : Nat) {o : Nat} : rg fnChip 0x030 ≠ rg (fnHbm n) o := by
  simp only [rg, fnChip, fnHbm]
  omega

/-! The log. -/

theorem HbmOnly.logPut {e : LogEntry} (h : HbmOnly r s) : HbmOnly r (s.logPut e) := by
  have counted {x : LogBuf} {o : Nat} (ho : rg fnChip 0x030 ≠ rg fnLog o) :
      HbmOnly r ({ s with log := x }.bump (rg fnLog o) 63 0 1) := HbmOnly.bump (h.trans ⟨rfl, rfl⟩) ho
  unfold State.logPut
  dsimp only
  split
  · exact counted (by decide)
  · split
    · exact (counted (by decide)).bump (by decide)
    · exact counted (by decide)

theorem HbmOnly.logWrite {e : LogEntry} (h : HbmOnly r s) : HbmOnly r (s.logWrite e) := by
  unfold State.logWrite
  split
  · exact h
  · exact h.logPut

theorem HbmOnly.note {type sev func : Nat} {job : Option Nat} {b : Body} (h : HbmOnly r s) :
    HbmOnly r (s.note type sev func job b) := h.logWrite

theorem HbmOnly.report {type sev func : Nat} {job : Option Nat} {b : Body} (h : HbmOnly r s) :
    HbmOnly r (s.report type sev func job b) := h.logWrite

theorem HbmOnly.corrected {func memory : Nat} {job : Option Nat} (h : HbmOnly r s) :
    HbmOnly r (s.corrected func memory job) := by
  unfold State.corrected
  dsimp only
  split
  · exact HbmOnly.note (h.trans ⟨rfl, rfl⟩)
  · exact h.trans ⟨rfl, rfl⟩

/-! Granules. -/

theorem HbmOnly.readGranule {g : Nat} (h : HbmOnly r s) : HbmOnly r (s.readGranule g).1 := by
  have counted (o n : Nat) (e : W64) : HbmOnly r ((s.bump (rg (fnHbm (g / 0x2000000000)) o) 63 0 1).setPage n e) :=
    (h.bump (chipMode_ne_hbm _)).trans ⟨rfl, rfl⟩
  unfold State.readGranule
  split
  · exact h
  · dsimp only
    split
    · exact h
    · exact (counted _ _ _).corrected
    · split
      · exact HbmOnly.report ((counted _ _ _).trans ⟨rfl, rfl⟩)
      · exact (counted _ _ _).report

theorem HbmOnly.sealGranule {g : Nat} {poison : Bool} (h : HbmOnly r s) : HbmOnly r (s.sealGranule g poison) := by
  unfold State.sealGranule
  dsimp only
  split
  · exact h.trans ⟨rfl, rfl⟩
  · split <;> exact h.trans ⟨rfl, rfl⟩

theorem HbmOnly.writeGranule {a : Nat} {bs : List Byte} {poison : Bool} (h : HbmOnly r s) :
    HbmOnly r (s.writeGranule a bs poison) := by
  have stored {u : State} (k : HbmOnly r u) : HbmOnly r { u with mem := u.mem.store a bs } := k.trans ⟨rfl, rfl⟩
  unfold State.writeGranule
  dsimp only
  split
  · exact (stored (h.bump (chipMode_ne_hbm _)).readGranule).sealGranule
  · exact (stored h).sealGranule

theorem HbmOnly.writeHbm {a : Nat} {bs : List Byte} (h : HbmOnly r s) : HbmOnly r (s.writeHbm a bs) :=
  h.foldl fun _ _ k => k.writeGranule

theorem HbmOnly.putIndex {o : Nat} {v : W32} (h : HbmOnly r s) : HbmOnly r (s.putIndex o v) := h.writeHbm

/-! Events and completions. -/

/-- From x to y only the event buffer and the event ring's PROD differ. -/
structure EventsOnly (x y : Rings) : Prop where
  eq : y = { x with events := y.events, evProd := y.evProd }

theorem EventsOnly.drainEvents {x : Rings} {n : Nat} (h : EventsOnly x s.rings) : EventsOnly x (s.drainEvents n).rings := by
  induction n generalizing s with
  | zero => exact h
  | succ n ih =>
    unfold State.drainEvents
    split
    · exact h
    · extract_lets k a written rings popped
      have kept : EventsOnly x written.rings := by rwa [(HbmOnly.refl s).writeHbm.rings]
      clear_value written
      split
      · exact h
      · refine ih ?_
        rw [(HbmOnly.refl popped).putIndex.rings]
        constructor
        exact congrArg (fun y : Rings => { y with events := popped.rings.events, evProd := popped.rings.evProd }) kept.eq

/-- From s to t only HBM with its marks, the log, rings, waiting strands and registers differ, and CHIP.MODE does not: what an
event, a completion and a STRAND that ends leave. -/
structure ToldOnly (s t : State) : Prop where
  frame : t = { s with csr := t.csr, mem := t.mem, poison := t.poison, upset := t.upset, hbm := t.hbm, log := t.log, ceLog := t.ceLog
                       rings := t.rings, cmds := { s.cmds with strands := t.cmds.strands } }
  mode : t.rd (rg fnChip 0x030) = s.rd (rg fnChip 0x030)

theorem ToldOnly.refl (s : State) : ToldOnly s s := ⟨rfl, rfl⟩

theorem ToldOnly.trans (a : ToldOnly r s) (b : ToldOnly s t) : ToldOnly r t := by
  refine ⟨?_, b.mode.trans a.mode⟩
  have h := b.frame
  rw [a.frame] at h
  exact h

theorem HbmOnly.told (h : HbmOnly s t) : ToldOnly s t := by
  refine ⟨?_, h.mode⟩
  have f := h.frame
  rw [f]

theorem ToldOnly.setRings {x : Rings} (h : ToldOnly r s) : ToldOnly r { s with rings := x } := h.trans ⟨rfl, rfl⟩

theorem ToldOnly.units (h : ToldOnly s t) : UnitsKept s t := by
  rw [h.frame]
  exact ⟨rfl, rfl⟩

theorem ToldOnly.clk (h : ToldOnly s t) : t.clk = s.clk := by rw [h.frame]
theorem ToldOnly.chip (h : ToldOnly s t) : t.cmds.chip = s.cmds.chip := by rw [h.frame]

theorem ToldOnly.writeHbm {a : Nat} {bs : List Byte} (h : ToldOnly r s) : ToldOnly r (s.writeHbm a bs) :=
  h.trans (HbmOnly.refl s).writeHbm.told

theorem ToldOnly.putIndex {o : Nat} {v : W32} (h : ToldOnly r s) : ToldOnly r (s.putIndex o v) := h.writeHbm

theorem ToldOnly.drainEvents {n : Nat} (h : ToldOnly r s) : ToldOnly r (s.drainEvents n) := by
  induction n generalizing s with
  | zero => exact h
  | succ n ih =>
    unfold State.drainEvents
    split
    · exact h
    · extract_lets k a written popped
      have kept : ToldOnly r written := h.writeHbm
      clear_value written
      split
      · exact h
      · exact ih kept.setRings.putIndex

theorem ToldOnly.event {type func : Nat} {job : Option Nat} {detail : List Byte} (h : ToldOnly r s) :
    ToldOnly r (s.event type func job detail) := by
  unfold State.event
  split
  · exact h.setRings.drainEvents
  · exact h.setRings.trans ((HbmOnly.refl _).bump (by decide)).told

theorem ToldOnly.complete {pair op status seq : Nat} {id : W64} {result : List Byte} (h : ToldOnly r s) :
    ToldOnly r (s.complete pair op status seq id result) := by
  unfold State.complete
  extract_lets k e written
  have kept : ToldOnly r written := h.writeHbm
  clear_value written
  split
  · exact h
  · exact kept.setRings.putIndex

theorem ToldOnly.finish {pair op status seq : Nat} {id : W64} {result : List Byte} (h : ToldOnly r s) :
    ToldOnly r (s.finish pair op status seq id result) := by
  unfold State.finish
  split
  · exact h.setRings.complete
  · exact h

theorem ToldOnly.setStrands {l : List PendStrand} (h : ToldOnly r s) :
    ToldOnly r { s with cmds := { s.cmds with strands := l } } := h.trans ⟨rfl, rfl⟩

theorem ToldOnly.settleStrand {x : PendStrand} (h : ToldOnly r s) : ToldOnly r (s.settleStrand x) := by
  unfold State.settleStrand
  split
  · exact h.setStrands.finish
  · exact h

end Sys2Proof.Machine
end

/-! PROOFS. The rounds of the clusters (R272): what leaves them as they are, and a swap to another round (R273). -/
section
namespace Sys2Proof.Machine

variable {s t : State} {p j c : Nat}

/-- The round that each cluster is in. -/
def State.rounds (s : State) (d : Nat) : Nat := (s.cluster d).round

theorem rounds_of_clusters (h : t.clusters = s.clusters) : t.rounds = s.rounds := by
  funext d
  rw [State.rounds, State.cluster, h]
  rfl

theorem rounds_setCluster {x : Cluster} (h : x.round = s.rounds c) : (s.setCluster c x).rounds = s.rounds := by
  funext d
  rw [State.rounds, State.cluster_setCluster]
  split
  · next same => rw [h, same]
  · rfl

theorem rounds_setCluster_eq {x : Cluster} {d : Nat} : (s.setCluster c x).rounds d = if d = c then x.round else s.rounds d := by
  rw [State.rounds, State.cluster_setCluster]
  split <;> rfl

theorem rounds_foldl {α : Type} {f : State → α → State} {l : List α} (hf : ∀ t x, (f t x).rounds = t.rounds) :
    (l.foldl f s).rounds = s.rounds :=
  List.foldlRecOn (motive := fun t : State => t.rounds = s.rounds) l f rfl fun t ht x _ => (hf t x).trans ht

/-- The same where the state goes through the list with something beside it. -/
theorem rounds_foldl_fst {α β : Type} {f : State × β → α → State × β} {l : List α} {z : State × β}
    (hf : ∀ y x, (f y x).1.rounds = y.1.rounds) : (l.foldl f z).1.rounds = z.1.rounds :=
  List.foldlRecOn (motive := fun y : State × β => y.1.rounds = z.1.rounds) l f rfl fun y hy x _ => (hf y x).trans hy

theorem rounds_ite {t u : State} {x : Nat → Nat} {q : Prop} [Decidable q] (ht : t.rounds = x) (hu : u.rounds = x) :
    (if q then t else u).rounds = x := by
  split
  · exact ht
  · exact hu

/-! The stop of a job and the fence of a core. -/

theorem HbmOnly.rounds (h : HbmOnly s t) : t.rounds = s.rounds := rounds_of_clusters h.clusters

theorem rounds_setRxBytes {n : Nat} : (s.setRxBytes c n).rounds = s.rounds := rounds_setCluster rfl

theorem rounds_quietJob : (s.quietJob j).rounds = s.rounds := by
  unfold State.quietJob
  extract_lets cores clusters
  have cores_kept : cores.rounds = s.rounds := rounds_foldl fun _ _ => rfl
  have clusters_kept : clusters.rounds = cores.rounds :=
    rounds_foldl fun t c => rounds_setRxBytes.trans (rounds_setCluster rfl)
  clear_value clusters
  refine Eq.trans (rounds_foldl fun _ _ => rounds_ite rfl rfl) ?_
  exact (rounds_of_clusters (s := clusters) rfl).trans (clusters_kept.trans cores_kept)

theorem rounds_stopJob {cause func : Nat} : (s.stopJob j cause func).rounds = s.rounds := by
  rcases State.stopJob_cases (s := s) (j := j) (cause := cause) (func := func) with ⟨-, same⟩ | kept
  · rw [same]
  · rw [rounds_of_clusters (kept.clusters.trans State.clusters_markStop), rounds_quietJob]

theorem rounds_bindStop {code sidx : Nat} : (s.bindStop j code sidx).rounds = s.rounds := by
  have recorded : (s.recordBind j code sidx).rounds = s.rounds := rounds_ite rfl rfl
  exact rounds_stopJob.trans ((HbmOnly.refl _).report.rounds.trans recorded)

theorem rounds_fenceNote {kind idx func reason addr here : Nat} {job : Option Nat} :
    (s.fenceNote kind idx func job reason addr here).rounds = s.rounds :=
  rounds_of_clusters ((StreamsKept.refl s).report.event.clusters)

theorem rounds_fenceCluster {reason : Nat} : (s.fenceCluster c reason).rounds = s.rounds := by
  have fenced {x : Cluster} {kind idx func here : Nat} {job : Option Nat} (h : x.round = s.rounds c) :
      ((s.setCluster c x).fenceNote kind idx func job reason 0 here).rounds = s.rounds :=
    rounds_fenceNote.trans (rounds_setCluster h)
  unfold State.fenceCluster
  dsimp only
  split
  · rfl
  · split
    · exact fenced rfl
    · split
      · exact rounds_bindStop.trans (fenced rfl)
      · exact fenced rfl

theorem rounds_fenceCore {reason : Nat} : (s.fenceCore p reason).rounds = s.rounds := by
  unfold State.fenceCore
  extract_lets r k c marked fenced counted noted
  have kept : noted.rounds = s.rounds := rounds_fenceNote.trans (rounds_ite rfl rfl)
  exact rounds_ite rfl (rounds_ite (rounds_fenceCluster.trans kept) kept)

theorem rounds_countUe : (s.countUe p).rounds = s.rounds := by
  unfold State.countUe
  exact rounds_ite rfl rounds_fenceCore

/-! A swap (R273). -/

theorem rounds_findPad {read : Nat → Bool} : (s.findPad p read).rounds = s.rounds := by
  unfold State.findPad
  refine rounds_foldl fun t e => rounds_ite ?_ ?_
  · exact (HbmOnly.refl _).corrected.rounds
  · exact rounds_countUe.trans (HbmOnly.refl _).report.rounds

theorem rounds_readAcc {tile row0 rows ncol : Nat} : (s.readAcc p tile row0 rows ncol).rounds = s.rounds := by
  unfold State.readAcc
  refine rounds_foldl fun t e => rounds_ite ?_ ?_
  · exact (HbmOnly.refl _).corrected.rounds
  · exact rounds_countUe.trans (HbmOnly.refl _).report.rounds

theorem rounds_writeImage {a : Nat} {m : Mem} : (s.writeImage a m).rounds = s.rounds := by
  unfold State.writeImage
  dsimp only
  split
  · rfl
  · exact rounds_ite (HbmOnly.refl _).sealGranule.rounds rfl

theorem rounds_saveCore : (s.saveCore p).rounds = s.rounds := by
  unfold State.saveCore
  split
  · rfl
  · extract_lets scratch accs
    have accs_kept : accs.rounds = s.rounds := (rounds_foldl fun _ _ => rounds_readAcc).trans rounds_findPad
    clear_value accs
    exact rounds_writeImage.trans accs_kept

theorem rounds_readHbm {a n : Nat} : (s.readHbm a n).1.rounds = s.rounds :=
  rounds_foldl_fst fun _ _ => (HbmOnly.refl _).readGranule.rounds

theorem rounds_readImage {a : Nat} {x : Context} : (s.readImage a x).1.rounds = s.rounds :=
  rounds_foldl_fst fun _ _ => (HbmOnly.refl _).readGranule.rounds

theorem rounds_loadCode {vc : Nat} : (s.loadCode j vc p).rounds = s.rounds := by
  unfold State.loadCode
  split
  · rfl
  · exact rounds_readHbm

theorem rounds_restoreCore {vc : Nat} : (s.restoreCore j vc p).rounds = s.rounds := by
  unfold State.restoreCore
  split
  · rfl
  · exact rounds_loadCode.trans rounds_readImage

/-- A swap leaves the rounds of the other clusters. -/
theorem rounds_toRound {r d : Nat} : (s.toRound j c r).rounds d = if d = c then r else s.rounds d := by
  unfold State.toRound
  extract_lets moves saved restored n x swapped
  have saved_kept : saved.rounds = s.rounds := rounds_foldl fun _ _ => rounds_saveCore
  have restored_kept : restored.rounds = saved.rounds := by
    refine rounds_foldl fun t y => ?_
    obtain ⟨q, v⟩ := y
    cases v with
    | some vc => exact rounds_restoreCore
    | none => rfl
  have swapped_rounds : swapped.rounds d = if d = c then r else s.rounds d := by
    rw [rounds_setCluster_eq, restored_kept, saved_kept]
  split
  · exact swapped_rounds
  · exact swapped_rounds

end Sys2Proof.Machine
end

/-! PROOFS. What the fills that begin with a round or a span leave (R423): only the fills of virtual cores and registers change. -/
section
namespace Sys2Proof.Machine

variable {r s t : State} {p c : Nat}

/-- From s to t only fills of virtual cores and registers differ. -/
structure FillsOnly (s t : State) : Prop where
  core : ∀ p, t.core p = { s.core p with v := { (s.core p).v with
    fillNo := (t.core p).v.fillNo, fills := (t.core p).v.fills, ended := (t.core p).v.ended } }
  rest : t = { s with cores := t.cores, csr := t.csr }

theorem FillsOnly.refl (s : State) : FillsOnly s s := ⟨fun _ => rfl, rfl⟩

theorem FillsOnly.trans (a : FillsOnly r s) (b : FillsOnly s t) : FillsOnly r t := by
  constructor
  · intro p
    have h := b.core p
    rw [a.core p] at h
    exact h
  · have h := b.rest
    rw [a.rest] at h
    exact h

theorem FillsOnly.foldl {α : Type} {f : State → α → State} {l : List α} (hf : ∀ t x, FillsOnly t (f t x)) :
    FillsOnly s (l.foldl f s) :=
  List.foldlRecOn (motive := FillsOnly s) l f (.refl s) fun t ht x _ => ht.trans (hf t x)

/-- The shadow tap of one core leaves only fills where it leaves the clusters. -/
theorem TapOnly.fillsOnly (h : TapOnly p s t) (clusters : t.clusters = s.clusters) : FillsOnly s t := by
  constructor
  · intro q
    by_cases own : q = p
    · rw [own]
      exact h.own
    · rw [h.other q own]
  · have rest := h.rest
    rwa [clusters] at rest

theorem State.clusters_abandon {k : Nat} : (s.abandon p k).clusters = s.clusters := by
  unfold State.abandon
  split
  · rfl
  · split <;> rfl

theorem State.clusters_beginFill {k : Nat} : (s.beginFill p k).clusters = s.clusters := by
  unfold State.beginFill
  split
  · rfl
  · dsimp only
    split
    · split
      · exact State.clusters_abandon
      · rfl
    · rfl

theorem State.fillsOnly_beginFills : FillsOnly s (beginFills s p) :=
  FillsOnly.foldl fun _ _ => TapOnly.refl.beginFill.fillsOnly State.clusters_beginFill

theorem State.fillsOnly_roundFills : FillsOnly s (s.roundFills c) := FillsOnly.foldl fun _ _ => State.fillsOnly_beginFills

theorem FillsOnly.run (h : FillsOnly s t) : (t.core p).v.run = (s.core p).v.run := by rw [h.core]
theorem FillsOnly.now (h : FillsOnly s t) : (t.core p).now = (s.core p).now := by rw [h.core]
theorem FillsOnly.g (h : FillsOnly s t) : (t.core p).v.g = (s.core p).v.g := by rw [h.core]
theorem FillsOnly.cluster (h : FillsOnly s t) : t.cluster c = s.cluster c := by
  rw [h.rest]
  rfl

/-! The clk of a round (R50). -/

/-- Core k as a round begins: its clk is 0. -/
def Core.restarted (k : Core) : Core := { k with now := 0, heldN := 0 }

/-- The cores ps begin a round together. -/
def State.restartCores (s : State) (ps : List Nat) : State :=
  ps.foldl (fun s p => s.setCore p { s.core p with now := 0, heldN := 0 }) s

theorem State.core_restartCores {ps : List Nat} : (s.restartCores ps).core p = if p ∈ ps then (s.core p).restarted else s.core p := by
  induction ps generalizing s with
  | nil => rfl
  | cons q ps ih =>
    rw [State.restartCores, List.foldl_cons, ← State.restartCores, ih, State.core_setCore]
    by_cases own : p = q <;> by_cases more : p ∈ ps <;> simp [own, more, Core.restarted]

theorem State.restartCores_rest {ps : List Nat} : s.restartCores ps = { s with cores := (s.restartCores ps).cores } := by
  have only : ∃ l, s.restartCores ps = { s with cores := l } := by
    refine List.foldlRecOn (motive := fun t : State => ∃ l, t = { s with cores := l }) ps _ ⟨s.cores, rfl⟩ ?_
    rintro t ⟨l, rfl⟩ p -
    exact ⟨_, rfl⟩
  obtain ⟨l, h⟩ := only
  rw [h]

theorem State.newClock_eq : s.newClock c = (s.restartCores (coresOf c)).setCluster c
    { (s.restartCores (coresOf c)).cluster c with boxLog := [] } := by
  unfold State.newClock State.restartCores
  rfl

theorem State.core_newClock : (s.newClock c).core p = if p ∈ coresOf c then (s.core p).restarted else s.core p := by
  rw [State.newClock_eq, State.core_setCluster, State.core_restartCores]

theorem State.cluster_newClock : (s.newClock c).cluster c = { s.cluster c with boxLog := [] } := by
  have kept : (s.restartCores (coresOf c)).clusters = s.clusters := by rw [State.restartCores_rest]
  rw [State.newClock_eq, State.cluster_setCluster_same, State.cluster, kept, State.cluster]

theorem State.newClock_rest : s.newClock c = { s with cores := (s.newClock c).cores, clusters := (s.newClock c).clusters } := by
  rw [State.newClock_eq, State.restartCores_rest]
  rfl

theorem State.run_newClock : ((s.newClock c).core p).v.run = (s.core p).v.run := by
  rw [State.core_newClock]
  split <;> rfl

end Sys2Proof.Machine
end

/-! PROOFS. Rounds within a span: ROUND_BOUNDARY and ROUND_SWAP_DONE (R272, R273, R526). -/
section
namespace Sys2Proof.Machine

variable {s : State} {j c : Nat}

theorem rounds_countDiscard {k q n : Nat} : (s.countDiscard j c k q n).rounds = s.rounds := by
  unfold State.countDiscard
  split
  · rfl
  · exact (HbmOnly.refl _).note.rounds

theorem rounds_dropEntries {vc : Nat} {v : VCore} : (s.dropEntries j c vc v).1.rounds = s.rounds :=
  rounds_foldl fun _ _ => rounds_countDiscard

theorem rounds_endRoundStreams : (s.endRoundStreams c).rounds = s.rounds := by
  unfold State.endRoundStreams
  exact rounds_setCluster rfl

/-- What a boundary discards leaves every cluster in its round. -/
theorem rounds_dropRound : (s.dropRound j c).rounds = s.rounds := by
  unfold State.dropRound
  refine Eq.trans (rounds_endRoundStreams) (rounds_foldl fun t p => ?_)
  split
  · exact rounds_dropEntries
  · rfl

/-- The round of cluster c, in the span of job j, is over, and round r is the next with a virtual core to run. -/
structure State.RoundOver (s : State) (c j r : Nat) : Prop where
  job : s.jobOf c = some j
  next : s.nextRound j c = some r
  span : (s.job j).phase = .span
  running : s.stopped j = false
  still : (s.cluster c).swapping = false
  stand : ∀ p ∈ s.roundCores j c, ((s.core p).v.run.isArrived || (s.core p).v.run.isHalted) = true
  noneStuck : s.stuckOf j [c] false = none
  quiet : s.roundQuiet j c = true

theorem exec_roundBoundary_swaps {c : ClusterId} {r : Nat} (h : s.RoundOver c j r) : exec (.roundBoundary c) s =
    .next (((s.dropRound j c).toRound j c r).setCluster c
      { ((s.dropRound j c).toRound j c r).cluster c with swapping := true }) := by
  change execRoundBoundary c s = _
  have stand := List.all_eq_true.2 h.stand
  unfold execRoundBoundary
  simp only [h.job, h.next]
  rw [if_neg (by simp [h.span, h.running, h.still, stand]), State.faultStuck_none h.noneStuck,
    if_neg (by simp [h.running, h.quiet])]

theorem exec_roundSwapDone_swapping {c : ClusterId} (h : (s.cluster c).swapping = true) : exec (.roundSwapDone c) s =
    .next (((s.setCluster c { s.cluster c with swapping := false }).newClock c).roundFills c) := by
  refine if_neg ?_
  simp [h]

/-- Settles O32: the swap to the next round by rounds_toRound, its end by what the clk and the fills of the round that starts leave. -/
theorem roundsFollowWithinASpan : Obligations.RoundsFollowWithinASpan := by
  unfold Obligations.RoundsFollowWithinASpan
  intro s c
  constructor
  · intro j r job next span running still stand stuck quiet
    have swaps := exec_roundBoundary_swaps ⟨job, next, span, running, still, stand, stuck, quiet⟩
    have round (d : Nat) : ((s.dropRound j c).toRound j c r).rounds d = if d = c then r else s.rounds d := by
      rw [rounds_toRound, rounds_dropRound]
    refine ⟨_, swaps, by rw [State.cluster_setCluster_same], ?_, fun d other => ?_⟩
    · rw [State.cluster_setCluster_same]
      exact (round c).trans (if_pos rfl)
    · rw [State.cluster_setCluster_ne other]
      exact (round d).trans (if_neg other)
  · intro swapping
    have fills := State.fillsOnly_roundFills (c := c) (s := (s.setCluster c { s.cluster c with swapping := false }).newClock c)
    refine ⟨_, exec_roundSwapDone_swapping swapping, ?_, ?_, ?_, ?_, fun p inside => ?_, fun p => ?_⟩
    · rw [fills.cluster, State.cluster_newClock, State.cluster_setCluster_same]
    · rw [fills.cluster, State.cluster_newClock, State.cluster_setCluster_same]
    · rw [fills.rest, State.newClock_rest]
      rfl
    · rw [fills.rest, State.newClock_rest]
      rfl
    · rw [fills.now, State.core_newClock, if_pos inside]
      rfl
    · rw [fills.g, State.core_newClock]
      split <;> rfl

end Sys2Proof.Machine
end

/-! PROOFS. The gates of a splice: GATES_OPEN (R63, R278, R340, R369). -/
section
namespace Sys2Proof.Machine

variable {r s t : State} {j : Nat}

/-- The entry of the splice under way is read from the job and its programs. -/
theorem State.entry_of_jobs (h : t.jobs = s.jobs) : t.entry j = s.entry j := by
  unfold State.entry State.spliceAt State.header State.image State.job
  rw [h]

theorem UnitsKept.moveConn {k : Nat} (h : UnitsKept r s) : UnitsKept r (s.moveConn k) := by
  unfold State.moveConn
  dsimp only
  split
  · exact h
  · split
    · exact ⟨h.cores, h.jobs⟩
    · exact h

theorem UnitsKept.reopenConn {k : Nat} (h : UnitsKept r s) : UnitsKept r (s.reopenConn k) := by
  unfold State.reopenConn
  dsimp only
  split
  · exact h
  · exact UnitsKept.moveConn ⟨h.cores, h.jobs⟩

theorem UnitsKept.finish {p op status seq : Nat} {id : W64} {result : List Byte} (h : UnitsKept r s) :
    UnitsKept r (s.finish p op status seq id result) := h.trans (ToldOnly.refl s).finish.units

/-- A peer-table update leaves cores and jobs. -/
theorem UnitsKept.applyPeers (h : UnitsKept r s) : UnitsKept r (s.applyPeers j) := by
  unfold State.applyPeers
  split
  · exact h
  · split
    · exact h
    · extract_lets changed moved written set net cmds applied reopened
      have written_kept : UnitsKept r written := h.foldl fun _ _ k => k.writeHbm
      clear_value written
      have applied_kept : UnitsKept r applied := ⟨written_kept.cores, written_kept.jobs⟩
      clear_value applied
      refine UnitsKept.finish (UnitsKept.foldl (fun t k kept => ?_) applied_kept)
      split
      · exact kept.reopenConn
      · exact kept

/-- Job j stands at the gates of a splice, it has not stopped, and SCH is not dead. -/
structure State.AtGates (s : State) (j : Nat) : Prop where
  phase : (s.job j).phase = .gates
  running : s.stopped j = false
  alive : s.boot.dead.contains 2 = false

theorem exec_gatesOpen_dead {j : JobId} (phase : (s.job j).phase = .gates) (running : s.stopped j = false)
    (dead : s.boot.dead.contains 2 = true) : exec (.gatesOpen j) s = .next (s.reportStop 0x60 fnSch j { unit := 2 }) :=
  (if_neg (by simp [phase, running])).trans (if_pos dead)

/-- A service that holds the gates is counted elsewhere than in SPLICEWAIT. -/
theorem State.rd_spliceWait_bump {n : Nat} : ((s.bump (rg fnSch 0x048) 47 0 1).spliceWait n).rd (rg fnSch 0x010) =
    (s.spliceWait n).rd (rg fnSch 0x010) := by
  have kept : (s.bump (rg fnSch 0x048) 47 0 1).rd (rg fnSch 0x010) = s.rd (rg fnSch 0x010) := State.rd_setFld_ne (by decide)
  simp only [State.spliceWait, State.bump, State.setFld, State.rd_wr_same, State.fld]
  simp only [State.bump, State.setFld, State.fld] at kept
  rw [kept]

theorem exec_gatesOpen_closed {j : JobId} (h : s.AtGates j)
    (closed : (s.serveGates j).gatesClosed j = true ∨ (s.serveGates j).servicesHold j = true) :
    let y := (s.serveGates j).setJob j { (s.serveGates j).job j with gateClk := ((s.serveGates j).job j).gateClk + 1 }
    exec (.gatesOpen j) s =
      .next ((if (s.serveGates j).servicesHold j then y.bump (rg fnSch 0x048) 47 0 1 else y).spliceWait 1) :=
  (if_neg (by simp [h.phase, h.running])).trans ((if_neg (Bool.eq_false_iff.1 h.alive)).trans (if_pos closed))

/-- The state that open gates leave, before the phase: a wait is noted, and a peer-table update that is due applies. -/
def State.passGates (s : State) (j : Nat) : State :=
  (if (s.job j).gateClk = 0 then s else s.note 0x63 0 fnSch (some j) { code := 2, d0 := (s.job j).gateClk }).applyPeers j

theorem State.passGates_units : UnitsKept s (s.passGates j) := by
  unfold State.passGates
  refine UnitsKept.applyPeers ?_
  split
  · exact .refl s
  · exact (UnitsKept.refl s).note

theorem exec_gatesOpen_open {j : JobId} (h : s.AtGates j) (gates : (s.serveGates j).gatesClosed j = false)
    (services : (s.serveGates j).servicesHold j = false) :
    let u := (s.serveGates j).passGates j
    exec (.gatesOpen j) s = .next (u.setJob j { u.job j with
      phase := .modeChange, applying := ((s.serveGates j).job j).staged.length
      updating := (u.entry j).update || (u.job j).updating }) :=
  (if_neg (by simp [h.phase, h.running])).trans ((if_neg (Bool.eq_false_iff.1 h.alive)).trans (if_neg (by simp [gates, services])))

end Sys2Proof.Machine
end

/-! PROOFS. The reserved slot's background work (R285, R286, R463): MODE_CHANGE_DONE and CHIP_MODE_APPLY (R385). -/
section
namespace Sys2Proof.Machine

variable {r s t : State} {j p : Nat}

/-- From s to t the clusters stay as they are, and job j stays at its step. -/
structure StepKept (j : Nat) (s t : State) : Prop where
  clusters : t.clusters = s.clusters
  step : (t.job j).step = (s.job j).step

theorem StepKept.refl (j : Nat) (s : State) : StepKept j s s := ⟨rfl, rfl⟩

theorem StepKept.trans (a : StepKept j r s) (b : StepKept j s t) : StepKept j r t :=
  ⟨b.clusters.trans a.clusters, b.step.trans a.step⟩

theorem StepKept.foldl {α : Type} {f : State → α → State} {l : List α} (hf : ∀ t x, StepKept j r t → StepKept j r (f t x))
    (h : StepKept j r s) : StepKept j r (l.foldl f s) :=
  List.foldlRecOn (motive := StepKept j r) l f h fun t ht x _ => hf t x ht

theorem StepKept.setJob {x : Job} (h : StepKept j r s) (step : x.step = (s.job j).step) : StepKept j r (s.setJob j x) :=
  h.trans ⟨rfl, by rw [State.job_setJob_same, step]⟩

/-- Work on HBM and the log keeps both. -/
theorem StepKept.hbm (h : StepKept j r s) (k : HbmOnly s t) : StepKept j r t :=
  h.trans ⟨k.clusters, by rw [k.units.job]⟩

theorem StepKept.ldPut {b : List Byte} (h : StepKept j r s) : StepKept j r (s.ldPut b) := by
  have written {a : Nat} : StepKept j r (s.writeHbm a b) := h.hbm (HbmOnly.refl s).writeHbm
  unfold State.ldPut
  refine StepKept.hbm ?_ (HbmOnly.refl _).putIndex
  exact ⟨written.clusters, written.step⟩

theorem StepKept.drainShadows {f : Shadow → Bool} {n : Nat} (h : StepKept j r s) : StepKept j r (s.drainShadows f n) :=
  h.foldl fun t x k => by
    split
    · exact k
    · exact StepKept.ldPut ⟨k.clusters, k.step⟩

theorem StepKept.drainLog {n : Nat} (h : StepKept j r s) : StepKept j r (s.drainLog n) := by
  induction n generalizing s with
  | zero => exact h
  | succ n ih =>
    unfold State.drainLog
    split
    · exact h
    · dsimp only
      split
      · exact h
      · exact ih (StepKept.ldPut ⟨h.clusters, h.step⟩)

theorem StepKept.scrubRead {n pch cls : Nat} (h : StepKept j r s) : StepKept j r (s.scrubRead n pch cls) := by
  unfold State.scrubRead
  extract_lets i g was
  split
  · exact h
  · have read : StepKept j r (s.readGranule g).1 := h.hbm (HbmOnly.refl s).readGranule
    split
    next u bad found =>
      rw [found] at read
      extract_lets x hbm noted sealedG
      have kept : StepKept j r noted := ⟨read.clusters, read.step⟩
      have sealed_kept : StepKept j r sealedG := by
        unfold sealedG
        split
        · exact kept.hbm (HbmOnly.refl _).sealGranule
        · exact kept
      clear_value sealedG
      split
      · exact ⟨sealed_kept.clusters, sealed_kept.step⟩
      · exact sealed_kept

theorem StepKept.scrubReads {n k : Nat} (h : StepKept j r s) : StepKept j r (State.scrubReads n k s) := by
  induction k generalizing s with
  | zero => exact h
  | succ k ih => exact ih h.scrubRead

theorem StepKept.scrubTurn (h : StepKept j r s) : StepKept j r s.scrubTurn := by
  unfold State.scrubTurn
  refine StepKept.foldl (fun _ _ k => k.scrubReads) ?_
  have sealed_kept : StepKept j r (s.hbm.writeBack.foldl (fun s g => s.sealGranule g (s.poison.contains g))
      { s with hbm := { s.hbm with writeBack := [] } }) :=
    StepKept.foldl (fun _ _ k => k.hbm (HbmOnly.refl _).sealGranule) ⟨h.clusters, h.step⟩
  exact ⟨sealed_kept.clusters, sealed_kept.step⟩

theorem StepKept.addRepair {x : Repair} (h : StepKept j r s) : StepKept j r (s.addRepair x) := by
  have frame := (State.repairsOnly_addRepair s x).frame
  rw [frame]
  exact ⟨h.clusters, h.step⟩

theorem StepKept.lastFail {kind func unit row : Nat} (h : StepKept j r s) : StepKept j r (s.lastFail kind func unit row) := by
  unfold State.lastFail
  dsimp only
  split
  · exact h
  · exact ⟨h.clusters, h.step⟩

theorem StepKept.pinHole (h : StepKept j r s) : StepKept j r (s.pinHole p) := by
  have pinned : StepKept j r (s.setFlag (kPinned p) (p % 64) true) := ⟨h.clusters, h.step⟩
  exact pinned.lastFail.addRepair

theorem StepKept.slice {bad : Bool} (h : StepKept j r s) : StepKept j r (s.slice p bad) := by
  unfold State.slice
  dsimp only
  split
  · exact h
  · split
    · exact ⟨h.clusters, h.step⟩
    · split
      · exact h.pinHole
      · exact ⟨h.clusters, h.step⟩

theorem HbmOnly.copyGranule {a b : Nat} (h : HbmOnly r s) : HbmOnly r (s.copyGranule a b) := by
  unfold State.copyGranule
  exact h.readGranule.writeGranule

theorem StepKept.haloCopy {i n : Nat} {x : Svc} (h : StepKept j r s) : StepKept j r (s.haloCopy i x n) := by
  unfold State.haloCopy
  extract_lets m copied c
  have copied_kept : StepKept j r copied := h.foldl fun t k kept => kept.hbm (HbmOnly.refl t).copyGranule
  exact ⟨copied_kept.clusters, copied_kept.step⟩

theorem StepKept.serveTask {k task : Nat} {bad : List Nat} (h : StepKept j r s) : StepKept j r (s.serveTask k task bad) := by
  unfold State.serveTask
  split
  · exact StepKept.drainShadows ⟨h.clusters, h.step⟩
  · exact StepKept.drainLog ⟨h.clusters, h.step⟩
  · exact h.scrubTurn
  · exact StepKept.foldl (fun _ _ k => k.slice) ⟨h.clusters, h.step⟩
  · split
    · exact StepKept.haloCopy ⟨h.clusters, h.step⟩
    · exact h

theorem StepKept.promoteTask {k task : Nat} {bad : List Nat} (h : StepKept j r s) : StepKept j r (s.promoteTask k task bad) := by
  have served : StepKept j r (s.serveTask k task bad) := h.serveTask
  unfold State.promoteTask
  refine StepKept.hbm ?_ (HbmOnly.refl _).note
  exact ⟨served.clusters, served.step⟩

theorem StepKept.turns {bg : Nat} {bad done : List Nat} (h : StepKept j r s) : StepKept j r (s.turns j bg bad done).1 := by
  unfold State.turns
  split
  · exact h
  · exact StepKept.foldl (fun _ _ k => k.serveTask.setJob rfl) ⟨h.clusters, h.step⟩

theorem StepKept.ageTasks {done : List Nat} (h : StepKept j r s) : StepKept j r (s.ageTasks j done) := h.setJob rfl

/-- The state that the background work of job j's splice leaves. -/
def State.background (s : State) (j : Nat) (bad : List Nat) : State :=
  let u := (s.promoted j).foldl (fun s t => s.promoteTask j t bad) s
  let z := u.turns j (u.entry j).bglen bad (s.promoted j)
  z.1.ageTasks j z.2

theorem State.stepKept_background {bad : List Nat} : StepKept j s (s.background j bad) :=
  StepKept.ageTasks (StepKept.turns (StepKept.foldl (fun _ _ k => k.promoteTask) (.refl j s)))

theorem exec_modeChangeDone_waits {j : JobId} {bad : List CoreId} (phase : (s.job j).phase = .modeChange) (running : s.stopped j = false)
    (chip : s.cmds.chip.isSome = true) (prog : (s.job j).prog.isSome = true) :
    exec (.modeChangeDone j bad) s = .next (s.spliceWait 1) :=
  (if_neg (by simp [phase, running])).trans (if_pos (by simp [chip, prog]))

theorem exec_modeChangeDone_goes {j : JobId} {bad : List CoreId} (phase : (s.job j).phase = .modeChange) (running : s.stopped j = false)
    (free : s.cmds.chip = none ∨ (s.job j).prog = none) :
    let u := s.background j (bad.map (·.val))
    exec (.modeChangeDone j bad) s = .next (u.setJob j { u.job j with phase := .reserved }) :=
  (if_neg (by simp [phase, running])).trans (if_neg (by rcases free with h | h <;> simp [h]))

/-! The chip mode. -/

/-- CADENCE and PCAP of a strand are registers. -/
theorem State.setChipMode_frame {i : Nat} : ∃ l, s.setChipMode i = { s with csr := l } := by
  have flags (t : State) (cad : Nat) :
      ∃ l, (List.range 8).foldl (fun s n => s.setFlag (rg (fnHbm n) 0) 1 (cad == 0)) t = { t with csr := l } := by
    refine List.foldlRecOn (motive := fun u : State => ∃ l, u = { t with csr := l }) _ _ ⟨t.csr, rfl⟩ ?_
    rintro u ⟨l, rfl⟩ n -
    exact ⟨_, rfl⟩
  unfold State.setChipMode
  extract_lets b cad cap cadence
  have set : ∃ l, cadence = { s with csr := l } := by
    unfold cadence
    split
    · exact ⟨_, rfl⟩
    · obtain ⟨l, h⟩ := flags (s.setFld (rg fnChip 0x030) 32 32 cad) cad
      exact ⟨l, h⟩
  obtain ⟨l, h⟩ := set
  rw [h]
  split <;> exact ⟨_, rfl⟩

theorem State.cores_setChipMode {i : Nat} : (s.setChipMode i).cores = s.cores := by
  obtain ⟨l, h⟩ := State.setChipMode_frame (s := s) (i := i)
  rw [h]

/-- CHIP.MODE behind the cadence of a strand. -/
def cadenceMode (w : W64) (cad : Nat) : W64 := if cad = 0xFF then w else setField w 32 32 cad
/-- CHIP.MODE behind the power cap of a strand. -/
def capMode (w : W64) (cap : Nat) : W64 := if cap = 0xFF then w else setField w 35 34 cap

theorem State.mode_setChipMode {i : Nat} : (s.setChipMode i).rd (rg fnChip 0x030) =
    capMode (cadenceMode (s.rd (rg fnChip 0x030)) (fieldLE (s.strandRec i) 2 1)) (fieldLE (s.strandRec i) 3 1) := by
  have flags (t : State) (cad : Nat) : ((List.range 8).foldl (fun s n => s.setFlag (rg (fnHbm n) 0) 1 (cad == 0)) t).rd (rg fnChip 0x030) =
      t.rd (rg fnChip 0x030) :=
    List.foldlRecOn (motive := fun u : State => u.rd (rg fnChip 0x030) = t.rd (rg fnChip 0x030)) _ _ rfl
      fun u hu n _ => (State.rd_setFld_ne (chipMode_ne_hbm n)).trans hu
  unfold State.setChipMode
  extract_lets b cad cap cadence
  have set : cadence.rd (rg fnChip 0x030) = cadenceMode (s.rd (rg fnChip 0x030)) cad := by
    unfold cadence cadenceMode
    split
    · rfl
    · rw [flags, State.setFld, State.rd_wr_same]
  clear_value cadence
  unfold capMode
  split
  · exact set
  · rw [State.rd_setFld_ne (by decide), State.setFld, State.rd_wr_same, set]

theorem getField_capMode_cadence {w : W64} {cap : Nat} : getField (capMode w cap) 32 32 = getField w 32 32 := by
  unfold capMode
  split
  · rfl
  · exact getField_setField_disjoint (by omega) (by omega)

/-- The state whose chip mode strand i has set, with no chip mode pending. -/
def State.chipSet (s : State) (i : Nat) : State :=
  { s.setChipMode i with cmds := { (s.setChipMode i).cmds with chip := none } }

theorem State.toldOnly_applyChip {i : Nat} : ToldOnly (s.chipSet i) (s.applyChip i) := by
  unfold State.applyChip
  extract_lets set cmds free event
  have told : ToldOnly (s.chipSet i) event := (ToldOnly.refl (s.chipSet i)).event
  clear_value event
  split
  · exact told
  · exact told.setStrands.settleStrand

theorem exec_chipModeApply_applies {i : Nat} (chip : s.cmds.chip = some i) (up : s.pwrUp = true)
    (stand : s.definedJobs.all (fun k => (s.job k).prog.isNone || s.unspliced k || (s.job k).phase == .modeChange) = true) :
    exec .chipModeApply s = .next (s.applyChip i) := by
  change execChipModeApply s = _
  unfold execChipModeApply
  simp only [chip]
  exact if_pos (by simp only [up, stand, Bool.and_self])

end Sys2Proof.Machine
end

/-! PROOFS. The phases between the drain and the load: RESERVED_SLOT_DONE and SWAP_DONE, and the order of Table 9.4 (R273, R278, R385). -/
section
namespace Sys2Proof.Machine

variable {s : State} {j : Nat}

theorem exec_reservedSlotDone_swaps {j : JobId} (phase : (s.job j).phase = .reserved) (running : s.stopped j = false) :
    exec (.reservedSlotDone j) s = .next (s.setJob j { s.job j with phase := .swap }) :=
  if_pos (by simp [phase, running])

/-- The clusters cs back in round 0. -/
def State.swapBack (s : State) (j : Nat) (cs : List Nat) : State :=
  cs.foldl (fun s c => if (s.cluster c).round = 0 then s else s.toRound j c 0) s

theorem rounds_swapBack {cs : List Nat} {d : Nat} : (s.swapBack j cs).rounds d = if d ∈ cs then 0 else s.rounds d := by
  have step (t : State) (c : Nat) :
      (if (t.cluster c).round = 0 then t else t.toRound j c 0).rounds d = if d = c then 0 else t.rounds d := by
    split
    · next back =>
      split
      · next own => rw [own]; exact back
      · rfl
    · exact rounds_toRound
  induction cs generalizing s with
  | nil => rfl
  | cons c cs ih =>
    rw [State.swapBack, List.foldl_cons, ← State.swapBack, ih, step]
    by_cases own : d = c <;> by_cases more : d ∈ cs <;> simp [own, more]

theorem exec_swapDone_loads {j : JobId} (phase : (s.job j).phase = .swap) (running : s.stopped j = false) :
    let u := s.swapBack j (s.boundClusters j)
    exec (.swapDone j) s = .next (u.setJob j { u.job j with phase := .load }) :=
  if_neg (by simp [phase, running])

/-- Settles O30: each phase by its command's equation; the gates by what passing them leaves of the job, the reserved slot by
StepKept, the swap by rounds_swapBack, and the chip mode by what applyChip leaves of CHIP.MODE. -/
theorem splicePhasesFollowEachOther : Obligations.SplicePhasesFollowEachOther := by
  unfold Obligations.SplicePhasesFollowEachOther
  intro s j x u y running
  refine ⟨fun phase dead => exec_gatesOpen_dead phase running dead, fun phase alive closed => ?_,
    fun phase alive gates services => ?_, fun bad phase chip prog => exec_modeChangeDone_waits phase running chip prog,
    fun bad phase free => ?_, fun phase => exec_reservedSlotDone_swaps phase running, fun phase => ?_,
    fun i chip up stand => ?_⟩
  · refine ⟨_, exec_gatesOpen_closed ⟨phase, running, alive⟩ closed, ?_, ?_⟩
    · split <;> exact State.job_setJob_same
    · split
      · exact State.rd_spliceWait_bump
      · rfl
  · have kept : UnitsKept u (u.passGates j) := State.passGates_units
    refine ⟨_, exec_gatesOpen_open ⟨phase, running, alive⟩ gates services, ?_⟩
    rw [State.job_setJob_same, kept.job, State.entry_of_jobs kept.jobs]
  · have kept := State.stepKept_background (s := s) (j := j) (bad := bad.map (·.val))
    refine ⟨_, exec_modeChangeDone_goes phase running free, ?_, ?_, kept.clusters⟩
    · rw [State.job_setJob_same]
    · rw [State.job_setJob_same]
      exact kept.step
  · refine ⟨_, exec_swapDone_loads phase running, by rw [State.job_setJob_same], fun c bound => ?_⟩
    exact rounds_swapBack.trans (if_pos bound)
  · have told := State.toldOnly_applyChip (s := s) (i := i)
    have mode : (s.applyChip i).rd (rg fnChip 0x030) = capMode (cadenceMode (s.rd (rg fnChip 0x030))
        (fieldLE (s.strandRec i) 2 1)) (fieldLE (s.strandRec i) 3 1) := told.mode.trans State.mode_setChipMode
    refine ⟨_, exec_chipModeApply_applies chip up stand, told.chip, told.units.cores.trans State.cores_setChipMode,
      fun cad => ?_, fun cap => ?_⟩
    · rw [State.fld, mode, getField_capMode_cadence, cadenceMode, if_neg (by omega), getField_setField_same (by omega)]
      exact Nat.mod_eq_of_lt cad
    · rw [State.fld, mode, capMode, if_neg (by omega), getField_setField_same (by omega)]
      exact Nat.mod_eq_of_lt cap

end Sys2Proof.Machine
end

/-! PROOFS. LOAD_PHASE (Table 9.4, R268): a program that stays is checked, and the entry's sets and streams load. -/
section
namespace Sys2Proof.Machine

variable {r s t : State} {j c : Nat}

/-- From s to t memory stays, and of job j all but the images of its virtual cores and its promoted drain. -/
structure LoadOnly (j : Nat) (s t : State) : Prop where
  mem : t.mem = s.mem
  job : QuiesceOnly j s t

theorem LoadOnly.refl (j : Nat) (s : State) : LoadOnly j s s := ⟨rfl, .refl j s⟩

theorem LoadOnly.foldl {α : Type} {f : State → α → State} {l : List α} (hf : ∀ t x, LoadOnly j r t → LoadOnly j r (f t x))
    (h : LoadOnly j r s) : LoadOnly j r (l.foldl f s) :=
  List.foldlRecOn (motive := LoadOnly j r) l f h fun t ht x _ => hf t x ht

theorem LoadOnly.countDiscard {k q n : Nat} (h : LoadOnly j r s) : LoadOnly j r (s.countDiscard j c k q n) := by
  refine ⟨?_, h.job.countDiscard⟩
  unfold State.countDiscard
  split
  · exact h.mem
  · exact State.mem_logWrite.trans h.mem

theorem LoadOnly.onVCores {f : State → Nat → VCore → State × VCore}
    (hf : ∀ t vc v, LoadOnly j r t → LoadOnly j r (f t vc v).1) (h : LoadOnly j r s) : LoadOnly j r (s.onVCores j f) := by
  unfold State.onVCores
  refine LoadOnly.foldl (fun t e k => ?_) (LoadOnly.foldl (fun t p k => ?_) h)
  · split
    · exact ⟨(hf _ _ _ k).mem, (hf _ _ _ k).job.setContext⟩
    · exact k
  · split
    · exact ⟨(hf _ _ _ k).mem, (hf _ _ _ k).job.kept rfl⟩
    · exact k

theorem LoadOnly.loadSets {x : Splice} (h : LoadOnly j r s) : LoadOnly j r (s.loadSets j x) := by
  unfold State.loadSets
  refine LoadOnly.onVCores (fun t vc v k => ?_) h
  dsimp only
  split
  · exact k.foldl fun _ _ kept => kept.countDiscard
  · exact k

theorem LoadOnly.loadStreams {x : Splice} (h : LoadOnly j r s) : LoadOnly j r (s.loadStreams j c x) := by
  unfold State.loadStreams
  split
  · exact h
  · exact ⟨h.mem, h.job.kept rfl⟩

/-- The sets and streams of the splice's entry, loaded. -/
def State.loaded (s : State) (j : Nat) : State :=
  let x := s.spliceAt j (s.job j).sidx
  ((s.loadSets j x).boundClusters j).foldl (fun t c => t.loadStreams j c x) (s.loadSets j x)

theorem State.loaded_loadOnly : LoadOnly j s (s.loaded j) :=
  LoadOnly.foldl (fun _ _ k => k.loadStreams) (LoadOnly.refl j s).loadSets

/-- Job j stands at the load of a splice without a program that waits to be bound, and has not stopped. -/
structure State.AtLoad (s : State) (j : Nat) : Prop where
  phase : (s.job j).phase = .load
  running : s.stopped j = false
  noneWaits : (s.job j).pending = none

theorem exec_loadPhase_ends {j : JobId} (h : s.AtLoad j) (free : (s.job j).prog = none ∨ (s.job j).binding = true) :
    exec (.loadPhase j) s = .next ((s.setJob j { s.job j with phase := .span, binding := false }).applyStrands j (s.job j).applying) := by
  change execLoadPhase j s = _
  unfold execLoadPhase
  rw [if_neg (by simp [h.phase, h.running])]
  simp only [h.noneWaits]
  split
  · rfl
  · next g prog =>
    refine if_pos ?_
    rcases free with absent | binding
    · exact absurd (prog.symm.trans absent) (by simp)
    · simp [binding]

/-- The state in which a program that stays awaits its release. -/
def State.awaitRelease (s : State) (j : Nat) : State :=
  (s.loaded j).setJob j { (s.loaded j).job j with phase := .align, binding := false, started := true }

/-- A program that stays is checked first, and loaded if it may be bound. -/
theorem exec_loadPhase_stays {j : JobId} {g : Program} (h : s.AtLoad j) (prog : (s.job j).prog = some g)
    (binding : (s.job j).binding = false) (moved : s.moved j = false) : exec (.loadPhase j) s =
    (s.bindBad j g.image).elim
      (.next (if (s.job j).aligned then (s.awaitRelease j).alignReady j else s.awaitRelease j))
      (fun code => .next (s.bindStop j code (s.job j).sidx)) := by
  change execLoadPhase j s = _
  unfold execLoadPhase
  rw [if_neg (by simp [h.phase, h.running])]
  simp only [h.noneWaits, prog, binding, moved, Option.isSome_none, Bool.false_and, Bool.or_self, Bool.not_false, Bool.and_false,
    Bool.false_eq_true, if_false]
  cases s.bindBad j g.image with
  | none => rfl
  | some code => rfl

end Sys2Proof.Machine
end

/-! PROOFS. The start of a span (R279, R385, R423): what SPAN_RELEASE leaves of the job, its virtual cores and the clk. -/
section
namespace Sys2Proof.Machine

variable {r s t u : State} {j c n : Nat}

/-- From s to t the clk stays, job j stays at its step, and every virtual core runs or stands as it did. -/
structure RunsKept (j : Nat) (s t : State) : Prop where
  clk : t.clk = s.clk
  step : (t.job j).step = (s.job j).step
  run : ∀ p, (t.core p).v.run = (s.core p).v.run

theorem RunsKept.refl (j : Nat) (s : State) : RunsKept j s s := ⟨rfl, rfl, fun _ => rfl⟩

theorem RunsKept.trans (a : RunsKept j r s) (b : RunsKept j s t) : RunsKept j r t :=
  ⟨b.clk.trans a.clk, b.step.trans a.step, fun p => (b.run p).trans (a.run p)⟩

theorem RunsKept.foldl {α : Type} {f : State → α → State} {l : List α} (hf : ∀ t x, RunsKept j r t → RunsKept j r (f t x))
    (h : RunsKept j r s) : RunsKept j r (l.foldl f s) :=
  List.foldlRecOn (motive := RunsKept j r) l f h fun t ht x _ => hf t x ht

theorem RunsKept.of_kept (h : RunsKept j r s) (clk : t.clk = s.clk) (jobs : t.jobs = s.jobs) (cores : t.cores = s.cores) :
    RunsKept j r t :=
  h.trans ⟨clk, by rw [State.job, jobs, State.job], fun p => by rw [State.core, cores, State.core]⟩

theorem RunsKept.told (h : RunsKept j r s) (k : ToldOnly s t) : RunsKept j r t := h.of_kept k.clk k.units.jobs k.units.cores

theorem RunsKept.setJob {x : Job} (h : RunsKept j r s) (step : x.step = (s.job j).step) : RunsKept j r (s.setJob j x) :=
  h.trans ⟨rfl, by rw [State.job_setJob_same, step], fun _ => rfl⟩

/-! Strands that apply. -/

theorem RunsKept.applyCheck {k i : Nat} (h : RunsKept j r s) : RunsKept j r (s.applyCheck k i) := by
  unfold State.applyCheck
  extract_lets m set
  have kept : RunsKept j r set := by
    unfold set
    split
    · exact h
    · exact h.of_kept rfl rfl rfl
  by_cases own : j = k
  · subst own
    exact kept.setJob rfl
  · exact kept.trans ⟨rfl, by rw [State.job_setJob_ne own], fun _ => rfl⟩

theorem RunsKept.applyStaged {k i : Nat} (h : RunsKept j r s) : RunsKept j r (s.applyStaged k i) := by
  unfold State.applyStaged
  extract_lets checked
  have kept : RunsKept j r checked := h.applyCheck
  clear_value checked
  split
  · exact kept
  · exact kept.told (ToldOnly.refl checked).setStrands.settleStrand

theorem RunsKept.applyStrands {m : Nat} (h : RunsKept j r s) : RunsKept j r (s.applyStrands j m) := by
  unfold State.applyStrands
  exact RunsKept.foldl (fun _ _ k => k.applyStaged) (h.setJob rfl)

/-! The clusters' rounds. -/

theorem RunsKept.newClock (h : RunsKept j r s) : RunsKept j r (s.newClock c) := by
  have jobs : (s.newClock c).jobs = s.jobs := by rw [State.newClock_rest]
  exact h.trans ⟨by rw [State.newClock_rest], by rw [State.job, jobs, State.job], fun p => State.run_newClock⟩

theorem RunsKept.fills (h : RunsKept j r s) (k : FillsOnly s t) : RunsKept j r t := by
  have jobs : t.jobs = s.jobs := by rw [k.rest]
  exact h.trans ⟨by rw [k.rest], by rw [State.job, jobs, State.job], fun p => k.run⟩

/-! The virtual cores. -/

/-- A virtual core at the start of a span: it runs, unless it has halted. -/
def VCore.go (v : VCore) : VCore := if v.run.isHalted then v else { v with run := .running }

theorem VCore.go_go {v : VCore} : v.go.go = v.go := by
  by_cases halted : v.run.isHalted = true
  · have stays : v.go = v := if_pos halted
    rw [stays, stays]
  · have runs : v.go = { v with run := .running } := if_neg halted
    rw [runs]
    rfl

theorem VCore.run_go {v : VCore} : v.go.run = if v.run.isHalted then .halted else .running := by
  unfold VCore.go
  split
  · next halted =>
    cases run : v.run with
    | halted => rfl
    | _ => simp [run, Run.isHalted] at halted
  · rfl

/-- The virtual cores on the cores ps start. -/
def State.goCores (s : State) (ps : List Nat) : State :=
  ps.foldl (fun s p => if (s.core p).bound.isSome then s.setV p (s.core p).v.go else s) s

/-- A core whose virtual core starts. -/
def Core.go (k : Core) : Core := if k.bound.isSome then { k with v := k.v.go } else k

theorem Core.go_go {k : Core} : k.go.go = k.go := by
  unfold Core.go
  by_cases bound : k.bound.isSome = true <;> simp [bound, VCore.go_go]

theorem State.core_goCores {ps : List Nat} {p : Nat} : (s.goCores ps).core p = if p ∈ ps then (s.core p).go else s.core p := by
  induction ps generalizing s with
  | nil => rfl
  | cons q ps ih =>
    have first : (if (s.core q).bound.isSome then s.setV q (s.core q).v.go else s).core p =
        if p = q then (s.core p).go else s.core p := by
      by_cases own : p = q <;> by_cases bound : (s.core q).bound.isSome = true <;>
        simp [own, bound, Core.go, State.core_setV_ne]
    rw [State.goCores, List.foldl_cons, ← State.goCores, ih, first]
    by_cases own : p = q <;> by_cases more : p ∈ ps <;> simp [own, more, Core.go_go]

theorem State.goCores_rest {ps : List Nat} : s.goCores ps = { s with cores := (s.goCores ps).cores } := by
  have only : ∃ l, s.goCores ps = { s with cores := l } := by
    refine List.foldlRecOn (motive := fun t : State => ∃ l, t = { s with cores := l }) ps _ ⟨s.cores, rfl⟩ ?_
    rintro t ⟨l, rfl⟩ p -
    split
    · exact ⟨_, rfl⟩
    · exact ⟨l, rfl⟩
  obtain ⟨l, h⟩ := only
  rw [h]

/-- The virtual cores of job j that its cores hold start; of the images only the job knows. -/
theorem RunsKept.onVCores_go :
    RunsKept j (s.goCores (s.coresOfJob j)) (s.onVCores j (fun s _ v => (s, if v.run.isHalted then v else { v with run := .running }))) := by
  have cores (ps : List Nat) : ps.foldl (fun s p => match (s.core p).bound with
      | some (_, _) => s.setV p (s.core p).v.go
      | none => s) s = s.goCores ps := by
    unfold State.goCores
    congr 1
    funext t p
    split
    · next bound => rw [if_pos (by simp [bound])]
    · next bound => rw [if_neg (by simp [bound])]
  have started : RunsKept j (s.goCores (s.coresOfJob j)) ((s.coresOfJob j).foldl (fun s p => match (s.core p).bound with
      | some (_, _) => s.setV p (s.core p).v.go
      | none => s) s) := by
    rw [cores]
    exact .refl j _
  unfold State.onVCores
  refine RunsKept.foldl (fun t e k => ?_) started
  split
  · exact k.setJob rfl
  · exact k

/-- From s to t the span of job j has started, n clk later: every virtual core on a core of the job runs that has not halted. -/
structure SpanStarted (j n : Nat) (s t : State) : Prop where
  phase : (t.job j).phase = .span
  release : (t.job j).release = none
  firstSidx : (t.job j).firstSidx = none
  step : (t.job j).step = (s.job j).step
  clk : t.clk = s.clk + n
  run : ∀ p ∈ s.coresOfJob j, (t.core p).v.run = if (s.core p).v.run.isHalted then .halted else .running

theorem State.isSome_bound_of_mem {p : Nat} (h : p ∈ s.coresOfJob j) : (s.core p).bound.isSome = true := by
  have bound := (List.mem_filter.1 h).2
  split at bound
  · next found => simp [found]
  · exact absurd bound Bool.false_ne_true

theorem State.spanStarted_startSpan : SpanStarted j 0 s (s.startSpan j) := by
  unfold State.startSpan
  extract_lets go cores x strands rounds
  have cores_kept : RunsKept j (s.goCores (s.coresOfJob j)) cores := RunsKept.onVCores_go
  clear_value cores
  have strands_kept : RunsKept j (s.goCores (s.coresOfJob j)) strands := cores_kept.applyStrands
  clear_value strands
  have rounds_kept : RunsKept j (s.goCores (s.coresOfJob j)) rounds := by
    refine strands_kept.foldl fun t c k => ?_
    dsimp only
    refine RunsKept.fills (RunsKept.newClock ?_) State.fillsOnly_roundFills
    split
    · exact k.of_kept rfl rfl rfl
    · exact k.of_kept rfl rfl rfl
  clear_value rounds
  have jobs : (s.goCores (s.coresOfJob j)).jobs = s.jobs := by rw [State.goCores_rest]
  have clk : (s.goCores (s.coresOfJob j)).clk = s.clk := by rw [State.goCores_rest]
  refine ⟨?_, ?_, ?_, ?_, rounds_kept.clk.trans clk, fun p own => ?_⟩
  · rw [State.job_setJob_same]
  · rw [State.job_setJob_same]
  · rw [State.job_setJob_same]
  · rw [State.job_setJob_same, rounds_kept.step, State.job, jobs, State.job]
  · refine (rounds_kept.run p).trans ?_
    rw [State.core_goCores, if_pos own, Core.go, if_pos (State.isSome_bound_of_mem own)]
    exact VCore.run_go

theorem SpanStarted.bump {k hi lo m : Nat} (h : SpanStarted j n s t) : SpanStarted j n s (t.bump k hi lo m) :=
  ⟨h.phase, h.release, h.firstSidx, h.step, h.clk, h.run⟩

/-- A span that starts later starts from the same job and virtual cores. -/
theorem SpanStarted.later (h : SpanStarted j 0 u t) (clk : u.clk = s.clk + n) (jobs : u.jobs = s.jobs) (cores : u.cores = s.cores)
    (braid : u.braid = s.braid) : SpanStarted j n s t := by
  have core (p : Nat) : u.core p = s.core p := by rw [State.core, cores, State.core]
  have own : u.coresOfJob j = s.coresOfJob j := by
    unfold State.coresOfJob State.clustersOf State.clusterMask State.jobField State.jobRec State.recs
    simp only [core, braid]
  refine ⟨h.phase, h.release, h.firstSidx, ?_, by rw [h.clk, clk]; rfl, fun p mine => ?_⟩
  · rw [h.step, State.job, jobs, State.job]
  · rw [h.run p (own ▸ mine), core]

end Sys2Proof.Machine
end

/-! PROOFS. SPAN_RELEASE (R253, R279, R312, R314), and LOAD_PHASE beside it (Table 9.4). -/
section
namespace Sys2Proof.Machine

variable {s t : State} {j n : Nat}

/-- Job j stands at the end of its splice, it has not stopped, no instruction is in flight, and its tether slots are served. -/
structure State.AtRelease (s : State) (j : Nat) : Prop where
  phase : (s.job j).phase = .align
  running : s.stopped j = false
  still : ∀ p ∈ s.coresOfJob j, (s.core p).fly = []
  tether : s.tetherOk j = true

theorem State.still_none (still : ∀ p ∈ s.coresOfJob j, (s.core p).fly = []) :
    (s.coresOfJob j).any (fun p => !(s.core p).fly.isEmpty) = false := by
  rw [List.any_eq_false]
  intro p own
  simp [still p own]

/-- SPANS counts every span but the one that a restart begins. -/
def State.countSpan (s : State) (retract : Option Nat) : State := if retract.isSome then s else s.bump (rg fnSch 0x008) 47 0 1

theorem SpanStarted.countSpan {retract : Option Nat} (h : SpanStarted j n s t) : SpanStarted j n s (t.countSpan retract) := by
  unfold State.countSpan
  split
  · exact h
  · exact h.bump

theorem exec_spanRelease_unlocked {j : JobId} (phase : (s.job j).phase = .align) (running : s.stopped j = false)
    (still : ∀ p ∈ s.coresOfJob j, (s.core p).fly = []) (tether : s.tetherOk j = false) :
    exec (.spanRelease j) s = .next (s.spliceWait 1) :=
  (if_neg (by simp [phase, running, State.still_none still])).trans (if_pos (by simp [tether]))

/-- The state w clk later, with beat time, which SPLICEWAIT counts. -/
def State.waitClk (s : State) (w : Nat) : State :=
  { s with clk := s.clk + w, beat := s.beat + BitVec.ofNat 64 w }.spliceWait w

theorem exec_spanRelease_beat {j : JobId} {b : Nat} (h : s.AtRelease j) (release : (s.job j).release = some b) :
    exec (.spanRelease j) s = if s.beat.toNat < b then .next (if (s.job j).retract.isSome then s else s.spliceWait 1)
      else .next ((s.rephase.startSpan j).countSpan (s.job j).retract) := by
  refine (if_neg (by simp [h.phase, h.running, State.still_none h.still])).trans ((if_neg (by simp [h.tether])).trans ?_)
  simp only [release]
  rfl

theorem exec_spanRelease_free {j : JobId} (h : s.AtRelease j) (release : (s.job j).release = none) :
    exec (.spanRelease j) s = if (s.job j).aligned then .next ((s.tryGather (s.group j)).spliceWait 1)
      else if !s.fixed then .next ((s.startSpan j).countSpan (s.job j).retract)
      else .next (((s.waitClk ((256 - (s.clk - s.hbm.frameAt) % 256) % 256)).startSpan j).countSpan (s.job j).retract) := by
  refine (if_neg (by simp [h.phase, h.running, State.still_none h.still])).trans ((if_neg (by simp [h.tether])).trans ?_)
  simp only [release]
  rfl

/-- Settles O31: LOAD_PHASE by its two equations and what a load leaves; SPAN_RELEASE by its equations, each start of a span by
spanStarted_startSpan. -/
theorem loadAndReleaseStartTheSpan : Obligations.LoadAndReleaseStartTheSpan := by
  unfold Obligations.LoadAndReleaseStartTheSpan
  intro s j x w released running
  refine ⟨fun phase noneWaits free => exec_loadPhase_ends ⟨phase, running, noneWaits⟩ free, fun g phase noneWaits prog binding moved => ?_,
    fun phase still => ?_⟩
  · have stays := exec_loadPhase_stays ⟨phase, running, noneWaits⟩ prog binding moved
    refine ⟨fun e bad => ?_, fun good (aligned : (s.job j).aligned = false) => ?_⟩
    · rw [stays, bad]
      rfl
    · rw [good, aligned] at stays
      have kept := State.loaded_loadOnly (s := s) (j := j)
      have job : (s.awaitRelease j).job j = { (s.loaded j).job j with phase := .align, binding := false, started := true } :=
        State.job_setJob_same
      refine ⟨s.awaitRelease j, stays, ?_⟩
      rw [job]
      exact ⟨rfl, rfl, by rw [kept.job.job]; exact prog, kept.mem⟩
  · have starts {n : Nat} {t : State} (k : SpanStarted j n s t) (h : exec (.spanRelease j) s = .next (t.countSpan (s.job j).retract)) :
        released n :=
      have counted := k.countSpan (retract := (s.job j).retract)
      ⟨_, h, counted.phase, counted.release, counted.firstSidx, counted.step, counted.clk, counted.run⟩
    have stands (tether : s.tetherOk j = true) : s.AtRelease j := ⟨phase, running, still, tether⟩
    refine ⟨exec_spanRelease_unlocked phase running still, fun tether unset aligned cadence => ?_,
      fun tether unset aligned cadence => ?_, fun tether unset aligned => ?_, fun tether b release due => ?_,
      fun tether b release early => ?_⟩
    · refine starts State.spanStarted_startSpan ((exec_spanRelease_free (stands tether) unset).trans ?_)
      exact (if_neg (Bool.eq_false_iff.1 aligned)).trans (if_pos (by rw [cadence]; rfl))
    · have later : SpanStarted j w s ((s.waitClk w).startSpan j) := State.spanStarted_startSpan.later rfl rfl rfl rfl
      refine starts later ((exec_spanRelease_free (stands tether) unset).trans ?_)
      exact (if_neg (Bool.eq_false_iff.1 aligned)).trans (if_neg (by rw [cadence]; decide))
    · exact (exec_spanRelease_free (stands tether) unset).trans (if_pos aligned)
    · have later : SpanStarted j 0 s (s.rephase.startSpan j) := State.spanStarted_startSpan.later rfl rfl rfl rfl
      exact starts later ((exec_spanRelease_beat (stands tether) release).trans (if_neg (by omega)))
    · exact (exec_spanRelease_beat (stands tether) release).trans (if_pos early)

end Sys2Proof.Machine
end

/-! PROOFS. Bytes read from HBM without errors (R254, R259), and completions (R390). -/
section
namespace Sys2Proof.Machine

variable {s t : State} {a n p : Nat}

/-- Bytes beside which no granule is marked. -/
def unmarked (bs : List Byte) : List (Byte × Bool) := bs.map (fun b => (b, false))

@[simp] theorem map_fst_unmarked {bs : List Byte} : (unmarked bs).map (·.1) = bs := by
  rw [unmarked, List.map_map]
  exact List.map_id bs

@[simp] theorem any_snd_unmarked {bs : List Byte} : (unmarked bs).any (·.2) = false := by
  rw [List.any_eq_false]
  intro x hx
  obtain ⟨b, -, rfl⟩ := List.mem_map.1 hx
  exact Bool.false_ne_true

@[simp] theorem find_unmarked {bs : List Byte} :
    (List.range n).find? (fun i => ((unmarked bs).getD i (0, false)).2) = none := by
  refine List.find?_eq_none.2 fun i _ => ?_
  rw [unmarked, List.getD_eq_getElem?_getD, List.getElem?_map]
  cases bs[i]? with
  | none => exact Bool.false_ne_true
  | some b => exact Bool.false_ne_true

theorem Mem.bytes_append {m : Mem} {k : Nat} : m.bytes a n ++ m.bytes (a + n) k = m.bytes a (n + k) := by
  induction n generalizing a with
  | zero => simp [Mem.bytes]
  | succ n ih =>
    rw [show n + 1 + k = (n + k) + 1 by omega, Mem.bytes, Mem.bytes, List.cons_append, show a + (n + 1) = a + 1 + n by omega, ih]

/-- The pieces of a range give its bytes. -/
theorem Mem.bytes_granulePieces {m : Mem} : (granulePieces a n).flatMap (fun e => m.bytes e.1 e.2) = m.bytes a n := by
  have upTo (k : Nat) (hk : 64 * k ≤ a % 64 + n + 63) : ((List.range k).map (fun i =>
      let lo := max a ((a / 64 + i) * 64)
      (lo, min (a + n) ((a / 64 + i + 1) * 64) - lo))).flatMap (fun e => m.bytes e.1 e.2) =
        m.bytes a (min n (64 * k - a % 64)) := by
    induction k with
    | zero => simp [Mem.bytes]
    | succ k ih =>
      rw [List.range_succ, List.map_append, List.flatMap_append, ih (by omega)]
      rw [List.map_singleton, List.flatMap_singleton]
      dsimp only
      have lo : max a ((a / 64 + k) * 64) = a + min n (64 * k - a % 64) := by omega
      have len : min (a + n) ((a / 64 + k + 1) * 64) - (a + min n (64 * k - a % 64)) =
          min n (64 * (k + 1) - a % 64) - min n (64 * k - a % 64) := by omega
      rw [lo, len, Mem.bytes_append]
      congr 1
      omega
  unfold granulePieces
  split
  · next empty => rw [empty]; rfl
  · next filled =>
    refine (upTo _ (by omega)).trans ?_
    congr 1
    omega

theorem State.readGranule_clean {g : Nat} (poison : s.poison = []) (upset : s.upset = []) : s.readGranule g = (s, false) := by
  unfold State.readGranule
  rw [poison, upset]
  rfl

/-- A read that finds neither an error nor poison leaves the state. -/
theorem State.readHbm_clean (upset : s.upset = []) (poison : s.poison = []) : s.readHbm a n = (s, unmarked (s.mem.bytes a n)) := by
  have pieces (l : List (Nat × Nat)) (read : List (Byte × Bool)) :
      l.foldl (fun (s, l) (x, k) =>
        let (s, bad) := s.readGranule (x / 64 * 64)
        (s, l ++ (s.mem.bytes x k).map (fun b => (b, bad)))) (s, read) =
      (s, read ++ unmarked (l.flatMap (fun e => s.mem.bytes e.1 e.2))) := by
    induction l generalizing read with
    | nil => simp [unmarked]
    | cons e l ih =>
      rw [List.foldl_cons]
      simp only [State.readGranule_clean poison upset]
      rw [ih]
      simp [unmarked]
  rw [State.readHbm, pieces, Mem.bytes_granulePieces]
  rfl

/-! Completions. -/

/-- A completion moves PP of its pair, and no other index. -/
theorem State.rings_complete {op status seq : Nat} {id : W64} {result : List Byte} (up : s.rings.faulted.contains p = false)
    (size : s.cplSize p ≠ 0) :
    (s.complete p op status seq id result).rings = { s.rings with pp := tput z32 s.rings.pp p (s.pp p + 1) } := by
  unfold State.complete
  extract_lets k e written
  have kept : written.rings = s.rings := (HbmOnly.refl s).writeHbm.rings
  clear_value written
  rw [if_neg (not_or.2 ⟨Bool.eq_false_iff.1 up, size⟩), (HbmOnly.refl _).putIndex.rings]
  exact congrArg (fun x : Rings => { x with pp := tput z32 x.pp p (s.pp p + 1) }) kept

theorem State.pp_complete {op status seq : Nat} {id : W64} {result : List Byte} (up : s.rings.faulted.contains p = false)
    (size : s.cplSize p ≠ 0) : (s.complete p op status seq id result).pp p = s.pp p + 1 := by
  rw [State.pp, State.rings_complete up size]
  exact tget_tput_same

theorem State.units_complete {op status seq : Nat} {id : W64} {result : List Byte} :
    UnitsKept s (s.complete p op status seq id result) := (ToldOnly.refl s).complete.units

theorem contains_sins {k : Nat} {l : List Nat} : (sins k l).contains k = true := by
  induction l with
  | nil => simp [sins]
  | cons i l ih =>
    unfold sins
    split
    · simp
    · split
      · next same => simp [same]
      · simp only [List.contains_cons, ih, Bool.or_true]

theorem contains_sdel {k : Nat} {l : List Nat} : (sdel k l).contains k = false := by
  simp [sdel]

end Sys2Proof.Machine
end

/-! PROOFS. HELLO, LOADPROG and STRAND (R268, R385, R389, R391): what each leaves. -/
section
namespace Sys2Proof.Machine

variable {s t : State} {op j : Nat} {c : Cmd}

/-- Pair p writes completions: it has not faulted, and it has a completion ring. -/
structure State.Completes (s : State) (p : Nat) : Prop where
  up : s.rings.faulted.contains p = false
  size : s.cplSize p ≠ 0

theorem State.Completes.of_same {p : Nat} (h : s.Completes p) (faulted : t.rings.faulted = s.rings.faulted) (braid : t.braid = s.braid) :
    t.Completes p := by
  refine ⟨faulted ▸ h.up, ?_⟩
  have size := h.size
  unfold State.cplSize State.ringRow State.rec1 State.recs at size ⊢
  rwa [braid]

/-! HELLO (R391). -/

/-- A firmware major that differs from the chip's is noted in the log. -/
def State.noteMajor (s : State) (c : Cmd) : State :=
  if c.arg 2 1 != s.fld (rg fnChip 0x008) 55 48 then
    s.note 0x66 2 fnSch (s.jobOfPair c.pair) { unit := c.pair, d0 := c.arg 2 1 + 256 * s.fld (rg fnChip 0x008) 55 48 }
  else s

theorem State.noteMajor_hbmOnly : HbmOnly s (s.noteMajor c) := by
  unfold State.noteMajor
  split
  · exact (HbmOnly.refl s).note
  · exact .refl s

theorem helloBody_accepts (h : c.arg 0 1 = 1) : helloBody s op c =
    ((s.noteMajor c).setHello c.pair true (c.arg 2 1 != s.fld (rg fnChip 0x008) 55 48)).complete c.pair op 0 c.seq c.id
      ((s.noteMajor c).helloResult c.pair) := if_neg fun other => other h

theorem helloBody_refuses (h : c.arg 0 1 ≠ 1) : helloBody s op c =
    ((s.noteMajor c).setHello c.pair false false).complete c.pair op 0x03 c.seq c.id ((s.noteMajor c).helloResult c.pair) := if_pos h

theorem contains_sset {k : Nat} {b : Bool} {l : List Nat} : (sset k b l).contains k = b := by
  cases b with
  | true => exact contains_sins
  | false => exact contains_sdel

/-- A HELLO completes, whatever it answers, and opens or closes its pair. -/
theorem State.hello_completes {p status : Nat} {ok differs : Bool} {result : List Byte} (h : s.Completes p) :
    let t := ((s.noteMajor c).setHello p ok differs).complete p op status c.seq c.id result
    t.pp p = s.pp p + 1 ∧ t.jobs = s.jobs ∧ t.rings.hello.contains p = ok := by
  have noted := State.noteMajor_hbmOnly (s := s) (c := c)
  have completes : ((s.noteMajor c).setHello p ok differs).Completes p := by
    refine h.of_same ?_ ?_
    · change (s.noteMajor c).rings.faulted = s.rings.faulted
      rw [noted.rings]
    · change (s.noteMajor c).braid = s.braid
      rw [noted.frame]
  refine ⟨?_, ?_, ?_⟩
  · rw [State.pp_complete completes.up completes.size]
    change tget z32 (s.noteMajor c).rings.pp p + 1 = _
    rw [noted.rings]
    rfl
  · exact State.units_complete.jobs.trans noted.units.jobs
  · rw [State.rings_complete completes.up completes.size]
    exact contains_sset

theorem helloBody_completes (h : s.Completes c.pair) : (helloBody s op c).pp c.pair = s.pp c.pair + 1 ∧
    (helloBody s op c).jobs = s.jobs ∧ ((helloBody s op c).rings.hello.contains c.pair = true ↔ c.arg 0 1 = 1) := by
  by_cases accepted : c.arg 0 1 = 1
  · rw [helloBody_accepts accepted]
    obtain ⟨pp, jobs, opened⟩ := State.hello_completes (op := op) (c := c) (status := 0) (ok := true)
      (differs := c.arg 2 1 != s.fld (rg fnChip 0x008) 55 48) (result := (s.noteMajor c).helloResult c.pair) h
    exact ⟨pp, jobs, iff_of_true opened accepted⟩
  · rw [helloBody_refuses accepted]
    obtain ⟨pp, jobs, closed⟩ := State.hello_completes (op := op) (c := c) (status := 0x03) (ok := false)
      (differs := false) (result := (s.noteMajor c).helloResult c.pair) h
    exact ⟨pp, jobs, iff_of_false (Bool.eq_false_iff.1 closed) accepted⟩

/-! LOADPROG (R268, R389). -/

/-- The state in which a LOADPROG of job j reads its image. -/
def State.takeProg (s : State) (c : Cmd) (j : Nat) : State :=
  if s.abortTrigger.unspliced j then
    { s.abortTrigger with rings := { s.abortTrigger.rings with budget := tput z0 s.abortTrigger.rings.budget c.pair 0 } }
  else s.abortTrigger

theorem State.takeProg_frame : ∃ x b, s.takeProg c j = { s with power := x, rings := { s.rings with budget := b } } := by
  unfold State.takeProg
  split
  · exact ⟨_, _, rfl⟩
  · exact ⟨_, _, rfl⟩

/-- A LOADPROG whose pages are its job's and whose image is read without errors. -/
structure State.ReadsProg (s : State) (c : Cmd) (j : Nat) : Prop where
  job : s.jobOfPair c.pair = some j
  own : s.ownPageBad j (c.arg 0 8) (c.arg 8 8) = none
  upset : s.upset = []
  poison : s.poison = []

/-- The image that a LOADPROG names. -/
def State.progBytes (s : State) (c : Cmd) : List Byte := s.mem.bytes (c.arg 0 8) (c.arg 8 8)

theorem loadprogBody_reads (h : s.ReadsProg c j) : loadprogBody s op c = (progBad (s.progBytes c)).elim
    ({ (s.takeProg c j).setJob j { (s.takeProg c j).job j with
        pending := some ⟨c.arg 0 8, s.progBytes c, sha384 (s.progBytes c)⟩ } with
        cmds := { (s.takeProg c j).cmds with loads := tput noLoad (s.takeProg c j).cmds.loads j (c.pair, c.seq, c.id) } }.await
          c.pair op c.seq c.id)
    (fun o => (s.takeProg c j).noCmd op c 0x06 o) := by
  unfold loadprogBody
  extract_lets aborted k x taken a n
  have job : k = j := by
    change (s.jobOfPair c.pair).getD 0 = j
    rw [h.job]
    rfl
  have start : taken = s.takeProg c j := job ▸ rfl
  clear_value taken k
  subst job start
  obtain ⟨x, b, frame⟩ := State.takeProg_frame (s := s) (c := c) (j := k)
  have own : (s.takeProg c k).ownPageBad k a n = none := by
    rw [frame]
    exact h.own
  have read : (s.takeProg c k).readHbm a n = (s.takeProg c k, unmarked (s.progBytes c)) := by
    rw [State.readHbm_clean (by rw [frame]; exact h.upset) (by rw [frame]; exact h.poison), frame]
    rfl
  simp only [own, read, find_unmarked, map_fst_unmarked]
  cases progBad (s.progBytes c) with
  | none => rfl
  | some o => rfl

theorem loadprogBody_refuses {o : Nat} (h : s.ReadsProg c j) (completes : s.Completes c.pair)
    (bad : progBad (s.progBytes c) = some o) :
    (loadprogBody s op c).pp c.pair = s.pp c.pair + 1 ∧ (loadprogBody s op c).jobs = s.jobs := by
  obtain ⟨x, b, frame⟩ := State.takeProg_frame (s := s) (c := c) (j := j)
  rw [loadprogBody_reads h, bad, frame]
  exact ⟨State.pp_complete completes.up completes.size, State.units_complete.jobs⟩

theorem loadprogBody_waits (h : s.ReadsProg c j) (good : progBad (s.progBytes c) = none) :
    ((loadprogBody s op c).job j).pending = some ⟨c.arg 0 8, s.progBytes c, sha384 (s.progBytes c)⟩ ∧
      ((loadprogBody s op c).job j).prog = (s.job j).prog ∧ (loadprogBody s op c).pp c.pair = s.pp c.pair := by
  obtain ⟨x, b, frame⟩ := State.takeProg_frame (s := s) (c := c) (j := j)
  rw [loadprogBody_reads h, good, frame]
  have waits : ∀ y : Job, ((s.setJob j y).job j).pending = y.pending ∧ ((s.setJob j y).job j).prog = y.prog := fun y => by
    rw [State.job_setJob_same]
    exact ⟨rfl, rfl⟩
  obtain ⟨pending, prog⟩ := waits { s.job j with pending := some ⟨c.arg 0 8, s.progBytes c, sha384 (s.progBytes c)⟩ }
  exact ⟨pending, prog, rfl⟩

/-! STRAND (R385). -/

theorem filter_testBit_two_pow (h : j < 16) : (List.range 16).filter (2 ^ j).testBit = [j] := by
  decide +revert

/-- A STRAND on pair 0 that sets the check level of job j alone, whose program runs. -/
structure State.ChecksOne (s : State) (c : Cmd) (j : Nat) : Prop where
  job : j < 16
  pair : c.pair = 0
  index : c.arg 0 1 < 32
  record : s.strandRec (c.arg 0 1) ≠ []
  check : fieldLE (s.strandRec (c.arg 0 1)) 1 1 ≠ 0xFF
  cadence : fieldLE (s.strandRec (c.arg 0 1)) 2 1 = 0xFF
  cap : fieldLE (s.strandRec (c.arg 0 1)) 3 1 = 0xFF
  mask : c.arg 2 2 = 2 ^ j
  defined : s.jobDefined j = true
  prog : (s.job j).prog.isSome = true
  spliced : s.unspliced j = false

/-- The STRAND of job j's check level alone, as it waits. -/
def Cmd.checkStrand (c : Cmd) (j : Nat) : PendStrand := ⟨c.pair, c.seq, c.id, c.arg 0 1, [j], false⟩

/-- The state in which a STRAND of job j's check level waits. -/
def State.awaitStrand (s : State) (op : Nat) (c : Cmd) (j : Nat) : State :=
  { s with cmds := { s.cmds with strands := s.cmds.strands ++ [c.checkStrand j] } }.await c.pair op c.seq c.id

theorem strandBody_stages (h : s.ChecksOne c j) : strandBody s op c =
    (s.awaitStrand op c j).setJob j { s.job j with staged := (s.job j).staged ++ [c.arg 0 1] } := by
  have chip : (!(keep (fieldLE (s.strandRec (c.arg 0 1)) 2 1) && keep (fieldLE (s.strandRec (c.arg 0 1)) 3 1))) = false := by
    rw [h.cadence, h.cap]
    rfl
  have only : (List.range 16).filter (c.arg 2 2).testBit = [j] := by rw [h.mask, filter_testBit_two_pow h.job]
  have defined : (List.range 16).any (fun k => (c.arg 2 2).testBit k && !s.jobDefined k) = false := by
    rw [List.any_eq_false]
    intro k hk both
    obtain ⟨bit, undefined⟩ := (Bool.and_eq_true ..).mp both
    have here : k ∈ (List.range 16).filter (c.arg 2 2).testBit := List.mem_filter.2 ⟨hk, bit⟩
    rw [only, List.mem_singleton] at here
    rw [here, h.defined] at undefined
    exact Bool.false_ne_true undefined
  have sets : keep (fieldLE (s.strandRec (c.arg 0 1)) 1 1) = false := by
    simpa [keep] using h.check
  have stages : (s.awaitStrand op c j).stageCheck (c.arg 0 1) j =
      (s.awaitStrand op c j).setJob j { s.job j with staged := (s.job j).staged ++ [c.arg 0 1] } := by
    have runs : ¬ ((s.job j).prog.isNone || s.unspliced j) = true := by
      simp [h.spliced, Option.isSome_iff_ne_none.1 h.prog]
    exact if_neg runs
  unfold strandBody
  rw [if_neg (by simp [h.index, h.record])]
  simp only [chip, h.pair, defined, only, sets, Bool.false_eq_true, if_false, false_and, and_false, ne_eq, not_true_eq_false, if_true]
  simp only [State.awaitStrand, Cmd.checkStrand, h.pair] at stages ⊢
  exact stages

theorem strandBody_waits (h : s.ChecksOne c j) : ((strandBody s op c).job j).staged = (s.job j).staged ++ [c.arg 0 1] ∧
    (strandBody s op c).pp c.pair = s.pp c.pair := by
  rw [strandBody_stages h, State.job_setJob_same]
  exact ⟨rfl, rfl⟩

end Sys2Proof.Machine
end

/-! PROOFS. SERVICE, PEERUPD and LOADBRAID (R338, R340, R366, R382): what each leaves. -/
section
namespace Sys2Proof.Machine

variable {s t : State} {op : Nat} {c : Cmd}

/-! SERVICE (R366, R367). -/

theorem State.startSvc_first {x : Svc} (h : (s.svcOf x.job).filter (fun e => e.2.phase == 4) = []) :
    s.startSvc op c x = (s.setSvc s.nextSvc (some x)).await c.pair op c.seq c.id := by
  have noneFailed : (s.svcOf x.job).filter (fun e => e.2.phase == 4 && e.2.step == x.step && x.type == 1) = [] := by
    rw [List.filter_eq_nil_iff] at h ⊢
    intro e he three
    exact h e he (Bool.and_eq_true_iff.1 (Bool.and_eq_true_iff.1 three).1).1
  unfold State.startSvc
  rw [noneFailed]
  rfl

theorem State.startSvc_leaves {x : Svc} (h : (s.svcOf x.job).filter (fun e => e.2.phase == 4) = []) :
    (s.startSvc op c x).svcAt s.nextSvc = some x ∧
      (s.startSvc op c x).rings.waiting = s.rings.waiting ++ [⟨c.pair, op, c.seq, c.id⟩] := by
  rw [State.startSvc_first h]
  exact ⟨tget_tput_same, rfl⟩

/-- The descriptor that a SERVICE names, and its region list. -/
def State.svcDesc (s : State) (c : Cmd) : List Byte := s.mem.bytes (c.arg 0 8) 64
def State.svcList (s : State) (c : Cmd) : List Byte :=
  s.mem.bytes (fieldLE (s.svcDesc c) 0x10 8) (32 * fieldLE (s.svcDesc c) 4 4)

/-- The service that a SERVICE asks for. -/
def State.svcAsked (s : State) (c : Cmd) : Svc :=
  svcOfDesc c (s.svcDesc c) (regionsOf (s.svcList c) (fieldLE (s.svcDesc c) 4 4))

/-- A SERVICE of job j passes its checks (R366 to R369). -/
structure State.ServesJob (s : State) (c : Cmd) (j : Nat) : Prop where
  job : (s.jobOfPair c.pair).getD 0 = j
  upset : s.upset = []
  poison : s.poison = []
  descPages : s.svcRangeBad j (c.arg 0 8) 64 = none
  desc : descOk s j (s.svcDesc c) = true
  listPages : s.svcRangeBad j (fieldLE (s.svcDesc c) 0x10 8) (32 * fieldLE (s.svcDesc c) 4 4) = none
  regions : regionsOk (s.svcList c) (fieldLE (s.svcDesc c) 4 4) = true
  pages : ∀ r ∈ (s.svcAsked c).regions, s.svcRangeBad j r.1 r.2.1 = none
  snap : (s.svcAsked c).type = 3 → (s.svcAsked c).snap % 64 = 0 ∧ s.svcRangeBad j (s.svcAsked c).snap (s.svcAsked c).total = none
  step : s.stepBegun j (s.svcAsked c).step = false
  update : s.updateBegun j (s.svcAsked c).step = false

/-- The ranges that the service touches are the job's. -/
theorem State.ServesJob.spans {j : Nat} (h : s.ServesJob c j) : ((s.svcAsked c).regions ++
    (if (s.svcAsked c).type = 3 then [((s.svcAsked c).snap, (s.svcAsked c).total, 0)] else [])).findSome?
      (fun (r : Nat × Nat × Nat) => s.svcRangeBad j r.1 r.2.1) = none := by
  rw [List.findSome?_eq_none_iff]
  intro r hr
  rcases List.mem_append.1 hr with region | copy
  · exact h.pages r region
  · split at copy
    · next halo =>
      rw [List.mem_singleton.1 copy]
      exact (h.snap halo).2
    · exact absurd copy List.not_mem_nil

theorem serviceBody_starts {j : Nat} (h : s.ServesJob c j) : serviceBody s op c = s.startSvc op c (s.svcAsked c) := by
  have snapOk : ¬ ((s.svcAsked c).type = 3 ∧ (s.svcAsked c).snap % 64 ≠ 0) := fun ⟨halo, odd⟩ => odd (h.snap halo).1
  have desc : s.mem.bytes (c.arg 0 8) 64 = s.svcDesc c := rfl
  have list : s.mem.bytes (fieldLE (s.svcDesc c) 0x10 8) (32 * fieldLE (s.svcDesc c) 4 4) = s.svcList c := rfl
  have asked : svcOfDesc c (s.svcDesc c) (regionsOf (s.svcList c) (fieldLE (s.svcDesc c) 4 4)) = s.svcAsked c := rfl
  unfold serviceBody
  simp only [h.job, h.descPages, State.readHbm_clean h.upset h.poison, map_fst_unmarked, any_snd_unmarked, desc, h.desc, h.listPages, list,
    h.regions, asked, h.spans, h.step, h.update, Bool.not_true, Bool.false_eq_true, or_self, false_or, and_false, if_false]
  exact if_neg snapOk

/-! PEERUPD (R338, R340). -/

theorem peerupdBody_otherGen (h : c.arg 0 4 ≠ s.gen + 1) : peerupdBody s op c = s.noCmd op c 0x04 0x10 := if_pos h

/-- A control message that spreads over links and connections leaves all but the network's state. -/
theorem State.spread_frame {m : CtlMsg} {src : Option MsgSrc} : ∃ x, s.spread m src = { s with net := x } := by
  unfold State.spread
  refine List.foldlRecOn (motive := fun t : State => ∃ x, t = { s with net := x }) _ _ ?_ ?_
  · refine List.foldlRecOn (motive := fun t : State => ∃ x, t = { s with net := x }) _ _ ⟨s.net, rfl⟩ ?_
    rintro t ⟨x, rfl⟩ l -
    split
    · exact ⟨_, rfl⟩
    · exact ⟨x, rfl⟩
  · rintro t ⟨x, rfl⟩ k -
    split
    · exact ⟨_, rfl⟩
    · exact ⟨x, rfl⟩

/-- The list that a PEERUPD names. -/
def State.peerBytes (s : State) (c : Cmd) : List Byte := s.mem.bytes (c.arg 16 8) (72 * c.arg 24 4)

/-- The update that a PEERUPD announces. -/
def State.peerAsked (s : State) (c : Cmd) : PendPeer :=
  ⟨c.seq, c.id, BitVec.ofNat 32 (c.arg 0 4), c.arg 4 1, c.arg 8 8, peerEntries (s.peerBytes c) (c.arg 24 4)⟩

/-- A PEERUPD passes its checks (R338, R340). -/
structure State.UpdatesPeers (s : State) (c : Cmd) : Prop where
  upset : s.upset = []
  poison : s.poison = []
  gen : c.arg 0 4 = s.gen + 1
  job : s.jobDefined (c.arg 4 1) = true
  pages : s.jobPage (c.arg 16 8) (72 * c.arg 24 4) = none
  inHbm : c.arg 16 8 + 72 * c.arg 24 4 ≤ hbmEnd
  region : s.inChipRegion (c.arg 16 8) (72 * c.arg 24 4) = true
  list : peerListOk (s.peerBytes c) (c.arg 24 4) = true
  ranks : ranksApart (s.ranksAfter (peerEntries (s.peerBytes c) (c.arg 24 4))) = true
  free : s.cmds.peer = none
  step : s.stepBegun (c.arg 4 1) (c.arg 8 8) = false

/-- An accepted PEERUPD waits, UPDATE reads 1, and the update's announcement spreads. -/
theorem peerupdBody_accepts (h : s.UpdatesPeers c) : peerupdBody s op c =
    (({ s with cmds := { s.cmds with peer := some (s.peerAsked c) } }.setFlag (rg fnSch 0x038) 0 true).spread
      (ctlMsg 0x21 (c.arg 0 4) (c.arg 8 8)) none).await c.pair op c.seq c.id := by
  have list : s.mem.bytes (c.arg 16 8) (72 * c.arg 24 4) = s.peerBytes c := rfl
  unfold peerupdBody
  rw [if_neg fun other => other h.gen]
  simp only [h.job, h.pages, h.region, State.readHbm_clean h.upset h.poison, map_fst_unmarked, any_snd_unmarked, list, h.list, h.ranks,
    h.free, h.step, Nat.not_lt.2 h.inHbm, Bool.not_true, Bool.false_eq_true, or_self, Option.isSome_none, if_false]
  rfl

theorem peerupdBody_waits (h : s.UpdatesPeers c) : (peerupdBody s op c).cmds.peer = some (s.peerAsked c) ∧
    (peerupdBody s op c).rings.waiting = s.rings.waiting ++ [⟨c.pair, op, c.seq, c.id⟩] := by
  obtain ⟨x, spread⟩ := State.spread_frame (m := ctlMsg 0x21 (c.arg 0 4) (c.arg 8 8)) (src := none)
    (s := { s with cmds := { s.cmds with peer := some (s.peerAsked c) } }.setFlag (rg fnSch 0x038) 0 true)
  rw [peerupdBody_accepts h, spread]
  exact ⟨rfl, rfl⟩

/-! LOADBRAID (R382, R404). -/

theorem loadbraidBody_jobPage {p : Nat} (h : s.jobPage (c.arg 0 8) (c.arg 8 8) = some p) : loadbraidBody s op c = s.noCmd op c 0x0C p := by
  unfold loadbraidBody
  simp only [h]

/-- A LOADBRAID passes its checks while SEC does not take images. -/
structure State.HoldsBraid (s : State) (c : Cmd) : Prop where
  upset : s.upset = []
  poison : s.poison = []
  pages : s.jobPage (c.arg 0 8) (c.arg 8 8) = none
  inHbm : c.arg 0 8 + c.arg 8 8 ≤ hbmEnd
  region : s.inChipRegion (c.arg 0 8) (c.arg 8 8) = true
  free : s.cmds.braid = none
  sec : s.secReady = false

/-- The braid image that a LOADBRAID names. -/
def State.braidAsked (s : State) (c : Cmd) : PendBraid := ⟨c.seq, c.id, s.mem.bytes (c.arg 0 8) (c.arg 8 8), false, true⟩

theorem loadbraidBody_accepts (h : s.HoldsBraid c) : loadbraidBody s op c =
    ((s.setBraidPending true).await c.pair op c.seq c.id).takeBraid (s.braidAsked c) := by
  unfold loadbraidBody
  simp only [h.pages, h.region, h.free, State.readHbm_clean h.upset h.poison, find_unmarked, map_fst_unmarked, Nat.not_lt.2 h.inHbm,
    Bool.not_true, Bool.false_eq_true, or_self, Option.isSome_none, if_false]
  rfl

/-- While SEC takes no images a braid waits for it. -/
theorem State.takeBraid_holds {p : PendBraid} (sec : s.secReady = false) :
    (s.takeBraid p).cmds.braid = some p ∧ (s.takeBraid p).rings = s.rings := by
  unfold State.takeBraid
  extract_lets x taken
  have held : taken.secReady = false := sec
  rw [if_neg (by rw [held]; exact Bool.false_ne_true)]
  split
  · exact ⟨rfl, rfl⟩
  · exact ⟨rfl, rfl⟩

theorem loadbraidBody_waits (h : s.HoldsBraid c) : (loadbraidBody s op c).cmds.braid = some (s.braidAsked c) ∧
    (loadbraidBody s op c).rings.waiting = s.rings.waiting ++ [⟨c.pair, op, c.seq, c.id⟩] := by
  have sec : ((s.setBraidPending true).await c.pair op c.seq c.id).secReady = false := by
    have kept (k i : Nat) (hk : k ≠ rg fnChip 0x010) : (s.setBraidPending true).flag k i = s.flag k i := by
      rw [State.flag, State.setBraidPending, State.setFlag, State.rd_setFld_ne hk, State.flag]
    have held := h.sec
    unfold State.secReady at held
    rw [← kept _ _ (by decide), ← kept _ _ (by decide)] at held
    exact held
  obtain ⟨braid, rings⟩ := State.takeBraid_holds (p := s.braidAsked c) sec
  rw [loadbraidBody_accepts h]
  exact ⟨braid, congrArg Rings.waiting rings⟩

end Sys2Proof.Machine
end

/-! PROOFS. The restarts of the rings and the passes of unspliced jobs (R393, R395, R529), and the effects of the ring commands. -/
section
namespace Sys2Proof.Machine

variable {s : State}

theorem exec_ringrstGo_ready {p : PairId} (h : s.flag (rg fnSch 0x020) 0 = true) : exec (.ringrstGo p) s = .next (s.restartPair p) :=
  if_pos h
theorem exec_ringrstGo_idle {p : PairId} (h : s.flag (rg fnSch 0x020) 0 = false) : exec (.ringrstGo p) s = .next s :=
  if_neg (Bool.eq_false_iff.1 h)
theorem exec_ringrstLogs_ready (h : s.flag (rg fnSch 0x020) 0 = true) : exec .ringrstLogs s = .next s.restartLogs := if_pos h
theorem exec_ringrstLogs_idle (h : s.flag (rg fnSch 0x020) 0 = false) : exec .ringrstLogs s = .next s := if_neg (Bool.eq_false_iff.1 h)

/-- The rings once pair p has restarted. -/
def Rings.restarted (r : Rings) (p : Nat) : Rings :=
  { r with
    cp := tput z32 r.cp p 0, pc := tput z32 r.pc p 0, cc := tput z32 r.cc p 0, pp := tput z32 r.pp p 0
    hello := sdel p r.hello, faulted := sdel p r.faulted, waiting := r.waiting.filter (fun a => a.pair != p)
    sampled := tput z32 r.sampled p 0, budget := tput z0 r.budget p 0, majorDiff := sdel p r.majorDiff }

/-- A pair's restart writes two indices behind it. -/
theorem State.restartPair_leaves {p : Nat} : (s.restartPair p).rings = s.rings.restarted p ∧ (s.restartPair p).jobs = s.jobs := by
  have written {u : State} : HbmOnly u ((u.putIndex (8 * p) 0).putIndex (0x200 + 8 * p) 0) := (HbmOnly.refl u).putIndex.putIndex
  exact ⟨written.rings, written.units.jobs⟩

/-- A restart of the log rings sets their indices to 0, and the events that wait are written after. -/
theorem State.restartLogs_leaves : EventsOnly { s.rings with evProd := 0, evCons := 0, ldProd := 0, ldCons := 0, evBad := false, ldBad := false }
    s.restartLogs.rings ∧ s.restartLogs.jobs = s.jobs := by
  have written {u : State} : HbmOnly u ((u.putIndex 0x400 0).putIndex 0x408 0) := (HbmOnly.refl u).putIndex.putIndex
  refine ⟨EventsOnly.drainEvents ?_, ?_⟩
  · rw [written.rings]
    exact ⟨rfl⟩
  · exact ((ToldOnly.refl _).drainEvents.units.jobs).trans written.units.jobs

theorem exec_unsplicedRingPass_idle {j : JobId} (h : s.schReady = false ∨ s.unspliced j = false) :
    exec (.unsplicedRingPass j) s = .next s := by
  refine if_pos ?_
  rcases h with sch | job
  · exact .inl (by rw [sch]; rfl)
  · exact .inr (by rw [job]; rfl)

theorem exec_unsplicedRingPass_passes {j : JobId} (sch : s.schReady = true) (job : s.unspliced j = true) :
    exec (.unsplicedRingPass j) s =
      .next (((if s.chipUnspliced then [0] else []) ++ s.pairsOf j).foldl (fun s p => s.samplePass p) s) :=
  if_neg (by simp [sch, job])

/-- Settles O51: each command by what its body leaves, the restarts by what the rings then are, the passes by their equation. -/
theorem ringCommandsTakeEffect : Obligations.RingCommandsTakeEffect := by
  unfold Obligations.RingCommandsTakeEffect
  refine ⟨fun s op c up size => ?_, fun s pair idle => ⟨exec_ringrstGo_idle idle, exec_ringrstLogs_idle idle⟩, fun s pair ready => ?_,
    fun s j => exec_unsplicedRingPass_idle, fun s j => exec_unsplicedRingPass_passes⟩
  · have completes : s.Completes c.pair := ⟨up, size⟩
    refine ⟨⟨State.pp_complete up size, State.units_complete.jobs, State.units_complete.cores⟩, helloBody_completes completes,
      fun j job own upset poison => ?_, fun j hj pair index record check cadence cap mask defined prog spliced =>
        strandBody_waits ⟨hj, pair, index, record, check, cadence, cap, mask, defined, prog, spliced⟩,
      fun x first => State.startSvc_leaves first,
      fun upset poison => fun descPages desc listPages regions pages snap step update =>
        serviceBody_starts ⟨rfl, upset, poison, descPages, desc, listPages, regions, pages, snap, step, update⟩,
      peerupdBody_otherGen, fun upset poison => fun gen job pages inHbm region list ranks free step =>
        peerupdBody_waits ⟨upset, poison, gen, job, pages, inHbm, region, list, ranks, free, step⟩,
      fun p => loadbraidBody_jobPage, fun upset poison pages inHbm region free sec =>
        loadbraidBody_waits ⟨upset, poison, pages, inHbm, region, free, sec⟩⟩
    have reads : s.ReadsProg c j := ⟨job, own, upset, poison⟩
    exact ⟨fun o => loadprogBody_refuses reads completes, loadprogBody_waits reads⟩
  · obtain ⟨rings, jobs⟩ := State.restartPair_leaves (s := s) (p := pair)
    obtain ⟨logs, logJobs⟩ := State.restartLogs_leaves (s := s)
    refine ⟨s.restartPair pair, s.restartLogs, exec_ringrstGo_ready ready, ?_, ?_, ?_, ?_, ?_, ?_, jobs,
      exec_ringrstLogs_ready ready, ?_, ?_, ?_, logJobs⟩
    · rw [State.cc, rings]
      exact tget_tput_same
    · rw [State.cp, rings]
      exact tget_tput_same
    · rw [State.pp, rings]
      exact tget_tput_same
    · rw [State.pc, rings]
      exact tget_tput_same
    · rw [rings]
      exact contains_sdel
    · rw [rings]
      exact contains_sdel
    · rw [logs.eq]
    · rw [logs.eq]
    · rw [logs.eq]

end Sys2Proof.Machine
end

/-! PROOFS. What reports, events, accesses to HBM (R259, R390, R392, R448) and the stop of a job (R435) leave: the STATUS registers
of the functions, and of the net all but the entries still being assembled. -/
section
namespace Sys2Proof.Machine

/-- From s to t the register at offset 0 of every function, its STATUS, stays. -/
structure StatusKept (s t : State) : Prop where
  status : ∀ f, t.rd (rg f 0) = s.rd (rg f 0)

variable {r s t : State}

theorem StatusKept.refl (s : State) : StatusKept s s := ⟨fun _ => rfl⟩

theorem StatusKept.foldl {α : Type} {f : State → α → State} {l : List α} (hf : ∀ t x, StatusKept r t → StatusKept r (f t x))
    (h : StatusKept r s) : StatusKept r (l.foldl f s) :=
  List.foldlRecOn (motive := StatusKept r) l f h fun t ht x _ => hf t x ht

theorem StatusKept.of_csr (h : StatusKept r s) (csr : t.csr = s.csr) : StatusKept r t := by
  refine ⟨fun f => ?_⟩
  rw [State.rd, csr]
  exact h.status f

theorem StatusKept.setJob {i : Nat} {x : Job} (h : StatusKept r s) : StatusKept r (s.setJob i x) := h.of_csr rfl

theorem StatusKept.flag (h : StatusKept s t) (f i : Nat) : t.flag (rg f 0) i = s.flag (rg f 0) i := by
  rw [State.flag, h.status, State.flag]

theorem StatusKept.setFld {f o hi lo v : Nat} (h : StatusKept r s) (ho : o % 4096 ≠ 0) : StatusKept r (s.setFld (rg f o) hi lo v) := by
  refine ⟨fun g => (State.rd_setFld_ne ?_).trans (h.status g)⟩
  unfold rg
  omega

theorem StatusKept.setFlag {f o i : Nat} {b : Bool} (h : StatusKept r s) (ho : o % 4096 ≠ 0) : StatusKept r (s.setFlag (rg f o) i b) :=
  h.setFld ho

theorem StatusKept.bump {f o hi lo n : Nat} (h : StatusKept r s) (ho : o % 4096 ≠ 0) : StatusKept r (s.bump (rg f o) hi lo n) :=
  h.setFld ho

/-! The log. -/

theorem StatusKept.logPut {e : LogEntry} (h : StatusKept r s) : StatusKept r (s.logPut e) := by
  have counted {x : LogBuf} {o : Nat} (ho : o % 4096 ≠ 0) : StatusKept r ({ s with log := x }.bump (rg fnLog o) 63 0 1) :=
    StatusKept.bump (h.of_csr rfl) ho
  unfold State.logPut
  dsimp only
  split
  · exact counted (by decide)
  · split
    · exact (counted (by decide)).bump (by decide)
    · exact counted (by decide)

theorem StatusKept.logWrite {e : LogEntry} (h : StatusKept r s) : StatusKept r (s.logWrite e) := by
  unfold State.logWrite
  split
  · exact h
  · exact h.logPut

theorem StatusKept.report {type sev func : Nat} {job : Option Nat} {b : Body} (h : StatusKept r s) :
    StatusKept r (s.report type sev func job b) := h.logWrite

theorem StatusKept.corrected {func memory : Nat} {job : Option Nat} (h : StatusKept r s) :
    StatusKept r (s.corrected func memory job) := by
  unfold State.corrected
  dsimp only
  split
  · exact StatusKept.logWrite (h.of_csr rfl)
  · exact h.of_csr rfl

/-! Accesses to HBM. -/

theorem StatusKept.readGranule {g : Nat} (h : StatusKept r s) : StatusKept r (s.readGranule g).1 := by
  have counted {o : Nat} (n : Nat) (e : W64) (ho : o % 4096 ≠ 0) :
      StatusKept r ((s.bump (rg (fnHbm (g / 0x2000000000)) o) 63 0 1).setPage n e) := (h.bump ho).of_csr rfl
  unfold State.readGranule
  split
  · exact h
  · dsimp only
    split
    · exact h
    · exact (counted _ _ (by decide)).corrected
    · have seen := counted (pageOf g) (bumpPage (s.page (pageOf g)) 31 16) (o := 0x048) (by decide)
      split
      · exact StatusKept.report (seen.of_csr rfl)
      · exact seen.report

theorem StatusKept.sealGranule {g : Nat} {poison : Bool} (h : StatusKept r s) : StatusKept r (s.sealGranule g poison) := by
  unfold State.sealGranule
  dsimp only
  split
  · exact h.of_csr rfl
  · split <;> exact h.of_csr rfl

theorem StatusKept.writeGranule {a : Nat} {bs : List Byte} {poison : Bool} (h : StatusKept r s) :
    StatusKept r (s.writeGranule a bs poison) := by
  unfold State.writeGranule
  dsimp only
  split
  · exact StatusKept.sealGranule (StatusKept.of_csr (StatusKept.readGranule (h.bump (by decide))) rfl)
  · exact StatusKept.sealGranule (h.of_csr rfl)

theorem StatusKept.writeHbm {a : Nat} {bs : List Byte} (h : StatusKept r s) : StatusKept r (s.writeHbm a bs) :=
  h.foldl fun _ _ k => k.writeGranule

/-! Events and strands. -/

theorem StatusKept.drainEvents {n : Nat} (h : StatusKept r s) : StatusKept r (s.drainEvents n) := by
  induction n generalizing s with
  | zero => exact h
  | succ n ih =>
    unfold State.drainEvents
    split
    · exact h
    · extract_lets k a written popped
      have kept : StatusKept r written := h.writeHbm
      clear_value written
      split
      · exact h
      · exact ih (StatusKept.writeHbm (kept.of_csr rfl))

theorem StatusKept.event {type func : Nat} {job : Option Nat} {detail : List Byte} (h : StatusKept r s) :
    StatusKept r (s.event type func job detail) := by
  unfold State.event
  split
  · exact StatusKept.drainEvents (h.of_csr rfl)
  · exact StatusKept.bump (h.of_csr rfl) (by decide)

theorem StatusKept.fenceNote {kind idx func : Nat} {job : Option Nat} {reason addr here : Nat} (h : StatusKept r s) :
    StatusKept r (s.fenceNote kind idx func job reason addr here) := h.report.event

theorem StatusKept.complete {pair op status seq : Nat} {id : W64} {result : List Byte} (h : StatusKept r s) :
    StatusKept r (s.complete pair op status seq id result) := by
  unfold State.complete
  extract_lets k e written
  have kept : StatusKept r written := h.writeHbm
  clear_value written
  split
  · exact h
  · exact StatusKept.writeHbm (kept.of_csr rfl)

theorem StatusKept.settleStrand {x : PendStrand} (h : StatusKept r s) : StatusKept r (s.settleStrand x) := by
  unfold State.settleStrand State.finish
  split
  · split
    · exact StatusKept.complete (h.of_csr rfl)
    · exact h.of_csr rfl
  · exact h

theorem StatusKept.applyCheck {j i : Nat} (h : StatusKept r s) : StatusKept r (s.applyCheck j i) := by
  unfold State.applyCheck
  dsimp only
  split
  · exact h.of_csr rfl
  · exact StatusKept.of_csr (h.setFld (by decide)) rfl

theorem StatusKept.applyStaged {j i : Nat} (h : StatusKept r s) : StatusKept r (s.applyStaged j i) := by
  unfold State.applyStaged
  extract_lets checked
  have kept : StatusKept r checked := h.applyCheck
  clear_value checked
  split
  · exact kept
  · exact StatusKept.settleStrand (kept.of_csr rfl)

theorem StatusKept.applyStrands {j n : Nat} (h : StatusKept r s) : StatusKept r (s.applyStrands j n) :=
  StatusKept.foldl (fun _ _ k => k.applyStaged) (h.of_csr rfl)

/-! The stop of a job. -/

theorem StatusKept.setRxBytes {c n : Nat} (h : StatusKept r s) : StatusKept r (s.setRxBytes c n) :=
  StatusKept.setFld (StatusKept.setFld (h.of_csr rfl) (by decide)) (by decide)

theorem StatusKept.quietJob {j : Nat} (h : StatusKept r s) : StatusKept r (s.quietJob j) := by
  unfold State.quietJob
  extract_lets cores clusters
  have cores_kept : StatusKept r cores := h.foldl fun _ _ k => k.of_csr rfl
  have clusters_kept : StatusKept r clusters := cores_kept.foldl fun _ _ k => StatusKept.setRxBytes (k.of_csr rfl)
  clear_value clusters
  refine StatusKept.foldl (fun t q k => ?_) (clusters_kept.of_csr rfl)
  split
  · exact k.of_csr rfl
  · exact k

theorem StatusKept.stopJob {j cause func : Nat} (h : StatusKept r s) : StatusKept r (s.stopJob j cause func) := by
  unfold State.stopJob
  split
  · exact h
  · have quiet : StatusKept r (s.quietJob j) := h.quietJob
    exact (((quiet.setJob.setFlag (by decide)).setFld (by decide)).setFld (by decide)).event.applyStrands

theorem StatusKept.reportStop {type func j : Nat} {b : Body} (h : StatusKept r s) : StatusKept r (s.reportStop type func j b) :=
  h.report.stopJob

/-! The net. -/

/-- From s to t the braid stays, and of the net all but the entries still being assembled. -/
structure NetKept (s t : State) : Prop where
  braid : t.braid = s.braid
  net : t.net = { s.net with asm := t.net.asm }

theorem NetKept.refl (s : State) : NetKept s s := ⟨rfl, rfl⟩

theorem NetKept.trans (a : NetKept r s) (b : NetKept s t) : NetKept r t := by
  refine ⟨b.braid.trans a.braid, ?_⟩
  have h := b.net
  rw [a.net] at h
  exact h

theorem NetKept.foldl {α : Type} {f : State → α → State} {l : List α} (hf : ∀ t x, NetKept r t → NetKept r (f t x))
    (h : NetKept r s) : NetKept r (l.foldl f s) :=
  List.foldlRecOn (motive := NetKept r) l f h fun t ht x _ => hf t x ht

theorem NetKept.of_same (h : NetKept r s) (braid : t.braid = s.braid) (net : t.net = s.net) : NetKept r t :=
  h.trans ⟨braid, by rw [net]⟩

theorem NetKept.links (h : NetKept s t) : t.net.links = s.net.links := by rw [h.net]
theorem NetKept.holdover (h : NetKept s t) : t.net.holdover = s.net.holdover := by rw [h.net]

theorem ToldOnly.netKept (h : ToldOnly s t) : NetKept s t := by
  rw [h.frame]
  exact ⟨rfl, rfl⟩

theorem NetKept.told (h : NetKept r s) (k : ToldOnly s t) : NetKept r t := h.trans k.netKept
theorem NetKept.hbm (h : NetKept r s) (k : HbmOnly s t) : NetKept r t := h.told k.told

theorem NetKept.report {type sev func : Nat} {job : Option Nat} {b : Body} (h : NetKept r s) :
    NetKept r (s.report type sev func job b) := h.hbm (HbmOnly.refl s).report

theorem NetKept.fenceNote {kind idx func : Nat} {job : Option Nat} {reason addr here : Nat} (h : NetKept r s) :
    NetKept r (s.fenceNote kind idx func job reason addr here) := h.told (HbmOnly.refl s).report.told.event

theorem NetKept.applyStaged {j i : Nat} (h : NetKept r s) : NetKept r (s.applyStaged j i) := by
  unfold State.applyStaged
  extract_lets checked
  have kept : NetKept r checked := by
    unfold checked State.applyCheck
    dsimp only
    split
    · exact h.of_same rfl rfl
    · exact h.of_same rfl rfl
  clear_value checked
  split
  · exact kept
  · exact kept.told (ToldOnly.refl checked).setStrands.settleStrand

theorem NetKept.applyStrands {j n : Nat} (h : NetKept r s) : NetKept r (s.applyStrands j n) :=
  NetKept.foldl (fun _ _ k => k.applyStaged) (h.of_same rfl rfl)

theorem NetKept.quietJob {j : Nat} (h : NetKept r s) : NetKept r (s.quietJob j) := by
  unfold State.quietJob
  extract_lets cores clusters
  have cores_kept : NetKept r cores := h.foldl fun _ _ k => k.of_same rfl rfl
  have clusters_kept : NetKept r clusters := cores_kept.foldl fun _ _ k => k.of_same rfl rfl
  clear_value clusters
  refine NetKept.foldl (fun t q k => ?_) (clusters_kept.trans ⟨rfl, rfl⟩)
  split
  · exact k.of_same rfl rfl
  · exact k

theorem NetKept.stopJob {j cause func : Nat} (h : NetKept r s) : NetKept r (s.stopJob j cause func) := by
  unfold State.stopJob
  split
  · exact h
  · have quiet : NetKept r (s.quietJob j) := h.quietJob
    have marked : NetKept r (s.markStop j cause) := quiet.of_same
      (by simp only [State.markStop, State.setFlag, State.setFld, State.wr_braid, State.setJob_braid])
      (by simp only [State.markStop, State.setFlag, State.setFld, State.wr_net, State.setJob_net])
    exact (marked.told (ToldOnly.refl _).event).applyStrands

theorem NetKept.reportStop {type func j : Nat} {b : Body} (h : NetKept r s) : NetKept r (s.reportStop type func j b) :=
  h.report.stopJob

end Sys2Proof.Machine
end

/-! PROOFS. Failing links (R304, R306, R307, R316): LINK_FAIL, LOCK_LOST_TIMEOUT and INJECT, by the STATUS registers of the pair. -/
section
namespace Sys2Proof.Machine

variable {r s t : State} {l : Nat}

theorem State.flag_setFlag {k n i m : Nat} {b : Bool} (hi : i < 64) (hm : m < 64) :
    (s.setFlag k i b).flag n m = if n = k ∧ m = i then b else s.flag n m := by
  by_cases hn : n = k
  · subst hn
    by_cases e : m = i
    · rw [if_pos ⟨rfl, e⟩, e]
      exact State.flag_setFlag_same hi
    · rw [if_neg (fun h => e h.2)]
      exact State.flag_setFld_other hm (by omega)
  · rw [if_neg (fun h => hn h.1), State.flag, State.setFlag, State.rd_setFld_ne hn, State.flag]

theorem partner_ne : partner l ≠ l := by
  unfold partner
  split <;> omega

theorem tetherStatus_inj {k : Nat} : rg (fnTether k) 0 = rg (fnTether l) 0 ↔ k = l := by
  unfold rg fnTether
  omega

/-! The fence of a link. -/

theorem State.flag_fenceLink {reason k i : Nat} (hi : i < 64) : (s.fenceLink l reason).flag (rg (fnTether k) 0) i =
    if k = l ∧ (i = 0 ∨ i = 1 ∨ i = 4) then decide (i = 4) else s.flag (rg (fnTether k) 0) i := by
  unfold State.fenceLink
  rw [(StatusKept.refl _).fenceNote.flag]
  simp only [State.flag_setFlag, hi, Nat.reduceLT, tetherStatus_inj]
  by_cases same : k = l <;> by_cases h1 : i = 1 <;> by_cases h0 : i = 0 <;> by_cases h4 : i = 4 <;> simp_all

theorem State.linkFailed_fenceLink {reason k : Nat} : (s.fenceLink l reason).linkFailed k = (decide (k = l) || s.linkFailed k) := by
  rw [State.linkFailed, State.flag_fenceLink (by decide)]
  by_cases same : k = l <;> simp [same, State.linkFailed]

theorem State.linkReady_fenceLink {reason k : Nat} : (s.fenceLink l reason).linkReady k = (!decide (k = l) && s.linkReady k) := by
  rw [State.linkReady, State.flag_fenceLink (by decide)]
  by_cases same : k = l <;> simp [same, State.linkReady]

theorem NetKept.fenceLink {reason : Nat} (h : NetKept r s) : NetKept r (s.fenceLink l reason) :=
  NetKept.fenceNote (h.of_same rfl rfl)

/-! The stop of the jobs of a pair (R307). -/

theorem State.jobStop_setRxBytes {c n : Nat} : (s.setRxBytes c n).rd (rg fnChip 0x048) = s.rd (rg fnChip 0x048) := by
  have ne : rg fnChip 0x048 ≠ rg (fnCluster c) 0x0A8 := by
    unfold rg fnChip fnCluster
    omega
  exact (State.rd_setFld_ne ne).trans (State.rd_setFld_ne ne)

theorem State.jobStop_foldl {α : Type} {f : State → α → State} {l : List α}
    (hf : ∀ t x, (f t x).rd (rg fnChip 0x048) = t.rd (rg fnChip 0x048)) : (l.foldl f s).rd (rg fnChip 0x048) = s.rd (rg fnChip 0x048) :=
  List.foldlRecOn (motive := fun t : State => t.rd (rg fnChip 0x048) = s.rd (rg fnChip 0x048)) l f rfl fun t ht x _ => (hf t x).trans ht

theorem State.jobStop_quietJob {j : Nat} : (s.quietJob j).rd (rg fnChip 0x048) = s.rd (rg fnChip 0x048) := by
  unfold State.quietJob
  extract_lets cores clusters
  have cores_kept : cores.rd (rg fnChip 0x048) = s.rd (rg fnChip 0x048) := State.jobStop_foldl fun _ _ => rfl
  have clusters_kept : clusters.rd (rg fnChip 0x048) = cores.rd (rg fnChip 0x048) :=
    State.jobStop_foldl fun _ _ => State.jobStop_setRxBytes
  clear_value clusters
  refine (State.jobStop_foldl fun t q => ?_).trans (clusters_kept.trans cores_kept)
  split <;> rfl

theorem State.stopped_markStop_of_stopped {i j cause : Nat} (hi : i < 16) (hj : j < 16) (h : s.stopped j = true) :
    (s.markStop i cause).stopped j = true := by
  have quiet : ((s.quietJob i).rd (rg fnChip 0x048)).toNat.testBit j = true := by
    rw [State.jobStop_quietJob]
    exact h
  unfold State.markStop State.stopped
  rw [State.flag_setFld_other (by omega) (by omega), State.flag_setFld_other (by omega) (by omega),
    State.flag_setFlag (by omega) (by omega)]
  split
  · rfl
  · rwa [State.flag, State.rd_setJob]

theorem State.stopped_stopJob_of_stopped {i j cause func : Nat} (hi : i < 16) (hj : j < 16) (h : s.stopped j = true) :
    (s.stopJob i cause func).stopped j = true := by
  rcases State.stopJob_cases (s := s) (j := i) (cause := cause) (func := func) with ⟨-, same⟩ | kept
  · rwa [same]
  · rw [State.stopped, State.flag, kept.stops]
    exact State.stopped_markStop_of_stopped hi hj h

theorem State.stopped_reportStop_of_stopped {type i j func : Nat} {b : Body} (hi : i < 16) (hj : j < 16) (h : s.stopped j = true) :
    (s.reportStop type func i b).stopped j = true := by
  refine State.stopped_stopJob_of_stopped hi hj ?_
  rwa [State.stopped, State.flag, (StreamsKept.refl s).report.stops]

theorem State.lt_of_definedJob {j : Nat} (h : j ∈ s.definedJobs) : j < 16 := List.mem_range.1 (List.mem_filter.1 h).1

/-- Where each job of a list stops, all of them have stopped in the end. -/
theorem State.stopped_foldl_reportStop {type func j : Nat} {b : Body} {js : List Nat} (lt : ∀ i ∈ js, i < 16)
    (h : j ∈ js ∨ j < 16 ∧ s.stopped j = true) : (js.foldl (fun s i => s.reportStop type func i b) s).stopped j = true := by
  induction js generalizing s with
  | nil => exact (h.resolve_left List.not_mem_nil).2
  | cons i js ih =>
    have hi : i < 16 := lt i List.mem_cons_self
    refine ih (fun k hk => lt k (List.mem_cons_of_mem i hk)) ?_
    rcases h with mem | ⟨hj, stopped⟩
    · rcases List.mem_cons.1 mem with same | later
      · subst same
        exact .inr ⟨hi, State.stopped_stopJob hi⟩
      · exact .inl later
    · exact .inr ⟨hj, State.stopped_reportStop_of_stopped hi hj stopped⟩

/-! The loss of a pair. -/

theorem State.slotJobs_of_braid {k : Nat} (braid : t.braid = s.braid) : t.slotJobs k = s.slotJobs k := by
  unfold State.slotJobs State.slotTable State.definedJobs State.jobDefined State.jobRec State.recs
  rw [braid]

theorem State.definedJobs_of_braid (braid : t.braid = s.braid) : t.definedJobs = s.definedJobs := by
  unfold State.definedJobs State.jobDefined State.jobRec State.recs
  rw [braid]

theorem State.flag_pairLost {k i : Nat} (hi : i < 64) : (s.pairLost l).flag (rg (fnTether k) 0) i =
    if (k = l ∨ k = partner l) ∧ (i = 2 ∨ i = 3) then false else s.flag (rg (fnTether k) 0) i := by
  unfold State.pairLost
  rw [((StatusKept.refl _).foldl fun _ _ kept => kept.reportStop).flag]
  simp only [State.flag_setFlag, hi, Nat.reduceLT, tetherStatus_inj]
  by_cases h2 : i = 2 <;> by_cases h3 : i = 3 <;> by_cases own : k = l <;> by_cases other : k = partner l <;> simp_all

theorem State.linkFailed_pairLost {k : Nat} : (s.pairLost l).linkFailed k = s.linkFailed k :=
  (State.flag_pairLost (i := 4) (by decide)).trans (if_neg (by simp))
theorem State.linkReady_pairLost {k : Nat} : (s.pairLost l).linkReady k = s.linkReady k :=
  (State.flag_pairLost (i := 0) (by decide)).trans (if_neg (by simp))

theorem NetKept.pairLost (h : NetKept r s) : NetKept r (s.pairLost l) :=
  NetKept.foldl (fun _ _ k => k.reportStop) (h.of_same rfl rfl)

theorem State.stopped_pairLost {j : Nat} (defined : j ∈ s.definedJobs) (slot : j ∈ s.slotJobs l ∨ j ∈ s.slotJobs (partner l)) :
    (s.pairLost l).stopped j = true := by
  refine State.stopped_foldl_reportStop (fun i hi => State.lt_of_definedJob (List.mem_filter.1 hi).1) (.inl ?_)
  simpa [State.slotJobs_of_braid (s := s) rfl, State.definedJobs_of_braid (s := s) rfl] using ⟨defined, slot⟩

/-! A failing link. -/

/-- What a link that fails is first: reported, fenced and emptied. -/
def State.fenceFailed (s : State) (l cause : Nat) : State :=
  let t := (s.report 0x52 2 (fnTether l) none { code := cause, unit := l, d0 := partner l }).fenceLink l 0x52
  let x := t.link l
  t.setLink l { x with failing := none, nak := false, turn := false, measured := false, echoes := []
                       resend := (x.sent.filter (fun q => (q.frame.fseq - x.acked).toNat < 32768 && q.frame.fseq != x.acked)).map (·.frame.fseq) }

/-- The neighbour over a link that was READY becomes SUSPECT. -/
def State.suspectOver (s : State) (l : Nat) (was : Bool) : State :=
  match s.neighbourEntry l with
  | some i => if was then s.reportPeer i 2 else s
  | none => s

/-- What becomes of its traffic: its partner carries it, or the pair is lost. -/
def State.passOn (s : State) (l : Nat) : State :=
  if s.linkFailed (partner l) || s.linkCarrying l then s.pairLost l
  else (s.setFlag (rg (fnTether l) 0) 3 true).setFlag (rg (fnTether (partner l)) 0) 2 true

theorem State.linkFail_failed {cause : Nat} (h : s.linkFailed l = true) : s.linkFail l cause = s := if_pos h

theorem State.linkFail_fences {cause : Nat} (h : s.linkFailed l = false) : s.linkFail l cause =
    if s.flag kPodstat 16 && !s.isRoot && s.fld kPodstat 23 19 == l then
      (((s.fenceFailed l cause).suspectOver l (s.linkReady l)).passOn l).switchParent l
    else ((s.fenceFailed l cause).suspectOver l (s.linkReady l)).passOn l := by
  unfold State.linkFail
  rw [if_neg (Bool.eq_false_iff.1 h)]
  extract_lets p lock was t x u v lost w
  have fenced : u = s.fenceFailed l cause := rfl
  clear_value u
  have suspected : v = u.suspectOver l was := rfl
  clear_value v
  have passed : w = v.passOn l := rfl
  rw [passed, suspected, fenced]

theorem StatusKept.reportPeer {i st : Nat} (h : StatusKept r s) : StatusKept r (s.reportPeer i st) := by
  unfold State.reportPeer
  split
  · exact h
  · extract_lets m told
    have marked : StatusKept r (s.markPeer i st) := by
      unfold State.markPeer
      split
      · exact h
      · exact h.writeHbm.writeHbm.event
    have told_kept : StatusKept r told := marked.bump (by decide)
    clear_value told
    obtain ⟨x, same⟩ := State.spread_frame (s := { told with net := { told.net with mdowns := told.net.mdowns ++ [m] } }) (m := m) (src := none)
    rw [same]
    exact told_kept.of_csr rfl

theorem State.braid_reportPeer {i st : Nat} : (s.reportPeer i st).braid = s.braid := by
  unfold State.reportPeer
  split
  · rfl
  · extract_lets m told
    have marked : (s.markPeer i st).braid = s.braid := by
      unfold State.markPeer
      split
      · rfl
      · exact ((ToldOnly.refl s).writeHbm.writeHbm.event).netKept.braid
    have told_kept : told.braid = s.braid := marked
    clear_value told
    obtain ⟨x, same⟩ := State.spread_frame (s := { told with net := { told.net with mdowns := told.net.mdowns ++ [m] } }) (m := m) (src := none)
    rw [same]
    exact told_kept

/-- The fence of a failing link leaves the other bits of the STATUS registers. -/
theorem State.flag_fenceFailed {cause k i : Nat} (hi : i < 64) : (s.fenceFailed l cause).flag (rg (fnTether k) 0) i =
    if k = l ∧ (i = 0 ∨ i = 1 ∨ i = 4) then decide (i = 4) else s.flag (rg (fnTether k) 0) i := by
  unfold State.fenceFailed
  extract_lets t x
  have fenced : t.flag (rg (fnTether k) 0) i = if k = l ∧ (i = 0 ∨ i = 1 ∨ i = 4) then decide (i = 4) else s.flag (rg (fnTether k) 0) i := by
    rw [State.flag_fenceLink hi, (StatusKept.refl s).report.flag]
  clear_value t
  exact fenced

theorem State.braid_fenceFailed {cause : Nat} : (s.fenceFailed l cause).braid = s.braid := by
  unfold State.fenceFailed
  extract_lets t x
  have kept : t.braid = s.braid := ((NetKept.refl s).report.fenceLink).braid
  clear_value t
  exact kept

theorem StatusKept.suspectOver {was : Bool} (h : StatusKept r s) : StatusKept r (s.suspectOver l was) := by
  unfold State.suspectOver
  split
  · split
    · exact h.reportPeer
    · exact h
  · exact h

theorem State.braid_suspectOver {was : Bool} : (s.suspectOver l was).braid = s.braid := by
  unfold State.suspectOver
  split
  · split
    · exact State.braid_reportPeer
    · rfl
  · rfl

/-! A lost parent. -/

theorem StatusKept.lockTo {alt : Bool} (h : StatusKept r s) : StatusKept r (s.lockTo l alt) :=
  ((h.setFld (by decide)).setFlag (by decide)).setFlag (by decide)

theorem StreamsKept.lockTo {alt : Bool} (h : StreamsKept r s) : StreamsKept r (s.lockTo l alt) :=
  ((h.setFld (by decide)).setFld (by decide)).setFld (by decide)

theorem StatusKept.switchParent (h : StatusKept r s) : StatusKept r (s.switchParent l) := by
  unfold State.switchParent
  dsimp only
  split
  · exact h.lockTo
  · split
    · exact h.lockTo
    · exact StatusKept.report (StatusKept.of_csr (h.setFlag (by decide)) rfl)

theorem State.stopped_switchParent {j : Nat} : (s.switchParent l).stopped j = s.stopped j := by
  have kept : (s.switchParent l).rd (rg fnChip 0x048) = s.rd (rg fnChip 0x048) := by
    unfold State.switchParent
    dsimp only
    split
    · exact (StreamsKept.refl s).lockTo.stops
    · split
      · exact (StreamsKept.refl s).lockTo.stops
      · exact (StreamsKept.refl _).report.stops.trans ((StreamsKept.refl s).setFld (by decide)).stops
  rw [State.stopped, State.flag, kept, State.stopped, State.flag]

/-! The failure as a whole. -/

/-- A link that has failed is fenced, its neighbour suspected; what becomes of its traffic is the last that the STATUS registers and
CHIP.JOBSTOP see of the failure. -/
theorem State.linkFail_passesOn {cause : Nat} (h : s.linkFailed l = false) : ∃ u : State, u.braid = s.braid ∧
    (∀ k i, i < 64 → u.flag (rg (fnTether k) 0) i = if k = l ∧ (i = 0 ∨ i = 1 ∨ i = 4) then decide (i = 4) else s.flag (rg (fnTether k) 0) i) ∧
    StatusKept (u.passOn l) (s.linkFail l cause) ∧ ∀ j, (s.linkFail l cause).stopped j = (u.passOn l).stopped j := by
  refine ⟨(s.fenceFailed l cause).suspectOver l (s.linkReady l), State.braid_suspectOver.trans State.braid_fenceFailed, fun k i hi => ?_, ?_⟩
  · rw [(StatusKept.refl _).suspectOver.flag, State.flag_fenceFailed hi]
  · rw [State.linkFail_fences h]
    split
    · exact ⟨(StatusKept.refl _).switchParent, fun _ => State.stopped_switchParent⟩
    · exact ⟨StatusKept.refl _, fun _ => rfl⟩

/-- The partner of a failed link is sound and the link did not carry: the partner carries it. -/
theorem State.passOn_carried (h : (s.linkFailed (partner l) || s.linkCarrying l) = false) :
    s.passOn l = (s.setFlag (rg (fnTether l) 0) 3 true).setFlag (rg (fnTether (partner l)) 0) 2 true := if_neg (Bool.eq_false_iff.1 h)

theorem State.passOn_lost (h : (s.linkFailed (partner l) || s.linkCarrying l) = true) : s.passOn l = s.pairLost l := if_pos h

theorem State.flag_passOn {k i : Nat} (hi : i < 64) (h2 : i ≠ 2) (h3 : i ≠ 3) :
    (s.passOn l).flag (rg (fnTether k) 0) i = s.flag (rg (fnTether k) 0) i := by
  unfold State.passOn
  split
  · rw [State.flag_pairLost hi, if_neg (by omega)]
  · rw [State.flag_setFlag (by decide) hi, if_neg (by omega), State.flag_setFlag (by decide) hi, if_neg (by omega)]

theorem State.linkFail_leaves {cause : Nat} (h : s.linkFailed l = false) :
    let t := s.linkFail l cause
    let p := partner l
    t.linkFailed l = true ∧ t.linkReady l = false ∧ t.linkReady p = s.linkReady p ∧
      (s.linkFailed p = false → s.linkCarrying l = false → t.linkCarried l = true ∧ t.linkCarrying p = true) ∧
      (s.linkFailed p = true ∨ s.linkCarrying l = true → t.linkCarried l = false ∧ t.linkCarrying p = false ∧
        ∀ j ∈ s.definedJobs, j ∈ s.slotJobs l ∨ j ∈ s.slotJobs p → t.stopped j = true) := by
  intro t p
  obtain ⟨u, braid, flags, status, stops⟩ := State.linkFail_passesOn (cause := cause) h
  have failedP : u.linkFailed p = s.linkFailed p := (flags p 4 (by decide)).trans (if_neg (fun e => partner_ne e.1))
  have carrying : u.linkCarrying l = s.linkCarrying l := (flags l 2 (by decide)).trans (if_neg (by simp))
  refine ⟨?_, ?_, ?_, fun sound free => ?_, fun lost => ?_⟩
  · rw [State.linkFailed, status.flag, State.flag_passOn (by decide) (by decide) (by decide), flags l 4 (by decide), if_pos (by simp)]
    rfl
  · rw [State.linkReady, status.flag, State.flag_passOn (by decide) (by decide) (by decide), flags l 0 (by decide), if_pos (by simp)]
    rfl
  · rw [State.linkReady, status.flag, State.flag_passOn (by decide) (by decide) (by decide), flags p 0 (by decide),
      if_neg (fun e => partner_ne e.1), State.linkReady]
  · have carried : (u.linkFailed p || u.linkCarrying l) = false := by rw [failedP, carrying, sound, free]; rfl
    rw [State.linkCarried, State.linkCarrying, status.flag, status.flag, State.passOn_carried carried]
    refine ⟨?_, State.flag_setFlag_same (by decide)⟩
    rw [State.flag_setFlag (by decide) (by decide), if_neg (by omega), State.flag_setFlag_same (by decide)]
  · have gone : (u.linkFailed p || u.linkCarrying l) = true := by rw [failedP, carrying]; simpa using lost
    rw [State.linkCarried, State.linkCarrying, status.flag, status.flag, State.passOn_lost gone]
    refine ⟨(State.flag_pairLost (by decide)).trans (if_pos ⟨.inl rfl, .inr rfl⟩),
      (State.flag_pairLost (by decide)).trans (if_pos ⟨.inr rfl, .inl rfl⟩), fun j defined slot => ?_⟩
    rw [stops, State.passOn_lost gone]
    refine State.stopped_pairLost ?_ ?_
    · rwa [State.definedJobs_of_braid braid]
    · rwa [State.slotJobs_of_braid braid, State.slotJobs_of_braid braid]

/-! The commands. -/

theorem exec_linkFail_other {l : LinkId} {cause : Fin 4} (h : (s.link l).failing ≠ some cause.val ∨ s.linkFailed l = true) :
    exec (.linkFail l cause) s = .next s := by
  change (if _ then _ else _) = _
  split
  · next due => rw [State.linkFail_failed (h.resolve_left (not_not_intro due))]
  · rfl

theorem exec_linkFail_due {l : LinkId} {cause : Fin 4} (h : (s.link l).failing = some cause.val) :
    exec (.linkFail l cause) s = .next (s.linkFail l cause) := if_pos h

theorem exec_lockLostTimeout_late {l : LinkId} (ready : s.linkReady l = true) (sound : (s.link l).failing = none)
    (lost : (s.link l).lostAt ≠ 0) (late : (s.link l).lostAt - 1 + 1000 < s.linkTime) :
    exec (.lockLostTimeout l) s = .next (s.setLink l { s.link l with failing := some 3 }) :=
  if_neg (by simp [ready, sound, lost, late])

theorem exec_lockLostTimeout_early {l : LinkId} (early : s.linkTime ≤ (s.link l).lostAt - 1 + 1000) :
    exec (.lockLostTimeout l) s = .next s := if_pos (.inr (.inl early))

theorem exec_tetherInject_open {l : LinkId} (h : s.flag (rg (fnTether l) 0x020) 0 = true) :
    exec (.tetherInjectFrame l) s = .next (s.setLink l { s.link l with corrupt := true }) ∧
      exec (.tetherInjectFail l) s = .next (s.linkFail l 0) := ⟨if_pos h, if_pos h⟩

theorem exec_tetherInject_closed {l : LinkId} (h : s.flag (rg (fnTether l) 0x020) 0 = false) :
    exec (.tetherInjectFrame l) s = .next s ∧ exec (.tetherInjectFail l) s = .next s :=
  ⟨if_neg (Bool.eq_false_iff.1 h), if_neg (Bool.eq_false_iff.1 h)⟩

/-- Settles O39: a failure by linkFail_leaves, from what its fence and the loss of its pair leave of the STATUS registers; each
command by its equations. -/
theorem linkFailureIsCarriedOrStopsJobs : Obligations.LinkFailureIsCarriedOrStopsJobs := by
  unfold Obligations.LinkFailureIsCarriedOrStopsJobs
  intro s l p
  refine ⟨fun cause => ⟨exec_linkFail_other, fun due sound => ⟨_, exec_linkFail_due due, State.linkFail_leaves sound⟩⟩,
    fun ready sound lost => ⟨exec_lockLostTimeout_late ready sound lost, exec_lockLostTimeout_early⟩, fun opened => ?_,
    exec_tetherInject_closed⟩
  obtain ⟨frame, fail⟩ := exec_tetherInject_open opened
  refine ⟨frame, _, fail, ?_⟩
  cases failed : s.linkFailed l
  · obtain ⟨fenced, down, -⟩ := State.linkFail_leaves (cause := 0) failed
    exact ⟨fenced, nofun, fun _ => down⟩
  · rw [State.linkFail_failed failed]
    exact ⟨failed, fun _ => rfl, nofun⟩

end Sys2Proof.Machine
end

/-! PROOFS. Messages that wait on links (R311), training and holdover (R295, R296, R310, R314). -/
section
namespace Sys2Proof.Machine

variable {r s t : State} {l : Nat}

/-- From s to t only the links differ. -/
structure LinksOnly (s t : State) : Prop where
  frame : t = { s with net := { s.net with links := t.net.links } }

theorem LinksOnly.refl (s : State) : LinksOnly s s := ⟨rfl⟩

theorem LinksOnly.trans (a : LinksOnly r s) (b : LinksOnly s t) : LinksOnly r t := by
  constructor
  have h := b.frame
  rw [a.frame] at h
  exact h

theorem LinksOnly.foldl {α : Type} {f : State → α → State} {l : List α} (hf : ∀ t x, LinksOnly r t → LinksOnly r (f t x))
    (h : LinksOnly r s) : LinksOnly r (l.foldl f s) :=
  List.foldlRecOn (motive := LinksOnly r) l f h fun t ht x _ => hf t x ht

theorem LinksOnly.setLink {x : Link} (h : LinksOnly r s) : LinksOnly r (s.setLink l x) := h.trans ⟨rfl⟩

theorem LinksOnly.sendDir {d : Nat} {m : CtlMsg} (h : LinksOnly r s) : LinksOnly r (s.sendDir d m) := by
  unfold State.sendDir
  split
  · exact h.setLink
  · exact h

theorem LinksOnly.sendChildren {g : Nat} {m : CtlMsg} (h : LinksOnly r s) : LinksOnly r (s.sendChildren g m) :=
  h.foldl fun _ _ k => k.sendDir

theorem LinksOnly.flag (h : LinksOnly s t) (k i : Nat) : t.flag k i = s.flag k i := by rw [h.frame]; rfl
theorem LinksOnly.fld (h : LinksOnly s t) (k hi lo : Nat) : t.fld k hi lo = s.fld k hi lo := by rw [h.frame]; rfl
theorem LinksOnly.grp (h : LinksOnly s t) (g : Nat) : t.grp g = s.grp g := by rw [h.frame]; rfl
theorem LinksOnly.holdover (h : LinksOnly s t) : t.net.holdover = s.net.holdover := by rw [h.frame]
theorem LinksOnly.newRoot (h : LinksOnly s t) : t.net.newRoot = s.net.newRoot := by rw [h.frame]
theorem LinksOnly.jobs (h : LinksOnly s t) : t.jobs = s.jobs := by rw [h.frame]
theorem LinksOnly.cores (h : LinksOnly s t) : t.cores = s.cores := by rw [h.frame]
theorem LinksOnly.braid (h : LinksOnly s t) : t.braid = s.braid := by rw [h.frame]
theorem LinksOnly.beat (h : LinksOnly s t) : t.beat = s.beat := by rw [h.frame]

@[simp] theorem State.link_setLink_same {x : Link} : (s.setLink l x).link l = x := tget_tput_same
theorem State.link_setLink_ne {x : Link} {k : Nat} (h : k ≠ l) : (s.setLink l x).link k = s.link k := tget_tput_ne h

/-! The judgement of a trained link (R296). -/

/-- Link l trains, has frame lock and its echoes, and the braid gives its axis a cable. -/
structure State.Trained (s : State) (l : Nat) : Prop where
  trains : s.linkTrains l = true
  lock : s.flag (rg (fnTether l) 0) 1 = true
  measured : (s.link l).measured = true
  pod : s.rec1 1 ≠ []
  cabled : s.cabled l = true

theorem State.linkTrains_iff : s.linkTrains l = true ↔
    s.flag kClk 11 = true ∧ s.linkReady l = false ∧ s.linkFailed l = false ∧ s.flag (rg (fnTether l) 0) 5 = false := by
  simp [State.linkTrains, and_assoc]

theorem State.judgeLink_untrained (trains : s.linkTrains l = true) (h : ¬ s.Trained l) : s.judgeLink l = s := by
  refine if_pos ?_
  by_contra judged
  simp only [not_or, Bool.not_eq_true', Bool.not_eq_false] at judged
  obtain ⟨lock, measured, -, pod, cabled, -⟩ := judged
  exact h ⟨trains, lock, measured, pod, cabled⟩

theorem State.Trained.judged (h : s.Trained l) : ¬ (!s.flag (rg (fnTether l) 0) 1 ∨ !(s.link l).measured ∨ s.linkFailed l ∨ s.rec1 1 = [] ∨
    !s.cabled l ∨ s.linkReady l) := by
  obtain ⟨-, down, sound, -⟩ := State.linkTrains_iff.1 h.trains
  simp [h.lock, h.measured, h.pod, h.cabled, down, sound]

/-- READY, and at the root the lead of releases is computed anew. -/
theorem State.judgeLink_sound (h : s.Trained l) (sound : s.linkSound l = true) : (s.judgeLink l).linkReady l = true ∧
    (s.judgeLink l).mem = s.mem ∧ (s.judgeLink l).jobs = s.jobs := by
  have ready : (s.setFlag (rg (fnTether l) 0) 0 true).linkReady l = true := State.flag_setFlag_same (by decide)
  unfold State.judgeLink
  dsimp only
  rw [if_neg h.judged, if_pos sound]
  split
  · exact ⟨(((StatusKept.refl _).setFld (by decide)).flag _ 0).trans ready, rfl, rfl⟩
  · exact ⟨ready, rfl, rfl⟩

/-- A buffer with room takes the entry, and LOG.ENTRIES counts it (R448). -/
theorem State.logCount_logPut {e : LogEntry} (room : s.log.entries.length < 4096) :
    (s.logPut e).rd (rg fnLog 0x008) = (s.bump (rg fnLog 0x008) 63 0 1).rd (rg fnLog 0x008) := by
  unfold State.logPut
  dsimp only
  rw [if_pos room]
  rfl

/-- Not READY, and logged. -/
theorem State.judgeLink_faulty (h : s.Trained l) (faulty : s.linkSound l = false) : (s.judgeLink l).linkReady l = false ∧
    ((s.judgeLink l).rd (rg fnLog 0x008) = (s.bump (rg fnLog 0x008) 63 0 1).rd (rg fnLog 0x008) ∨ 4096 ≤ s.log.entries.length) ∧
    (s.judgeLink l).mem = s.mem ∧ (s.judgeLink l).jobs = s.jobs := by
  have logged : s.judgeLink l = s.draw.2.draw.2.logPut
      (plainEntry s.draw.2.draw.2 (s.draw.1.toNat % 256) (s.draw.2.draw.1.toNat % 5) (fnTether l) none) := by
    unfold State.judgeLink
    dsimp only
    rw [if_neg h.judged, if_neg (Bool.eq_false_iff.1 faulty)]
  rw [logged]
  refine ⟨?_, ?_, State.logPut_mem, (UnitsKept.refl _).logPut.jobs⟩
  · rw [State.linkReady, ((StatusKept.refl _).logPut).flag]
    exact (State.linkTrains_iff.1 h.trains).2.1
  · by_cases room : s.log.entries.length < 4096
    · exact .inl (State.logCount_logPut room)
    · exact .inr (Nat.not_lt.1 room)

theorem State.linkSound_iff : s.linkSound l = true ↔
    s.fld (rg (fnTether l) 0x048) 8 0 = s.neighbourCoord (linkDir l) ∧
      s.fld (rg (fnTether l) 0x048) 11 9 = (if linkDir l % 2 = 0 then linkDir l + 1 else linkDir l - 1) ∧
      s.fld (rg (fnTether l) 0x048) 13 12 = linkIndex l ∧ s.fld (rg (fnTether l) 0x040) 15 0 ≤ 416 ∧
      s.fld (rg (fnTether l) 0x040) 15 0 + 192 ≤ s.fld (rg fnClk 0x050) 47 32 := by
  simp only [State.linkSound, Bool.and_eq_true, beq_iff_eq, decide_eq_true_eq, and_assoc]

section
variable {l : LinkId} {coord : BitVec 9} {dir : BitVec 3} {index : BitVec 2} {rtt oneway : W16}

theorem exec_linkTrainingDone_other (h : ¬ (s.Trained l ∧ s.trainedAs l coord dir index rtt oneway = true)) :
    exec (.linkTrainingDone l coord dir index rtt oneway) s = .next s := by
  change (if _ then _ else _) = _
  split
  · next asked =>
    obtain ⟨trains, same⟩ := (Bool.and_eq_true _ _).mp asked
    rw [State.judgeLink_untrained trains fun trained => h ⟨trained, same⟩]
  · rfl

theorem exec_linkTrainingDone_judges (h : s.Trained l) (same : s.trainedAs l coord dir index rtt oneway = true) :
    exec (.linkTrainingDone l coord dir index rtt oneway) s = .next (s.judgeLink l) := if_pos (by rw [h.trains, same]; rfl)

end

/-! Holdover (R310). -/

theorem State.linkFailed_foldl_fenceLink {ls : List Nat} {reason k : Nat} :
    (ls.foldl (fun s l => s.fenceLink l reason) s).linkFailed k = (decide (k ∈ ls) || s.linkFailed k) := by
  induction ls generalizing s with
  | nil => simp
  | cons i ls ih => simp [ih, State.linkFailed_fenceLink, Bool.or_assoc, Bool.or_left_comm]

theorem State.linkReady_foldl_fenceLink {ls : List Nat} {reason k : Nat} :
    (ls.foldl (fun s l => s.fenceLink l reason) s).linkReady k = (!decide (k ∈ ls) && s.linkReady k) := by
  induction ls generalizing s with
  | nil => simp
  | cons i ls ih => simp [ih, State.linkReady_fenceLink, Bool.and_assoc, Bool.and_left_comm]

theorem State.linkFailed_foldl_pairLost {ls : List Nat} {k : Nat} : (ls.foldl (fun s l => s.pairLost l) s).linkFailed k = s.linkFailed k :=
  List.foldlRecOn (motive := fun t : State => t.linkFailed k = s.linkFailed k) ls _ rfl fun _ ht _ _ => State.linkFailed_pairLost.trans ht

theorem State.linkReady_foldl_pairLost {ls : List Nat} {k : Nat} : (ls.foldl (fun s l => s.pairLost l) s).linkReady k = s.linkReady k :=
  List.foldlRecOn (motive := fun t : State => t.linkReady k = s.linkReady k) ls _ rfl fun _ ht _ _ => State.linkReady_pairLost.trans ht

/-- The links that a chip fences at the end of its holdover: those that it has, and that have not failed. -/
def State.soundLinks (s : State) : List Nat := (List.range 24).filter (fun l => !s.flag (rg (fnTether l) 0) 5 && !s.linkFailed l)

/-- The chip leaves holdover without a parent. -/
def State.endHoldover (s : State) : State :=
  s.soundLinks.foldl (fun s l => s.pairLost l)
    (s.soundLinks.foldl (fun s l => s.fenceLink l 0x53) { s with net := { s.net with holdover := 0 } })

theorem exec_holdoverTimeout_ends (held : s.flag kPodstat 17 = true) (since : s.net.holdover ≠ 0)
    (late : s.net.holdover - 1 + 10000000 ≤ s.beat.toNat) : exec .holdoverTimeout s = .next s.endHoldover :=
  if_neg (by simp [held, since, late])

theorem State.holdover_endHoldover : s.endHoldover.net.holdover = 0 :=
  (NetKept.foldl (fun _ _ k => k.pairLost) (NetKept.foldl (fun _ _ k => k.fenceLink) (.refl { s with net := { s.net with holdover := 0 } }))).holdover

theorem State.linkFailed_endHoldover {l : LinkId} (own : s.flag (rg (fnTether l) 0) 5 = false) : s.endHoldover.linkFailed l = true := by
  rw [State.endHoldover, State.linkFailed_foldl_pairLost, State.linkFailed_foldl_fenceLink]
  cases failed : s.linkFailed l
  · have mem : l.val ∈ s.soundLinks := List.mem_filter.2 ⟨List.mem_range.2 l.isLt, by simp [own, failed]⟩
    simp [mem]
  · exact Bool.or_eq_true_iff.2 (.inr failed)

theorem State.linkReady_endHoldover {l : LinkId} (own : s.flag (rg (fnTether l) 0) 5 = false) (sound : s.linkFailed l = false) :
    s.endHoldover.linkReady l = false := by
  have mem : l.val ∈ s.soundLinks := List.mem_filter.2 ⟨List.mem_range.2 l.isLt, by simp [own, sound]⟩
  rw [State.endHoldover, State.linkReady_foldl_pairLost, State.linkReady_foldl_fenceLink]
  simp [mem]

/-! The standby root (R310). -/

/-- The standby root as the root, before it has told its neighbours. -/
def State.becomeRoot (s : State) : State :=
  let t := s.report 0x53 2 fnClk none { code := 2, unit := s.fld kPodstat 23 19 }
  let u := (((t.setFlag kPodstat 9 true).setFlag kPodstat 17 false).setFld kPodstat 27 24 0)
  { u with net := { u.net with holdover := 0, newRoot := u.ownCoord + 1 } }.setAlignLead

/-- The standby root as the root. -/
def State.takeOver (s : State) : State :=
  (List.range 6).foldl (fun s d => s.sendDir d (ctlMsg 0x05 (256 * s.ownCoord) s.beat.toNat)) s.becomeRoot

theorem exec_rootTakeover_takes (pod : s.rec1 1 ≠ []) (standby : s.podByte 18 = 0xFF) (other : s.isRoot = false)
    (locked : s.flag kPodstat 16 = true) : exec .rootTakeover s = .next s.takeOver :=
  if_neg (by simp [pod, standby, other, locked])

theorem State.takeOver_linksOnly : LinksOnly s.becomeRoot s.takeOver := (LinksOnly.refl _).foldl fun _ _ k => k.sendDir

theorem State.flag_setAlignLead {i : Nat} : s.setAlignLead.flag kPodstat i = s.flag kPodstat i := by
  rw [State.flag, State.setAlignLead, State.rd_setFld_ne (by decide)]
  rfl

theorem State.becomeRoot_leaves : s.becomeRoot.isRoot = true ∧ s.becomeRoot.flag kPodstat 17 = false ∧
    s.becomeRoot.net.holdover = 0 ∧ s.becomeRoot.jobs = s.jobs := by
  unfold State.becomeRoot
  extract_lets t u
  have jobs : t.jobs = s.jobs := (UnitsKept.refl s).report.jobs
  clear_value t
  have root : u.flag kPodstat 9 = true := by
    rw [State.flag_setFld_other (by decide) (by decide), State.flag_setFlag (by decide) (by decide), if_neg (by decide),
      State.flag_setFlag_same (by decide)]
  have follows : u.flag kPodstat 17 = false := by
    rw [State.flag_setFld_other (by decide) (by decide), State.flag_setFlag_same (by decide)]
  have same : u.jobs = t.jobs := rfl
  clear_value u
  exact ⟨State.flag_setAlignLead.trans root, State.flag_setAlignLead.trans follows, rfl, same.trans jobs⟩

/-- Settles O40: a trained link by the two cases of its judgement, holdover by what fences and lost pairs leave of the STATUS registers,
the takeover by what becoming the root leaves. -/
theorem trainingHoldoverAndTakeover : Obligations.TrainingHoldoverAndTakeover := by
  unfold Obligations.TrainingHoldoverAndTakeover
  refine fun s => ⟨fun l coord dir index rtt oneway => ?_, fun held since late => ?_, fun pod standby other locked => ?_⟩
  · intro d peer ns sound trained
    refine ⟨fun other => exec_linkTrainingDone_other fun ⟨h, same⟩ => other ⟨h.trains, h.lock, h.measured, h.pod, h.cabled, same⟩, ?_⟩
    rintro ⟨trains, lock, measured, pod, cabled, same⟩
    have h : s.Trained l := ⟨trains, lock, measured, pod, cabled⟩
    have soundness : s.linkSound l = true ↔ sound := State.linkSound_iff
    refine ⟨_, exec_linkTrainingDone_judges h same, ?_⟩
    cases judged : s.linkSound l
    · obtain ⟨down, logged, mem, jobs⟩ := State.judgeLink_faulty h judged
      have faulty : ¬ sound := fun is => Bool.false_ne_true (judged.symm.trans (soundness.2 is))
      exact ⟨iff_of_false (Bool.eq_false_iff.1 down) faulty, fun _ => logged, mem, jobs⟩
    · obtain ⟨ready, mem, jobs⟩ := State.judgeLink_sound h judged
      have is : sound := soundness.1 judged
      exact ⟨iff_of_true ready is, fun faulty => absurd is faulty, mem, jobs⟩
  · exact ⟨_, exec_holdoverTimeout_ends held since late, State.holdover_endHoldover,
      fun l own => ⟨State.linkFailed_endHoldover own, State.linkReady_endHoldover own⟩⟩
  · obtain ⟨root, follows, holdover, jobs⟩ := s.becomeRoot_leaves
    have sent := s.takeOver_linksOnly
    exact ⟨_, exec_rootTakeover_takes pod standby other locked, (sent.flag _ _).trans root, (sent.flag _ _).trans follows,
      sent.holdover.trans holdover, sent.jobs.trans jobs⟩

end Sys2Proof.Machine
end

/-! PROOFS. The messages of the links (R310 to R312): ECHO and ECHOREPLY, GATHER and RELEASE, and ROOT. -/
section
namespace Sys2Proof.Machine

variable {r s t : State} {l g : Nat} {m : CtlMsg} {src : MsgSrc}

@[simp] theorem State.grp_setGrp_same {x : Group} : (s.setGrp g x).grp g = x := tget_tput_same

/-! Echoes (R311). -/

theorem podstat_ne_tether {o : Nat} : kPodstat ≠ rg (fnTether l) o := by
  unfold kPodstat rg fnClk fnTether
  omega

theorem State.linkTime_seePeer {a c : Nat} : (s.seePeer l a c).linkTime = s.linkTime := by
  have locked : (s.seePeer l a c).flag kPodstat 16 = s.flag kPodstat 16 := by
    unfold State.seePeer State.flag
    rw [State.rd_setFld_ne podstat_ne_tether, State.rd_setFld_ne podstat_ne_tether, State.rd_setFld_ne podstat_ne_tether]
  unfold State.linkTime
  rw [locked]
  rfl

theorem State.peerCoord_seePeer {a c : Nat} : (s.seePeer l a c).fld (rg (fnTether l) 0x048) 8 0 = c % 512 := by
  unfold State.seePeer
  dsimp only
  rw [State.fld_setFld_disjoint (by decide) (by decide), State.fld_setFld_disjoint (by decide) (by decide)]
  exact State.fld_setFld_same (by decide)

/-- The round trip that a reply ends. -/
def State.tripOf (s : State) (m : CtlMsg) : Nat := s.linkTime - m.hi.toNat - m.at 4 4

theorem exec_echoReply_counts {l : LinkId} (h : m.is 0x02 = true) (few : (s.link l).echoes.length < 63) : exec (.echoReply l m) s =
    .next ((s.seePeer l (m.at 1 1) (m.at 2 2)).setLink l { s.link l with echoes := (s.link l).echoes ++ [s.tripOf m] }) := by
  have counts : s.onEchoReply l m =
      (s.seePeer l (m.at 1 1) (m.at 2 2)).setLink l { s.link l with echoes := (s.link l).echoes ++ [s.tripOf m] } := by
    unfold State.onEchoReply
    dsimp only
    rw [if_pos, State.linkTime_seePeer]
    · rfl
    · change ((s.link l).echoes ++ _).length < 64
      rw [List.length_append, List.length_singleton]
      omega
  exact (if_pos h).trans (congrArg Host.Outcome.next counts)

/-- The delay that 64 round trips of the given sum give. -/
def State.measure (s : State) (l sum : Nat) : State :=
  let k := rg (fnTether l) 0x040
  ((s.setLink l { s.link l with echoes := [], measured := true }).setFld k 31 16 ((sum + 32) / 64)).setFld k 15 0 ((sum + 64) / 128)

theorem exec_echoReply_measures {l : LinkId} (h : m.is 0x02 = true) (last : (s.link l).echoes.length = 63) : exec (.echoReply l m) s =
    .next ((s.seePeer l (m.at 1 1) (m.at 2 2)).measure l ((s.link l).echoes.foldl (· + ·) 0 + s.tripOf m)) := by
  have measures : s.onEchoReply l m =
      (s.seePeer l (m.at 1 1) (m.at 2 2)).measure l ((s.link l).echoes.foldl (· + ·) 0 + s.tripOf m) := by
    unfold State.onEchoReply
    dsimp only
    rw [if_neg, State.linkTime_seePeer, List.foldl_append]
    · rfl
    · change ¬((s.link l).echoes ++ _).length < 64
      rw [List.length_append, List.length_singleton]
      omega
  exact (if_pos h).trans (congrArg Host.Outcome.next measures)

theorem State.measure_leaves {sum : Nat} : ((s.measure l sum).link l).echoes = [] ∧ ((s.measure l sum).link l).measured = true ∧
    (s.measure l sum).fld (rg (fnTether l) 0x040) 31 16 = (sum + 32) / 64 % 65536 ∧
    (s.measure l sum).fld (rg (fnTether l) 0x040) 15 0 = (sum + 64) / 128 % 65536 := by
  have same : (s.measure l sum).link l = { s.link l with echoes := [], measured := true } := tget_tput_same
  refine ⟨by rw [same], by rw [same], ?_, State.fld_setFld_same (by decide)⟩
  exact (State.fld_setFld_disjoint (by decide) (by decide)).trans (State.fld_setFld_same (by decide))

/-! Gathers (R312). -/

/-- A gather of another splice stops the group's jobs. -/
theorem exec_gather_other (link : src.isLink = true) (h : m.is 0x03 = true) (other : m.at 2 2 ≠ (s.grp m.group).seq.toNat) :
    exec (.gather src m) s = .next (s.stopGroup m.group 0x16 (·.sidx)) := by
  refine (if_pos h).trans (congrArg Host.Outcome.next ?_)
  exact (if_neg (by simp [link])).trans (if_pos other)

/-- The group once a gather has been received from src. -/
def State.gathered (s : State) (src : MsgSrc) (m : CtlMsg) : State :=
  let y := s.grp m.group
  s.setGrp m.group { y with gathered := sins src.num y.gathered, ready := max y.ready m.hi.toNat }

theorem exec_gather_collects (link : src.isLink = true) (h : m.is 0x03 = true) (same : m.at 2 2 = (s.grp m.group).seq.toNat) :
    exec (.gather src m) s = .next ((s.gathered src m).tryGather m.group) := by
  refine (if_pos h).trans (congrArg Host.Outcome.next ?_)
  exact (if_neg (by simp [link])).trans (if_neg (not_not_intro same))

theorem State.grp_gathered : (s.gathered src m).grp m.group =
    { s.grp m.group with gathered := sins src.num (s.grp m.group).gathered, ready := max (s.grp m.group).ready m.hi.toNat } := tget_tput_same

/-- A masked child has not gathered yet. -/
theorem State.tryGather_waits (h : (s.childDirs g).all (s.grp g).gathered.contains = false) : s.tryGather g = s := if_pos (by simp [h])

/-- Every member of group g waits in its alignment phase. -/
def State.aligned (s : State) (g : Nat) : Bool :=
  (s.members g).all (fun j => (s.job j).phase == .align && (s.job j).aligned && (s.job j).release.isNone)

theorem State.tryGather_goesUp (first : (s.grp g).sentG = false) (aligned : s.aligned g = true)
    (some : ¬((s.members g).isEmpty = true ∧ (s.childDirs g).isEmpty = true))
    (all : (s.childDirs g).all (s.grp g).gathered.contains = true) (root : s.isRoot = false) : s.tryGather g =
      (s.setGrp g { s.grp g with sentG := true }).sendParent (ctlMsg 0x03 (g + 256 * (s.grp g).seq.toNat) (s.grp g).ready) := by
  unfold State.tryGather
  dsimp only
  unfold State.aligned at aligned
  rw [if_neg (by simp only [first, aligned, all, Bool.and_eq_true]; simpa using some)]
  exact if_neg (Bool.eq_false_iff.1 root)

theorem State.gathered_goesUp (first : (s.grp m.group).sentG = false) (aligned : s.aligned m.group = true)
    (some : ¬((s.members m.group).isEmpty = true ∧ (s.childDirs m.group).isEmpty = true))
    (all : (s.childDirs m.group).all (sins src.num (s.grp m.group).gathered).contains = true) (root : s.isRoot = false) :
    ∃ u : State, (s.gathered src m).tryGather m.group =
        u.sendParent (ctlMsg 0x03 (m.group + 256 * (s.grp m.group).seq.toNat) (max (s.grp m.group).ready m.hi.toNat)) ∧
      (u.grp m.group).sentG = true ∧ u = { s with net := u.net } := by
  have own := State.grp_gathered (s := s) (src := src) (m := m)
  have up := State.tryGather_goesUp (s := s.gathered src m) (g := m.group) (by rw [own]; exact first) aligned some
    (by rw [own]; exact all) root
  rw [own] at up
  exact ⟨_, up, congrArg Group.sentG State.grp_setGrp_same, rfl⟩

/-! Releases (R312). -/

theorem exec_release_other (link : src.isLink = true) (h : m.is 0x04 = true) (other : m.at 2 2 ≠ (s.grp m.group).seq.toNat) :
    exec (.release src m) s = .next (s.stopGroup m.group 0x16 (·.sidx)) := by
  refine (if_pos h).trans (congrArg Host.Outcome.next ?_)
  exact (if_neg (by simp [link])).trans (if_pos other)

theorem exec_release_applies (link : src.isLink = true) (h : m.is 0x04 = true) (same : m.at 2 2 = (s.grp m.group).seq.toNat) :
    exec (.release src m) s = .next (s.applyRelease m.group m.hi.toNat) := by
  refine (if_pos h).trans (congrArg Host.Outcome.next ?_)
  exact (if_neg (by simp [link])).trans (if_neg (not_not_intro same))

/-- Job j takes release beat b if it waits for one. -/
def State.releaseJob (b : Nat) (s : State) (j : Nat) : State :=
  let y := s.job j
  if y.phase = .align ∧ y.aligned ∧ y.release.isNone then s.setJob j { y with release := some b } else s

/-- The group's next splice, once a release has gone down. -/
def State.released (s : State) (g beat : Nat) : State :=
  let x := s.grp g
  (s.sendChildren g (ctlMsg 0x04 (g + 256 * x.seq.toNat) beat)).setGrp g { x with seq := x.seq + 1, gathered := [], ready := 0, sentG := false }

theorem State.released_frame {beat : Nat} : ∃ x, s.released g beat = { s with net := x } := by
  unfold State.released
  dsimp only
  rw [((LinksOnly.refl s).sendChildren).frame]
  exact ⟨_, rfl⟩

theorem State.applyRelease_onTime {beat : Nat} (h : s.beat.toNat ≤ beat) : s.applyRelease g beat =
    (s.members g).foldl (State.releaseJob beat) (s.released g beat) := by
  obtain ⟨x, frame⟩ := State.released_frame (s := s) (g := g) (beat := beat)
  unfold State.applyRelease
  extract_lets y sent down late now
  have onTime : ¬ late := by
    change ¬ beat < (s.released g beat).beat.toNat
    rw [frame]
    exact Nat.not_lt.2 h
  have kept : now = s.released g beat := if_neg onTime
  have members : (s.released g beat).members g = s.members g := by
    rw [frame]
    rfl
  clear_value now
  rw [kept, members]
  simp only [onTime, if_false]
  rfl

/-- From s to t only jobs differ. -/
structure JobsOnly (s t : State) : Prop where
  frame : t = { s with jobs := t.jobs }

theorem State.releaseJob_jobsOnly {b : Nat} {js : List Nat} : JobsOnly s (js.foldl (State.releaseJob b) s) := by
  refine List.foldlRecOn (motive := fun t : State => JobsOnly s t) js (State.releaseJob b) ⟨rfl⟩ fun t ht j _ => ?_
  unfold State.releaseJob
  dsimp only
  split
  · constructor
    rw [ht.frame]
    rfl
  · exact ht

theorem State.releaseJob_released {b i j : Nat} (h : (s.job j).release = some b) : ((State.releaseJob b s i).job j).release = some b := by
  unfold State.releaseJob
  dsimp only
  split
  · next waits =>
    by_cases same : j = i
    · rw [same, State.job_setJob_same]
    · rwa [State.job_setJob_ne same]
  · exact h

/-- Job j waits for its release beat. -/
def State.awaitsRelease (s : State) (j : Nat) : Prop := (s.job j).phase = .align ∧ (s.job j).aligned = true ∧ (s.job j).release = none

theorem State.releaseJob_waiting {b i j : Nat} (h : s.awaitsRelease j) :
    ((State.releaseJob b s i).job j).release = some b ∨ i ≠ j ∧ (State.releaseJob b s i).awaitsRelease j := by
  obtain ⟨phase, aligned, waiting⟩ := h
  by_cases same : i = j
  · left
    unfold State.releaseJob
    dsimp only
    rw [same, if_pos ⟨phase, aligned, by rw [waiting]; rfl⟩, State.job_setJob_same]
  · right
    refine ⟨same, ?_⟩
    have kept : (State.releaseJob b s i).job j = s.job j := by
      unfold State.releaseJob
      dsimp only
      split
      · exact State.job_setJob_ne (Ne.symm same)
      · rfl
    unfold State.awaitsRelease
    rw [kept]
    exact ⟨phase, aligned, waiting⟩

theorem State.foldl_releaseJob_released {b j : Nat} {js : List Nat} (h : (s.job j).release = some b ∨ j ∈ js ∧ s.awaitsRelease j) :
    ((js.foldl (State.releaseJob b) s).job j).release = some b := by
  induction js generalizing s with
  | nil => exact h.resolve_right fun e => List.not_mem_nil e.1
  | cons i js ih =>
    refine ih ?_
    rcases h with done | ⟨mem, waits⟩
    · exact .inl (State.releaseJob_released done)
    · rcases State.releaseJob_waiting (b := b) (i := i) waits with done | ⟨other, later⟩
      · exact .inl done
      · exact .inr ⟨(List.mem_cons.1 mem).resolve_left (Ne.symm other), later⟩

theorem State.applyRelease_leaves {beat : Nat} (h : s.beat.toNat ≤ beat) : ((s.applyRelease g beat).grp g).seq = (s.grp g).seq + 1 ∧
    ((s.applyRelease g beat).grp g).gathered = [] ∧
    (∀ j ∈ s.members g, s.awaitsRelease j → ((s.applyRelease g beat).job j).release = some beat) ∧
    (s.applyRelease g beat).cores = s.cores := by
  obtain ⟨x, frame⟩ := State.released_frame (s := s) (g := g) (beat := beat)
  have own : (s.released g beat).grp g = { s.grp g with seq := (s.grp g).seq + 1, gathered := [], ready := 0, sentG := false } :=
    State.grp_setGrp_same
  have jobs := State.releaseJob_jobsOnly (s := s.released g beat) (b := beat) (js := s.members g)
  have grp : (s.applyRelease g beat).grp g = (s.released g beat).grp g := by
    rw [State.applyRelease_onTime h, jobs.frame]
    rfl
  have cores : (s.applyRelease g beat).cores = (s.released g beat).cores := by rw [State.applyRelease_onTime h, jobs.frame]
  refine ⟨by rw [grp, own], by rw [grp, own], fun j mem waits => ?_, by rw [cores, frame]⟩
  rw [State.applyRelease_onTime h]
  refine State.foldl_releaseJob_released (.inr ⟨mem, ?_⟩)
  rw [frame]
  exact waits

/-! A new root (R310). -/

theorem State.loseRoot_leaves : (∃ c, s.loseRoot = { s with csr := c }) ∧ s.loseRoot.isRoot = false ∧
    ∀ k, s.loseRoot.linkReady k = s.linkReady k := by
  unfold State.loseRoot
  refine List.foldlRecOn (motive := fun t : State => (∃ c, t = { s with csr := c }) ∧ t.isRoot = false ∧ ∀ k, t.linkReady k = s.linkReady k)
    _ _ ⟨⟨_, rfl⟩, State.flag_setFlag_same (by decide), fun k => ?_⟩ ?_
  · rw [State.linkReady, State.flag_setFlag (by decide) (by decide), if_neg (fun e => podstat_ne_tether e.1.symm), State.linkReady]
  · rintro t ⟨⟨c, frame⟩, root, ready⟩ e he
    have port : e < 8 := List.mem_range.1 he
    refine ⟨⟨_, by rw [frame]; rfl⟩, ?_, fun k => ?_⟩
    · have other : kPodstat ≠ rg (fnEth e) 0 := by
        unfold kPodstat rg fnClk fnEth
        omega
      rw [State.isRoot, State.flag_setFlag (by decide) (by decide), if_neg (fun e => other e.1)]
      exact root
    · have other : rg (fnTether k) 0 ≠ rg (fnEth e) 0 := by
        unfold rg fnTether fnEth
        omega
      rw [State.linkReady, State.flag_setFlag (by decide) (by decide), if_neg (fun e => other e.1)]
      exact ready k

theorem exec_root_ignored (h : m.is 0x05 = true) (link : src.isLink = true)
    (old : s.net.newRoot = m.at 2 2 % 512 + 1 ∨ s.podByte 18 ≠ src.num) : exec (.root src m) s = .next s := by
  refine (if_pos (by rw [h, link]; rfl)).trans (congrArg Host.Outcome.next ?_)
  exact if_pos old

/-- The chip has told its other neighbours of the root at coord. -/
def State.spreadRoot (s : State) (src : MsgSrc) (m : CtlMsg) : State :=
  (List.range 6).foldl (fun s d => if d = src.num then s else s.sendDir d m)
    { s with net := { s.net with newRoot := m.at 2 2 % 512 + 1, holdover := 0 } }

theorem State.spreadRoot_linksOnly :
    LinksOnly { s with net := { s.net with newRoot := m.at 2 2 % 512 + 1, holdover := 0 } } (s.spreadRoot src m) := by
  refine (LinksOnly.refl _).foldl fun t d k => ?_
  split
  · exact k
  · exact k.sendDir

/-- The chip follows the root at coord, not yet locked anew. -/
def State.followRoot (s : State) (src : MsgSrc) (m : CtlMsg) : State :=
  let t := s.spreadRoot src m
  t.loseRoot.setFld kPodstat 27 24 (t.hopsTo (m.at 2 2 % 512))

/-- It locks to the parent of its second tree, where that is READY. -/
def State.lockSecond (s : State) : State :=
  match (bundleLinks (s.podByte 18)).find? s.linkReady with
  | some l => s.lockTo l true
  | none => s

theorem exec_root_follows (h : m.is 0x05 = true) (link : src.isLink = true) (new : s.net.newRoot ≠ m.at 2 2 % 512 + 1)
    (parent : s.podByte 18 = src.num) : exec (.root src m) s = .next (s.followRoot src m).lockSecond := by
  refine (if_pos (by rw [h, link]; rfl)).trans (congrArg Host.Outcome.next ?_)
  exact (if_neg (by simp [new, parent])).trans rfl

theorem State.followRoot_frame : ∃ c x, s.followRoot src m =
    { s with csr := c, net := { s.net with links := x, newRoot := m.at 2 2 % 512 + 1, holdover := 0 } } := by
  obtain ⟨⟨c, frame⟩, -⟩ := (s.spreadRoot src m).loseRoot_leaves
  unfold State.followRoot
  dsimp only
  rw [frame, State.spreadRoot_linksOnly.frame]
  exact ⟨_, _, rfl⟩

theorem State.isRoot_followRoot : (s.followRoot src m).isRoot = false := by
  obtain ⟨-, root, -⟩ := (s.spreadRoot src m).loseRoot_leaves
  exact (State.flag_setFld_other (by decide) (by decide)).trans root

theorem State.linkReady_followRoot {k : Nat} : (s.followRoot src m).linkReady k = s.linkReady k := by
  obtain ⟨-, -, ready⟩ := (s.spreadRoot src m).loseRoot_leaves
  have kept : (s.followRoot src m).linkReady k = (s.spreadRoot src m).loseRoot.linkReady k := by
    unfold State.followRoot State.linkReady State.flag
    dsimp only
    rw [State.rd_setFld_ne podstat_ne_tether.symm]
  exact kept.trans ((ready k).trans (State.spreadRoot_linksOnly.flag _ _))

theorem State.lockTo_leaves {alt : Bool} : (∃ c, s.lockTo l alt = { s with csr := c }) ∧ (s.lockTo l alt).isRoot = s.isRoot ∧
    (s.lockTo l alt).fld kPodstat 23 19 = l % 32 ∧ (s.lockTo l alt).flag kPodstat 18 = alt := by
  refine ⟨⟨_, rfl⟩, ?_, ?_, ?_⟩
  · unfold State.lockTo State.isRoot
    rw [State.flag_setFlag (by decide) (by decide), if_neg (by decide), State.flag_setFlag (by decide) (by decide), if_neg (by decide),
      State.flag_setFld_other (by decide) (by decide)]
  · unfold State.lockTo State.setFlag
    rw [State.fld_setFld_disjoint (by decide) (by decide), State.fld_setFld_disjoint (by decide) (by decide)]
    exact State.fld_setFld_same (by decide)
  · unfold State.lockTo
    rw [State.flag_setFlag (by decide) (by decide), if_neg (by decide), State.flag_setFlag_same (by decide)]

theorem State.lockSecond_leaves : (∃ c, s.lockSecond = { s with csr := c }) ∧ s.lockSecond.isRoot = s.isRoot ∧
    ∀ q, (bundleLinks (s.podByte 18)).find? s.linkReady = some q → s.lockSecond = s.lockTo q true := by
  unfold State.lockSecond
  split
  · next q found =>
    obtain ⟨frame, root, -⟩ := State.lockTo_leaves (s := s) (l := q) (alt := true)
    exact ⟨frame, root, fun k h => by rw [Option.some.inj (found.symm.trans h)]⟩
  · next none => exact ⟨⟨_, rfl⟩, rfl, fun k h => nomatch none.symm.trans h⟩

theorem MsgSrc.num_lt (link : src.isLink = true) : src.num < 6 := by
  cases src with
  | link l =>
    have := l.isLt
    change l.val % 12 / 2 < 6
    omega
  | conn k => cases link

theorem lt_of_mem_bundleLinks {d q : Nat} (hd : d < 6) (h : q ∈ bundleLinks d) : q < 32 := by
  simp only [bundleLinks, List.mem_cons, List.not_mem_nil, or_false] at h
  omega

/-- Settles O41: an ECHO and its reply by what they leave of PEER and DELAY, gathers and releases by their equations and what the release
of a group leaves of its members, ROOT by what following the new root and locking to the second parent leave. -/
theorem linkMessagesTakeEffect : Obligations.LinkMessagesTakeEffect := by
  unfold Obligations.LinkMessagesTakeEffect
  intro s l src m x g y trip
  refine ⟨fun h => ?_, fun h few => exec_echoReply_counts h few, fun h last => ?_,
    fun link other => ⟨fun h => exec_gather_other link h other, fun h => exec_release_other link h other⟩,
    fun link same h missing => ?_, fun link same h all first aligned some root => ?_, fun link same h onTime => ?_, fun h link => ?_⟩
  · exact ⟨_, if_pos h, rfl, congrArg Link.ctl State.link_setLink_same, State.peerCoord_seePeer⟩
  · obtain ⟨echoes, measured, trips, delay⟩ := State.measure_leaves (s := s.seePeer l (m.at 1 1) (m.at 2 2)) (l := l)
      (sum := (s.link l).echoes.foldl (· + ·) 0 + s.tripOf m)
    exact ⟨_, exec_echoReply_measures h last, echoes, measured, trips, delay⟩
  · rw [exec_gather_collects link h same, State.tryGather_waits (by rw [State.grp_gathered]; exact missing)]
    rfl
  · obtain ⟨u, up, sent, frame⟩ := State.gathered_goesUp (src := src) first aligned some all root
    exact ⟨u, (exec_gather_collects link h same).trans (congrArg Host.Outcome.next up), sent, frame⟩
  · obtain ⟨seq, gathered, released, cores⟩ := State.applyRelease_leaves (g := g) onTime
    exact ⟨_, exec_release_applies link h same, seq, gathered,
      fun j mem phase aligned waiting => released j mem ⟨phase, aligned, waiting⟩, cores⟩
  · intro root
    refine ⟨exec_root_ignored h link, fun new parent => ⟨_, exec_root_follows h link new parent, ?_⟩⟩
    obtain ⟨c, links, frame⟩ := State.followRoot_frame (s := s) (src := src) (m := m)
    have ready : (s.followRoot src m).linkReady = s.linkReady := funext fun _ => State.linkReady_followRoot
    have pod : (s.followRoot src m).podByte 18 = s.podByte 18 := by rw [frame]; rfl
    obtain ⟨⟨c', locked⟩, stays, locks⟩ := (s.followRoot src m).lockSecond_leaves
    refine ⟨stays.trans State.isRoot_followRoot, by rw [locked, frame], by rw [locked, frame], by rw [locked, frame],
      by rw [locked, frame], fun q found => ?_⟩
    rw [pod, ready] at locks
    obtain ⟨-, -, link18, alt⟩ := State.lockTo_leaves (s := s.followRoot src m) (l := q) (alt := true)
    have small : q < 32 := lt_of_mem_bundleLinks (parent ▸ MsgSrc.num_lt link) (List.mem_of_find?_eq_some found)
    rw [locks q found]
    exact ⟨link18.trans (Nat.mod_eq_of_lt small), alt⟩

end Sys2Proof.Machine
end

/-! PROOFS. A new frame whose slot reads a scratchpad word with its core's fourth uncorrectable error: the core is fenced, and the event of
the fence reaches the event ring in HBM (R235, R301, R392, R442). -/
section
namespace Sys2Proof.Machine

/-- Link 0 is READY, and its first slot takes network queue 0, whose entry lies in the scratchpad of core 0. The entry's word has an
uncorrectable error, and core 0 has had three within the last 24 h. SCH is READY, and the event ring has room for two entries. -/
def fencingState : State :=
  { (State.reset.setFlag (rg (fnTether 0) 0) 0 true).setFlag (rg fnSch 0) 0 true with
    braid := ⟨[(0x07, [0, 0x00, 0x80, 0, 0]), (0x0F, List.replicate 1046 0 ++ [1])], 0, 0⟩
    netq := [(0, [⟨0, ⟨0, 8⟩, 0, 0⟩])]
    upset := [(window 0, 2)]
    contain := { contain0 with ueTimes := [(0, [0, 0, 0])] } }

/-- The byte of HBM at device address 0 that a command leaves, where it leaves a state. -/
def firstByte : Out → Byte
  | .next t => t.mem.byte 0
  | _ => 0

/-- The frame's slot is read, core 0 fenced, and event 0x08 written where the event ring begins. -/
theorem firstByte_fencingState : fencingState.mem.byte 0 = 0 ∧ firstByte (exec (.tetherFrameTx 0) fencingState) = 0x08 := by
  decide +kernel

theorem fencingState_sendsNew : fencingState.linkTime % 64 = 0 ∧ (fencingState.link 0).failing = none ∧
    (fencingState.link 0).sentAt ≠ fencingState.linkTime + 1 ∧ fencingState.linkReady 0 = true ∧
    (fencingState.link 0).sent.find? (fun q => (fencingState.link 0).resend.head? == some q.frame.fseq) = none ∧
    fencingState.linkCarrying 0 = false ∧ (fencingState.link 0).frameTime ≤ fencingState.linkTime := by
  decide +kernel

/-- Refutes O37: a new frame does not always leave memory as it is. Its slots are read from the scratchpads of cores; where a word has the
fourth uncorrectable error of its core within 24 h, the core is fenced, and the event of the fence is written to HBM. -/
theorem not_tetherSendsFramesInSequence : ¬ Obligations.TetherSendsFramesInSequence := by
  unfold Obligations.TetherSendsFramesInSequence
  intro h
  obtain ⟨time, sound, unsent, ready, fresh, alone, due⟩ := fencingState_sendsNew
  obtain ⟨-, atFrame⟩ := h fencingState 0
  obtain ⟨-, -, sends⟩ := atFrame time sound unsent
  obtain ⟨-, new⟩ := sends ready
  obtain ⟨t, f, sent, -, -, -, -, -, -, -, -, -, -, -, -, mem⟩ := new fresh alone due
  obtain ⟨before, after⟩ := firstByte_fencingState
  rw [sent, firstByte, mem, before] at after
  exact absurd after (by decide)

end Sys2Proof.Machine
end

/-! PROOFS. What no control message and no correction of beat time touches: by which wiring a link reads its lanes, and the state of its
descrambler (R297). -/
section
namespace Sys2Proof.Machine

/-- From s to t every link keeps its wiring and its descrambler. -/
structure WiringKept (s t : State) : Prop where
  wires : ∀ k, (t.link k).scrRx = (s.link k).scrRx ∧ (t.link k).wiring = (s.link k).wiring

variable {r s t : State} {l g n a j c p : Nat}

theorem WiringKept.refl (s : State) : WiringKept s s := ⟨fun _ => ⟨rfl, rfl⟩⟩

theorem WiringKept.foldl {α : Type} {f : State → α → State} {l : List α} (hf : ∀ t x, WiringKept r t → WiringKept r (f t x))
    (h : WiringKept r s) : WiringKept r (l.foldl f s) :=
  List.foldlRecOn (motive := WiringKept r) l f h fun t ht x _ => hf t x ht

/-- The same where the state goes through the list with something beside it. -/
theorem WiringKept.foldl_fst {α β : Type} {f : State × β → α → State × β} {l : List α} {z : State × β}
    (hf : ∀ y x, WiringKept r y.1 → WiringKept r (f y x).1) (h : WiringKept r z.1) : WiringKept r (l.foldl f z).1 :=
  List.foldlRecOn (motive := fun y : State × β => WiringKept r y.1) l f h fun y hy x _ => hf y x hy

theorem WiringKept.ite {x y : State} {q : Prop} [Decidable q] (hx : WiringKept r x) (hy : WiringKept r y) : WiringKept r (if q then x else y) := by
  split
  · exact hx
  · exact hy

theorem WiringKept.of_links (h : WiringKept r s) (links : t.net.links = s.net.links) : WiringKept r t := by
  refine ⟨fun k => ?_⟩
  rw [State.link, links]
  exact h.wires k

theorem WiringKept.net (h : WiringKept r s) (k : NetKept s t) : WiringKept r t := h.of_links k.links
theorem WiringKept.told (h : WiringKept r s) (k : ToldOnly s t) : WiringKept r t := h.net k.netKept
theorem WiringKept.hbm (h : WiringKept r s) (k : HbmOnly s t) : WiringKept r t := h.told k.told

theorem WiringKept.setLink {x : Link} (h : WiringKept r s) (scr : x.scrRx = (s.link l).scrRx) (wiring : x.wiring = (s.link l).wiring) :
    WiringKept r (s.setLink l x) := by
  refine ⟨fun k => ?_⟩
  by_cases same : k = l
  · subst same
    rw [State.link_setLink_same, scr, wiring]
    exact h.wires k
  · rw [State.link_setLink_ne same]
    exact h.wires k

/-! Registers, groups, connections and messages. -/

theorem WiringKept.wr {k : Nat} {v : W64} (h : WiringKept r s) : WiringKept r (s.wr k v) := h.of_links rfl
theorem WiringKept.setFld {k hi lo v : Nat} (h : WiringKept r s) : WiringKept r (s.setFld k hi lo v) := h.wr
theorem WiringKept.setFlag {k i : Nat} {b : Bool} (h : WiringKept r s) : WiringKept r (s.setFlag k i b) := h.wr
theorem WiringKept.bump {k hi lo n : Nat} (h : WiringKept r s) : WiringKept r (s.bump k hi lo n) := h.wr
theorem WiringKept.setJob {x : Job} (h : WiringKept r s) : WiringKept r (s.setJob j x) := h.of_links rfl
theorem WiringKept.setGrp {x : Group} (h : WiringKept r s) : WiringKept r (s.setGrp g x) := h.of_links rfl
theorem WiringKept.setConn {k : Nat} {x : Conn} (h : WiringKept r s) : WiringKept r (s.setConn k x) := h.of_links rfl
theorem WiringKept.setCluster {x : Cluster} (h : WiringKept r s) : WiringKept r (s.setCluster c x) := h.of_links rfl
theorem WiringKept.setCore {x : Core} (h : WiringKept r s) : WiringKept r (s.setCore p x) := h.of_links rfl

theorem WiringKept.sendLink {m : CtlMsg} (h : WiringKept r s) : WiringKept r (s.sendLink l m) := h.setLink rfl rfl

theorem WiringKept.sendDir {d : Nat} {m : CtlMsg} (h : WiringKept r s) : WiringKept r (s.sendDir d m) := by
  unfold State.sendDir
  split
  · exact h.sendLink
  · exact h

theorem WiringKept.sendParent {m : CtlMsg} (h : WiringKept r s) : WiringKept r (s.sendParent m) := h.sendDir

theorem WiringKept.sendChildren {m : CtlMsg} (h : WiringKept r s) : WiringKept r (s.sendChildren g m) := h.foldl fun _ _ k => k.sendDir

theorem WiringKept.sendPods {m : CtlMsg} (h : WiringKept r s) : WiringKept r (s.sendPods g m) := by
  unfold State.sendPods
  refine .ite h (h.foldl fun t p k => .ite k ?_)
  split
  · exact k.setConn
  · exact k

theorem WiringKept.bindStop {code sidx : Nat} (h : WiringKept r s) : WiringKept r (s.bindStop j code sidx) := by
  have recorded : WiringKept r (s.recordBind j code sidx) := .ite h h.setFlag.setFld.setFld.setFld
  exact recorded.net (NetKept.refl _).reportStop

theorem WiringKept.stopGroup {code : Nat} {sidx : Job → Nat} (h : WiringKept r s) : WiringKept r (s.stopGroup g code sidx) :=
  h.foldl fun _ _ k => .ite k.bindStop k

theorem WiringKept.sendUp {m : CtlMsg} (h : WiringKept r s) : WiringKept r (s.sendUp g m) := by
  unfold State.sendUp State.sendSealRoot
  split
  · split
    · exact h.setConn
    · exact h.stopGroup
  · exact h.sendParent

/-! Echoes, alignment and the root (R310 to R312). -/

theorem WiringKept.seePeer {x coord : Nat} (h : WiringKept r s) : WiringKept r (s.seePeer l x coord) := h.setFld.setFld.setFld

theorem WiringKept.onEcho {m : CtlMsg} (h : WiringKept r s) : WiringKept r (s.onEcho l m) := h.sendLink.seePeer

theorem WiringKept.onEchoReply {m : CtlMsg} (h : WiringKept r s) : WiringKept r (s.onEchoReply l m) := by
  unfold State.onEchoReply
  have seen : WiringKept r (s.seePeer l (m.at 1 1) (m.at 2 2)) := h.seePeer
  refine .ite (seen.setLink rfl rfl) ?_
  refine WiringKept.setFld (WiringKept.setFld (seen.setLink ?_ ?_)) <;> rfl

theorem WiringKept.applyRelease {beat : Nat} (h : WiringKept r s) : WiringKept r (s.applyRelease g beat) := by
  unfold State.applyRelease
  have sent : WiringKept r (s.released g beat) := h.sendChildren.setGrp
  exact WiringKept.foldl (fun _ _ k => .ite k.setJob k) (.ite sent.bump sent)

theorem WiringKept.tryGather (h : WiringKept r s) : WiringKept r (s.tryGather g) :=
  .ite h (.ite h.setGrp.applyRelease h.setGrp.sendParent)

theorem WiringKept.onGather {src : MsgSrc} {m : CtlMsg} (h : WiringKept r s) : WiringKept r (s.onGather src m) :=
  .ite h (.ite h.stopGroup h.setGrp.tryGather)

theorem WiringKept.onRelease {src : MsgSrc} {m : CtlMsg} (h : WiringKept r s) : WiringKept r (s.onRelease src m) :=
  .ite h (.ite h.stopGroup h.applyRelease)

theorem WiringKept.lockTo {alt : Bool} (h : WiringKept r s) : WiringKept r (s.lockTo l alt) := h.setFld.setFlag.setFlag

theorem WiringKept.onRoot {src : MsgSrc} {m : CtlMsg} (h : WiringKept r s) : WiringKept r (s.onRoot src m) := by
  have told : WiringKept r (s.spreadRoot src m) := WiringKept.foldl (fun _ _ k => .ite k k.sendDir) (h.of_links rfl)
  have follows : WiringKept r (s.followRoot src m) := WiringKept.setFld (WiringKept.foldl (fun _ _ k => k.setFlag) told.setFlag)
  have locks : WiringKept r (s.followRoot src m).lockSecond := by
    unfold State.lockSecond
    split
    · exact follows.lockTo
    · exact follows
  exact .ite h locks

/-! Seals (R438). -/

theorem WiringKept.ldPut {b : List Byte} (h : WiringKept r s) : WiringKept r (s.ldPut b) := by
  unfold State.ldPut
  extract_lets k written
  have kept : WiringKept r written := h.hbm (HbmOnly.refl s).writeHbm
  clear_value written
  have counted : WiringKept r { written with rings := { written.rings with ldProd := k + 1 } } := kept.of_links rfl
  exact counted.hbm (HbmOnly.refl _).putIndex

theorem WiringKept.ledgerRecord {type : Nat} {vary : Bool} {step attempt : Nat} (h : WiringKept r s) :
    WiringKept r (s.ledgerRecord type j vary step attempt) := by
  unfold State.ledgerRecord State.flushRecords
  exact WiringKept.foldl (fun t b k => .ite k (WiringKept.ldPut (k.of_links rfl))) (h.of_links rfl)

theorem WiringKept.applySeal (h : WiringKept r s) : WiringKept r (s.applySeal g n a) := by
  unfold State.applySeal
  exact WiringKept.foldl (fun _ _ k => .ite k k.setJob.ledgerRecord.bump) h.sendChildren.setGrp

theorem WiringKept.trySeal (h : WiringKept r s) : WiringKept r (s.trySeal g n a) :=
  .ite h (.ite h.sendPods.applySeal h.sendPods.setGrp)

theorem WiringKept.openPass (h : WiringKept r s) : WiringKept r (s.openPass g n a) := .ite h h.setGrp

theorem WiringKept.tryPass (h : WiringKept r s) : WiringKept r (s.tryPass g n a) :=
  .ite h.openPass (.ite h.openPass.setGrp.trySeal h.openPass.setGrp.sendUp)

theorem WiringKept.noteRoot {src : MsgSrc} (h : WiringKept r s) : WiringKept r (s.noteRoot src g) := by
  cases src with
  | link l => exact h
  | conn k => exact h.setGrp

theorem WiringKept.ignoreSeal (h : WiringKept r s) : WiringKept r s.ignoreSeal := h.bump

theorem WiringKept.onPass {src : MsgSrc} {m : CtlMsg} (h : WiringKept r s) : WiringKept r (s.onPass src m) :=
  .ite h (.ite h.noteRoot.openPass.setGrp.tryPass h.noteRoot.openPass.setGrp.trySeal)

theorem WiringKept.onSeal {m : CtlMsg} (h : WiringKept r s) : WiringKept r (s.onSeal m) := .ite h.ignoreSeal h.applySeal

/-! Virtual cores that change their place (R272, R273). -/

theorem WiringKept.report {type sev func : Nat} {job : Option Nat} {b : Body} (h : WiringKept r s) :
    WiringKept r (s.report type sev func job b) := h.hbm (HbmOnly.refl s).report

theorem WiringKept.corrected {func memory : Nat} {job : Option Nat} (h : WiringKept r s) : WiringKept r (s.corrected func memory job) :=
  h.hbm (HbmOnly.refl s).corrected

theorem WiringKept.sealGranule {b : Nat} {poison : Bool} (h : WiringKept r s) : WiringKept r (s.sealGranule b poison) :=
  h.hbm (HbmOnly.refl s).sealGranule

theorem WiringKept.readHbm {b k : Nat} (h : WiringKept r s) : WiringKept r (s.readHbm b k).1 :=
  WiringKept.foldl_fst (fun _ _ k => k.hbm (HbmOnly.refl _).readGranule) h

theorem WiringKept.readImage {b : Nat} {x : Context} (h : WiringKept r s) : WiringKept r (s.readImage b x).1 :=
  WiringKept.foldl_fst (fun _ _ k => k.hbm (HbmOnly.refl _).readGranule) h

theorem WiringKept.fenceNote {kind idx func reason addr here : Nat} {job : Option Nat} (h : WiringKept r s) :
    WiringKept r (s.fenceNote kind idx func job reason addr here) := h.net (NetKept.refl s).fenceNote

theorem WiringKept.fenceCluster {reason : Nat} (h : WiringKept r s) : WiringKept r (s.fenceCluster c reason) := by
  unfold State.fenceCluster
  dsimp only
  split
  · exact h
  · split
    · exact h.setCluster.fenceNote
    · exact .ite h.setCluster.fenceNote.bindStop h.setCluster.fenceNote

theorem WiringKept.countUe (h : WiringKept r s) : WiringKept r (s.countUe p) := by
  have fence {t : State} {reason : Nat} (k : WiringKept r t) : WiringKept r (t.fenceCore p reason) := by
    unfold State.fenceCore
    extract_lets role reg cl marked fenced counted noted
    have fenced_kept : WiringKept r fenced := k.setFld.setFld.setFlag.bump
    have noted_kept : WiringKept r noted := WiringKept.fenceNote (.ite fenced_kept.setFld fenced_kept)
    exact .ite k (.ite noted_kept.fenceCluster noted_kept)
  exact .ite (h.of_links rfl) (fence (h.of_links rfl))

theorem WiringKept.findPad {read : Nat → Bool} (h : WiringKept r s) : WiringKept r (s.findPad p read) := by
  unfold State.findPad
  refine h.foldl fun t e k => .ite ?_ ?_
  · exact WiringKept.corrected (k.of_links rfl)
  · exact WiringKept.countUe (WiringKept.report (k.of_links rfl))

theorem WiringKept.readAcc {tile row0 rows ncol : Nat} (h : WiringKept r s) : WiringKept r (s.readAcc p tile row0 rows ncol) := by
  unfold State.readAcc
  refine h.foldl fun t e k => .ite ?_ ?_
  · exact WiringKept.corrected (k.of_links rfl)
  · exact WiringKept.countUe (WiringKept.report (k.of_links rfl))

theorem WiringKept.saveCore (h : WiringKept r s) : WiringKept r (s.saveCore p) := by
  have written {t : State} {b : Nat} {m : Mem} (k : WiringKept r t) : WiringKept r (t.writeImage b m) := by
    unfold State.writeImage
    dsimp only
    split
    · exact k.of_links rfl
    · exact .ite (WiringKept.sealGranule (k.of_links rfl)) (k.of_links rfl)
  unfold State.saveCore
  split
  · exact h
  · extract_lets scratch accs
    have accs_kept : WiringKept r accs := WiringKept.foldl (fun _ _ k => k.readAcc) h.findPad
    clear_value accs
    exact (written accs_kept).setJob.setCore

theorem WiringKept.restoreCore {vc : Nat} (h : WiringKept r s) : WiringKept r (s.restoreCore j vc p) := by
  have code {t : State} (k : WiringKept r t) : WiringKept r (t.loadCode j vc p) := by
    unfold State.loadCode
    split
    · exact k
    · next g _ =>
      have read : WiringKept r (t.readHbm (g.addr + (codeOf g.image (headerOf g.image) vc).1) (32 * (codeOf g.image (headerOf g.image) vc).2)).1 :=
        k.readHbm
      exact read.of_links rfl
  unfold State.restoreCore
  split
  · exact h
  · next x _ =>
    have read : WiringKept r (s.readImage (s.imageAt j vc) x).1 := h.readImage
    exact code (read.of_links rfl)

theorem WiringKept.rebind (h : WiringKept r s) : WiringKept r (s.rebind j) := by
  unfold State.rebind
  extract_lets saved emptied placed
  have saved_kept : WiringKept r saved := h.foldl fun _ _ k => k.saveCore
  have emptied_kept : WiringKept r emptied := saved_kept.foldl fun _ _ k => k.setCluster
  have placed_kept : WiringKept r placed := emptied_kept.foldl fun _ _ k => k.setCluster
  refine placed_kept.foldl fun t c k => k.foldl fun u e k => ?_
  dsimp only
  split
  · exact k.restoreCore
  · exact k

theorem WiringKept.onVCores {f : State → Nat → VCore → State × VCore} (hf : ∀ t vc v, WiringKept r t → WiringKept r (f t vc v).1)
    (h : WiringKept r s) : WiringKept r (s.onVCores j f) := by
  unfold State.onVCores
  refine WiringKept.foldl (fun t e k => ?_) (h.foldl fun t p k => ?_)
  · split
    · exact (hf _ _ _ k).setJob
    · exact k
  · split
    · exact (hf _ _ _ k).setCore
    · exact k

theorem WiringKept.loadSets {x : Splice} (h : WiringKept r s) : WiringKept r (s.loadSets j x) := by
  unfold State.loadSets
  refine h.onVCores fun t vc v k => ?_
  dsimp only
  split
  · exact k.foldl fun _ _ kept => .ite kept (WiringKept.hbm kept.bump (HbmOnly.refl _).note)
  · exact k

theorem WiringKept.loadStreams {x : Splice} (h : WiringKept r s) : WiringKept r (s.loadStreams j c x) := by
  unfold State.loadStreams
  split
  · exact h
  · exact h.setCluster

/-! Retracts and restarts (R439, R440). -/

theorem WiringKept.restartJob {beat : Nat} (h : WiringKept r s) : WiringKept r (s.restartJob j n a beat) := by
  unfold State.restartJob
  extract_lets x old saved sidx ord back
  have back_kept : WiringKept r back := h.setJob
  clear_value back
  split
  · exact back_kept
  · split
    · exact back_kept.bindStop
    · exact (back_kept.rebind.onVCores fun _ _ _ k => k).loadSets.foldl fun _ _ k => k.loadStreams

theorem WiringKept.applyRestart {beat : Nat} (h : WiringKept r s) : WiringKept r (s.applyRestart g n a beat) := by
  unfold State.applyRestart
  exact WiringKept.foldl (fun _ _ k => .ite k.restartJob k) (.ite h.sendChildren.bump h.sendChildren)

theorem WiringKept.dropStreams (h : WiringKept r s) : WiringKept r (s.dropStreams j) :=
  h.foldl fun _ _ k => .ite (k.of_links rfl) k

theorem WiringKept.dropChecks (h : WiringKept r s) : WiringKept r (s.dropChecks j) :=
  WiringKept.foldl (fun _ _ k => k.setCluster) (h.foldl fun _ _ k => k.setCore)

theorem WiringKept.retractJob (h : WiringKept r s) : WiringKept r (s.retractJob g j n a) := by
  unfold State.retractJob
  extract_lets x vary quiet folds queues dropped gone cleared recorded job spanned counted told
  have quiet_kept : WiringKept r quiet := h.net (NetKept.refl s).quietJob
  have queues_kept : WiringKept r queues := WiringKept.foldl (fun _ _ k => k.setCluster) (quiet_kept.foldl fun _ _ k => k.setCore)
  have dropped_kept : WiringKept r dropped := queues_kept.dropChecks.dropStreams
  clear_value dropped
  have told_kept : WiringKept r told := WiringKept.report (WiringKept.bump (WiringKept.setJob (WiringKept.ledgerRecord (dropped_kept.of_links rfl))))
  exact .ite (told_kept.net (NetKept.refl _).reportStop) told_kept

theorem WiringKept.tryQuiesced (h : WiringKept r s) : WiringKept r (s.tryQuiesced State.applyRestart g n a) := by
  unfold State.tryQuiesced
  extract_lets x pods tree first asked up beat group restarted sent
  have asked_kept : WiringKept r asked := .ite h.setGrp h
  clear_value asked
  have up_kept : WiringKept r up := .ite asked_kept.sendParent asked_kept
  clear_value up
  have sent_kept : WiringKept r sent := up_kept.setGrp.sendPods
  exact .ite h (.ite (.ite (.ite sent_kept.applyRestart sent_kept) up_kept) (.ite asked_kept.sendUp asked_kept))

theorem WiringKept.applyRetract (h : WiringKept r s) : WiringKept r (s.applyRetract State.applyRestart g n a) :=
  WiringKept.tryQuiesced (WiringKept.foldl (fun _ _ k => .ite k.retractJob k) h.sendChildren.setGrp)

theorem WiringKept.failUp {origin : Nat} {root : Bool} (h : WiringKept r s) : WiringKept r (s.failUp g n a origin root) :=
  .ite (.ite h (.ite h.setGrp.sendPods.applyRetract h.setGrp.sendPods)) (.ite h h.setGrp.sendUp)

theorem WiringKept.onFail {src : MsgSrc} {m : CtlMsg} (h : WiringKept r s) : WiringKept r (s.onFail src m) :=
  .ite h.ignoreSeal h.noteRoot.failUp

theorem WiringKept.onRetract {m : CtlMsg} (h : WiringKept r s) : WiringKept r (s.onRetract m) := .ite h.ignoreSeal h.applyRetract

theorem WiringKept.onQuiesced {src : MsgSrc} {m : CtlMsg} (h : WiringKept r s) : WiringKept r (s.onQuiesced src m) :=
  .ite h h.noteRoot.setGrp.tryQuiesced

theorem WiringKept.onRestart {m : CtlMsg} (h : WiringKept r s) : WiringKept r (s.onRestart m) := .ite h (.ite h.applyRestart h)

/-! Membership (R339), and a message of any type. -/

theorem WiringKept.onMdown {src : MsgSrc} {m : CtlMsg} (h : WiringKept r s) : WiringKept r (s.onMdown src m) := by
  have marked {t : State} {i st : Nat} (k : WiringKept r t) : WiringKept r (t.markPeer i st) :=
    .ite k (k.told (ToldOnly.refl t).writeHbm.writeHbm.event)
  have spread {t : State} {source : Option MsgSrc} (k : WiringKept r t) : WiringKept r (t.spread m source) :=
    WiringKept.foldl (fun _ _ k => .ite k.setConn k) (k.foldl fun _ _ k => .ite k.sendLink k)
  unfold State.onMdown
  extract_lets net noted suspected
  have noted_kept : WiringKept r noted := h.of_links rfl
  have suspected_kept : WiringKept r suspected := by
    unfold suspected
    split
    · exact .ite noted_kept (marked noted_kept)
    · exact noted_kept
  exact .ite h (spread suspected_kept)

theorem WiringKept.onMgen {m : CtlMsg} (h : WiringKept r s) : WiringKept r (s.onMgen m) := .ite h (h.of_links rfl)

theorem WiringKept.control {src : MsgSrc} {m : CtlMsg} (h : WiringKept r s) : WiringKept r (s.control src m) := by
  unfold State.control
  split
  · exact h
  · exact h.onEcho
  · exact h.onEchoReply
  · exact h.onGather
  · exact h.onRelease
  · exact h.onRoot
  · exact h.onPass
  · exact h.onSeal
  · exact h.onFail
  · exact h.onRetract
  · exact h.onQuiesced
  · exact h.onRestart
  · exact h.onMdown
  · exact h.onMgen
  · exact h.bump
  · exact h

end Sys2Proof.Machine
end

/-! PROOFS. TETHER_FRAME_RX (R297, R302, R303, R309): a frame that fails, one in training, one in order, and one beyond the next. -/
section
namespace Sys2Proof.Machine

variable {r s t : State} {l : Nat} {f : Frame}

/-! What every received frame leaves of the wiring and the descramblers. -/

theorem WiringKept.lockBad (h : WiringKept r s) : WiringKept r (s.lockBad l) := by
  unfold State.lockBad
  extract_lets x n lost u
  have kept : WiringKept r u := h.setLink rfl rfl
  exact .ite kept.setFlag kept

theorem WiringKept.badFrame (h : WiringKept r s) : WiringKept r (s.badFrame l) := by
  unfold State.badFrame
  extract_lets u
  have kept : WiringKept r u := h.bump.lockBad
  exact .ite (kept.setLink rfl rfl) kept

theorem WiringKept.lockGood (h : WiringKept r s) : WiringKept r (s.lockGood l f) := by
  unfold State.lockGood
  extract_lets x n u
  have kept : WiringKept r u := h.setLink rfl rfl
  exact .ite kept.setFlag kept

theorem WiringKept.onNak {ack : W16} (h : WiringKept r s) : WiringKept r (s.onNak l ack) := by
  unfold State.onNak
  dsimp only
  refine .ite h ?_
  split
  · exact h.setLink rfl rfl
  · exact .ite h (.ite (h.setLink rfl rfl) (h.setLink rfl rfl))

theorem WiringKept.accept (h : WiringKept r s) : WiringKept r (s.accept l f) := by
  unfold State.accept
  extract_lets y acked dst x dpad late arrival v
  have acked_kept : WiringKept r acked := h.setLink rfl rfl
  have arrived_kept : WiringKept r v := acked_kept.setLink rfl rfl
  exact .ite acked_kept (arrived_kept.foldl fun _ _ k => k.control)

theorem WiringKept.startBeat {b : Nat} (h : WiringKept r s) : WiringKept r (s.startBeat b) := by
  unfold State.startBeat
  extract_lets marked started links conns
  have marked_kept : WiringKept r marked := h.setFlag
  have started_kept : WiringKept r started := marked_kept.of_links rfl
  clear_value started
  have links_kept : WiringKept r links := started_kept.foldl fun _ _ k => k.setLink rfl rfl
  have conns_kept : WiringKept r conns := links_kept.foldl fun _ _ k => .ite k.setConn k
  clear_value conns
  exact conns_kept.of_links rfl

theorem WiringKept.beatCorrect (h : WiringKept r s) : WiringKept r (s.beatCorrect l f) := by
  unfold State.beatCorrect
  dsimp only
  refine .ite h (.ite (.ite (WiringKept.startBeat h.lockTo) h) (.ite (.ite ?_ h) (.ite h (.ite (h.setLink rfl rfl) ?_))))
  · exact WiringKept.of_links h.lockTo rfl
  · exact WiringKept.of_links (h.setLink (l := l) (x := { s.link l with compared := 0 }) rfl rfl) rfl

theorem WiringKept.goodFrame {n : Nat} (h : WiringKept r s) : WiringKept r (s.goodFrame l n f) := by
  unfold State.goodFrame
  extract_lets locked y acked naked x want
  have locked_kept : WiringKept r locked := h.bump.lockGood
  have acked_kept : WiringKept r acked := locked_kept.setLink rfl rfl
  have naked_kept : WiringKept r naked := .ite acked_kept.onNak acked_kept
  exact .ite (locked_kept.foldl fun _ _ k => k.control)
    (.ite naked_kept (.ite naked_kept.accept.beatCorrect (.ite (naked_kept.setLink rfl rfl) naked_kept)))

/-! The command. -/

/-- Link l has read its lanes: by the wiring found, its descramblers moved on, the frame counted. -/
def State.hears (s : State) (l : Nat) (w : Wiring) (lanes : List (List Pam4)) : State :=
  (s.setLink l { s.link l with wiring := s.wiringOf l w, scrRx := lanesNext (s.link l).scrRx (s.rxLanes l w lanes) }).bump
    (rg (fnTether l) 0x050) 63 0 1

theorem State.link_hears {w : Wiring} {lanes : List (List Pam4)} : (s.hears l w lanes).link l =
    { s.link l with wiring := s.wiringOf l w, scrRx := lanesNext (s.link l).scrRx (s.rxLanes l w lanes) } := State.link_setLink_same

section
variable {l : LinkId} {w : Wiring} {lanes : List (List Pam4)}

theorem exec_tetherFrameRx_down (h : s.linkFailed l = true ∨ s.flag (rg (fnTether l) 0) 5 = true) :
    exec (.tetherFrameRx l w lanes) s = .next s := if_pos h

/-- Link l takes what is on its lanes. -/
structure State.Listens (s : State) (l : Nat) : Prop where
  sound : s.linkFailed l = false
  cable : s.flag (rg (fnTether l) 0) 5 = false

theorem State.Listens.up (h : s.Listens l) : ¬ (s.linkFailed l = true ∨ s.flag (rg (fnTether l) 0) 5 = true) := by
  simp [h.sound, h.cable]

theorem exec_tetherFrameRx_failed (h : s.Listens l) (failed : s.readFrame l w lanes = none) :
    exec (.tetherFrameRx l w lanes) s = .next ((s.hears l w lanes).badFrame l) := by
  refine (if_neg h.up).trans ?_
  simp only [failed]
  rfl

theorem exec_tetherFrameRx_read {n : Nat} (h : s.Listens l) (read : s.readFrame l w lanes = some (n, f)) :
    exec (.tetherFrameRx l w lanes) s = .next ((s.hears l w lanes).goodFrame l n f) := by
  refine (if_neg h.up).trans ?_
  simp only [read]
  rfl

/-- Every frame, failed or not, moves the descramblers on. -/
theorem exec_tetherFrameRx_wiring (h : s.Listens l) : ∃ t, exec (.tetherFrameRx l w lanes) s = .next t ∧
    (t.link l).scrRx = lanesNext (s.link l).scrRx (s.rxLanes l w lanes) ∧ (t.link l).wiring = s.wiringOf l w := by
  have heard {t : State} (k : WiringKept (s.hears l w lanes) t) :
      (t.link l).scrRx = lanesNext (s.link l).scrRx (s.rxLanes l w lanes) ∧ (t.link l).wiring = s.wiringOf l w := by
    obtain ⟨scr, wiring⟩ := k.wires l
    rw [scr, wiring, State.link_hears]
    exact ⟨rfl, rfl⟩
  cases read : s.readFrame l w lanes with
  | none => exact ⟨_, exec_tetherFrameRx_failed h read, heard (WiringKept.refl _).badFrame⟩
  | some r => exact ⟨_, exec_tetherFrameRx_read h read, heard (WiringKept.refl _).goodFrame⟩

end

/-! A frame's counts. -/

/-- From s to t only the net and registers differ, and link l is READY as before. -/
structure PortOnly (l : Nat) (s t : State) : Prop where
  frame : t = { s with net := t.net, csr := t.csr }
  ready : t.linkReady l = s.linkReady l
  delays : t.fld (rg fnClk 0x050) 47 32 = s.fld (rg fnClk 0x050) 47 32

theorem PortOnly.refl (l : Nat) (s : State) : PortOnly l s s := ⟨rfl, rfl, rfl⟩

theorem PortOnly.trans (a : PortOnly l r s) (b : PortOnly l s t) : PortOnly l r t := by
  refine ⟨?_, b.ready.trans a.ready, b.delays.trans a.delays⟩
  have h := b.frame
  rw [a.frame] at h
  exact h

theorem clkPad_ne_tether {o : Nat} (ho : o < 4096) : rg fnClk 0x050 ≠ rg (fnTether l) o := by
  unfold rg fnClk fnTether
  omega

theorem PortOnly.setLink {x : Link} (h : PortOnly l r s) : PortOnly l r (s.setLink l x) := h.trans ⟨rfl, rfl, rfl⟩

theorem PortOnly.bump {o hi lo n : Nat} (h : PortOnly l r s) (lt : o < 4096) (pos : 0 < o) : PortOnly l r (s.bump (rg (fnTether l) o) hi lo n) := by
  refine h.trans ⟨rfl, ((StatusKept.refl s).bump (by omega)).flag _ 0, ?_⟩
  rw [State.fld, State.bump, State.rd_setFld_ne (clkPad_ne_tether lt), State.fld]

theorem PortOnly.setLock {b : Bool} (h : PortOnly l r s) : PortOnly l r (s.setFlag (rg (fnTether l) 0) 1 b) := by
  refine h.trans ⟨rfl, ?_, ?_⟩
  · rw [State.linkReady, State.flag_setFlag (by decide) (by decide), if_neg (by simp), State.linkReady]
  · rw [State.fld, State.setFlag, State.rd_setFld_ne (clkPad_ne_tether (by decide)), State.fld]

theorem PortOnly.hears {w : Wiring} {lanes : List (List Pam4)} (h : PortOnly l r s) : PortOnly l r (s.hears l w lanes) :=
  h.setLink.bump (by decide) (by decide)

/-! A failed frame (R303). -/

/-- A failing frame's part in frame lock: one more in a row, and the lock lost with the fourth. -/
theorem State.lockBad_leaves : PortOnly l s (s.lockBad l) ∧ ∃ lost, (s.lockBad l).link l =
    { s.link l with good := 0, bad := min 4 ((s.link l).bad + 1), lostAt := lost } := by
  unfold State.lockBad
  extract_lets x n lost u
  have own : u.link l = { s.link l with good := 0, bad := min 4 ((s.link l).bad + 1), lostAt := if lost then s.linkTime + 1 else x.lostAt } :=
    State.link_setLink_same
  have port : PortOnly l s u := (PortOnly.refl l s).setLink
  clear_value u
  split
  · exact ⟨port.setLock, _, own⟩
  · exact ⟨port, _, own⟩

theorem State.badFrame_leaves : PortOnly l s (s.badFrame l) ∧ ((s.badFrame l).link l).good = 0 ∧
    ((s.badFrame l).link l).bad = min 4 ((s.link l).bad + 1) ∧ (s.linkReady l = true → ((s.badFrame l).link l).nak = true) ∧
    ((s.badFrame l).link l).rxSeq = (s.link l).rxSeq := by
  unfold State.badFrame
  extract_lets u
  have counted : PortOnly l s (s.bump (rg (fnTether l) 0x060) 63 0 1) := (PortOnly.refl l s).bump (by decide) (by decide)
  obtain ⟨locked, lost, own⟩ := State.lockBad_leaves (s := s.bump (rg (fnTether l) 0x060) 63 0 1) (l := l)
  have port : PortOnly l s u := counted.trans locked
  have link : u.link l = { s.link l with good := 0, bad := min 4 ((s.link l).bad + 1), lostAt := lost } := own
  have good : (u.link l).good = 0 := by rw [link]
  have bad : (u.link l).bad = min 4 ((s.link l).bad + 1) := by rw [link]
  have seq : (u.link l).rxSeq = (s.link l).rxSeq := by rw [link]
  clear_value u
  split
  · exact ⟨port.setLink, (congrArg Link.good State.link_setLink_same).trans good, (congrArg Link.bad State.link_setLink_same).trans bad,
      fun _ => congrArg Link.nak State.link_setLink_same, (congrArg Link.rxSeq State.link_setLink_same).trans seq⟩
  · next down => exact ⟨port, good, bad, fun ready => absurd (port.ready.trans ready) down, seq⟩

/-! A good frame (R297, R302, R303). -/

theorem State.lockGood_leaves : PortOnly l s (s.lockGood l f) ∧ ∃ n lost, (s.lockGood l f).link l =
    { s.link l with good := n, bad := 0, lockSeq := f.fseq, lostAt := lost } := by
  unfold State.lockGood
  extract_lets x n u
  have own : u.link l = { s.link l with good := n, bad := 0, lockSeq := f.fseq, lostAt := if n = 4 then 0 else x.lostAt } :=
    State.link_setLink_same
  have port : PortOnly l s u := (PortOnly.refl l s).setLink
  clear_value u
  split
  · exact ⟨port.setLock, _, _, own⟩
  · exact ⟨port, _, _, own⟩

/-- A good frame counted, with its part in frame lock. -/
def State.counts (s : State) (l n : Nat) (f : Frame) : State := (s.bump (rg (fnTether l) 0x058) 63 0 n).lockGood l f

theorem State.counts_leaves {n : Nat} : PortOnly l s (s.counts l n f) ∧ ∃ good lost, (s.counts l n f).link l =
    { s.link l with good := good, bad := 0, lockSeq := f.fseq, lostAt := lost } := by
  obtain ⟨port, own⟩ := State.lockGood_leaves (s := s.bump (rg (fnTether l) 0x058) 63 0 n) (l := l) (f := f)
  exact ⟨PortOnly.trans ((PortOnly.refl l s).bump (by decide) (by decide)) port, own⟩

/-- Before the link is READY, a frame without echoes does no more. -/
theorem State.goodFrame_training {n : Nat} (down : s.linkReady l = false) (quiet : ∀ m ∈ f.ctl, m.is 0x01 = false ∧ m.is 0x02 = false) :
    s.goodFrame l n f = s.counts l n f := by
  obtain ⟨port, -⟩ := State.counts_leaves (s := s) (l := l) (f := f) (n := n)
  have none : f.ctl.filter (fun m => m.is 0x01 || m.is 0x02) = [] :=
    List.filter_eq_nil_iff.2 fun m hm => by simp [quiet m hm]
  have still : (!(s.counts l n f).linkReady l) = true := by rw [port.ready, down]; rfl
  refine (if_pos still).trans ?_
  rw [none]
  rfl

/-- The peer's acknowledgement is noted. -/
def State.acks (s : State) (l n : Nat) (f : Frame) : State := (s.counts l n f).setLink l { (s.counts l n f).link l with acked := f.ack }

theorem State.acks_leaves {n : Nat} : PortOnly l s (s.acks l n f) ∧ ∃ good lost, (s.acks l n f).link l =
    { s.link l with good := good, bad := 0, lockSeq := f.fseq, lostAt := lost, acked := f.ack } := by
  obtain ⟨port, good, lost, own⟩ := State.counts_leaves (s := s) (l := l) (f := f) (n := n)
  refine ⟨port.setLink, good, lost, ?_⟩
  rw [State.acks, State.link_setLink_same, own]

/-- A frame without NAK on a READY link that awaits no replay, by its FSEQ. -/
theorem State.goodFrame_ready {n : Nat} (ready : s.linkReady l = true) (sound : f.nak = false) (open_ : (s.link l).nak = false) :
    s.goodFrame l n f = if f.fseq = (s.link l).rxSeq + 1 then ((s.acks l n f).accept l f).beatCorrect l f
      else if (f.fseq - (s.link l).rxSeq).toNat < 32768 ∧ f.fseq ≠ (s.link l).rxSeq then
        (s.acks l n f).setLink l { (s.acks l n f).link l with nak := true }
      else s.acks l n f := by
  obtain ⟨port, -⟩ := State.counts_leaves (s := s) (l := l) (f := f) (n := n)
  obtain ⟨-, good, lost, own⟩ := State.acks_leaves (s := s) (l := l) (f := f) (n := n)
  unfold State.goodFrame
  extract_lets counted y acked naked x want
  have up : ¬ (!counted.linkReady l) = true := by
    rw [show counted.linkReady l = s.linkReady l from port.ready, ready]
    simp
  have same : naked = s.acks l n f := if_neg (Bool.eq_false_iff.1 sound)
  have link : x = (s.acks l n f).link l := congrArg (State.link · l) same
  have sees : x.nak = false := by rw [link, own]; exact open_
  have seq : x.rxSeq = (s.link l).rxSeq := by rw [link, own]
  have next : want ↔ f.fseq = (s.link l).rxSeq + 1 := by rw [← seq]
  clear_value naked
  subst same
  refine (if_neg up).trans ((if_neg fun h => Bool.false_ne_true (sees.symm.trans h.1)).trans ?_)
  by_cases inOrder : f.fseq = (s.link l).rxSeq + 1
  · rw [if_pos inOrder]
    exact if_pos (next.2 inOrder)
  · rw [if_neg inOrder]
    refine (if_neg (mt next.1 inOrder)).trans ?_
    by_cases beyond : (f.fseq - (s.link l).rxSeq).toNat < 32768 ∧ f.fseq ≠ (s.link l).rxSeq
    · rw [if_pos beyond]
      exact if_pos (by rw [seq]; exact beyond)
    · rw [if_neg beyond]
      exact if_neg (by rw [seq]; exact beyond)

/-! A frame in order (R302). -/

/-- What no correction of beat time touches: what link l has received, memory and jobs. -/
structure ReceivedKept (l : Nat) (s t : State) : Prop where
  seq : (t.link l).rxSeq = (s.link l).rxSeq
  acked : (t.link l).acked = (s.link l).acked
  arrived : (t.link l).arrived = (s.link l).arrived
  mem : t.mem = s.mem
  jobs : t.jobs = s.jobs

theorem ReceivedKept.refl (l : Nat) (s : State) : ReceivedKept l s s := ⟨rfl, rfl, rfl, rfl, rfl⟩

theorem ReceivedKept.of_same (h : ReceivedKept l r s) (links : t.net.links = s.net.links) (mem : t.mem = s.mem) (jobs : t.jobs = s.jobs) :
    ReceivedKept l r t := by
  have link : t.link l = s.link l := by rw [State.link, links, State.link]
  exact ⟨(congrArg Link.rxSeq link).trans h.seq, (congrArg Link.acked link).trans h.acked,
    (congrArg Link.arrived link).trans h.arrived, mem.trans h.mem, jobs.trans h.jobs⟩

theorem ReceivedKept.foldl {α : Type} {f : State → α → State} {i : List α} (hf : ∀ t x, ReceivedKept l r t → ReceivedKept l r (f t x))
    (h : ReceivedKept l r s) : ReceivedKept l r (i.foldl f s) :=
  List.foldlRecOn (motive := ReceivedKept l r) i f h fun t ht x _ => hf t x ht

theorem ReceivedKept.ite {x y : State} {q : Prop} [Decidable q] (hx : ReceivedKept l r x) (hy : ReceivedKept l r y) :
    ReceivedKept l r (if q then x else y) := by
  split
  · exact hx
  · exact hy

theorem ReceivedKept.setLink {k : Nat} {x : Link} (h : ReceivedKept l r s) (seq : x.rxSeq = (s.link k).rxSeq)
    (acked : x.acked = (s.link k).acked) (arrived : x.arrived = (s.link k).arrived) : ReceivedKept l r (s.setLink k x) := by
  by_cases same : l = k
  · subst same
    have own : (s.setLink l x).link l = x := State.link_setLink_same
    exact ⟨(congrArg Link.rxSeq own).trans (seq.trans h.seq), (congrArg Link.acked own).trans (acked.trans h.acked),
      (congrArg Link.arrived own).trans (arrived.trans h.arrived), h.mem, h.jobs⟩
  · have other : (s.setLink k x).link l = s.link l := State.link_setLink_ne same
    exact ⟨(congrArg Link.rxSeq other).trans h.seq, (congrArg Link.acked other).trans h.acked,
      (congrArg Link.arrived other).trans h.arrived, h.mem, h.jobs⟩

theorem ReceivedKept.lockTo {k : Nat} {alt : Bool} (h : ReceivedKept l r s) : ReceivedKept l r (s.lockTo k alt) := h.of_same rfl rfl rfl

theorem ReceivedKept.startBeat {b : Nat} (h : ReceivedKept l r s) : ReceivedKept l r (s.startBeat b) := by
  unfold State.startBeat
  extract_lets marked started links conns
  have marked_kept : ReceivedKept l r marked := h.of_same rfl rfl rfl
  have started_kept : ReceivedKept l r started := marked_kept.of_same rfl rfl rfl
  clear_value started
  have links_kept : ReceivedKept l r links := started_kept.foldl fun _ _ k => k.setLink rfl rfl rfl
  have conns_kept : ReceivedKept l r conns := links_kept.foldl fun _ _ k => .ite (k.of_same rfl rfl rfl) k
  clear_value conns
  exact conns_kept.of_same rfl rfl rfl

theorem ReceivedKept.beatCorrect {k : Nat} (h : ReceivedKept l r s) : ReceivedKept l r (s.beatCorrect k f) := by
  have restarted : ReceivedKept l r (s.setLink k { s.link k with compared := 0 }) := h.setLink rfl rfl rfl
  unfold State.beatCorrect
  dsimp only
  refine .ite h (.ite (.ite (ReceivedKept.startBeat h.lockTo) h) (.ite (.ite ?_ h) (.ite h (.ite (h.setLink rfl rfl rfl) ?_))))
  · exact h.lockTo.of_same rfl rfl rfl
  · exact restarted.of_same rfl rfl rfl

/-- A frame in order, without messages: acknowledged, and kept until its slots are available. -/
theorem State.accept_leaves (own : f.carry = false) (plain : f.ctl = []) (new : (s.link l).lastTime ≤ f.beat.toNat) :
    let due := f.beat.toNat + s.fld (rg fnClk 0x050) 47 32
    let t := s.accept l f
    (t.link l).rxSeq = f.fseq ∧ (t.link l).acked = (s.link l).acked ∧
      (t.link l).arrived = (s.link l).arrived ++ [⟨max s.beat.toNat due, decide (due < s.beat.toNat), f⟩] ∧ t.mem = s.mem ∧ t.jobs = s.jobs := by
  intro due t
  let u := s.setLink l { s.link l with rxSeq := f.fseq, nak := false }
  let v := u.setLink l { u.link l with arrived := (u.link l).arrived ++ [⟨max s.beat.toNat due, decide (due < s.beat.toNat), f⟩]
                                       lastTime := f.beat.toNat + 1 }
  have link : u.link l = { s.link l with rxSeq := f.fseq, nak := false } := State.link_setLink_same
  have accepted : t = v := by
    unfold t State.accept
    rw [own, plain]
    have known : ¬ (f.beat ≠ 0 ∧ f.beat.toNat < (u.link l).lastTime) := by
      rw [link]
      exact fun h => Nat.not_lt.2 new h.2
    exact if_neg known
  rw [accepted]
  have arrived : v.link l = _ := State.link_setLink_same
  rw [arrived, link]
  exact ⟨rfl, rfl, rfl, rfl, rfl⟩

end Sys2Proof.Machine
end

/-! PROOFS. SLOTS_AVAILABLE (R280, R282, R299, R302): the frames whose slots are available, earlier times first, and in one clk ascending
links. -/
section
namespace Sys2Proof.Machine

variable {s t : State} {l k n b : Nat} {q : FrameSlot} {a : Arrived} {r : List Arrived}

/-! What a frame that is written leaves of the frames held. -/

theorem State.links_writeSlot : (s.writeSlot l q).net.links = s.net.links := by
  have received {u : State} {j rq : Nat} {m : Marked} : (u.receive j rq m).net.links = u.net.links := by
    unfold State.receive
    dsimp only
    split
    · rfl
    · split
      · rfl
      · split
        · exact (NetKept.refl u).reportStop.links
        · rfl
  have input {u : State} {i kind idx : Nat} {m : Marked} : (u.reInput i kind idx m).net.links = u.net.links := by
    unfold State.reInput
    dsimp only
    split
    · rfl
    · split <;> rfl
  unfold State.writeSlot
  dsimp only
  split
  · rfl
  · split
    · rfl
    · split
      · exact input
      · exact received

/-- The head of what link l holds, without its slots. -/
def State.takeArrived (s : State) (l : Nat) (a : Arrived) (r : List Arrived) : State :=
  let t := s.setLink l { s.link l with arrived := r }
  if a.late then t.bump (rg (fnTether l) 0x070) 63 0 1 else t

theorem State.writeFrame_cons (h : (s.link l).arrived = a :: r) :
    s.writeFrame l = a.frame.slots.foldl (fun s q => s.writeSlot l q) (s.takeArrived l a r) := by
  unfold State.writeFrame
  simp only [h]
  rfl

theorem State.links_takeArrived : (s.takeArrived l a r).net.links = (s.setLink l { s.link l with arrived := r }).net.links := by
  unfold State.takeArrived
  dsimp only
  split <;> rfl

theorem State.link_writeFrame (h : (s.link l).arrived = a :: r) :
    (s.writeFrame l).link k = (s.setLink l { s.link l with arrived := r }).link k := by
  have links : (s.writeFrame l).net.links = (s.takeArrived l a r).net.links := by
    rw [State.writeFrame_cons h]
    exact List.foldlRecOn (motive := fun t : State => t.net.links = (s.takeArrived l a r).net.links) _ _ rfl
      fun t ht q _ => State.links_writeSlot.trans ht
  rw [State.link, links, State.links_takeArrived]
  rfl

theorem State.arrived_writeFrame_same (h : (s.link l).arrived = a :: r) : ((s.writeFrame l).link l).arrived = r := by
  rw [State.link_writeFrame h, State.link_setLink_same]

theorem State.arrived_writeFrame_ne (h : (s.link l).arrived = a :: r) (other : k ≠ l) : ((s.writeFrame l).link k).arrived = (s.link k).arrived := by
  rw [State.link_writeFrame h, State.link_setLink_ne other]

/-! The first frame that is due. -/

/-- The time from which the oldest frame of link k is available. -/
def State.dueAt (s : State) (k : Nat) : Option Nat := (s.link k).arrived.head?.map (·.avail)

/-- A frame of link k available at time e comes no later than those of link l at time t. -/
def comesBy (t l e k : Nat) : Prop := e < t ∨ e = t ∧ k ≤ l

/-- Of two frames, each a time and a link, the one before; of two at one time the first in the list. -/
def earlier (b : Option (Nat × Nat)) (e : Nat × Nat) : Option (Nat × Nat) :=
  match b with
  | none => some e
  | some c => if e.1 < c.1 then some e else b

theorem foldl_earlier_some {c : Nat × Nat} {es : List (Nat × Nat)} (h : ∀ e ∈ es, c.1 ≤ e.1) : es.foldl earlier (some c) = some c := by
  induction es with
  | nil => rfl
  | cons e es ih =>
    have kept : earlier (some c) e = some c := if_neg (Nat.not_lt.2 (h e List.mem_cons_self))
    rw [List.foldl_cons, kept]
    exact ih fun e he => h e (List.mem_cons_of_mem _ he)

theorem foldl_earlier_mem {es : List (Nat × Nat)} {b c : Option (Nat × Nat)} (h : es.foldl earlier b = c) :
    c = b ∨ ∃ e ∈ es, c = some e := by
  induction es generalizing b with
  | nil => exact .inl h.symm
  | cons e es ih =>
    rcases ih h with here | ⟨x, mem, there⟩
    · have step : earlier b e = b ∨ earlier b e = some e := by
        cases b with
        | none => exact .inr rfl
        | some d =>
          unfold earlier
          dsimp only
          split
          · exact .inr rfl
          · exact .inl rfl
      rcases step with kept | taken
      · exact .inl (here.trans kept)
      · exact .inr ⟨e, List.mem_cons_self, here.trans taken⟩
    · exact .inr ⟨x, List.mem_cons_of_mem _ mem, there⟩

/-- Where the frames before c come later, and those behind it no earlier, c is the first. -/
theorem foldl_earlier_split {c : Nat × Nat} {before behind : List (Nat × Nat)} (later : ∀ e ∈ before, c.1 < e.1)
    (no : ∀ e ∈ behind, c.1 ≤ e.1) : (before ++ c :: behind).foldl earlier none = some c := by
  rw [List.foldl_append, List.foldl_cons]
  have taken : earlier (before.foldl earlier none) c = some c := by
    rcases foldl_earlier_mem (es := before) (b := none) rfl with none | ⟨e, mem, some⟩
    · rw [none]
      rfl
    · rw [some]
      exact if_pos (later e mem)
  rw [taken]
  exact foldl_earlier_some no

/-- The oldest frame of link k as it stands in the order, where it comes by time t and link l. -/
def State.dueEntry (s : State) (t l k : Nat) : Option (Nat × Nat) :=
  ((s.dueAt k).map fun e => (e, k)).filter fun e => decide (e.1 < t ∨ (e.1 = t ∧ e.2 ≤ l))

theorem State.firstDue_eq {t : Nat} : s.firstDue t l = (((List.range 24).filterMap (s.dueEntry t l)).foldl earlier none).map (·.2) := by
  have listed : (List.range 24).filterMap (s.dueEntry t l) =
      ((List.range 24).filterMap (fun k => (s.link k).arrived.head?.map (fun a => (a.avail, k)))).filter
        (fun e => decide (e.1 < t ∨ (e.1 = t ∧ e.2 ≤ l))) := by
    rw [List.filter_filterMap]
    refine congrArg (List.filterMap · (List.range 24)) (funext fun k => ?_)
    unfold State.dueEntry State.dueAt
    rw [Option.map_map]
    rfl
  rw [listed]
  rfl

theorem State.mem_dueEntry {t : Nat} {e : Nat × Nat} : s.dueEntry t l k = some e ↔ s.dueAt k = some e.1 ∧ e.2 = k ∧ comesBy t l e.1 k := by
  obtain ⟨x, y⟩ := e
  unfold State.dueEntry comesBy
  cases s.dueAt k with
  | none => simp
  | some d =>
    simp only [Option.map_some, Option.filter_some, Option.some.injEq]
    constructor
    · intro h
      split at h
      · next due =>
        obtain ⟨rfl, rfl⟩ := Prod.mk.inj (Option.some.inj h)
        exact ⟨rfl, rfl, of_decide_eq_true due⟩
      · cases h
    · rintro ⟨rfl, rfl, due⟩
      exact if_pos (decide_eq_true due)

theorem State.firstDue_none {t : Nat} (h : ∀ k < 24, ∀ e, s.dueAt k = some e → ¬ comesBy t l e k) : s.firstDue t l = none := by
  have empty : (List.range 24).filterMap (s.dueEntry t l) = [] := List.filterMap_eq_nil_iff.2 fun k hk => by
    refine Option.eq_none_iff_forall_ne_some.2 fun e he => ?_
    obtain ⟨due, -, comes⟩ := State.mem_dueEntry.1 he
    exact h k (List.mem_range.1 hk) e.1 due comes
  rw [State.firstDue_eq, empty]
  rfl

/-- Link k holds the first frame that is due. -/
theorem State.firstDue_some {t e : Nat} (hk : k < 24) (head : s.dueAt k = some e) (due : comesBy t l e k)
    (first : ∀ i < 24, i ≠ k → ∀ d, s.dueAt i = some d → comesBy t l d i → e < d ∨ e = d ∧ k < i) : s.firstDue t l = some k := by
  obtain ⟨before, behind, split⟩ := List.append_of_mem (List.mem_range.2 hk)
  have order : (before ++ k :: behind).Pairwise (· < ·) := split ▸ List.pairwise_lt_range
  obtain ⟨-, tail, cross⟩ := List.pairwise_append.1 order
  have entry : s.dueEntry t l k = some (e, k) := State.mem_dueEntry.2 ⟨head, rfl, due⟩
  have small {i : Nat} (hi : i ∈ before ++ k :: behind) : i < 24 := List.mem_range.1 (split ▸ hi)
  have listed : (List.range 24).filterMap (s.dueEntry t l) =
      before.filterMap (s.dueEntry t l) ++ (e, k) :: behind.filterMap (s.dueEntry t l) := by
    rw [split, List.filterMap_append, List.filterMap_cons_some entry]
  rw [State.firstDue_eq, listed, foldl_earlier_split]
  · rfl
  · intro x hx
    obtain ⟨i, hi, he⟩ := List.mem_filterMap.1 hx
    obtain ⟨there, -, comes⟩ := State.mem_dueEntry.1 he
    have lt : i < k := cross i hi k List.mem_cons_self
    rcases first i (small (List.mem_append_left _ hi)) (Nat.ne_of_lt lt) x.1 there comes with earlier | ⟨-, gt⟩
    · exact earlier
    · omega
  · intro x hx
    obtain ⟨i, hi, he⟩ := List.mem_filterMap.1 hx
    obtain ⟨there, -, comes⟩ := State.mem_dueEntry.1 he
    have gt : k < i := (List.pairwise_cons.1 tail).1 i hi
    rcases first i (small (List.mem_append_right _ (List.mem_cons_of_mem _ hi))) (Nat.ne_of_gt gt) x.1 there comes with earlier | ⟨same, -⟩
    · exact Nat.le_of_lt earlier
    · exact Nat.le_of_eq same

/-! The frames that are due, one after the other. -/

theorem State.writeDue_done {t : Nat} (h : s.firstDue t l = none) : State.writeDue t l n s = s := by
  cases n with
  | zero => rfl
  | succ n =>
    unfold State.writeDue
    rw [h]

theorem State.writeDue_next {t : Nat} (h : s.firstDue t l = some k) : State.writeDue t l (n + 1) s = State.writeDue t l n (s.writeFrame k) := by
  rw [State.writeDue, h]

/-- The number of frames that the links hold. -/
def State.held (s : State) : Nat := (List.range 24).foldl (fun n k => n + (s.link k).arrived.length) 0

theorem State.held_eq : s.held = ((List.range 24).map fun k => (s.link k).arrived.length).sum := by
  rw [State.held, List.sum_eq_foldl, List.foldl_map]

theorem State.held_pos (hl : l < 24) (h : (s.link l).arrived = a :: r) : ∃ n, s.held = n + 1 := by
  have split := List.sum_map_erase (fun k => (s.link k).arrived.length) (List.mem_range.2 hl)
  rw [← State.held_eq, h, List.length_cons] at split
  exact ⟨_, split.symm.trans (by rw [Nat.add_right_comm])⟩

theorem State.held_two {b : Arrived} {q : List Arrived} (hl : l < 24) (hk : k < 24) (other : k ≠ l) (h : (s.link l).arrived = a :: r)
    (g : (s.link k).arrived = b :: q) : ∃ n, s.held = n + 2 := by
  have splitL := List.sum_map_erase (fun k => (s.link k).arrived.length) (List.mem_range.2 hl)
  have splitK := List.sum_map_erase (fun k => (s.link k).arrived.length) ((List.mem_erase_of_ne other).2 (List.mem_range.2 hk))
  rw [← State.held_eq, ← splitK, h, g, List.length_cons, List.length_cons] at splitL
  exact ⟨s.held - 2, by omega⟩

end Sys2Proof.Machine
end

/-! PROOFS. O38: TETHER_FRAME_RX and SLOTS_AVAILABLE (R297, R302, R303). -/
section
namespace Sys2Proof.Machine

variable {s : State} {f : Frame} {n e : Nat} {a b : Arrived} {r q : List Arrived}

/-! SLOTS_AVAILABLE. -/

theorem exec_slotsAvailable_none {l : LinkId} (h : (s.link l).arrived = []) : exec (.slotsAvailable l) s = .next s := by
  rw [exec, execSlotsAvailable, h]

theorem exec_slotsAvailable_before {l : LinkId} (h : (s.link l).arrived = a :: r) (before : s.beat.toNat < a.avail) :
    exec (.slotsAvailable l) s = .next s := by
  rw [exec, execSlotsAvailable, h]
  exact if_pos before

theorem exec_slotsAvailable_due {l : LinkId} (h : (s.link l).arrived = a :: r) (due : a.avail ≤ s.beat.toNat) :
    exec (.slotsAvailable l) s = .next (State.writeDue a.avail l s.held s) := by
  rw [exec, execSlotsAvailable, h]
  exact if_neg (Nat.not_lt.2 due)

theorem State.dueAt_head {k : Nat} (h : (s.link k).arrived = a :: r) : s.dueAt k = some a.avail := by
  rw [State.dueAt, h]
  rfl

theorem State.mem_dueAt {k : Nat} (h : s.dueAt k = some e) : ∃ d ∈ (s.link k).arrived.head?, d.avail = e :=
  Option.map_eq_some_iff.1 h

theorem State.dueAt_writeFrame_same {l : Nat} (h : (s.link l).arrived = a :: r) (later : ∀ d ∈ r.head?, n < d.avail)
    (there : (s.writeFrame l).dueAt l = some e) : n < e := by
  obtain ⟨d, head, rfl⟩ := State.mem_dueAt there
  rw [State.arrived_writeFrame_same h] at head
  exact later d head

theorem State.dueAt_writeFrame_ne {l k : Nat} (h : (s.link l).arrived = a :: r) (other : k ≠ l) : (s.writeFrame l).dueAt k = s.dueAt k := by
  rw [State.dueAt, State.arrived_writeFrame_ne h other, State.dueAt]

/-- Only the head of link l is due. -/
theorem exec_slotsAvailable_first {l : LinkId} (h : (s.link l).arrived = a :: r) (due : a.avail ≤ s.beat.toNat)
    (later : ∀ d ∈ r.head?, a.avail < d.avail)
    (others : ∀ k : LinkId, k ≠ l → ∀ d ∈ (s.link k).arrived.head?, a.avail < d.avail ∨ (a.avail = d.avail ∧ l < k)) :
    exec (.slotsAvailable l) s = .next (s.writeFrame l) := by
  have behind : ∀ i < 24, i ≠ l.val → ∀ d, s.dueAt i = some d → ¬ comesBy a.avail l d i := by
    intro i hi other d there
    obtain ⟨x, head, rfl⟩ := State.mem_dueAt there
    have order := others ⟨i, hi⟩ (fun same => other (congrArg Fin.val same)) x head
    simp only [Fin.lt_def] at order
    unfold comesBy
    omega
  have first : s.firstDue a.avail l = some l.val :=
    State.firstDue_some l.isLt (State.dueAt_head h) (.inr ⟨rfl, Nat.le_refl _⟩)
      fun i hi other d there comes => absurd comes (behind i hi other d there)
  have last : (s.writeFrame l).firstDue a.avail l = none := by
    refine State.firstDue_none fun i hi d there => ?_
    by_cases own : i = l.val
    · subst own
      have after := State.dueAt_writeFrame_same h later there
      unfold comesBy
      omega
    · exact behind i hi own d (State.dueAt_writeFrame_ne h own ▸ there)
  obtain ⟨n, count⟩ := State.held_pos l.isLt h
  rw [exec_slotsAvailable_due h due, count, State.writeDue_next first, State.writeDue_done last]

/-- The heads of link l and of a lower one that is no later are due, and no other link holds a frame. -/
theorem exec_slotsAvailable_two {l k : LinkId} (h : (s.link l).arrived = a :: r) (g : (s.link k).arrived = b :: q) (low : k < l)
    (due : a.avail ≤ s.beat.toNat) (order : b.avail ≤ a.avail) (laterK : ∀ d ∈ q.head?, a.avail < d.avail)
    (laterL : ∀ d ∈ r.head?, a.avail < d.avail) (others : ∀ i : LinkId, i ≠ l → i ≠ k → (s.link i).arrived = []) :
    exec (.slotsAvailable l) s = .next ((s.writeFrame k).writeFrame l) := by
  have below : k.val < l.val := low
  have idle : ∀ i < 24, i ≠ l.val → i ≠ k.val → s.dueAt i = none := by
    intro i hi notL notK
    rw [State.dueAt, others ⟨i, hi⟩ (fun same => notL (congrArg Fin.val same)) (fun same => notK (congrArg Fin.val same))]
    rfl
  have headL : ((s.writeFrame k).link l).arrived = a :: r := by
    rw [State.arrived_writeFrame_ne g (Nat.ne_of_gt below), h]
  have first : s.firstDue a.avail l = some k.val := by
    refine State.firstDue_some k.isLt (State.dueAt_head g) (by unfold comesBy; omega) fun i hi notK d there _ => ?_
    by_cases isL : i = l.val
    · subst isL
      rw [State.dueAt_head h, Option.some.injEq] at there
      omega
    · rw [idle i hi isL notK] at there
      cases there
  have after : ∀ i < 24, i ≠ l.val → ∀ d, (s.writeFrame k).dueAt i = some d → a.avail < d := by
    intro i hi notL d there
    by_cases isK : i = k.val
    · subst isK
      exact State.dueAt_writeFrame_same g laterK there
    · rw [State.dueAt_writeFrame_ne g isK, idle i hi notL isK] at there
      cases there
  have second : (s.writeFrame k).firstDue a.avail l = some l.val :=
    State.firstDue_some l.isLt (State.dueAt_head headL) (.inr ⟨rfl, Nat.le_refl _⟩)
      fun i hi notL d there _ => .inl (after i hi notL d there)
  have last : ((s.writeFrame k).writeFrame l).firstDue a.avail l = none := by
    refine State.firstDue_none fun i hi d there => ?_
    have late : a.avail < d := by
      by_cases isL : i = l.val
      · subst isL
        exact State.dueAt_writeFrame_same headL laterL there
      · exact after i hi isL d (State.dueAt_writeFrame_ne headL isL ▸ there)
    unfold comesBy
    omega
  obtain ⟨n, count⟩ := State.held_two l.isLt k.isLt (Nat.ne_of_lt below) h g
  rw [exec_slotsAvailable_due h due, count, State.writeDue_next first, State.writeDue_next second, State.writeDue_done last]

theorem State.takeArrived_keeps {l : Nat} : (s.takeArrived l a r).mem = s.mem ∧ (s.takeArrived l a r).net.asm = s.net.asm := by
  unfold State.takeArrived
  dsimp only
  split <;> exact ⟨rfl, rfl⟩

/-- A slot that ends no entry is added to its entry. -/
theorem State.writeFrame_part {l : Nat} {p : FrameSlot} (h : (s.link l).arrived = a :: r) (slots : a.frame.slots = [p]) (valid : p.v = true)
    (open_ : p.last = false) :
    let k := l * 4096 + (if p.re then 2048 else 0) + p.job.toNat * 64 + p.rq.toNat
    (s.writeFrame l).mem = s.mem ∧
      tget noMarked (s.writeFrame l).net.asm k = tget noMarked s.net.asm k ++ p.data.mapIdx (fun i b => (b, p.pmask.toNat.testBit (i / 8))) := by
  intro k
  obtain ⟨mem, asm⟩ := State.takeArrived_keeps (s := s) (l := l) (a := a) (r := r)
  rw [State.writeFrame_cons h, slots, List.foldl_cons, List.foldl_nil, ← mem, ← asm, State.writeSlot]
  simp only [valid, open_]
  exact ⟨rfl, tget_tput_same⟩

/-! TETHER_FRAME_RX. -/

section
variable {l : LinkId} {w : Wiring} {lanes : List (List Pam4)}

/-- A frame that fails asks for a resend (R303). -/
theorem exec_tetherFrameRx_bad (h : s.Listens l) (failed : s.readFrame l w lanes = none) :
    ∃ t, exec (.tetherFrameRx l w lanes) s = .next t ∧ (t.link l).good = 0 ∧ (t.link l).bad = min 4 ((s.link l).bad + 1) ∧
      (s.linkReady l = true → (t.link l).nak = true) ∧ (t.link l).rxSeq = (s.link l).rxSeq ∧ t = { s with net := t.net, csr := t.csr } := by
  have hears : PortOnly l s (s.hears l w lanes) := (PortOnly.refl l s).hears
  obtain ⟨port, good, bad, nak, seq⟩ := State.badFrame_leaves (s := s.hears l w lanes) (l := l)
  rw [State.link_hears] at bad seq
  exact ⟨_, exec_tetherFrameRx_failed h failed, good, bad, fun ready => nak (hears.ready.trans ready), seq, (hears.trans port).frame⟩

theorem exec_tetherFrameRx_training (h : s.Listens l) (read : s.readFrame l w lanes = some (n, f)) (down : s.linkReady l = false)
    (quiet : ∀ m ∈ f.ctl, m.is 0x01 = false ∧ m.is 0x02 = false) :
    ∃ t, exec (.tetherFrameRx l w lanes) s = .next t ∧ (t.link l).bad = 0 ∧ (t.link l).lockSeq = f.fseq ∧
      t = { s with net := t.net, csr := t.csr } := by
  have hears : PortOnly l s (s.hears l w lanes) := (PortOnly.refl l s).hears
  obtain ⟨port, good, lost, link⟩ := State.counts_leaves (s := s.hears l w lanes) (l := l) (f := f) (n := n)
  have only : (s.hears l w lanes).goodFrame l n f = (s.hears l w lanes).counts l n f :=
    State.goodFrame_training (hears.ready.trans down) quiet
  refine ⟨_, (exec_tetherFrameRx_read h read).trans (congrArg Host.Outcome.next only), ?_, ?_, (hears.trans port).frame⟩
  · rw [link]
  · rw [link]

/-- A READY link that awaits no replay, with a frame without NAK on its lanes. -/
structure State.Takes (s : State) (l : LinkId) (w : Wiring) (lanes : List (List Pam4)) (n : Nat) (f : Frame) : Prop where
  listens : s.Listens l
  read : s.readFrame l w lanes = some (n, f)
  ready : s.linkReady l = true
  sound : f.nak = false
  open_ : (s.link l).nak = false

/-- The frame is counted and its acknowledgement noted, and then its FSEQ decides (R303). -/
theorem State.Takes.exec_eq (h : s.Takes l w lanes n f) :
    let u := (s.hears l w lanes).acks l n f
    exec (.tetherFrameRx l w lanes) s = .next (if f.fseq = (s.link l).rxSeq + 1 then (u.accept l f).beatCorrect l f
      else if (f.fseq - (s.link l).rxSeq).toNat < 32768 ∧ f.fseq ≠ (s.link l).rxSeq then u.setLink l { u.link l with nak := true }
      else u) := by
  have hears : PortOnly l s (s.hears l w lanes) := (PortOnly.refl l s).hears
  have link := State.link_hears (s := s) (l := l) (w := w) (lanes := lanes)
  have good := State.goodFrame_ready (s := s.hears l w lanes) (l := l) (f := f) (n := n) (hears.ready.trans h.ready) h.sound
    (by rw [link]; exact h.open_)
  rw [link] at good
  exact (exec_tetherFrameRx_read h.listens h.read).trans (congrArg Host.Outcome.next good)

/-- What the count and the acknowledgement leave as it was. -/
theorem State.Takes.leaves (_ : s.Takes l w lanes n f) :
    let u := (s.hears l w lanes).acks l n f
    PortOnly l s u ∧ (u.link l).rxSeq = (s.link l).rxSeq ∧ (u.link l).arrived = (s.link l).arrived ∧
      (u.link l).lastTime = (s.link l).lastTime ∧ (u.link l).acked = f.ack := by
  obtain ⟨port, good, lost, link⟩ := State.acks_leaves (s := s.hears l w lanes) (l := l) (f := f) (n := n)
  rw [State.link_hears] at link
  refine ⟨(PortOnly.refl l s).hears.trans port, ?_⟩
  rw [link]
  exact ⟨rfl, rfl, rfl, rfl⟩

/-- A frame in order is acknowledged and kept until its slots are available (R302). -/
theorem State.Takes.inOrder (h : s.Takes l w lanes n f) (next : f.fseq = (s.link l).rxSeq + 1) (own : f.carry = false) (plain : f.ctl = [])
    (new : (s.link l).lastTime ≤ f.beat.toNat) :
    let due := f.beat.toNat + s.fld (rg fnClk 0x050) 47 32
    ∃ t, exec (.tetherFrameRx l w lanes) s = .next t ∧ (t.link l).rxSeq = f.fseq ∧ (t.link l).acked = f.ack ∧
      (t.link l).arrived = (s.link l).arrived ++ [⟨max s.beat.toNat due, decide (due < s.beat.toNat), f⟩] ∧ t.mem = s.mem ∧ t.jobs = s.jobs := by
  intro due
  let u := (s.hears l w lanes).acks l n f
  obtain ⟨port, -, held, last, acked⟩ := h.leaves
  have delay : u.fld (rg fnClk 0x050) 47 32 = s.fld (rg fnClk 0x050) 47 32 := port.delays
  have beat : u.beat = s.beat := (congrArg State.beat port.frame :)
  have mem : u.mem = s.mem := (congrArg State.mem port.frame :)
  have jobs : u.jobs = s.jobs := (congrArg State.jobs port.frame :)
  have accepted := State.accept_leaves (s := u) (l := l) own plain (by rw [show (u.link l).lastTime = _ from last]; exact new)
  dsimp only at accepted
  rw [delay, beat, mem, jobs, show (u.link l).arrived = _ from held, show (u.link l).acked = _ from acked] at accepted
  obtain ⟨seq, ack, kept, memory, running⟩ := accepted
  have correct : ReceivedKept l (u.accept l f) ((u.accept l f).beatCorrect l f) := (ReceivedKept.refl _ _).beatCorrect
  exact ⟨_, h.exec_eq.trans (congrArg Host.Outcome.next (if_pos next)), correct.seq.trans seq, correct.acked.trans ack, correct.arrived.trans kept,
    correct.mem.trans memory, correct.jobs.trans running⟩

/-- A frame beyond the next asks for a resend (R303; log entry 34). -/
theorem State.Takes.beyond (h : s.Takes l w lanes n f) (skips : f.fseq ≠ (s.link l).rxSeq + 1) (new : f.fseq ≠ (s.link l).rxSeq)
    (ahead : (f.fseq - (s.link l).rxSeq).toNat < 32768) :
    ∃ t, exec (.tetherFrameRx l w lanes) s = .next t ∧ (t.link l).nak = true ∧ (t.link l).rxSeq = (s.link l).rxSeq ∧
      (t.link l).arrived = (s.link l).arrived ∧ t.mem = s.mem := by
  obtain ⟨port, seq, held, -, -⟩ := h.leaves
  refine ⟨_, h.exec_eq.trans (congrArg Host.Outcome.next ((if_neg skips).trans (if_pos ⟨ahead, new⟩))), ?_⟩
  rw [State.link_setLink_same]
  exact ⟨rfl, seq, held, (congrArg State.mem port.frame :)⟩

end

/-- Settles O38: by whether the link listens, the frame reads, and its FSEQ is the next; and by which links' oldest frames are due. -/
theorem tetherReceivesFramesInOrder : Obligations.TetherReceivesFramesInOrder := by
  intro s l w lanes x
  refine ⟨exec_tetherFrameRx_down, fun sound cable => ?_, exec_slotsAvailable_none, fun a r head => ?_, fun a r q head slots valid open_ => ?_⟩
  · have listens : s.Listens l := ⟨sound, cable⟩
    refine ⟨exec_tetherFrameRx_wiring listens, exec_tetherFrameRx_bad listens, fun n f read => ?_⟩
    intro due
    refine ⟨exec_tetherFrameRx_training listens read, fun ready noNak open_ => ?_⟩
    have takes : s.Takes l w lanes n f := ⟨listens, read, ready, noNak, open_⟩
    exact ⟨takes.inOrder, takes.beyond⟩
  · exact ⟨exec_slotsAvailable_before head, exec_slotsAvailable_first head,
      fun k b q due low other order laterK laterL idle => exec_slotsAvailable_two head other low due order laterK laterL idle⟩
  · exact ⟨State.arrived_writeFrame_same head, State.writeFrame_part head slots valid open_⟩

end Sys2Proof.Machine
end

/-! PROOFS. Frames that leave the Ethernet ports (R318 to R322): what a send leaves of the rest, and which frame left. -/
section
namespace Sys2Proof.Machine

variable {r s t : State} {e sub tc : Nat}

/-- From s to t only frames of the ports that wait or have left differ, and the count of those that left port e. -/
structure SentOnly (e : Nat) (s t : State) : Prop where
  frame : t = { s with net := { s.net with txq := t.net.txq, sent := t.net.sent }, csr := t.csr }
  rd : ∀ k, k ≠ rg (fnPort e) 0x048 → t.rd k = s.rd k

theorem SentOnly.refl (s : State) : SentOnly e s s := ⟨rfl, fun _ _ => rfl⟩

theorem SentOnly.trans (a : SentOnly e r s) (b : SentOnly e s t) : SentOnly e r t := by
  refine ⟨?_, fun k h => (b.rd k h).trans (a.rd k h)⟩
  have h := b.frame
  rw [a.frame] at h
  exact h

theorem SentOnly.foldl {α : Type} {f : State → α → State} {l : List α} (hf : ∀ t x, SentOnly e r t → SentOnly e r (f t x))
    (h : SentOnly e r s) : SentOnly e r (l.foldl f s) :=
  List.foldlRecOn (motive := SentOnly e r) l f h fun t ht x _ => hf t x ht

theorem SentOnly.flushTx (h : SentOnly e r s) : SentOnly e r (s.flushTx e sub tc) :=
  h.trans ⟨rfl, fun _ hk => State.rd_setFld_ne hk⟩

theorem SentOnly.putTx {f : TxFrame} (h : SentOnly e r s) : SentOnly e r (s.putTx e sub f) :=
  SentOnly.flushTx (h.trans ⟨rfl, fun _ _ => rfl⟩)

theorem SentOnly.sendL2 {dst : BitVec 48} {body : TxBody} (h : SentOnly e r s) : SentOnly e r (s.sendL2 e sub tc dst body) := h.putTx

theorem SentOnly.sendIp {a : BitVec 128} {ecn : Bool} {after : Nat} {body : TxBody} (h : SentOnly e r s) :
    SentOnly e r (s.sendIp e sub tc a ecn after body) := by
  unfold State.sendIp
  dsimp only
  split
  · exact h.putTx
  · exact h.sendL2.putTx

theorem SentOnly.flushPort (h : SentOnly e r s) : SentOnly e r (s.flushPort e sub) := h.foldl fun _ _ k => k.flushTx

/-- MGMT's registers are those of a ninth port. -/
theorem fnPort_eq : fnPort e = fnEth e := by
  unfold fnPort fnEth
  split <;> omega

theorem podstat_ne_port {o : Nat} : kPodstat ≠ rg (fnPort e) o := by
  rw [fnPort_eq]
  unfold kPodstat rg fnClk fnEth
  omega

theorem State.linkTime_of_podstat (beat : t.beat = s.beat) (clk : t.clk = s.clk) (podstat : t.rd kPodstat = s.rd kPodstat) :
    t.linkTime = s.linkTime := by
  rw [State.linkTime, State.flag, podstat, beat, clk]
  rfl

theorem State.portReady_of_status (h : ∀ f, t.rd (rg (fnEth f) 0) = s.rd (rg (fnEth f) 0)) {f : Nat} : t.portReady f sub = s.portReady f sub := by
  simp only [State.portReady, State.flag, h]

theorem SentOnly.linkTime (h : SentOnly e s t) : t.linkTime = s.linkTime := by
  refine State.linkTime_of_podstat ?_ ?_ (h.rd _ podstat_ne_port) <;> rw [h.frame]

theorem SentOnly.portReady (h : SentOnly e s t) {f : Nat} : t.portReady f sub = s.portReady f sub :=
  State.portReady_of_status fun g => h.rd _ (by rw [fnPort_eq]; unfold rg; omega)

theorem SentOnly.classPaused (h : SentOnly e s t) {f : Nat} : t.classPaused f sub tc = s.classPaused f sub tc := by
  rw [State.classPaused, h.linkTime, h.frame]
  rfl

theorem SentOnly.canLeave (h : SentOnly e s t) {f : TxFrame} : t.canLeave e sub f = s.canLeave e sub f := by
  rw [State.canLeave, h.portReady, h.classPaused, h.linkTime]
  rfl

/-- The last of the waiting frames, if it may leave, is the last that its port has sent. -/
theorem State.sent_flushTx {f : TxFrame} {l : List TxFrame} (waits : s.waiting e sub tc = l ++ [f]) (may : s.canLeave e sub f = true) :
    tget noSent (s.flushTx e sub tc).net.sent (2 * e + sub) = some f := by
  have known : f.dst.isSome = true := (Bool.and_eq_true_iff.1 may).2
  unfold State.flushTx
  extract_lets q go old net
  have last : go.getLast? = some f := by simp [go, q, waits, known, may]
  change tget noSent net.sent _ = _
  simp [net, last]

/-- A frame that may leave is the last that its port has sent. -/
theorem State.sent_putTx {f : TxFrame} (may : s.canLeave e sub f = true) :
    tget noSent (s.putTx e sub f).net.sent (2 * e + sub) = some f :=
  State.sent_flushTx (l := s.waiting e sub f.tc) tget_tput_same may

/-- No frame of a class waits that may leave. -/
theorem State.canLeave_of_waiting_flushTx {f : TxFrame} (h : f ∈ (s.flushTx e sub tc).waiting e sub tc) :
    (s.flushTx e sub tc).canLeave e sub f = false := by
  have kept : SentOnly e s (s.flushTx e sub tc) := (SentOnly.refl s).flushTx
  rw [kept.canLeave]
  have waits : (s.flushTx e sub tc).waiting e sub tc = _ := tget_tput_same
  rw [waits, List.mem_filter] at h
  simpa using h.2

end Sys2Proof.Machine
end

/-! PROOFS. O44: frames received, pauses, injected errors and locks of the Ethernet ports (R319 to R321, R323, R329, R344). -/
section
namespace Sys2Proof.Machine

variable {r s t : State} {e sub tc : Nat}

/-! Frames (R319, R320). -/

/-- The counts beside that of its frames that a received frame may move: frames sent, FEC codewords, pauses. -/
def sideCounts (e : Nat) : List Nat := [0x048, 0x058, 0x060, 0x070].map (rg (fnPort e))

/-- From s to t only draws, the net without its QPs, and side counts of port e differ. -/
structure TakingOnly (e : Nat) (s t : State) : Prop where
  frame : t = { s with free := t.free, net := { t.net with qps := s.net.qps }, csr := t.csr }
  rd : ∀ k, k ∉ sideCounts e → t.rd k = s.rd k

theorem TakingOnly.refl (s : State) : TakingOnly e s s := ⟨rfl, fun _ _ => rfl⟩

theorem TakingOnly.trans (a : TakingOnly e r s) (b : TakingOnly e s t) : TakingOnly e r t := by
  refine ⟨?_, fun k h => (b.rd k h).trans (a.rd k h)⟩
  have h := b.frame
  rw [a.frame] at h
  exact h

theorem SentOnly.taking (h : SentOnly e s t) : TakingOnly e s t := by
  refine ⟨?_, fun k hk => h.rd k fun same => hk (by simp [sideCounts, same])⟩
  have f := h.frame
  rw [f]

theorem TakingOnly.draw (h : TakingOnly e r s) : TakingOnly e r s.draw.2 := h.trans ⟨rfl, fun _ _ => rfl⟩

theorem TakingOnly.bump {k hi lo n : Nat} (h : TakingOnly e r s) (hk : k ∈ sideCounts e) : TakingOnly e r (s.bump k hi lo n) :=
  h.trans ⟨rfl, fun _ hi => State.rd_setFld_ne fun same => hi (same ▸ hk)⟩

theorem TakingOnly.countFec {fcsOk : Bool} (h : TakingOnly e r s) : TakingOnly e r (s.countFec e fcsOk) := by
  unfold State.countFec
  split
  · exact h
  · exact (h.draw.draw.bump (by simp [sideCounts, fnPort_eq])).bump (by simp [sideCounts, fnPort_eq])

theorem TakingOnly.sendPause {quanta : Nat} (h : TakingOnly e r s) : TakingOnly e r (s.sendPause e sub tc quanta) :=
  TakingOnly.bump (TakingOnly.bump (h.trans ⟨rfl, fun _ _ => rfl⟩) (by simp [sideCounts])) (by simp [sideCounts, fnPort_eq])

theorem TakingOnly.fillRx (h : TakingOnly e r s) : TakingOnly e r (s.fillRx e sub tc) := by
  unfold State.fillRx
  dsimp only
  split
  · exact h
  · split
    · exact h.draw.sendPause
    · split
      · exact h.draw.sendPause
      · exact h.draw

/-- What a received frame leaves before it is judged. -/
def State.arrived (s : State) (e sub : Nat) (f : EthFrame) : State := ((s.countRx e).countFec e f.fcsOk).fillRx e sub f.tc

/-- The frame is the port's. -/
def State.accepts (s : State) (e sub : Nat) (f : EthFrame) : Bool :=
  f.fcsOk && s.macOk e sub f.dst && vlanOk (fieldLE (s.portRec e sub) 4 2) f && decide (64 ≤ f.len ∧ f.len ≤ 9216) && s.takesBody e f.body

theorem State.arrived_taking {f : EthFrame} : TakingOnly e (s.countRx e) (s.arrived e sub f) := (TakingOnly.refl _).countFec.fillRx

theorem rxCount_not_side : rg (fnPort e) 0x040 ∉ sideCounts e := by simp [sideCounts, rg]
theorem dropCount_not_side : rg (fnPort e) 0x050 ∉ sideCounts e := by simp [sideCounts, rg]

theorem braid_ne_port {o : Nat} : rg fnChip 0x010 ≠ rg (fnPort e) o := by
  rw [fnPort_eq]
  unfold rg fnChip fnEth
  omega

theorem State.accepts_of_same {f : EthFrame} (loaded : t.braidLoaded = s.braidLoaded) (boot : t.boot = s.boot) (braid : t.braid = s.braid) :
    t.accepts e sub f = s.accepts e sub f := by
  simp only [State.accepts, State.takesBody, State.macOk, State.macOf, State.portRec, State.recs, loaded, boot, braid]

theorem State.accepts_arrived {f : EthFrame} : (s.arrived e sub f).accepts e sub f = s.accepts e sub f := by
  have h : TakingOnly e (s.countRx e) (s.arrived e sub f) := State.arrived_taking
  refine State.accepts_of_same ?_ ?_ ?_
  · rw [State.braidLoaded, State.flag, h.rd _ (by simp [sideCounts, braid_ne_port]), State.countRx, State.bump,
      State.rd_setFld_ne braid_ne_port]
    rfl
  · rw [h.frame]
    rfl
  · rw [h.frame]
    rfl

section
variable {e : PortId} {sub : Fin 2} {f : EthFrame}

theorem exec_ethFrameRx_down (down : s.portReady e sub = false) : exec (.ethFrameRx e sub f) s = .next s := if_pos (by simp [down])

theorem exec_ethFrameRx_ready (ready : s.portReady e sub = true) : exec (.ethFrameRx e sub f) s =
    .next (if s.accepts e sub f then (s.arrived e sub f).takeFrame e f.body else (s.arrived e sub f).countDrop e) := by
  rw [← State.accepts_arrived]
  exact if_neg (by simp [ready])

end

/-- An answer on a QP is a frame sent. -/
theorem State.answer_sent {q : Nat} {a : Reply} : ∃ u, SentOnly e s u ∧ s.answer e q a = u.reply a := ⟨_, (SentOnly.refl s).sendIp, rfl⟩

theorem TakingOnly.reply {a : Reply} (h : TakingOnly e r s) : TakingOnly e r (s.reply a) := h.trans ⟨rfl, fun _ _ => rfl⟩

theorem TakingOnly.takeFrame {b : EthBody} (h : TakingOnly e r s) : TakingOnly e r (s.takeFrame e b) := by
  unfold State.takeFrame
  split
  · split
    · exact (h.trans (SentOnly.refl s).sendIp.taking).reply
    · exact h
  · exact h

/-- A request that Table 11.3 does not have is refused on a connected QP (R323). -/
theorem State.reply_takeFrame {q : BitVec 12} {op : Byte} (connected : (s.qp q.toNat).state = 2) (unknown : roceKnown op.toNat = false) :
    (s.takeFrame e (.roce q op)).net.reply = .invalid := by
  have refused : s.takeFrame e (.roce q op) = s.answer e q.toNat .invalid := if_pos ⟨connected, by simp [unknown]⟩
  rw [refused]
  rfl

/-- What a received frame leaves: its counts, and the refusal of an unknown request. -/
theorem State.received_leaves {f : EthFrame} : ∃ t,
    (if s.accepts e sub f then (s.arrived e sub f).takeFrame e f.body else (s.arrived e sub f).countDrop e) = t ∧
      t.rd (rg (fnPort e) 0x040) = (s.countRx e).rd (rg (fnPort e) 0x040) ∧
      t.rd (rg (fnPort e) 0x050) = (if s.accepts e sub f then s else s.countDrop e).rd (rg (fnPort e) 0x050) ∧
      t.mem = s.mem ∧ t.jobs = s.jobs ∧
      ∀ q op, s.accepts e sub f = true → f.body = .roce q op → (s.qp q.toNat).state = 2 → roceKnown op.toNat = false → t.net.reply = .invalid := by
  have came : TakingOnly e (s.countRx e) (s.arrived e sub f) := State.arrived_taking
  have drops : (s.arrived e sub f).rd (rg (fnPort e) 0x050) = s.rd (rg (fnPort e) 0x050) :=
    (came.rd _ dropCount_not_side).trans (State.rd_setFld_ne (by simp [rg]))
  have qps (q : Nat) : (s.arrived e sub f).qp q = s.qp q := by
    rw [came.frame]
    rfl
  refine ⟨_, rfl, ?_⟩
  cases taken : s.accepts e sub f
  · rw [if_neg Bool.false_ne_true, if_neg Bool.false_ne_true]
    refine ⟨(State.rd_setFld_ne (by simp [rg])).trans (came.rd _ rxCount_not_side), ?_, ?_, ?_, fun _ _ h => absurd h Bool.false_ne_true⟩
    · simp only [State.countDrop, State.bump, State.setFld, State.fld, State.rd_wr_same, drops]
    · change (s.arrived e sub f).mem = _
      rw [came.frame]
      rfl
    · change (s.arrived e sub f).jobs = _
      rw [came.frame]
      rfl
  · rw [if_pos rfl, if_pos rfl]
    have went : TakingOnly e (s.countRx e) ((s.arrived e sub f).takeFrame e f.body) := came.takeFrame
    refine ⟨went.rd _ rxCount_not_side, (went.rd _ dropCount_not_side).trans (State.rd_setFld_ne (by simp [rg])), ?_, ?_, ?_⟩
    · rw [went.frame]
      rfl
    · rw [went.frame]
      rfl
    · intro q op _ body connected unknown
      rw [body]
      exact State.reply_takeFrame ((congrArg Qp.state (qps _)).trans connected) unknown

/-! Pauses (R321). -/

/-- Until when a pause of a number of quanta holds its class. -/
def State.pauseEnd (s : State) (e : Nat) (q : W16) : Nat :=
  if q = 0 then 0 else s.linkTime + cdiv (q.toNat * 512 * 1000000000) (s.lineRate e)

/-- A class with PFC obeys a pause, and what it releases leaves. -/
def State.pause (s : State) (e sub tc till : Nat) : State :=
  { s with net := { s.net with paused := tput z0 s.net.paused (txKey e sub tc) till } }.flushTx e sub tc

section
variable {e : PortId} {sub : Fin 2} {tc : Fin 4} {q : W16}

theorem exec_pauseFrameRx_down (down : e.val = 8 ∨ s.portReady e sub = false) : exec (.pauseFrameRx e ⟨sub, tc⟩ q) s = .next s :=
  if_pos (by simpa using down)

theorem exec_pauseFrameRx_ready (plane : e.val ≠ 8) (ready : s.portReady e sub = true) : exec (.pauseFrameRx e ⟨sub, tc⟩ q) s =
    .next (let t := s.bump (rg (fnEth e) 0x070) 63 32 1
      if s.pfcOn e sub tc then t.pause e sub tc (t.pauseEnd e q) else t) := by
  refine (if_neg (by simp [plane, ready])).trans ?_
  have same : (s.bump (rg (fnEth e) 0x070) 63 32 1).pfcOn e sub tc = s.pfcOn e sub tc := rfl
  rw [same]
  cases s.pfcOn e sub tc
  · rfl
  · rfl

end

theorem State.linkTime_bump_port {o hi lo n : Nat} : (s.bump (rg (fnEth e) o) hi lo n).linkTime = s.linkTime :=
  State.linkTime_of_podstat rfl rfl (State.rd_setFld_ne (fnPort_eq (e := e) ▸ podstat_ne_port))

theorem State.classPaused_of_same {c : Nat} (time : t.linkTime = s.linkTime) (paused : t.net.paused = s.net.paused) :
    t.classPaused e sub c = s.classPaused e sub c := by
  rw [State.classPaused, time, paused, State.classPaused]

/-- A pause holds its own class for its quanta, and no other. -/
theorem State.classPaused_pause {c : Nat} {q : W16} : (s.pause e sub tc (s.pauseEnd e q)).classPaused e sub c =
    if c = tc then q != 0 && decide (0 < cdiv (q.toNat * 512 * 1000000000) (s.lineRate e)) else s.classPaused e sub c := by
  have sent : SentOnly e { s with net := { s.net with paused := tput z0 s.net.paused (txKey e sub tc) (s.pauseEnd e q) } }
      (s.pause e sub tc (s.pauseEnd e q)) := (SentOnly.refl _).flushTx
  rw [sent.classPaused]
  change decide (s.linkTime < tget z0 (tput z0 s.net.paused (txKey e sub tc) (s.pauseEnd e q)) (txKey e sub c)) = _
  rw [tget_tput]
  by_cases same : c = tc
  · rw [if_pos (by rw [same]), if_pos same]
    unfold State.pauseEnd
    by_cases zero : q = 0
    · simp [zero]
    · have some : (q != 0) = true := bne_iff_ne.2 zero
      rw [if_neg zero, some, Bool.true_and]
      exact decide_eq_decide.2 Nat.lt_add_right_iff_pos
  · rw [if_neg (by unfold txKey; omega), if_neg same]
    rfl

/-! Injected errors (R344). -/

section
variable {e : Fin 8}

theorem exec_ethInjectDrop : exec (.ethInjectDrop e) s = .next (if s.flag (rg (fnEth e) 0x020) 0 then s.armPort e 1 else s) := by
  change (if _ then _ else _) = _
  split <;> rfl

theorem exec_ethInjectCrc : exec (.ethInjectCrc e) s = .next (if s.flag (rg (fnEth e) 0x020) 0 then s.armPort e 2 else s) := by
  change (if _ then _ else _) = _
  split <;> rfl

end

theorem State.inject_armPort {bit : Nat} : tget z0 (s.armPort e bit).net.inject e = tget z0 s.net.inject e ||| bit := tget_tput_same

/-! Locks (R329). -/

/-- From s to t only connections differ. -/
structure ConnsOnly (s t : State) : Prop where
  frame : t = { s with net := { s.net with conns := t.net.conns } }

theorem ConnsOnly.refl (s : State) : ConnsOnly s s := ⟨rfl⟩

theorem ConnsOnly.trans (a : ConnsOnly r s) (b : ConnsOnly s t) : ConnsOnly r t := by
  constructor
  have h := b.frame
  rw [a.frame] at h
  exact h

theorem ConnsOnly.foldl {α : Type} {f : State → α → State} {l : List α} (hf : ∀ t x, ConnsOnly r t → ConnsOnly r (f t x))
    (h : ConnsOnly r s) : ConnsOnly r (l.foldl f s) :=
  List.foldlRecOn (motive := ConnsOnly r) l f h fun t ht x _ => hf t x ht

theorem ConnsOnly.setConn {k : Nat} {x : Conn} (h : ConnsOnly r s) : ConnsOnly r (s.setConn k x) := h.trans ⟨rfl⟩

theorem ConnsOnly.moveConn {k : Nat} (h : ConnsOnly r s) : ConnsOnly r (s.moveConn k) := by
  unfold State.moveConn
  dsimp only
  split
  · exact h
  · split
    · exact h.setConn
    · exact h

theorem ConnsOnly.moveConns (h : ConnsOnly r s) : ConnsOnly r s.moveConns := h.foldl fun _ _ k => k.moveConn

theorem ConnsOnly.portReady (h : ConnsOnly s t) {f : Nat} : t.portReady f sub = s.portReady f sub := by
  rw [h.frame]
  rfl

theorem ConnsOnly.mem (h : ConnsOnly s t) : t.mem = s.mem := by rw [h.frame]
theorem ConnsOnly.jobs (h : ConnsOnly s t) : t.jobs = s.jobs := by rw [h.frame]

/-- Without a lock a port's PTP lock ends too. -/
def State.dropPtp (s : State) (e : Nat) (locked : Bool) : State := if locked then s else s.setFlag (kPtpLock e) 1 false

/-- The lock of a port's PCS shows as READY, and connections move (R329). -/
def State.setPcs (s : State) (e : Nat) (locked : Bool) : State := ((s.dropPtp e locked).setFlag (rg (fnEth e) 0) 0 locked).moveConns

section
variable {e : PortId} {locked : Bool}

/-- What lets a lock count: a judged reference at MGMT, the hub dies' clock at a plane port (R472, R487). -/
theorem pcsLock_counts (h : locked = false ∨ s.flag (rg fnClk 0) (if e.val = 8 then 0 else 11) = true) :
    ¬ ((locked && !s.flag (rg fnClk 0) (if e.val = 8 then 0 else 11)) = true) := by
  rcases h with h | h <;> simp [h]

theorem exec_pcsLockChange_mgmt (mgmt : e.val = 8) (h : locked = false ∨ s.flag (rg fnClk 0) (if e.val = 8 then 0 else 11) = true) :
    exec (.pcsLockChange e 0 locked) s = .next (s.setFlag (rg (fnEth 8) 0) 0 locked) :=
  (if_neg (pcsLock_counts h)).trans (if_pos mgmt)

theorem exec_pcsLockChange_plane (plane : e.val ≠ 8) (h : locked = false ∨ s.flag (rg fnClk 0) (if e.val = 8 then 0 else 11) = true) :
    exec (.pcsLockChange e 0 locked) s = .next (s.setPcs e locked) :=
  (if_neg (pcsLock_counts h)).trans ((if_neg plane).trans (if_neg (by decide)))

theorem exec_pcsLockChange_sub (plane : e.val ≠ 8) (h : locked = false ∨ s.flag (rg fnClk 0) (if e.val = 8 then 0 else 11) = true)
    (split : s.flag (rg (fnEth e) 0) 3 = true) : exec (.pcsLockChange e 1 locked) s = .next (s.setFlag (rg (fnEth e) 0) 2 locked) :=
  (if_neg (pcsLock_counts h)).trans ((if_neg plane).trans ((if_pos (by decide)).trans (congrArg _ (if_pos split))))

end

theorem State.setPcs_leaves {locked : Bool} (plane : e ≠ 8) :
    (s.setPcs e locked).portReady e 0 = locked ∧ (s.setPcs e locked).mem = s.mem ∧ (s.setPcs e locked).jobs = s.jobs := by
  have dropped : (s.dropPtp e locked).mem = s.mem ∧ (s.dropPtp e locked).jobs = s.jobs := by cases locked <;> exact ⟨rfl, rfl⟩
  have moved : ConnsOnly ((s.dropPtp e locked).setFlag (rg (fnEth e) 0) 0 locked) (s.setPcs e locked) := (ConnsOnly.refl _).moveConns
  refine ⟨?_, moved.mem.trans dropped.1, moved.jobs.trans dropped.2⟩
  rw [moved.portReady, State.portReady, if_neg plane]
  exact State.flag_setFlag_same (by decide)

/-- Settles O44: a frame by what its arrival and its judgement leave, a pause by its two equations, the locks by what their flag leaves. -/
theorem portsTakeFramesAndPauses : Obligations.PortsTakeFramesAndPauses := by
  unfold Obligations.PortsTakeFramesAndPauses
  refine ⟨fun s e sub f => ⟨exec_ethFrameRx_down, fun ready => ?_⟩, fun s e sub tc q => ⟨exec_pauseFrameRx_down, fun plane ready => ?_⟩,
    fun s e => ⟨fun page => ?_, fun closed => ?_⟩, fun s e locked counts => ⟨?_, fun plane split => ?_⟩⟩
  · obtain ⟨t, eq, leaves⟩ := s.received_leaves (e := e) (sub := sub) (f := f)
    exact ⟨t, eq ▸ exec_ethFrameRx_ready ready, leaves⟩
  · refine ⟨_, exec_pauseFrameRx_ready plane ready, ?_⟩
    dsimp only
    cases pfc : s.pfcOn e sub tc
    · rw [if_neg Bool.false_ne_true]
      refine ⟨rfl, fun c _ => ?_, fun h => absurd h Bool.false_ne_true, rfl⟩
      rw [if_neg fun h => Bool.false_ne_true h.2]
      exact State.classPaused_of_same State.linkTime_bump_port rfl
    · rw [if_pos rfl]
      refine ⟨State.rd_setFld_ne (by simp [rg, fnPort_eq]), fun c _ => ?_, fun _ f waits => State.canLeave_of_waiting_flushTx waits, rfl⟩
      rw [State.classPaused_pause, State.classPaused_of_same State.linkTime_bump_port rfl]
      simp only [and_true]
      rfl
  · exact ⟨_, _, exec_ethInjectDrop.trans (by rw [if_pos page]), exec_ethInjectCrc.trans (by rw [if_pos page]), State.inject_armPort,
      State.inject_armPort, rfl, rfl⟩
  · exact ⟨exec_ethInjectDrop.trans (by rw [closed]; rfl), exec_ethInjectCrc.trans (by rw [closed]; rfl)⟩
  · by_cases mgmt : e.val = 8
    · refine ⟨_, exec_pcsLockChange_mgmt mgmt counts, ?_, rfl, rfl⟩
      rw [State.portReady, if_pos mgmt]
      exact State.flag_setFlag_same (by decide)
    · exact ⟨_, exec_pcsLockChange_plane mgmt counts, State.setPcs_leaves mgmt⟩
  · refine ⟨_, exec_pcsLockChange_sub plane counts split, ?_, rfl⟩
    rw [State.portReady, if_neg plane]
    exact State.flag_setFlag_same (by decide)

end Sys2Proof.Machine
end

/-! PROOFS. O45: pacing, echoes, neighbours, PTP and LLDP of the Ethernet ports (R320, R322, R326 to R328). -/
section
namespace Sys2Proof.Machine

variable {r s t : State} {e sub tc : Nat}

/-! Pacing (R322). -/

theorem Pace.cutAt_recent {p : Pace} {now : Nat} (some : p.cut ≠ 0) (recent : now < p.cut - 1 + 50000) : p.cutAt now = p := if_pos ⟨some, recent⟩

theorem Pace.cutAt_later {p : Pace} {now : Nat} (h : p.cut = 0 ∨ p.cut - 1 + 50000 ≤ now) : p.cutAt now =
    if 3 * p.num < 1000000000 * 4 ^ (p.k + 1) then { p with num := 1000000000, k := 0, cut := now + 1 }
    else { p with num := 3 * p.num, k := p.k + 1, cut := now + 1 } := if_neg (by omega)

theorem Pace.raise_recent {p : Pace} {rate now : Nat} (some : max p.cut p.tick ≠ 0) (recent : now < max p.cut p.tick - 1 + 100000) :
    p.raise rate now = p := if_pos ⟨some, recent⟩

theorem Pace.raise_later {p : Pace} {rate now : Nat} (h : max p.cut p.tick = 0 ∨ max p.cut p.tick - 1 + 100000 ≤ now) : p.raise rate now =
    if rate * 4 ^ p.k ≤ p.num + rate / 32 * 4 ^ p.k then { p with num := rate, k := 0, tick := now + 1 }
    else { p with num := p.num + rate / 32 * 4 ^ p.k, tick := now + 1 } := if_neg (by omega)

@[simp] theorem State.qp_setQp_same {q : Nat} {x : Qp} : (s.setQp q x).qp q = x := tget_tput_same

/-- A CNP that is counted before it cuts its flow. -/
theorem exec_cnpRx_qp {e : PortId} {n : BitVec 12} : ∃ t, exec (.cnpRx e (.qp n)) s = .next t ∧ t = { s with net := t.net, csr := t.csr } ∧
    (t.qp n.toNat).pace = (s.qp n.toNat).pace.cutAt s.linkTime := by
  have counted : exec (.cnpRx e (.qp n)) s = .next ((if e.val = 8 then s else s.bump (rg (fnEth e) 0x068) 63 32 1).cutFlow (.qp n)) := rfl
  rw [counted]
  split
  · exact ⟨_, rfl, rfl, congrArg Qp.pace State.qp_setQp_same⟩
  · refine ⟨_, rfl, rfl, (congrArg Qp.pace State.qp_setQp_same).trans ?_⟩
    rw [State.linkTime_bump_port]
    rfl

theorem exec_pacingRaise_qp {n : BitVec 12} : ∃ t, exec (.pacingRaise (.qp n)) s = .next t ∧ t = { s with net := t.net } ∧
    (t.qp n.toNat).pace = (s.qp n.toNat).pace.raise (s.lineRate (s.qp n.toNat).port) s.linkTime :=
  ⟨_, rfl, rfl, congrArg Qp.pace State.qp_setQp_same⟩

/-! Frames out (R320). -/

theorem wentOut_of_same {mac : BitVec 48} {body : TxBody} {u : State} (h : wentOut u t e sub tc mac body) (boot : u.boot = s.boot)
    (braid : u.braid = s.braid) : wentOut s t e sub tc mac body := by
  simpa only [wentOut, State.macOf, State.portRec, State.recs, boot, braid] using h

theorem State.canLeave_of_known {f : TxFrame} (ready : s.portReady e sub = true) (free : s.classPaused e sub f.tc = false)
    (now : f.after = 0) (known : f.dst.isSome = true) : s.canLeave e sub f = true := by
  simp [State.canLeave, ready, free, now, known]

theorem State.wentOut_sendL2 {mac : BitVec 48} {body : TxBody} (ready : s.portReady e sub = true) (free : s.classPaused e sub tc = false) :
    wentOut s (s.sendL2 e sub tc mac body) e sub tc mac body :=
  ⟨_, State.sent_putTx (State.canLeave_of_known ready free rfl rfl), rfl, rfl, rfl, rfl, rfl⟩

theorem State.wentOut_sendIp {mac : BitVec 48} {a : BitVec 128} {ecn : Bool} {body : TxBody} (ready : s.portReady e sub = true)
    (free : s.classPaused e sub tc = false) (known : s.neighbour e (s.nextHop e sub a) = some mac) :
    wentOut s (s.sendIp e sub tc a ecn 0 body) e sub tc mac body := by
  have dst : (s.ipFrame e sub tc a ecn 0 body).dst = some mac := known
  have isSome : (s.ipFrame e sub tc a ecn 0 body).dst.isSome = true := by rw [dst]; rfl
  have sent : s.sendIp e sub tc a ecn 0 body = s.putTx e sub (s.ipFrame e sub tc a ecn 0 body) := by
    unfold State.sendIp
    dsimp only
    rw [if_pos isSome]
  rw [sent]
  exact ⟨_, State.sent_putTx (State.canLeave_of_known ready free rfl isSome), rfl, rfl, rfl, dst, rfl⟩

/-! Neighbours (R320). -/

/-- The sender's mapping is in the cache of the port's hub die. -/
def State.learn (s : State) (e : Nat) (a : BitVec 128) (m : BitVec 48) : State :=
  { s.draw.2 with net := if 4 ≤ e ∧ e < 8 then { s.net with cacheB := putNeighbour s.net.cacheB a m s.draw.1.toNat }
    else { s.net with cacheA := putNeighbour s.net.cacheA a m s.draw.1.toNat } }

theorem putNeighbour_last {l : List (BitVec 128 × BitVec 48)} {a : BitVec 128} {m : BitVec 48} {pick : Nat} :
    (putNeighbour l a m pick).getLast? = some (a, m) := List.getLast?_concat ..

theorem State.cache_learn {a : BitVec 128} {m : BitVec 48} :
    (if 4 ≤ e ∧ e < 8 then (s.learn e a m).net.cacheB else (s.learn e a m).net.cacheA).getLast? = some (a, m) := by
  unfold State.learn
  by_cases b : 4 ≤ e ∧ e < 8
  · simp only [if_pos b]
    exact putNeighbour_last
  · simp only [if_neg b]
    exact putNeighbour_last

theorem State.classPaused_learn {a : BitVec 128} {m : BitVec 48} {f c : Nat} : (s.learn e a m).classPaused f sub c = s.classPaused f sub c := by
  unfold State.learn
  split <;> rfl

theorem SentOnly.caches (h : SentOnly e s t) : t.net.cacheA = s.net.cacheA ∧ t.net.cacheB = s.net.cacheB := by
  rw [h.frame]
  exact ⟨rfl, rfl⟩

section
variable {e : PortId} {sub : Fin 2}

theorem exec_neighbourResolution_down {m : NeighbourMsg} (down : s.portReady e sub = false) : exec (.neighbourResolution e sub m) s = .next s :=
  if_pos (by simp [down])

/-- The frames that a mapping lets go, and the answer to a question. -/
theorem exec_neighbourResolution_ready {m : NeighbourMsg} (ready : s.portReady e sub = true) : exec (.neighbourResolution e sub m) s =
    .next (let u := (s.learn e m.addr m.mac).flushPort e sub
      if m.request then u.sendL2 e sub 3 m.mac (.neighbour (u.portAddr e sub (isV4 m.addr))) else u) := if_neg (by simp [ready])

end

theorem State.learned_leaves {m : NeighbourMsg} (ready : s.portReady e sub = true) : ∃ t,
    (let u := (s.learn e m.addr m.mac).flushPort e sub
      if m.request then u.sendL2 e sub 3 m.mac (.neighbour (u.portAddr e sub (isV4 m.addr))) else u) = t ∧
      (if 4 ≤ e ∧ e < 8 then t.net.cacheB else t.net.cacheA).getLast? = some (m.addr, m.mac) ∧ t.mem = s.mem ∧ t.jobs = s.jobs ∧
      (m.request = true → s.classPaused e sub 3 = false → wentOut s t e sub 3 m.mac (.neighbour (s.portAddr e sub (isV4 m.addr)))) := by
  extract_lets u
  have flushed : SentOnly e (s.learn e m.addr m.mac) u := (SentOnly.refl _).flushPort
  clear_value u
  have boot : u.boot = s.boot := by rw [flushed.frame]; rfl
  have braid : u.braid = s.braid := by rw [flushed.frame]; rfl
  refine ⟨_, rfl, ?_⟩
  have sent : SentOnly e (s.learn e m.addr m.mac)
      (if m.request then u.sendL2 e sub 3 m.mac (.neighbour (u.portAddr e sub (isV4 m.addr))) else u) := by
    split
    · exact flushed.sendL2
    · exact flushed
  obtain ⟨cacheA, cacheB⟩ := sent.caches
  refine ⟨?_, ?_, ?_, fun asked free => ?_⟩
  · rw [cacheA, cacheB]
    exact State.cache_learn
  · rw [sent.frame]
    rfl
  · rw [sent.frame]
    rfl
  · rw [if_pos asked]
    have addr : u.portAddr e sub (isV4 m.addr) = s.portAddr e sub (isV4 m.addr) := by
      rw [State.portAddr, State.portRec, State.recs, boot, braid]
      rfl
    rw [addr]
    exact wentOut_of_same (State.wentOut_sendL2 (flushed.portReady.trans ready) (flushed.classPaused.trans (State.classPaused_learn.trans free)))
      boot braid

/-! LLDP (R328). -/

section
variable {e : PortId} {sub : Fin 2} {chassis port : W64}

theorem exec_lldpRx_known (h : s.portReady e sub = false ∨ tget noLldp s.net.lldp (2 * e.val + sub.val) = (chassis, port)) :
    exec (.lldpRx e sub chassis port) s = .next s := if_pos (by simpa using h)

/-- A new neighbour is kept, and logged. -/
theorem exec_lldpRx_new (ready : s.portReady e sub = true) (new : tget noLldp s.net.lldp (2 * e.val + sub.val) ≠ (chassis, port)) :
    ∃ t, exec (.lldpRx e sub chassis port) s = .next t ∧ tget noLldp t.net.lldp (2 * e.val + sub.val) = (chassis, port) ∧ t.mem = s.mem ∧
      t.jobs = s.jobs := by
  refine ⟨_, if_neg (by simp [ready, new]), ?_, State.mem_logWrite, (UnitsKept.refl _).note.jobs⟩
  rw [(HbmOnly.refl _).note.frame]
  exact tget_tput_same

end

/-! PTP (R326, R327). -/

/-- The timestamp of a message is kept. -/
def State.stamp (s : State) (e sub : Nat) (m : PtpMsg) : State :=
  { s with net := { s.net with stamps := tput noStamp s.net.stamps (2 * e + sub) (s.ptpStamp e sub m, m.oneStep) } }

/-- The chip follows PTP by this port. -/
def State.ptpClient (s : State) (e sub : Nat) : Prop := s.podEpoch ≠ 0 ∧ s.isRoot = true ∧ e = s.podByte 48 ∧ e < 4 ∧ sub = 0

/-- The offset of the port's clock from PTP time. -/
def State.ptpOffset (s : State) (e sub : Nat) (m : PtpMsg) : Int := ((s.ptpStamp e sub m).toNat : Int) - (m.origin + m.delay).toNat

section
variable {e : PortId} {sub : Fin 2} {m : PtpMsg}

theorem exec_ptpEvent_down (down : s.portReady e sub = false) : exec (.ptpEvent e sub m) s = .next s := if_pos (by simp [down])

theorem exec_ptpEvent_sent (ready : s.portReady e sub = true) (sent : m.sent = true) : exec (.ptpEvent e sub m) s =
    .next ((s.stamp e sub m).sendL2 e sub 3 0x011B19000000 (.ptp m.oneStep (s.ptpStamp e sub m))) :=
  (if_neg (by simp [ready])).trans (if_pos sent)

theorem exec_ptpEvent_client (ready : s.portReady e sub = true) (came : m.sent = false) (client : s.ptpClient e sub) :
    exec (.ptpEvent e sub m) s = .next ((s.stamp e sub m).followPtp e (m.origin + m.delay) (s.ptpOffset e sub m)) :=
  (if_neg (by simp [ready])).trans ((if_neg (by simp [came])).trans (if_pos client))

theorem exec_ptpEvent_other (ready : s.portReady e sub = true) (came : m.sent = false) (other : ¬ s.ptpClient e sub) :
    exec (.ptpEvent e sub m) s = .next (s.stamp e sub m) :=
  (if_neg (by simp [ready])).trans ((if_neg (by simp [came])).trans (if_neg other))

end

/-- What the start of beat time leaves: the beat, LOCKED, and of registers nothing else. -/
theorem State.startBeat_leaves {b : Nat} : (s.startBeat b).flag kPodstat 16 = true ∧ (s.startBeat b).beat = BitVec.ofNat 64 b ∧
    (s.startBeat b).mem = s.mem ∧ (s.startBeat b).net.stamps = s.net.stamps ∧ ∀ k, k ≠ kPodstat → (s.startBeat b).rd k = s.rd k := by
  unfold State.startBeat
  extract_lets flagged started linked timed old
  have links : LinksOnly started linked := (LinksOnly.refl _).foldl fun _ _ k => k.setLink
  have conns : ConnsOnly linked timed := (ConnsOnly.refl _).foldl fun _ _ k => by
    split
    · exact k.setConn
    · exact k
  clear_value linked timed
  have csr : timed.csr = started.csr := by rw [conns.frame, links.frame]
  have beat : timed.beat = started.beat := by rw [conns.frame, links.frame]
  have mem : timed.mem = started.mem := by rw [conns.frame, links.frame]
  have stamps : timed.net.stamps = started.net.stamps := by rw [conns.frame, links.frame]
  have rd (k : Nat) : timed.rd k = started.rd k := by rw [State.rd, csr, State.rd]
  have locked : started.flag kPodstat 16 = true := State.flag_setFlag_same (by decide)
  refine ⟨?_, beat, mem, stamps, fun k other => (rd k).trans (State.rd_setFld_ne other)⟩
  change timed.flag kPodstat 16 = true
  rw [State.flag, rd]
  exact locked

/-- An entry of the log leaves memory, beat time, the net and PODSTAT as they are. -/
theorem State.logWrite_leaves {x : LogEntry} : (s.logWrite x).mem = s.mem ∧ (s.logWrite x).beat = s.beat ∧ (s.logWrite x).net = s.net := by
  have logged : HbmOnly s (s.logWrite x) := (HbmOnly.refl s).logWrite
  refine ⟨State.mem_logWrite, ?_, ?_⟩ <;> rw [logged.frame]

/-- What following PTP leaves of memory and of the timestamps. -/
theorem State.followPtp_leaves {now : W64} {off : Int} : (s.followPtp e now off).mem = s.mem ∧
    (s.followPtp e now off).net.stamps = s.net.stamps := by
  have logged {u : State} {x : LogEntry} (mem : u.mem = s.mem) (stamps : u.net.stamps = s.net.stamps) :
      (u.logWrite x).mem = s.mem ∧ (u.logWrite x).net.stamps = s.net.stamps := by
    obtain ⟨keptMem, -, keptNet⟩ := u.logWrite_leaves (x := x)
    exact ⟨keptMem.trans mem, (congrArg Net.stamps keptNet).trans stamps⟩
  unfold State.followPtp
  extract_lets far mine waits tooFar unlocked
  split
  · exact ⟨rfl, rfl⟩
  · split
    · split
      · obtain ⟨-, -, mem, stamps, -⟩ := (s.setFlag (kPtpLock e) 1 true).startBeat_leaves (b := (BitVec.ofInt 64 mine).toNat)
        exact ⟨mem, stamps⟩
      · split
        · exact ⟨rfl, rfl⟩
        · exact logged rfl rfl
    · split
      · exact logged rfl rfl
      · exact ⟨rfl, rfl⟩

/-- The root locks at once to PTP time within 1 µs. -/
theorem State.followPtp_locks {now : W64} {off : Int} (good : s.net.ptpBad = false) (free : s.flag kPodstat 16 = false) (near : off.natAbs < 1000) :
    (s.followPtp e now off).flag kPodstat 16 = true ∧
      (s.followPtp e now off).beat = BitVec.ofInt 64 ((now.toNat : Int) - s.podEpoch) ∧ (s.followPtp e now off).flag (rg (fnEth e) 0) 1 = true := by
  have eq : s.followPtp e now off =
      (s.setFlag (kPtpLock e) 1 true).startBeat (BitVec.ofInt 64 ((now.toNat : Int) - s.podEpoch)).toNat := by
    unfold State.followPtp
    dsimp only
    rw [if_neg (by simp [good]), if_pos (by simp [free]), if_pos near]
  obtain ⟨locked, beat, -, -, rest⟩ := (s.setFlag (kPtpLock e) 1 true).startBeat_leaves
    (b := (BitVec.ofInt 64 ((now.toNat : Int) - s.podEpoch)).toNat)
  rw [eq]
  refine ⟨locked, beat.trans (by rw [BitVec.ofNat_toNat, BitVec.setWidth_eq]), ?_⟩
  rw [State.flag, rest _ (fnPort_eq (e := e) ▸ podstat_ne_port.symm)]
  exact State.flag_setFlag_same (by decide)

/-- A locked root slews to PTP time within 1 ms. -/
theorem State.followPtp_slews {now : W64} {off : Int} (good : s.net.ptpBad = false) (locked : s.flag kPodstat 16 = true) (near : off.natAbs ≤ 1000000) :
    (s.followPtp e now off).beat = s.beat ∧ (s.followPtp e now off).net.slew = (now.toNat : Int) - s.podEpoch - s.beat.toNat := by
  have eq : s.followPtp e now off = { s.setFlag (kPtpLock e) 1 true with
      net := { s.net with slew := (now.toNat : Int) - s.podEpoch - s.beat.toNat } } := by
    unfold State.followPtp
    dsimp only
    rw [if_neg (by simp [good]), if_neg (by simp [locked]), if_neg (by omega)]
    rfl
  rw [eq]
  exact ⟨rfl, rfl⟩

/-- Beyond 1 ms a locked root stops following. -/
theorem State.followPtp_stops {now : W64} {off : Int} (good : s.net.ptpBad = false) (locked : s.flag kPodstat 16 = true) (far : 1000000 < off.natAbs) :
    (s.followPtp e now off).net.ptpBad = true ∧ (s.followPtp e now off).beat = s.beat := by
  have logs : ∃ (u : State) (x : LogEntry), s.followPtp e now off = u.logWrite x ∧ u.net.ptpBad = true ∧ u.beat = s.beat := by
    unfold State.followPtp
    dsimp only
    rw [if_neg (by simp [good]), if_neg (by simp [locked]), if_pos far]
    exact ⟨_, _, rfl, rfl, rfl⟩
  obtain ⟨u, x, eq, bad, same⟩ := logs
  obtain ⟨-, beat, net⟩ := u.logWrite_leaves (x := x)
  rw [eq]
  exact ⟨(congrArg Net.ptpBad net).trans bad, beat.trans same⟩

theorem SentOnly.mem (h : SentOnly e s t) : t.mem = s.mem := by rw [h.frame]
theorem SentOnly.beat (h : SentOnly e s t) : t.beat = s.beat := by rw [h.frame]
theorem SentOnly.stamps (h : SentOnly e s t) : t.net.stamps = s.net.stamps := by rw [h.frame]

theorem SentOnly.netCsr (h : SentOnly e s t) : t = { s with net := t.net, csr := t.csr } := by
  have f := h.frame
  rw [f]

theorem State.stamps_stamp {m : PtpMsg} : tget noStamp (s.stamp e sub m).net.stamps (2 * e + sub) = (s.ptpStamp e sub m, m.oneStep) :=
  tget_tput_same

/-- A port that receives a message leaves beat time as it is, but that of the client. -/
theorem ptpEvent_received {e : PortId} {sub : Fin 2} {m : PtpMsg} (ready : s.portReady e sub = true) (came : m.sent = false) : ∃ t,
    exec (.ptpEvent e sub m) s = .next t ∧ tget noStamp t.net.stamps (2 * e.val + sub.val) = (s.ptpStamp e sub m, m.oneStep) ∧ t.mem = s.mem ∧
      (¬ s.ptpClient e sub → t.beat = s.beat) ∧
      (s.ptpClient e sub → t = (s.stamp e sub m).followPtp e (m.origin + m.delay) (s.ptpOffset e sub m)) := by
  by_cases client : s.ptpClient e sub
  · obtain ⟨mem, stamps⟩ := (s.stamp e sub m).followPtp_leaves (e := e) (now := m.origin + m.delay) (off := s.ptpOffset e sub m)
    refine ⟨_, exec_ptpEvent_client ready came client, ?_, mem, fun other => absurd client other, fun _ => rfl⟩
    rw [stamps]
    exact State.stamps_stamp
  · exact ⟨_, exec_ptpEvent_other ready came client, State.stamps_stamp, rfl, fun _ => rfl, fun is => absurd is client⟩

/-- Settles O45: the flows by what cuts and raises leave of their pace, the frames by what a send leaves, PTP by the cases of following it. -/
theorem portsPaceAnswerAndKeepTime : Obligations.PortsPaceAnswerAndKeepTime := by
  unfold Obligations.PortsPaceAnswerAndKeepTime
  refine ⟨fun s e n k => ?_, fun s e sub => ⟨fun down => ?_, fun ready => ?_⟩⟩
  · intro x now rate last
    obtain ⟨t, cut, cutFrame, cutPace⟩ := exec_cnpRx_qp (s := s) (e := e) (n := n)
    obtain ⟨u, raise, raiseFrame, raisePace⟩ := exec_pacingRaise_qp (s := s) (n := n)
    exact ⟨⟨t, cut, cutFrame, fun some recent => cutPace.trans (Pace.cutAt_recent some recent), fun later => cutPace.trans (Pace.cutAt_later later)⟩,
      ⟨u, raise, raiseFrame, fun some recent => raisePace.trans (Pace.raise_recent some recent),
        fun later => raisePace.trans (Pace.raise_later later)⟩, rfl, rfl⟩
  · exact ⟨fun a => if_neg (by simp [down]), if_neg (by simp [down]), fun m => exec_neighbourResolution_down down, fun m => exec_ptpEvent_down down,
      fun x y => exec_lldpRx_known (.inl down)⟩
  · refine ⟨fun a => ?_, ?_, fun m => ?_, fun chassis port new => exec_lldpRx_new ready new, fun m => ?_⟩
    · have sent : SentOnly e s (s.sendIp e sub 3 a false 0 .echo) := (SentOnly.refl s).sendIp
      exact ⟨_, if_pos ready, sent.netCsr, fun mac known free => State.wentOut_sendIp ready free known⟩
    · have sent : SentOnly e s (s.sendL2 e sub 3 0x0180C200000E (.lldp (s.lldpdu e sub))) := (SentOnly.refl s).sendL2
      exact ⟨_, if_pos ready, sent.netCsr, fun free => State.wentOut_sendL2 ready free⟩
    · obtain ⟨t, eq, leaves⟩ := State.learned_leaves (m := m) ready
      exact ⟨t, eq ▸ exec_neighbourResolution_ready ready, leaves⟩
    · intro at_ now off mine client
      cases way : m.sent
      · obtain ⟨t, eq, stamps, mem, beat, follows⟩ := ptpEvent_received ready way
        refine ⟨t, eq, stamps, mem, fun h => beat (h.resolve_left Bool.false_ne_true), fun h => absurd h Bool.false_ne_true,
          fun _ is good => ?_⟩
        rw [follows is]
        exact ⟨fun free near => State.followPtp_locks good free near, fun locked near => State.followPtp_slews good locked near,
          fun locked far => State.followPtp_stops good locked far⟩
      · have sent : SentOnly e (s.stamp e sub m) ((s.stamp e sub m).sendL2 e sub 3 0x011B19000000 (.ptp m.oneStep (s.ptpStamp e sub m))) :=
          (SentOnly.refl _).sendL2
        refine ⟨_, exec_ptpEvent_sent ready way, ?_, sent.mem, fun _ => sent.beat, fun _ free => ?_, fun h => absurd h.symm Bool.false_ne_true⟩
        · rw [sent.stamps]
          exact State.stamps_stamp
        · exact State.wentOut_sendL2 (s := s.stamp e sub m) ready free

end Sys2Proof.Machine
end

/-! PROOFS. What a write to HBM leaves in memory (R254). -/
section
namespace Sys2Proof.Machine

variable {s : State} {a : Nat} {bs : List Byte}

theorem Mem.store_append {m : Mem} {cs : List Byte} : (m.store a bs).store (a + bs.length) cs = m.store a (bs ++ cs) := by
  induction bs generalizing m a with
  | nil => rfl
  | cons b r ih =>
    rw [List.length_cons, show a + (r.length + 1) = a + 1 + r.length by omega]
    exact ih

/-- The pieces of a range, stored one after the other, are the whole. -/
theorem Mem.foldl_store_granulePieces {m : Mem} :
    (granulePieces a bs.length).foldl (fun m e => m.store e.1 ((bs.drop (e.1 - a)).take e.2)) m = m.store a bs := by
  have upTo (k : Nat) (hk : 64 * k ≤ a % 64 + bs.length + 63) : ((List.range k).map (fun i =>
      let lo := max a ((a / 64 + i) * 64)
      (lo, min (a + bs.length) ((a / 64 + i + 1) * 64) - lo))).foldl (fun m e => Mem.store m e.1 ((bs.drop (e.1 - a)).take e.2)) m =
        m.store a (bs.take (64 * k - a % 64)) := by
    induction k with
    | zero => simp [Mem.store]
    | succ k ih =>
      rw [List.range_succ, List.map_append, List.foldl_append, ih (by omega)]
      rw [List.map_singleton, List.foldl_cons, List.foldl_nil]
      dsimp only
      have lo : max a ((a / 64 + k) * 64) = a + (bs.take (64 * k - a % 64)).length := by rw [List.length_take]; omega
      rw [lo, Mem.store_append]
      congr 1
      rw [List.length_take, Nat.add_sub_cancel_left]
      have len : min (a + bs.length) ((a / 64 + k + 1) * 64) - (a + min (64 * k - a % 64) bs.length) =
          min bs.length (64 * (k + 1) - a % 64) - min (64 * k - a % 64) bs.length := by omega
      rw [len, show bs.take (64 * k - a % 64) = bs.take (min (64 * k - a % 64) bs.length) from List.take_eq_take_iff.2 (by omega),
        ← List.take_add]
      exact List.take_eq_take_iff.2 (by omega)
  unfold granulePieces
  split
  · next empty => rw [List.length_eq_zero_iff.1 empty]; rfl
  · next filled =>
    refine (upTo _ (by omega)).trans ?_
    rw [List.take_of_length_le (by omega)]

/-- A write leaves its bytes in memory, however many granules it touches. -/
@[simp] theorem State.mem_writeHbm : (s.writeHbm a bs).mem = s.mem.store a bs := by
  have pieces (l : List (Nat × Nat)) (t : State) : (l.foldl (fun s (x, n) => s.writeGranule x ((bs.drop (x - a)).take n) false) t).mem =
      l.foldl (fun m e => m.store e.1 ((bs.drop (e.1 - a)).take e.2)) t.mem := by
    induction l generalizing t with
    | nil => rfl
    | cons e l ih => rw [List.foldl_cons, ih, State.mem_writeGranule, List.foldl_cons]
  exact (pieces _ s).trans Mem.foldl_store_granulePieces

end Sys2Proof.Machine
end

/-! PROOFS. O43: membership (R339, R340): MDOWN, MGEN and PEER_SILENCE_TIMEOUT. -/
section
namespace Sys2Proof.Machine

variable {r s t : State} {i st k : Nat} {m : CtlMsg}

/-- From s to t every core, every job and the braid stays, and every connection but for its waiting messages. -/
structure SpreadKept (s t : State) : Prop where
  units : UnitsKept s t
  braid : t.braid = s.braid
  conns : ∀ k, t.conn k = { s.conn k with ctl := (t.conn k).ctl }

theorem SpreadKept.refl (s : State) : SpreadKept s s := ⟨.refl s, rfl, fun _ => rfl⟩

theorem SpreadKept.trans (a : SpreadKept r s) (b : SpreadKept s t) : SpreadKept r t := by
  refine ⟨a.units.trans b.units, b.braid.trans a.braid, fun k => ?_⟩
  have h := b.conns k
  rw [a.conns k] at h
  exact h

theorem SpreadKept.foldl {α : Type} {f : State → α → State} {l : List α} (hf : ∀ t x, SpreadKept r t → SpreadKept r (f t x))
    (h : SpreadKept r s) : SpreadKept r (l.foldl f s) :=
  List.foldlRecOn (motive := SpreadKept r) l f h fun t ht x _ => hf t x ht

theorem SpreadKept.of_same (units : UnitsKept s t) (braid : t.braid = s.braid) (conns : t.net.conns = s.net.conns) : SpreadKept s t :=
  ⟨units, braid, fun k => by rw [State.conn, conns]; rfl⟩

theorem SpreadKept.told (h : SpreadKept r s) (k : ToldOnly s t) : SpreadKept r t :=
  h.trans (.of_same k.units k.netKept.braid (by rw [k.netKept.net]))

@[simp] theorem State.conn_setConn_same {x : Conn} : (s.setConn k x).conn k = x := tget_tput_same
theorem State.conn_setConn_ne {x : Conn} {n : Nat} (h : n ≠ k) : (s.setConn k x).conn n = s.conn n := tget_tput_ne h

theorem SpreadKept.sendConn (h : SpreadKept r s) : SpreadKept r (s.sendConn k m) := by
  refine h.trans ⟨⟨rfl, rfl⟩, rfl, fun n => ?_⟩
  by_cases same : n = k
  · subst same
    rw [State.sendConn, State.conn_setConn_same]
  · rw [State.sendConn, State.conn_setConn_ne same]

theorem SpreadKept.spread {src : Option MsgSrc} (h : SpreadKept r s) : SpreadKept r (s.spread m src) := by
  refine SpreadKept.foldl (fun t n kept => ?_) (h.foldl fun t l kept => ?_)
  · split
    · exact kept.sendConn
    · exact kept
  · split
    · exact kept.trans (.of_same ⟨rfl, rfl⟩ rfl rfl)
    · exact kept

theorem State.markPeer_told : ToldOnly s (s.markPeer i st) := by
  unfold State.markPeer
  split
  · exact .refl s
  · exact (ToldOnly.refl s).writeHbm.writeHbm.event

theorem SpreadKept.reportPeer (h : SpreadKept r s) : SpreadKept r (s.reportPeer i st) := by
  unfold State.reportPeer
  split
  · exact h
  · exact SpreadKept.spread ((h.told State.markPeer_told).trans (.of_same ⟨rfl, rfl⟩ rfl rfl))

/-! What a spread message leaves of memory and of the messages seen. -/

theorem State.spread_leaves {src : Option MsgSrc} : (s.spread m src).mem = s.mem ∧ (s.spread m src).net.mdowns = s.net.mdowns := by
  unfold State.spread
  extract_lets linked
  have links : LinksOnly s linked := (LinksOnly.refl s).foldl fun t l kept => by
    split
    · exact kept.setLink
    · exact kept
  clear_value linked
  have conns : ConnsOnly linked ((List.range 64).foldl (fun s k =>
      if s.connOpen k && decide (src ≠ some (.conn (Fin.ofNat 64 k))) then s.sendConn k m else s) linked) :=
    (ConnsOnly.refl linked).foldl fun t l kept => by
      split
      · exact kept.setConn
      · exact kept
  refine ⟨conns.mem.trans ?_, ?_⟩
  · rw [links.frame]
  · rw [conns.frame, links.frame]

/-! A marked peer (R338). -/

/-- While SCH does not serve its rings, an event with room waits in the buffer. -/
theorem State.mem_event_waits {type func : Nat} {job : Option Nat} {detail : List Byte} (room : s.rings.events.length < 256)
    (down : s.schReady = false) : (s.event type func job detail).mem = s.mem := by
  unfold State.event
  rw [if_pos room]
  dsimp only
  unfold State.drainEvents
  split
  · rfl
  · rw [if_pos (Or.inr (Or.inr (Or.inr (Bool.not_eq_eq_eq_not.2 down))))]

theorem State.markPeer_braid : (s.markPeer i st).braid = s.braid := State.markPeer_told.netKept.braid

/-- An entry that takes a STATE reads it. -/
theorem State.peerState_markPeer (listed : s.rec1 0x0E ≠ []) (new : s.peerState i ≠ 2) (room : s.rings.events.length < 256)
    (down : s.schReady = false) : (s.markPeer i 2).peerState i = 2 := by
  have rec1 : (s.markPeer i 2).rec1 0x0E = s.rec1 0x0E := by rw [State.rec1, State.recs, State.markPeer_braid, State.rec1, State.recs]
  have base : (s.markPeer i 2).peerBase = s.peerBase := by rw [State.peerBase, rec1, State.peerBase]
  have mem : (s.markPeer i 2).mem =
      (s.mem.store (s.peerBase + 64 * i + 0x0A) (leBytes 2 1)).store (s.peerBase + 64 * i + 0x0C) (leBytes s.gen 4) := by
    unfold State.markPeer
    rw [if_neg new]
    extract_lets written
    have written_mem : written.mem = (s.mem.store (s.peerBase + 64 * i + 0x0A) (leBytes 2 1)).store (s.peerBase + 64 * i + 0x0C)
        (leBytes s.gen 4) := by
      simp only [written, State.mem_writeHbm]
    have only : HbmOnly s written := (HbmOnly.refl s).writeHbm.writeHbm
    have status : StatusKept s written := (StatusKept.refl s).writeHbm.writeHbm
    rw [State.mem_event_waits (by rw [only.rings]; exact room) ((status.flag _ 0).trans down)]
    exact written_mem
  rw [State.peerState, State.peerField, rec1, if_neg listed, base, mem]
  change (Mem.byte _ _).toNat + 256 * 0 = 2
  rw [Mem.byte_store_of_lt (by omega)]
  exact congrArg (fun b : Byte => b.toNat + 256 * 0) (Mem.byte_store_in (i := 0) (bs := leBytes 2 1) (by decide))

/-- An entry that a location names is listed. -/
theorem State.listed_of_peerOf {loc : Nat} (h : s.peerOf loc = some i) : s.rec1 0x0E ≠ [] := by
  intro empty
  have none : s.peerList = [] := if_pos empty
  simp [State.peerOf, none] at h

/-! The messages. -/

/-- An MDOWN not seen before is noted, and the entry that it names marked. -/
def State.takeMdown (s : State) (m : CtlMsg) : State :=
  let s := { s with net := { s.net with mdowns := s.net.mdowns ++ [m] } }
  match s.peerOf (m.at 1 3) with
  | some i => if s.peerState i = 3 then s else s.markPeer i 2
  | none => s

section
variable {src : MsgSrc}

theorem exec_mdown_seen (is : m.is 0x20 = true) (seen : s.net.mdowns.contains m = true) : exec (.mdown src m) s = .next s :=
  (if_pos is).trans (congrArg _ (if_pos seen))

theorem exec_mdown_new (is : m.is 0x20 = true) (new : s.net.mdowns.contains m = false) :
    exec (.mdown src m) s = .next ((s.takeMdown m).spread m (some src)) :=
  (if_pos is).trans (congrArg _ (if_neg (Bool.eq_false_iff.1 new)))

theorem exec_mgen_new (is : m.is 0x21 = true) (later : s.gen < m.at 1 4) (new : s.net.mgens.contains (m.at 1 4, m.hi.toNat) = false) :
    exec (.mgen src m) s = .next { s with net := { s.net with mgens := s.net.mgens ++ [(m.at 1 4, m.hi.toNat)] } } :=
  (if_pos is).trans (congrArg _ (if_neg (not_or.2 ⟨Nat.not_le.2 later, Bool.eq_false_iff.1 new⟩)))

theorem exec_mgen_known (is : m.is 0x21 = true) (h : m.at 1 4 ≤ s.gen ∨ s.net.mgens.contains (m.at 1 4, m.hi.toNat) = true) :
    exec (.mgen src m) s = .next s :=
  (if_pos is).trans (congrArg _ (if_pos h))

end

theorem State.takeMdown_told : ToldOnly { s with net := { s.net with mdowns := s.net.mdowns ++ [m] } } (s.takeMdown m) := by
  unfold State.takeMdown
  dsimp only
  split
  · split
    · exact .refl _
    · exact State.markPeer_told
  · exact .refl _

/-- The entry that an MDOWN names becomes SUSPECT. -/
theorem State.peerState_takeMdown (names : s.peerOf (m.at 1 3) = some i) (up : s.peerState i ≠ 3) (new : s.peerState i ≠ 2)
    (room : s.rings.events.length < 256) (down : s.schReady = false) : (s.takeMdown m).peerState i = 2 := by
  have marks : s.takeMdown m = ({ s with net := { s.net with mdowns := s.net.mdowns ++ [m] } } : State).markPeer i 2 := by
    unfold State.takeMdown
    extract_lets net noted
    have same : noted.peerOf (m.at 1 3) = some i := names
    rw [same]
    exact if_neg up
  rw [marks]
  exact State.peerState_markPeer (State.listed_of_peerOf names) new room down

section
variable {k : ConnId}

theorem exec_peerSilenceTimeout_heard (h : s.linkTime < (s.conn k).heard + 8000000) : exec (.peerSilenceTimeout k) s = .next s :=
  if_pos (.inr (.inr h))

theorem exec_peerSilenceTimeout_silent (used : s.connUsed k = true) (opened : (s.conn k).state = 1)
    (silent : (s.conn k).heard + 8000000 ≤ s.linkTime) : exec (.peerSilenceTimeout k) s =
      .next ((s.setConn k { s.conn k with state := 2 }).reportPeer (s.connPeer k) 2) :=
  if_neg (by simp [used, opened, Nat.not_lt.2 silent])

end

/-- Settles O43: MDOWN by what marking its entry and spreading it leave, MGEN by its two equations, silence by what a reported peer leaves. -/
theorem membershipMessagesMarkPeers : Obligations.MembershipMessagesMarkPeers := by
  unfold Obligations.MembershipMessagesMarkPeers
  refine fun s src m => ⟨exec_mdown_seen, fun is new => ?_, exec_mgen_new, exec_mgen_known,
    fun k used opened => ⟨fun silent => ?_, exec_peerSilenceTimeout_heard⟩⟩
  · have told := s.takeMdown_told (m := m)
    obtain ⟨mem, mdowns⟩ := (s.takeMdown m).spread_leaves (m := m) (src := some src)
    have spread : SpreadKept (s.takeMdown m) ((s.takeMdown m).spread m (some src)) := (SpreadKept.refl _).spread
    refine ⟨_, exec_mdown_new is new, ?_, spread.units.jobs.trans told.units.jobs, spread.units.cores.trans told.units.cores, ?_⟩
    · rw [mdowns, told.netKept.net]
    · intro i names up other room down
      have rec1 : ((s.takeMdown m).spread m (some src)).rec1 0x0E = (s.takeMdown m).rec1 0x0E := by
        rw [State.rec1, State.recs, spread.braid, State.rec1, State.recs]
      have same : ((s.takeMdown m).spread m (some src)).peerState i = (s.takeMdown m).peerState i := by
        rw [State.peerState, State.peerField, State.peerBase, rec1, mem, State.peerState, State.peerField, State.peerBase]
      exact same.trans (State.peerState_takeMdown names up other room down)
  · have reported : SpreadKept (s.setConn k { s.conn k with state := 2 })
        ((s.setConn k { s.conn k with state := 2 }).reportPeer (s.connPeer k) 2) := (SpreadKept.refl _).reportPeer
    refine ⟨_, exec_peerSilenceTimeout_silent used opened silent, ?_, reported.units.jobs, reported.units.cores⟩
    rw [reported.conns, State.conn_setConn_same]

end Sys2Proof.Machine
end

/-! PROOFS. What the operations of a Hawser connection leave (R330 to R333): packets that leave, acknowledgments, reads of the send queue. -/
section
namespace Sys2Proof.Machine

variable {r s t : State} {k e : Nat}

/-! Packets that leave (R329). -/

theorem SentOnly.conn (h : SentOnly e s t) (k : Nat) : t.conn k = s.conn k := by
  rw [h.frame]
  rfl

theorem SentOnly.units (h : SentOnly e s t) : UnitsKept s t := by
  rw [h.frame]
  exact ⟨rfl, rfl⟩

/-- A packet that leaves is the connection's last. -/
theorem State.sendHw_sent {type : Nat} {p : HwPacket} :
    SentOnly (s.conn k).port (s.setConn k { s.conn k with out := some (type, p) }) (s.sendHw k type p) := (SentOnly.refl _).sendIp

theorem State.conn_sendHw {type : Nat} {p : HwPacket} : (s.sendHw k type p).conn k = { s.conn k with out := some (type, p) } :=
  (State.sendHw_sent.conn k).trans State.conn_setConn_same

/-- From s to t only the net and registers differ. -/
structure NetCsrOnly (s t : State) : Prop where
  frame : t = { s with net := t.net, csr := t.csr }

theorem NetCsrOnly.refl (s : State) : NetCsrOnly s s := ⟨rfl⟩

theorem NetCsrOnly.trans (a : NetCsrOnly r s) (b : NetCsrOnly s t) : NetCsrOnly r t := by
  constructor
  have h := b.frame
  rw [a.frame] at h
  exact h

theorem NetCsrOnly.setConn {x : Conn} (h : NetCsrOnly r s) : NetCsrOnly r (s.setConn k x) := h.trans ⟨rfl⟩
theorem NetCsrOnly.sent (h : NetCsrOnly r s) (sent : SentOnly e s t) : NetCsrOnly r t := h.trans ⟨sent.netCsr⟩
theorem NetCsrOnly.sendHw {type : Nat} {p : HwPacket} (h : NetCsrOnly r s) : NetCsrOnly r (s.sendHw k type p) := h.setConn.sent State.sendHw_sent

theorem NetCsrOnly.units (h : NetCsrOnly s t) : UnitsKept s t := by
  rw [h.frame]
  exact ⟨rfl, rfl⟩

theorem NetCsrOnly.spill (h : NetCsrOnly s t) (q : Nat) : t.spill q = s.spill q := by
  rw [h.frame]
  rfl

/-! HELLO and ACK (R331, R333). -/

theorem State.putHello_paused (paused : s.classPaused (s.conn k).port 0 3 = true) : s.putHello k = s := if_pos paused

theorem State.putHello_free (free : s.classPaused (s.conn k).port 0 3 = false) : s.putHello k =
    (s.setConn k { s.conn k with helloAt := s.linkTime + 1 }).sendHw k 4 (s.barePacket k false false) := if_neg (by simp [free])

/-- A HELLO that leaves a port whose class TC3 is not paused. -/
theorem State.putHello_leaves (free : s.classPaused (s.conn k).port 0 3 = false) : NetCsrOnly s (s.putHello k) ∧
    (s.putHello k).conn k = { s.conn k with helloAt := s.linkTime + 1, out := some (4, s.barePacket k false false) } := by
  rw [State.putHello_free free]
  refine ⟨(NetCsrOnly.refl s).setConn.sendHw, ?_⟩
  rw [State.conn_sendHw, State.conn_setConn_same]

/-- Whether or not a HELLO leaves, the rest of its connection stays. -/
theorem State.conn_putHello : (s.putHello k).conn k =
    { s.conn k with helloAt := ((s.putHello k).conn k).helloAt, out := ((s.putHello k).conn k).out } := by
  cases free : s.classPaused (s.conn k).port 0 3
  · rw [(State.putHello_leaves free).2]
  · rw [State.putHello_paused free]

/-- An ACK under a pause of its class stays due. -/
theorem State.putAck_paused {nak : Bool} (paused : s.classPaused (s.conn k).port 0 3 = true) : s.putAck k nak =
    s.setConn k { s.conn k with ackAt := min (s.conn k).ackAt s.linkTime, nakDue := (s.conn k).nakDue || nak } := if_pos paused

/-- An ACK that leaves. -/
theorem State.putAck_leaves {nak : Bool} (free : s.classPaused (s.conn k).port 0 3 = false) : NetCsrOnly s (s.putAck k nak) ∧
    (s.putAck k nak).conn k = { s.conn k with ceEcho := false, nakDue := false, commits := 0, ackAt := s.linkTime + 1000000,
                                              out := some (2, s.barePacket k (s.conn k).ceEcho (nak || (s.conn k).nakDue)) } := by
  have leaves : s.putAck k nak =
      (s.setConn k { s.conn k with ceEcho := false, nakDue := false, commits := 0, ackAt := s.linkTime + 1000000 }).sendHw k 2
        (s.barePacket k (s.conn k).ceEcho (nak || (s.conn k).nakDue)) := if_neg (by simp [free])
  rw [leaves]
  refine ⟨(NetCsrOnly.refl s).setConn.sendHw, ?_⟩
  rw [State.conn_sendHw, State.conn_setConn_same]

/-! Acknowledgments (R333). -/

/-- From s to t only connection k's send window and the reader of its send queue move. -/
structure AckOnly (k : Nat) (s t : State) : Prop where
  frame : t = { s with net := { s.net with conns := t.net.conns }, hbm := { s.hbm with spillq := t.hbm.spillq } }
  conn : t.conn k = { s.conn k with
    winadv := (t.conn k).winadv, acked := (t.conn k).acked, packets := (t.conn k).packets, timeouts := (t.conn k).timeouts
    qAt := (t.conn k).qAt, next := (t.conn k).next }
  spill : ∀ q, q ≠ sendQ k → t.spill q = s.spill q

theorem AckOnly.setConn {x : Conn} (conn : x = { s.conn k with
    winadv := x.winadv, acked := x.acked, packets := x.packets, timeouts := x.timeouts, qAt := x.qAt, next := x.next }) :
    AckOnly k s (s.setConn k x) := by
  refine ⟨rfl, ?_, fun _ _ => rfl⟩
  rw [State.conn_setConn_same]
  exact conn

theorem State.onAck_only {a : W32} {w : W16} : AckOnly k s (s.onAck k a w) := by
  unfold State.onAck
  extract_lets old n x rest q at_
  split
  · exact .setConn rfl
  · refine ⟨rfl, ?_, fun _ other => State.spill_setSpill_ne other⟩
    rw [State.conn_setConn_same]

theorem State.winadv_onAck {a : W32} {w : W16} : ((s.onAck k a w).conn k).winadv = w.toNat := by
  unfold State.onAck
  dsimp only
  split <;> rw [State.conn_setConn_same]

/-- An ACK of what has been built moves the ACK point. -/
theorem State.acked_onAck {a : W32} {w : W16} (new : 0 < (a - (s.conn k).acked).toNat)
    (built : (a - (s.conn k).acked).toNat ≤ ((s.conn k).built - (s.conn k).acked).toNat) :
    ((s.onAck k a w).conn k).acked = a ∧ ((s.onAck k a w).conn k).timeouts = 0 := by
  unfold State.onAck
  dsimp only
  rw [if_neg (by omega), State.conn_setConn_same]
  exact ⟨rfl, rfl⟩

/-! Reads of the send queue (R330, R334). -/

/-- From s to t only HBM's marks, counts and the log differ, and no byte of memory. -/
structure ReadOnly (s t : State) : Prop where
  only : HbmOnly s t
  mem : t.mem = s.mem

theorem ReadOnly.refl (s : State) : ReadOnly s s := ⟨.refl s, rfl⟩
theorem ReadOnly.readGranule {g : Nat} (h : ReadOnly r s) : ReadOnly r (s.readGranule g).1 := ⟨h.only.readGranule, State.mem_readGranule.trans h.mem⟩

theorem ReadOnly.conn (h : ReadOnly s t) (k : Nat) : t.conn k = s.conn k := by
  rw [h.only.frame]
  rfl

theorem ReadOnly.net (h : ReadOnly s t) : t.net = s.net := by rw [h.only.frame]
theorem ReadOnly.beat (h : ReadOnly s t) : t.beat = s.beat := by rw [h.only.frame]

theorem State.readPacket_only {p : HwSent} : ReadOnly s (s.readPacket k p).1 := by
  have reads : ReadOnly s ((List.range (hwGranules p.len)).foldl (fun (s, l, b) i =>
      let (s, g, x) := s.spillPeek (sendQ k) (p.at_ + BitVec.ofNat 40 i)
      (s, l ++ g, b || x)) ((s, [], false) : State × List Byte × Bool)).1 :=
    List.foldlRecOn (motive := fun y : State × List Byte × Bool => ReadOnly s y.1) _ _ (.refl s) fun y hy _ _ => hy.readGranule
  exact reads

/-! Transmission (R330, R331). -/

/-- A packet that no INJECT touches leaves, and the next is due. -/
theorem State.transmit_leaves {p : HwSent} (idle : tget z0 s.net.inject (s.conn k).port = 0) : ∃ y,
    ((s.transmit k p).conn k).next = (s.conn k).next + 1 ∧ ((s.transmit k p).conn k).out = some (if p.ctrl then 3 else 1, y) ∧
      y.psn = p.psn ∧ y.ackpsn = (s.conn k).expect ∧ y.retx = decide (0 < p.times) ∧ y.beat = s.beat ∧ y.crcOk = true ∧
      (s.transmit k p).mem = s.mem ∧ (s.transmit k p).jobs = s.jobs := by
  have read : ReadOnly s (s.readPacket k p).1 := State.readPacket_only
  unfold State.transmit
  generalize s.readPacket k p = z at read ⊢
  obtain ⟨u, data, bad⟩ := z
  have unarmed : (if p.ctrl then 0 else tget z0 u.net.inject (u.conn k).port) = 0 := by
    rw [read.net, read.conn, idle, ite_self]
  simp only [unarmed, Nat.zero_testBit, if_true, Bool.false_eq_true, if_false]
  have counted : ReadOnly s (if 0 < p.times then u.bump (rg (fnEth (u.conn k).port) 0x078) 63 0 1 else u) := by
    split
    · exact ⟨read.only.bump (by unfold rg fnChip fnEth; omega), read.mem⟩
    · exact read
  generalize (if 0 < p.times then u.bump (rg (fnEth (u.conn k).port) 0x078) 63 0 1 else u) = v at counted ⊢
  have sent {x : Conn} {type : Nat} {y : HwPacket} : NetCsrOnly v ((v.setConn k x).sendHw k type y) := (NetCsrOnly.refl v).setConn.sendHw
  rw [State.conn_sendHw, State.conn_setConn_same]
  refine ⟨_, congrArg (fun x : Conn => x.next + 1) (read.conn k), rfl, rfl, congrArg Conn.expect (read.conn k), rfl, read.beat, rfl, ?_, ?_⟩
  · rw [sent.frame]
    exact counted.mem
  · rw [sent.frame]
    exact counted.only.units.jobs

end Sys2Proof.Machine
end

/-! PROOFS. O48: the sender of a Hawser connection: HAWSER_TRANSMIT, HAWSER_ACK_RX, HAWSER_HELLO_RX, HAWSER_RTO and HAWSER_ACK_TIMER
(R331, R333). -/
section
namespace Sys2Proof.Machine

variable {s t : State}

/-! HAWSER_TRANSMIT. -/

section
variable {k : ConnId}

theorem exec_hawserTransmit_silent (h : s.connUsed k = false ∨ (s.conn k).state = 3 ∨ s.portReady (s.conn k).port 0 = false) :
    exec (.hawserTransmit k) s = .next s := if_pos (by simpa using h)

theorem exec_hawserTransmit_closed (used : s.connUsed k = true) (ready : s.portReady (s.conn k).port 0 = true)
    (closed : (s.conn k).state = 0) : exec (.hawserTransmit k) s = .next (s.putHello k) :=
  (if_neg (by simp [used, ready, closed])).trans (if_pos closed)

/-- The packet that a connection has to send next is held by its window, its pace or PFC. -/
def State.holdsPacket (s : State) (k : Nat) (p : HwSent) : Prop :=
  min (s.connWin k) (s.conn k).winadv ≤ ((s.conn k).next - (s.conn k).acked).toNat ∨ (p.ctrl = false ∧ s.linkTime < (s.conn k).paceAt) ∨
    s.classPaused (s.conn k).port 0 (if p.ctrl then 3 else 2) = true

theorem State.buildCtrl_none {k : Nat} (h : (s.conn k).ctl = []) : s.buildCtrl k = s := if_pos (.inl (by rw [h]; rfl))

/-- With no control message and no stream for it, an open connection has the packets of its send queue to send. -/
theorem exec_hawserTransmit_open (used : s.connUsed k = true) (ready : s.portReady (s.conn k).port 0 = true)
    (opened : (s.conn k).state = 1 ∨ (s.conn k).state = 2) (ctl : (s.conn k).ctl = [])
    (streams : ∀ i, i < 64 → (s.planByte i 3).testBit 2 = false ∨ s.planByte i 0x0D ≠ k.val) :
    ((s.conn k).packets.find? (fun p => p.psn == (s.conn k).next) = none → exec (.hawserTransmit k) s = .next s) ∧
    (∀ p, (s.conn k).packets.find? (fun p => p.psn == (s.conn k).next) = some p →
      (s.holdsPacket k p → exec (.hawserTransmit k) s = .next s) ∧
      (¬ s.holdsPacket k p → exec (.hawserTransmit k) s = .next (s.transmit k p))) := by
  have packed : (List.range 64).foldl (fun s i =>
      if (s.planByte i 3).testBit 2 && s.planByte i 0x0D == k.val then s.packetize i (s.waitingPackets i) else s) s = s := by
    refine List.foldlRecOn (motive := fun t : State => t = s) _ _ rfl fun t ht i hi => ?_
    rw [ht]
    rcases streams i (List.mem_range.1 hi) with h | h
    · rw [h]
      rfl
    · rw [beq_false_of_ne h, Bool.and_false]
      rfl
  change (∀ _, execHawserTransmit k s = _) ∧ ∀ p, _ → (_ → execHawserTransmit k s = _) ∧ (_ → execHawserTransmit k s = _)
  unfold execHawserTransmit
  rw [if_neg (by simp only [used, ready]; rcases opened with h | h <;> simp [h]), if_neg (by rcases opened with h | h <;> simp [h]),
    State.buildCtrl_none ctl]
  dsimp only
  rw [packed]
  refine ⟨fun none => by rw [none], fun p next => ?_⟩
  rw [next]
  refine ⟨fun held => if_pos ?_, fun free => if_neg ?_⟩
  · simpa [State.holdsPacket] using held
  · simpa [State.holdsPacket] using free

end

/-! HAWSER_ACK_RX. -/

/-- An ACK for connection k is taken. -/
def State.takeAck (s : State) (k : Nat) (pkt : HwPacket) : State :=
  let s := (s.setConn k { s.conn k with heard := s.linkTime }).onAck k pkt.ackpsn pkt.winadv
  let s := if pkt.ceEcho then s.cutFlow (.conn (Fin.ofNat 64 k)) else s
  if pkt.nak then s.setConn k { s.conn k with next := (s.conn k).acked } else s

section
variable {e : PortId} {bytes : List Byte} {ce : Bool} {n : Nat} {pkt : HwPacket}

theorem exec_hawserAckRx_none (none : s.hwTake e 2 bytes ce = none) : exec (.hawserAckRx e ⟨bytes, ce⟩) s = .next s := by
  change execHawserAckRx e ⟨bytes, ce⟩ s = _
  simp only [execHawserAckRx, none]

theorem exec_hawserAckRx_dropped (taken : s.hwTake e 2 bytes ce = some (n, pkt)) (h : pkt.crcOk = false ∨ (s.conn n).state = 0) :
    exec (.hawserAckRx e ⟨bytes, ce⟩) s = .next s := by
  change execHawserAckRx e ⟨bytes, ce⟩ s = _
  simp only [execHawserAckRx, taken]
  exact if_pos (by simpa using h)

theorem exec_hawserAckRx_taken (taken : s.hwTake e 2 bytes ce = some (n, pkt)) (good : pkt.crcOk = true) (some : (s.conn n).state ≠ 0) :
    exec (.hawserAckRx e ⟨bytes, ce⟩) s = .next (s.takeAck n pkt) := by
  change execHawserAckRx e ⟨bytes, ce⟩ s = _
  simp only [execHawserAckRx, taken]
  exact if_neg (by simp [good, some])

end

theorem AckOnly.linkTime {k : Nat} (h : AckOnly k s t) : t.linkTime = s.linkTime := by
  rw [h.frame]
  rfl

theorem State.cutFlow_conn {n : Nat} (hn : n < 64) : s.cutFlow (.conn (Fin.ofNat 64 n)) =
    s.setConn n { s.conn n with pace := (s.conn n).pace.cutAt s.linkTime } := by
  have val : (Fin.ofNat 64 n).val = n := Nat.mod_eq_of_lt hn
  rw [State.cutFlow, val]

theorem State.takeAck_leaves {n : Nat} {pkt : HwPacket} (hn : n < 64) :
    ((s.takeAck n pkt).conn n).heard = s.linkTime ∧ ((s.takeAck n pkt).conn n).winadv = pkt.winadv.toNat ∧
      (0 < (pkt.ackpsn - (s.conn n).acked).toNat → (pkt.ackpsn - (s.conn n).acked).toNat ≤ ((s.conn n).built - (s.conn n).acked).toNat →
        ((s.takeAck n pkt).conn n).acked = pkt.ackpsn ∧ ((s.takeAck n pkt).conn n).timeouts = 0) ∧
      ((s.takeAck n pkt).conn n).pace = (if pkt.ceEcho then (s.conn n).pace.cutAt s.linkTime else (s.conn n).pace) ∧
      (pkt.nak = true → ((s.takeAck n pkt).conn n).next = ((s.takeAck n pkt).conn n).acked) ∧
      s.takeAck n pkt = { s with net := (s.takeAck n pkt).net, hbm := (s.takeAck n pkt).hbm } := by
  have only : AckOnly n (s.setConn n { s.conn n with heard := s.linkTime })
      ((s.setConn n { s.conn n with heard := s.linkTime }).onAck n pkt.ackpsn pkt.winadv) := State.onAck_only
  have winadv := State.winadv_onAck (s := s.setConn n { s.conn n with heard := s.linkTime }) (k := n) (a := pkt.ackpsn) (w := pkt.winadv)
  have covers := State.acked_onAck (s := s.setConn n { s.conn n with heard := s.linkTime }) (k := n) (a := pkt.ackpsn) (w := pkt.winadv)
  unfold State.takeAck
  generalize (s.setConn n { s.conn n with heard := s.linkTime }).onAck n pkt.ackpsn pkt.winadv = v at only winadv covers
  have conn := only.conn
  rw [State.conn_setConn_same] at conn covers
  have time : v.linkTime = s.linkTime := only.linkTime
  have frame : v = { s with net := v.net, hbm := v.hbm } := by
    have f := only.frame
    rw [f]
    rfl
  have heard : (v.conn n).heard = s.linkTime := by rw [conn]
  have pace : (v.conn n).pace = (s.conn n).pace := by rw [conn]
  dsimp only
  rw [State.cutFlow_conn hn, time]
  have cut : (if pkt.ceEcho then v.setConn n { v.conn n with pace := (v.conn n).pace.cutAt s.linkTime } else v).conn n =
      { v.conn n with pace := if pkt.ceEcho then (s.conn n).pace.cutAt s.linkTime else (s.conn n).pace } := by
    rw [← pace]
    split
    · exact State.conn_setConn_same
    · rfl
  have cutFrame : (if pkt.ceEcho then v.setConn n { v.conn n with pace := (v.conn n).pace.cutAt s.linkTime } else v) =
      { s with net := (if pkt.ceEcho then v.setConn n { v.conn n with pace := (v.conn n).pace.cutAt s.linkTime } else v).net, hbm := v.hbm } := by
    rw [frame]
    split <;> rfl
  generalize (if pkt.ceEcho then v.setConn n { v.conn n with pace := (v.conn n).pace.cutAt s.linkTime } else v) = w at cut cutFrame ⊢
  cases pkt.nak
  · rw [if_neg Bool.false_ne_true, cut]
    exact ⟨heard, winadv, covers, rfl, fun h => absurd h Bool.false_ne_true, by rw [cutFrame]⟩
  · rw [if_pos rfl, State.conn_setConn_same, cut]
    exact ⟨heard, winadv, covers, rfl, fun _ => rfl, by rw [cutFrame]; rfl⟩

/-! HAWSER_HELLO_RX. -/

/-- A connection that has heard a HELLO. -/
def State.heardHello (s : State) (n : Nat) (pkt : HwPacket) : Conn :=
  { s.conn n with far := pkt.sconn, winadv := pkt.winadv.toNat, heard := s.linkTime }

/-- The answer to a HELLO of its own gives a closed connection a round trip, and the eighth opens it. -/
def State.measured (s : State) (n : Nat) (pkt : HwPacket) : Conn :=
  let x := s.heardHello n pkt
  let x : Conn := { x with hellos := x.hellos + 1, rttSum := x.rttSum + (s.linkTime - (x.helloAt - 1)) }
  if x.hellos < 8 then x
  else { x with state := 1, srtt := BitVec.ofNat 32 (x.rttSum / 8), pace := openPace (s.lineRate x.port) s.linkTime, ackAt := s.linkTime + 1000000 }

section
variable {e : PortId} {bytes : List Byte} {ce : Bool} {n : Nat} {pkt : HwPacket}

theorem exec_hawserHelloRx_none (none : s.hwTake e 4 bytes ce = none) : exec (.hawserHelloRx e bytes ce) s = .next s := by
  change execHawserHelloRx e bytes ce s = _
  simp only [execHawserHelloRx, none]

theorem exec_hawserHelloRx_bad (taken : s.hwTake e 4 bytes ce = some (n, pkt)) (bad : pkt.crcOk = false) :
    exec (.hawserHelloRx e bytes ce) s = .next s := by
  change execHawserHelloRx e bytes ce s = _
  simp only [execHawserHelloRx, taken]
  exact if_pos (by simp [bad])

theorem exec_hawserHelloRx_good (taken : s.hwTake e 4 bytes ce = some (n, pkt)) (good : pkt.crcOk = true) :
    exec (.hawserHelloRx e bytes ce) s =
      .next ((s.setConn n (if (s.conn n).state ≠ 0 ∨ (s.conn n).helloAt = 0 then s.heardHello n pkt else s.measured n pkt)).putHello n) := by
  change execHawserHelloRx e bytes ce s = _
  simp only [execHawserHelloRx, taken]
  refine (if_neg (by simp [good])).trans ?_
  by_cases measures : (s.conn n).state ≠ 0 ∨ (s.conn n).helloAt = 0
  · exact (if_pos measures).trans (by rw [if_pos measures]; rfl)
  · exact (if_neg measures).trans (by rw [if_neg measures]; rfl)

end

/-- A HELLO leaves what it gives its connection. -/
theorem State.conn_helloed {n : Nat} {x : Conn} : ((s.setConn n x).putHello n).conn n =
    { x with helloAt := (((s.setConn n x).putHello n).conn n).helloAt, out := (((s.setConn n x).putHello n).conn n).out } := by
  have h := State.conn_putHello (s := s.setConn n x) (k := n)
  rw [State.conn_setConn_same] at h
  exact h

theorem State.measured_heard {n : Nat} {pkt : HwPacket} : (s.measured n pkt).far = pkt.sconn ∧ (s.measured n pkt).heard = s.linkTime := by
  unfold State.measured
  dsimp only
  split
  · exact ⟨rfl, rfl⟩
  · exact ⟨rfl, rfl⟩

/-- The eighth round trip opens a closed connection. -/
theorem State.measured_opens {n : Nat} {pkt : HwPacket} (closed : (s.conn n).state = 0) (few : (s.conn n).hellos < 8) :
    (s.measured n pkt).hellos = (s.conn n).hellos + 1 ∧ (s.measured n pkt).state = (if (s.conn n).hellos = 7 then 1 else 0) ∧
      ((s.conn n).hellos = 7 → (s.measured n pkt).srtt = BitVec.ofNat 32 (((s.conn n).rttSum + (s.linkTime - ((s.conn n).helloAt - 1))) / 8) ∧
        (s.measured n pkt).pace = openPace (s.lineRate (s.conn n).port) s.linkTime) := by
  unfold State.measured State.heardHello
  dsimp only
  by_cases last : (s.conn n).hellos = 7
  · rw [if_neg (by omega), if_pos last]
    exact ⟨rfl, rfl, fun _ => ⟨rfl, rfl⟩⟩
  · rw [if_pos (by omega), if_neg last]
    exact ⟨rfl, closed, fun h => absurd h last⟩

/-! HAWSER_RTO and HAWSER_ACK_TIMER. -/

section
variable {k : ConnId}

theorem exec_hawserRto_none (h : s.connOpen k = false ∨ (s.conn k).packets = [] ∨ s.linkTime < (s.conn k).qAt + (s.conn k).rto) :
    exec (.hawserRto k) s = .next s := if_pos (by simpa using h)

/-- A connection that waits for its acknowledgments goes back; at its eighth timeout in a row it is DOWN. -/
theorem exec_hawserRto_late (opened : s.connOpen k = true) (waits : (s.conn k).packets ≠ [])
    (late : (s.conn k).qAt + (s.conn k).rto ≤ s.linkTime) : ∃ t, exec (.hawserRto k) s = .next t ∧ (t.conn k).next = (s.conn k).acked ∧
      (t.conn k).state = (if (s.conn k).timeouts < 7 then (s.conn k).state else 3) := by
  have asked : ¬ ((!s.connOpen k) = true ∨ (s.conn k).packets.isEmpty = true ∨ s.linkTime < (s.conn k).qAt + (s.conn k).rto) := by
    simp [opened, waits, late]
  by_cases few : (s.conn k).timeouts < 7
  · refine ⟨_, (if_neg asked).trans (if_pos (Nat.add_lt_add_right few 1)), ?_⟩
    rw [State.conn_setConn_same, if_pos few]
    exact ⟨rfl, rfl⟩
  · refine ⟨_, (if_neg asked).trans (if_neg fun h => few (Nat.lt_of_add_lt_add_right h)), ?_⟩
    rw [((SpreadKept.refl _).reportPeer).conns, State.conn_setConn_same, if_neg few]
    exact ⟨rfl, rfl⟩

theorem exec_hawserAckTimer_none (h : s.connOpen k = false ∨ s.linkTime < (s.conn k).ackAt) : exec (.hawserAckTimer k) s = .next s := by
  refine if_neg ?_
  rcases h with h | h
  · simp [h]
  · simp [Nat.not_le.2 h]

theorem exec_hawserAckTimer_due (opened : s.connOpen k = true) (due : (s.conn k).ackAt ≤ s.linkTime) :
    exec (.hawserAckTimer k) s = .next (s.putAck k false) := if_pos (by simp [opened, due])

end

/-- Settles O48: each command by its equations, with what HELLOs, ACKs, transmitted packets and reported peers leave. -/
theorem hawserSendsWithinItsWindow : Obligations.HawserSendsWithinItsWindow := by
  unfold Obligations.HawserSendsWithinItsWindow
  intro s k e bytes ce x now
  refine ⟨exec_hawserTransmit_silent, fun used ready => ⟨fun closed paused => ?_, fun closed free => ?_, fun opened ctl streams => ?_⟩,
    exec_hawserAckRx_none, fun n pkt taken => ⟨exec_hawserAckRx_dropped taken, fun good some hn => ?_⟩, exec_hawserHelloRx_none,
    fun n pkt taken => ⟨exec_hawserHelloRx_bad taken, fun good => ?_⟩, exec_hawserRto_none, exec_hawserRto_late, exec_hawserAckTimer_none,
    fun opened due => ⟨fun free => ?_, fun paused => ?_⟩⟩
  · rw [exec_hawserTransmit_closed used ready closed, State.putHello_paused paused]
  · obtain ⟨only, conn⟩ := State.putHello_leaves free
    exact ⟨_, exec_hawserTransmit_closed used ready closed, by rw [conn], by rw [conn], only.frame⟩
  · obtain ⟨none, next⟩ := exec_hawserTransmit_open used ready opened ctl streams
    refine ⟨none, fun p found => ⟨(next p found).1, fun free idle => ?_⟩⟩
    obtain ⟨y, leaves⟩ := State.transmit_leaves (p := p) idle
    exact ⟨_, y, (next p found).2 free, leaves⟩
  · exact ⟨_, exec_hawserAckRx_taken taken good some, State.takeAck_leaves hn⟩
  · refine ⟨_, exec_hawserHelloRx_good taken good, ?_⟩
    by_cases measures : (s.conn n).state ≠ 0 ∨ (s.conn n).helloAt = 0
    · rw [if_pos measures, State.conn_helloed]
      exact ⟨rfl, rfl, fun _ => ⟨rfl, rfl⟩, fun closed hello => absurd measures (not_or.2 ⟨not_not.2 closed, hello⟩)⟩
    · obtain ⟨far, heard⟩ := State.measured_heard (s := s) (n := n) (pkt := pkt)
      rw [if_neg measures, State.conn_helloed]
      exact ⟨far, heard, fun h => absurd h measures, fun closed _ few => State.measured_opens closed few⟩
  · obtain ⟨-, conn⟩ := State.putAck_leaves (nak := false) free
    exact ⟨_, exec_hawserAckTimer_due opened due, by rw [conn], by rw [conn]; rfl⟩
  · refine ⟨_, exec_hawserAckTimer_due opened due, ?_⟩
    rw [State.putAck_paused paused, State.conn_setConn_same]
    exact ⟨min_eq_left due, Bool.or_false _, rfl⟩

end Sys2Proof.Machine
end

/-! PROOFS. What accesses to HBM and the log leave of a register of the chip, of PWR, CLK, SEC or SCH; and what a Hawser receiver's
operations leave (R332, R334): the units, the braid, the generation and what the connection has received. -/
section
namespace Sys2Proof.Machine

variable {r s t : State} {k : Nat}

/-! A register below those of the log and HBM. -/

/-- From s to t register k stays. -/
structure RegKept (k : Nat) (s t : State) : Prop where
  rd : t.rd k = s.rd k

theorem RegKept.refl (s : State) : RegKept k s s := ⟨rfl⟩

theorem RegKept.of_csr (h : RegKept k r s) (csr : t.csr = s.csr) : RegKept k r t := by
  constructor
  rw [State.rd, csr]
  exact h.rd

theorem RegKept.setFld {n hi lo v : Nat} (h : RegKept k r s) (other : k ≠ n) : RegKept k r (s.setFld n hi lo v) :=
  ⟨(State.rd_setFld_ne other).trans h.rd⟩

theorem RegKept.bump {n hi lo v : Nat} (h : RegKept k r s) (other : k ≠ n) : RegKept k r (s.bump n hi lo v) := h.setFld other

section
variable (low : k < rg fnLog 0)
include low

theorem RegKept.logPut {e : LogEntry} (h : RegKept k r s) : RegKept k r (s.logPut e) := by
  have counted {x : LogBuf} {o : Nat} : RegKept k r ({ s with log := x }.bump (rg fnLog o) 63 0 1) :=
    RegKept.bump (h.of_csr rfl) (by unfold rg at *; omega)
  unfold State.logPut
  dsimp only
  split
  · exact counted
  · split
    · exact counted.bump (by unfold rg at *; omega)
    · exact counted

theorem RegKept.logWrite {e : LogEntry} (h : RegKept k r s) : RegKept k r (s.logWrite e) := by
  unfold State.logWrite
  split
  · exact h
  · exact h.logPut low

theorem RegKept.report {type sev func : Nat} {job : Option Nat} {b : Body} (h : RegKept k r s) :
    RegKept k r (s.report type sev func job b) := h.logWrite low

theorem RegKept.corrected {func memory : Nat} {job : Option Nat} (h : RegKept k r s) : RegKept k r (s.corrected func memory job) := by
  unfold State.corrected
  dsimp only
  split
  · exact RegKept.logWrite low (h.of_csr rfl)
  · exact h.of_csr rfl

theorem ne_rg_hbm (n o : Nat) : k ≠ rg (fnHbm n) o := by
  unfold rg fnLog at low
  unfold rg fnHbm
  omega

theorem RegKept.readGranule {g : Nat} (h : RegKept k r s) : RegKept k r (s.readGranule g).1 := by
  have counted (o n : Nat) (e : W64) : RegKept k r ((s.bump (rg (fnHbm (g / 0x2000000000)) o) 63 0 1).setPage n e) :=
    (h.bump (ne_rg_hbm low _ _)).of_csr rfl
  unfold State.readGranule
  split
  · exact h
  · dsimp only
    split
    · exact h
    · exact (counted _ _ _).corrected low
    · have seen := counted 0x048 (pageOf g) (bumpPage (s.page (pageOf g)) 31 16)
      split
      · exact RegKept.report low (seen.of_csr rfl)
      · exact seen.report low

omit low in
theorem RegKept.sealGranule {g : Nat} {poison : Bool} (h : RegKept k r s) : RegKept k r (s.sealGranule g poison) := by
  unfold State.sealGranule
  dsimp only
  split
  · exact h.of_csr rfl
  · split <;> exact h.of_csr rfl

theorem RegKept.writeGranule {a : Nat} {bs : List Byte} {poison : Bool} (h : RegKept k r s) :
    RegKept k r (s.writeGranule a bs poison) := by
  unfold State.writeGranule
  dsimp only
  split
  · exact RegKept.sealGranule (RegKept.of_csr ((h.bump (ne_rg_hbm low _ _)).readGranule low) rfl)
  · exact RegKept.sealGranule (h.of_csr rfl)

end

/-! The receiver of a connection (R332). -/

/-- From s to t the units, the braid, the generation and what connection k has received stay. -/
structure ReceiverKept (k : Nat) (s t : State) : Prop where
  units : UnitsKept s t
  braid : t.braid = s.braid
  gen : RegKept (rg fnSch 0x038) s t
  expect : (t.conn k).expect = (s.conn k).expect
  part : (t.conn k).part = (s.conn k).part

theorem ReceiverKept.refl (s : State) : ReceiverKept k s s := ⟨.refl s, rfl, .refl s, rfl, rfl⟩

theorem ReceiverKept.trans (a : ReceiverKept k r s) (b : ReceiverKept k s t) : ReceiverKept k r t :=
  ⟨a.units.trans b.units, b.braid.trans a.braid, ⟨b.gen.rd.trans a.gen.rd⟩, b.expect.trans a.expect, b.part.trans a.part⟩

theorem ReceiverKept.foldl {α : Type} {f : State → α → State} {l : List α} (hf : ∀ t x, ReceiverKept k r t → ReceiverKept k r (f t x))
    (h : ReceiverKept k r s) : ReceiverKept k r (l.foldl f s) :=
  List.foldlRecOn (motive := ReceiverKept k r) l f h fun t ht x _ => hf t x ht

theorem ReceiverKept.setConn {x : Conn} (h : ReceiverKept k r s) (expect : x.expect = (s.conn k).expect) (part : x.part = (s.conn k).part) :
    ReceiverKept k r (s.setConn k x) := by
  refine h.trans ⟨⟨rfl, rfl⟩, rfl, ⟨rfl⟩, ?_, ?_⟩
  · rw [State.conn_setConn_same, expect]
  · rw [State.conn_setConn_same, part]

theorem ReceiverKept.setSpill {q : Nat} {x : SpillQ} (h : ReceiverKept k r s) : ReceiverKept k r (s.setSpill q x) :=
  h.trans ⟨⟨rfl, rfl⟩, rfl, ⟨rfl⟩, rfl, rfl⟩

theorem ReceiverKept.hbm (h : ReceiverKept k r s) (only : HbmOnly s t) (gen : RegKept (rg fnSch 0x038) s t) : ReceiverKept k r t := by
  refine h.trans ⟨only.units, ?_, gen, ?_, ?_⟩ <;> rw [only.frame] <;> rfl

theorem gen_lt_log : rg fnSch 0x038 < rg fnLog 0 := by decide

theorem ReceiverKept.readGranule {g : Nat} (h : ReceiverKept k r s) : ReceiverKept k r (s.readGranule g).1 :=
  h.hbm (HbmOnly.refl s).readGranule ((RegKept.refl s).readGranule gen_lt_log)

theorem ReceiverKept.writeGranule {a : Nat} {bs : List Byte} {poison : Bool} (h : ReceiverKept k r s) :
    ReceiverKept k r (s.writeGranule a bs poison) :=
  h.hbm (HbmOnly.refl s).writeGranule ((RegKept.refl s).writeGranule gen_lt_log)

theorem ReceiverKept.spillPut {q : Nat} {data : List Byte} {poison : Bool} (h : ReceiverKept k r s) :
    ReceiverKept k r (s.spillPut q data poison) := by
  unfold State.spillPut
  dsimp only
  split
  · exact h.setSpill
  · exact h.writeGranule.setSpill

theorem ReceiverKept.storePacket {type : Nat} {p : HwPacket} (h : ReceiverKept k r s) : ReceiverKept k r (s.storePacket k type p) := by
  unfold State.storePacket
  dsimp only
  split
  · exact h.setSpill.setSpill
  · exact ReceiverKept.foldl (fun _ _ k => k.spillPut) h.setSpill.spillPut

theorem ReceiverKept.sent {e : Nat} (h : ReceiverKept k r s) (sent : SentOnly e s t) : ReceiverKept k r t := by
  have other : rg fnSch 0x038 ≠ rg (fnPort e) 0x048 := by
    unfold rg fnSch fnPort fnEth
    split <;> omega
  exact h.trans ⟨sent.units, by rw [sent.frame], ⟨sent.rd _ other⟩, by rw [sent.conn], by rw [sent.conn]⟩

theorem ReceiverKept.sendHw {type : Nat} {p : HwPacket} (h : ReceiverKept k r s) : ReceiverKept k r (s.sendHw k type p) :=
  (h.setConn (x := { s.conn k with out := some (type, p) }) rfl rfl).sent State.sendHw_sent

theorem ReceiverKept.putAck {nak : Bool} (h : ReceiverKept k r s) : ReceiverKept k r (s.putAck k nak) := by
  unfold State.putAck
  dsimp only
  split
  · exact h.setConn rfl rfl
  · exact ReceiverKept.sendHw (h.setConn rfl rfl)

theorem ReceiverKept.ackSoon (h : ReceiverKept k r s) : ReceiverKept k r (s.ackSoon k) := h.setConn rfl rfl

theorem ReceiverKept.onAck {a : W32} {w : W16} (h : ReceiverKept k r s) : ReceiverKept k r (s.onAck k a w) := by
  have only : AckOnly k s (s.onAck k a w) := State.onAck_only
  have units : UnitsKept s (s.onAck k a w) ∧ (s.onAck k a w).braid = s.braid ∧ (s.onAck k a w).csr = s.csr := by
    rw [only.frame]
    exact ⟨⟨rfl, rfl⟩, rfl, rfl⟩
  exact h.trans ⟨units.1, units.2.1, (RegKept.refl s).of_csr units.2.2, by rw [only.conn], by rw [only.conn]⟩

theorem ReceiverKept.bumpEth {e o hi lo n : Nat} (h : ReceiverKept k r s) : ReceiverKept k r (s.bump (rg (fnEth e) o) hi lo n) :=
  h.trans ⟨⟨rfl, rfl⟩, rfl, (RegKept.refl s).bump (by unfold rg fnSch fnEth; omega), rfl, rfl⟩

theorem ReceiverKept.hwStale {p : HwPacket} (h : ReceiverKept k s t) : t.hwStale p = s.hwStale p := by
  unfold State.hwStale State.jobDefined State.jobRec State.recs
  simp only [h.units.job, h.braid]

/-! What it has committed (R332). -/

theorem State.committed_spillPut {q : Nat} {data : List Byte} {poison : Bool} : ((s.spillPut q data poison).spill q).c = (s.spill q).c := by
  unfold State.spillPut
  dsimp only
  split <;> rw [State.spill_setSpill_same]

/-- A packet that is stored is not yet committed. -/
theorem State.committed_storePacket {type : Nat} {p : HwPacket} :
    ((s.storePacket k type p).spill (recvQ k)).c = (s.spill (recvQ k)).c := by
  have rewound : ((s.spillRewind (recvQ k)).spill (recvQ k)).c = (s.spill (recvQ k)).c := by
    unfold State.spillRewind
    rw [State.spill_setSpill_same]
  unfold State.storePacket
  dsimp only
  split
  · rw [State.spill_setSpill_same]
    exact rewound
  · refine List.foldlRecOn (motive := fun t : State => (t.spill (recvQ k)).c = (s.spill (recvQ k)).c) _ _ ?_ fun t ht _ _ => ?_
    · exact State.committed_spillPut.trans rewound
    · exact State.committed_spillPut.trans ht

/-- A packet that has been refused: the receiver is as before, and nothing of the packet stays in its queue. -/
structure PacketRefused (k : Nat) (s t : State) : Prop where
  kept : ReceiverKept k s t
  writer : (t.spill (recvQ k)).p = (s.spill (recvQ k)).c

theorem recvQ_ne_sendQ : recvQ k ≠ sendQ k := by
  unfold recvQ sendQ
  omega

theorem PacketRefused.bumpEth {e o hi lo n : Nat} (h : PacketRefused k r s) : PacketRefused k r (s.bump (rg (fnEth e) o) hi lo n) :=
  ⟨h.kept.bumpEth, h.writer⟩

theorem PacketRefused.ackSoon (h : PacketRefused k r s) : PacketRefused k r (s.ackSoon k) := ⟨h.kept.ackSoon, h.writer⟩

theorem PacketRefused.onAck {a : W32} {w : W16} (h : PacketRefused k r s) : PacketRefused k r (s.onAck k a w) := by
  refine ⟨h.kept.onAck, ?_⟩
  rw [State.onAck_only.spill _ recvQ_ne_sendQ]
  exact h.writer

theorem PacketRefused.putAck {nak : Bool} (h : PacketRefused k r s) : PacketRefused k r (s.putAck k nak) := by
  refine ⟨h.kept.putAck, ?_⟩
  cases paused : s.classPaused (s.conn k).port 0 3
  · rw [(State.putAck_leaves paused).1.spill]
    exact h.writer
  · rw [State.putAck_paused paused]
    exact h.writer

/-! A packet that is committed (R332, R334). -/

theorem Mem.length_bytes {m : Mem} {a n : Nat} : (m.bytes a n).length = n := by
  induction n generalizing a with
  | zero => rfl
  | succ n ih => exact congrArg (· + 1) ih

/-- Granule i from n of a queue is read after those of y. -/
def State.peekNext (q : Nat) (n : BitVec 40) (y : State × List Byte × Bool) (i : Nat) : State × List Byte × Bool :=
  let z := y.1.spillPeek q (n + BitVec.ofNat 40 i)
  (z.1, y.2.1 ++ z.2.1, y.2.2 || z.2.2)

theorem State.commitPacket_eq {p : HwPacket} : s.commitPacket k p =
    let s := s.spillCommit (recvQ k)
    let y := (List.range (hwGranules p.payload.length)).foldl (State.peekNext (recvQ k) (s.spill (recvQ k)).q) (s, [], false)
    (y.1.setSpill (recvQ k) { y.1.spill (recvQ k) with q := (y.1.spill (recvQ k)).c },
      ((y.2.1.drop 64).take p.payload.length).map (·, y.2.2)) := rfl

theorem ReceiverKept.peekNext {q : Nat} {n : BitVec 40} {y : State × List Byte × Bool} {l : List Nat} (h : ReceiverKept k r y.1) :
    ReceiverKept k r (l.foldl (State.peekNext q n) y).1 :=
  List.foldlRecOn (motive := fun y : State × List Byte × Bool => ReceiverKept k r y.1) _ _ h fun _ hy _ _ => hy.readGranule

theorem State.length_peekNext {q : Nat} {n : BitVec 40} {y : State × List Byte × Bool} {l : List Nat} :
    (l.foldl (State.peekNext q n) y).2.1.length = y.2.1.length + 64 * l.length := by
  induction l generalizing y with
  | nil => rfl
  | cons i l ih =>
    have next : (State.peekNext q n y i).2.1.length = y.2.1.length + 64 := by
      unfold State.peekNext State.spillPeek
      exact (List.length_append ..).trans (congrArg _ Mem.length_bytes)
    rw [List.foldl_cons, ih, next, List.length_cons]
    omega

theorem State.commitPacket_kept {p : HwPacket} : ReceiverKept k s (s.commitPacket k p).1 := by
  rw [State.commitPacket_eq]
  exact (ReceiverKept.peekNext (ReceiverKept.refl s).setSpill).setSpill

/-- A packet's payload is read in its whole length. -/
theorem State.length_commitPacket {p : HwPacket} : (s.commitPacket k p).2.length = p.payload.length := by
  rw [State.commitPacket_eq]
  dsimp only
  rw [List.length_map, List.length_take, List.length_drop, State.length_peekNext, List.length_range]
  unfold hwGranules cdiv
  simp only [List.length_nil]
  omega

end Sys2Proof.Machine
end

/-! PROOFS. O49: a Hawser receiver and a reduction engine's beat (R332, R333, R335 to R337, R441). -/
section
namespace Sys2Proof.Machine

variable {s t : State}

/-! Reception. -/

/-- Connection k has heard a packet. -/
def State.hearPacket (s : State) (k : Nat) (p : HwPacket) : State :=
  let s := s.setConn k { s.conn k with heard := s.linkTime, ceEcho := (s.conn k).ceEcho || p.ceMark }
  if p.ceMark then s.ackSoon k else s

/-- The packet heard stands in the receive queue. -/
def State.heardPacket (s : State) (k type : Nat) (p : HwPacket) : State := (s.hearPacket k p).storePacket k type p

/-- The packet stands in the receive queue no longer. -/
def State.rewoundPacket (s : State) (k type : Nat) (p : HwPacket) : State := (s.heardPacket k type p).spillRewind (recvQ k)

section
variable {k type : Nat} {p : HwPacket}

theorem State.hearPacket_kept : ReceiverKept k s (s.hearPacket k p) := by
  have heard : ReceiverKept k s (s.setConn k { s.conn k with heard := s.linkTime, ceEcho := (s.conn k).ceEcho || p.ceMark }) :=
    (ReceiverKept.refl s).setConn rfl rfl
  unfold State.hearPacket
  dsimp only
  split
  · exact heard.ackSoon
  · exact heard

theorem State.heardPacket_kept : ReceiverKept k s (s.heardPacket k type p) := State.hearPacket_kept.storePacket

theorem State.hwRoom_hearPacket : (s.hearPacket k p).hwRoom k p = s.hwRoom k p := by
  unfold State.hearPacket
  dsimp only
  split <;> rfl

theorem State.spill_hearPacket {q : Nat} : (s.hearPacket k p).spill q = s.spill q := by
  unfold State.hearPacket
  dsimp only
  split <;> rfl

theorem State.rewoundPacket_refused : PacketRefused k s (s.rewoundPacket k type p) := by
  refine ⟨State.heardPacket_kept.setSpill, ?_⟩
  unfold State.rewoundPacket State.spillRewind
  rw [State.spill_setSpill_same]
  refine Eq.trans (b := ((s.heardPacket k type p).spill (recvQ k)).c) rfl ?_
  unfold State.heardPacket
  rw [State.committed_storePacket, State.spill_hearPacket]

section
variable {e : Nat} {use : State → Marked → State}

theorem State.hwReceive_badCrc (bad : p.crcOk = false) :
    s.hwReceive e k type p use = ((s.rewoundPacket k type p).bump (rg (fnEth e) 0x088) 63 0 1).ackSoon k := if_pos (by simp [bad])

theorem State.hwReceive_badPsn (good : p.crcOk = true) (bad : p.psn ≠ (s.conn k).expect) : s.hwReceive e k type p use =
    (let t := ((s.rewoundPacket k type p).onAck k p.ackpsn p.winadv).bump (rg (fnEth e) 0x080) 63 0 1
     if (p.psn - (s.conn k).expect).toNat < 2 ^ 31 then t.putAck k true else t.ackSoon k) := by
  have expect : (((s.heardPacket k type p).onAck k p.ackpsn p.winadv).conn k).expect = (s.conn k).expect := State.heardPacket_kept.onAck.expect
  rw [← expect] at bad ⊢
  exact (if_neg (by simp [good])).trans (if_pos bad)

theorem State.hwReceive_badGen (good : p.crcOk = true) (psn : p.psn = (s.conn k).expect) (bad : p.gen.toNat ≠ s.gen) :
    s.hwReceive e k type p use = (((s.rewoundPacket k type p).onAck k p.ackpsn p.winadv).bump (rg (fnEth e) 0x090) 63 0 1).putAck k true := by
  have kept : ReceiverKept k s ((s.heardPacket k type p).onAck k p.ackpsn p.winadv) := State.heardPacket_kept.onAck
  have gen : ((s.heardPacket k type p).onAck k p.ackpsn p.winadv).gen = s.gen := congrArg (getField · 63 32) kept.gen.rd
  rw [← kept.expect] at psn
  rw [← gen] at bad
  exact (if_neg (by simp [good])).trans ((if_neg (not_not.2 psn)).trans (if_pos bad))

theorem State.hwReceive_stale (good : p.crcOk = true) (psn : p.psn = (s.conn k).expect) (gen : p.gen.toNat = s.gen)
    (stale : s.hwStale p = true) : s.hwReceive e k type p use =
      (((s.rewoundPacket k type p).onAck k p.ackpsn p.winadv).setConn k { ((s.heardPacket k type p).onAck k p.ackpsn p.winadv).conn k with
        expect := (((s.heardPacket k type p).onAck k p.ackpsn p.winadv).conn k).expect + 1 }).ackSoon k := by
  have kept : ReceiverKept k s ((s.heardPacket k type p).onAck k p.ackpsn p.winadv) := State.heardPacket_kept.onAck
  have same : ((s.heardPacket k type p).onAck k p.ackpsn p.winadv).gen = s.gen := congrArg (getField · 63 32) kept.gen.rd
  rw [← kept.expect] at psn
  rw [← same] at gen
  rw [← kept.hwStale] at stale
  exact (if_neg (by simp [good])).trans ((if_neg (not_not.2 psn)).trans ((if_neg (not_not.2 gen)).trans (if_pos stale)))

/-- The state in which the payload of an accepted packet is used. -/
def State.acceptedPacket (s : State) (k type : Nat) (p : HwPacket) : State :=
  let t := (s.heardPacket k type p).onAck k p.ackpsn p.winadv
  let u := (t.commitPacket k p).1
  let v := u.setConn k { u.conn k with expect := (t.conn k).expect + 1, commits := (t.conn k).commits + 1 }
  if 16 ≤ (v.conn k).commits then v.putAck k false else v

theorem State.acceptedPacket_leaves : UnitsKept s (s.acceptedPacket k type p) ∧
    ((s.acceptedPacket k type p).conn k).expect = (s.conn k).expect + 1 ∧ ((s.acceptedPacket k type p).conn k).part = (s.conn k).part := by
  have kept : ReceiverKept k s ((s.heardPacket k type p).onAck k p.ackpsn p.winadv) := State.heardPacket_kept.onAck
  unfold State.acceptedPacket
  generalize (s.heardPacket k type p).onAck k p.ackpsn p.winadv = u at kept
  have committed : ReceiverKept k s (u.commitPacket k p).1 := kept.trans State.commitPacket_kept
  extract_lets t w old v
  have units : UnitsKept s v := ⟨committed.units.cores, committed.units.jobs⟩
  have conn : v.conn k = { w.conn k with expect := (t.conn k).expect + 1, commits := (t.conn k).commits + 1 } := State.conn_setConn_same
  have expect : (v.conn k).expect = (s.conn k).expect + 1 := by
    rw [conn]
    exact congrArg (· + 1) kept.expect
  have part : (v.conn k).part = (s.conn k).part := by
    rw [conn]
    exact committed.part
  split
  · have ack : ReceiverKept k v (v.putAck k false) := (ReceiverKept.refl v).putAck
    exact ⟨units.trans ack.units, ack.expect.trans expect, ack.part.trans part⟩
  · exact ⟨units, expect, part⟩

theorem State.hwReceive_accepted (good : p.crcOk = true) (psn : p.psn = (s.conn k).expect) (gen : p.gen.toNat = s.gen)
    (fresh : s.hwStale p = false) (room : s.hwRoom k p = true) : s.hwReceive e k type p use =
      use (s.acceptedPacket k type p) (((s.heardPacket k type p).onAck k p.ackpsn p.winadv).commitPacket k p).2 := by
  have kept : ReceiverKept k s ((s.heardPacket k type p).onAck k p.ackpsn p.winadv) := State.heardPacket_kept.onAck
  have same : ((s.heardPacket k type p).onAck k p.ackpsn p.winadv).gen = s.gen := congrArg (getField · 63 32) kept.gen.rd
  rw [← kept.expect] at psn
  rw [← same] at gen
  rw [← kept.hwStale] at fresh
  refine (if_neg (by simp [good])).trans ((if_neg (not_not.2 psn)).trans ((if_neg (not_not.2 gen)).trans ((if_neg (Bool.eq_false_iff.1 fresh)).trans
    (if_neg fun full => absurd ((congrArg (! ·) State.hwRoom_hearPacket).symm.trans full) (by simp [room])))))

/-- A packet whose CRC, PSN or generation is wrong is refused. -/
theorem State.hwReceive_refused (bad : p.crcOk = false ∨ p.psn ≠ (s.conn k).expect ∨ p.gen.toNat ≠ s.gen) :
    PacketRefused k s (s.hwReceive e k type p use) := by
  have back : PacketRefused k s (s.rewoundPacket k type p) := State.rewoundPacket_refused
  cases good : p.crcOk
  · rw [State.hwReceive_badCrc good]
    exact back.bumpEth.ackSoon
  · by_cases psn : p.psn = (s.conn k).expect
    · have gen : p.gen.toNat ≠ s.gen := by simpa [good, psn] using bad
      rw [State.hwReceive_badGen good psn gen]
      exact back.onAck.bumpEth.putAck
    · rw [State.hwReceive_badPsn good psn]
      dsimp only
      split
      · exact back.onAck.bumpEth.putAck
      · exact back.onAck.bumpEth.ackSoon

/-- A stale packet is skipped. -/
theorem State.hwReceive_skipped (good : p.crcOk = true) (psn : p.psn = (s.conn k).expect) (gen : p.gen.toNat = s.gen)
    (stale : s.hwStale p = true) : UnitsKept s (s.hwReceive e k type p use) ∧
      ((s.hwReceive e k type p use).conn k).expect = (s.conn k).expect + 1 ∧ ((s.hwReceive e k type p use).conn k).part = (s.conn k).part := by
  have kept : ReceiverKept k s ((s.heardPacket k type p).onAck k p.ackpsn p.winadv) := State.heardPacket_kept.onAck
  have back : ReceiverKept k s ((s.rewoundPacket k type p).onAck k p.ackpsn p.winadv) := State.rewoundPacket_refused.kept.onAck
  rw [State.hwReceive_stale good psn gen stale]
  generalize (s.heardPacket k type p).onAck k p.ackpsn p.winadv = u at kept
  generalize (s.rewoundPacket k type p).onAck k p.ackpsn p.winadv = v at back
  unfold State.ackSoon
  dsimp only
  rw [State.conn_setConn_same, State.conn_setConn_same]
  exact ⟨⟨back.units.cores, back.units.jobs⟩, congrArg (· + 1) kept.expect, kept.part⟩

end

end

/-! HAWSER_DATA_RX and HAWSER_CTRL_RX. -/

/-- A command that receives packets of a TYPE for the connection that takes them, and uses what it accepts. -/
structure ReceivesBy (s : State) (e type : Nat) (bytes : List Byte) (ce : Bool) (i : Instr) (use : Nat → HwPacket → State → Marked → State) :
    Prop where
  none : s.hwTake e type bytes ce = none → exec i s = .next s
  closed {k : Nat} {p : HwPacket} : s.hwTake e type bytes ce = some (k, p) → (s.conn k).state = 0 → exec i s = .next s
  opened {k : Nat} {p : HwPacket} : s.hwTake e type bytes ce = some (k, p) → (s.conn k).state ≠ 0 →
    exec i s = .next (s.hwReceive e k type p (use k p))

/-- The payload of a DATA packet joins its stream's entry, which leaves with its last packet. -/
def useData (k : Nat) (p : HwPacket) (s : State) (m : Marked) : State :=
  let i := p.stream.toNat
  let all := tget noMarked (s.conn k).part i ++ m
  let keep (m : Marked) : State := s.setConn k { s.conn k with part := tput noMarked (s.conn k).part i m }
  if p.last then (keep []).reInput i 2 k all else keep all

/-- The messages of a CTRL packet are processed. -/
def useCtrl (k : Nat) (_ : HwPacket) (s : State) (m : Marked) : State :=
  if m.any (·.2) then s else (ctlOf (m.map (·.1))).foldl (fun s c => s.control (.conn (Fin.ofNat 64 k)) c) s

section
variable {e : PortId} {bytes : List Byte} {ce : Bool}

theorem receivesBy_hawserDataRx : ReceivesBy s e 1 bytes ce (.hawserDataRx e ⟨bytes, ce⟩) useData := by
  constructor
  · intro none
    change execHawserDataRx e ⟨bytes, ce⟩ s = _
    simp only [execHawserDataRx, none]
  · intro k p taken closed
    change execHawserDataRx e ⟨bytes, ce⟩ s = _
    simp only [execHawserDataRx, taken, closed, if_true]
  · intro k p taken opened
    change execHawserDataRx e ⟨bytes, ce⟩ s = _
    simp only [execHawserDataRx, taken, opened, if_false]
    rfl

theorem receivesBy_hawserCtrlRx : ReceivesBy s e 3 bytes ce (.hawserCtrlRx e ⟨bytes, ce⟩) useCtrl := by
  constructor
  · intro none
    change execHawserCtrlRx e ⟨bytes, ce⟩ s = _
    simp only [execHawserCtrlRx, none]
  · intro k p taken closed
    change execHawserCtrlRx e ⟨bytes, ce⟩ s = _
    simp only [execHawserCtrlRx, taken, closed, if_true]
  · intro k p taken opened
    change execHawserCtrlRx e ⟨bytes, ce⟩ s = _
    simp only [execHawserCtrlRx, taken, opened, if_false]
    rfl

end

section
variable {e type k : Nat} {bytes : List Byte} {ce : Bool} {i : Instr} {use : Nat → HwPacket → State → Marked → State} {p : HwPacket}
variable (by_ : ReceivesBy s e type bytes ce i use) (taken : s.hwTake e type bytes ce = some (k, p)) (some : (s.conn k).state ≠ 0)
include by_ taken some

theorem ReceivesBy.refused (bad : p.crcOk = false ∨ p.psn ≠ (s.conn k).expect ∨ p.gen.toNat ≠ s.gen) : ∃ t, exec i s = .next t ∧
    (t.conn k).expect = (s.conn k).expect ∧ (t.conn k).part = (s.conn k).part ∧ (t.spill (recvQ k)).p = (s.spill (recvQ k)).c ∧
    t.jobs = s.jobs ∧ t.cores = s.cores := by
  obtain ⟨kept, writer⟩ := State.hwReceive_refused (e := e) (type := type) (use := use k p) bad
  exact ⟨_, by_.opened taken some, kept.expect, kept.part, writer, kept.units.jobs, kept.units.cores⟩

theorem ReceivesBy.stale (good : p.crcOk = true) (psn : p.psn = (s.conn k).expect) (gen : p.gen.toNat = s.gen) (stale : s.hwStale p = true) :
    ∃ t, exec i s = .next t ∧ (t.conn k).expect = (s.conn k).expect + 1 ∧ (t.conn k).part = (s.conn k).part ∧ t.jobs = s.jobs ∧
      t.cores = s.cores := by
  obtain ⟨units, expect, part⟩ := State.hwReceive_skipped (e := e) (type := type) (use := use k p) good psn gen stale
  exact ⟨_, by_.opened taken some, expect, part, units.jobs, units.cores⟩

theorem ReceivesBy.accepted (good : p.crcOk = true) (psn : p.psn = (s.conn k).expect) (gen : p.gen.toNat = s.gen)
    (fresh : s.hwStale p = false) (room : s.hwRoom k p = true) : ∃ u m, exec i s = .next (use k p u m) ∧ m.length = p.payload.length ∧
      UnitsKept s u ∧ (u.conn k).expect = (s.conn k).expect + 1 ∧ (u.conn k).part = (s.conn k).part :=
  ⟨_, _, (by_.opened taken some).trans (congrArg _ (State.hwReceive_accepted good psn gen fresh room)), State.length_commitPacket,
    State.acceptedPacket_leaves⟩

end

/-- An entry that reaches a stream leaves the units and the connections. -/
theorem State.reInput_leaves {i kind n : Nat} {m : Marked} : UnitsKept s (s.reInput i kind n m) ∧ ∀ k, (s.reInput i kind n m).conn k = s.conn k := by
  unfold State.reInput
  dsimp only
  split
  · exact ⟨.refl s, fun _ => rfl⟩
  · split
    · exact ⟨.refl s, fun _ => rfl⟩
    · exact ⟨⟨rfl, rfl⟩, fun _ => rfl⟩

theorem useData_leaves {k : Nat} {p : HwPacket} {m : Marked} : UnitsKept s (useData k p s m) ∧
    (useData k p s m).conn k = { s.conn k with
      part := tput noMarked (s.conn k).part p.stream.toNat (if p.last then [] else tget noMarked (s.conn k).part p.stream.toNat ++ m) } := by
  unfold useData
  dsimp only
  split
  · obtain ⟨units, conns⟩ := State.reInput_leaves (s := s.setConn k { s.conn k with part := tput noMarked (s.conn k).part p.stream.toNat [] })
      (i := p.stream.toNat) (kind := 2) (n := k) (m := tget noMarked (s.conn k).part p.stream.toNat ++ m)
    exact ⟨⟨units.cores, units.jobs⟩, (conns k).trans State.conn_setConn_same⟩
  · exact ⟨⟨rfl, rfl⟩, State.conn_setConn_same⟩

/-- The entries in the making after a DATA packet. -/
theorem useData_part {k : Nat} {p : HwPacket} {m : Marked} :
    (tget noMarked ((useData k p s m).conn k).part p.stream.toNat).length =
      (if p.last then 0 else (tget noMarked (s.conn k).part p.stream.toNat).length + m.length) ∧
    ∀ i, i ≠ p.stream.toNat → tget noMarked ((useData k p s m).conn k).part i = tget noMarked (s.conn k).part i := by
  rw [useData_leaves.2, tget_tput_same]
  refine ⟨?_, fun i other => tget_tput_ne other⟩
  split
  · rfl
  · exact List.length_append

theorem useCtrl_nil {k : Nat} {p : HwPacket} : useCtrl k p s [] = s := rfl

/-! RE_BEAT (R335 to R337). -/

section
variable {i : Nat} {l : List Marked}

/-- From s to t what stream i has combined and what waits at its inputs stay. -/
structure CombinedKept (i : Nat) (s t : State) : Prop where
  ins : (t.stream i).ins = (s.stream i).ins
  beat : (t.stream i).beat = (s.stream i).beat
  acc : (t.stream i).acc = (s.stream i).acc

theorem CombinedKept.refl (s : State) : CombinedKept i s s := ⟨rfl, rfl, rfl⟩

theorem CombinedKept.of_streams {r : State} (h : CombinedKept i r s) (streams : t.net.streams = s.net.streams) : CombinedKept i r t := by
  have same : t.stream i = s.stream i := congrArg (tget rstream0 · i) streams
  exact ⟨by rw [same, h.ins], by rw [same, h.beat], by rw [same, h.acc]⟩

theorem State.stream_setStream_same {x : RStream} : (s.setStream i x).stream i = x := tget_tput_same

/-- An output entry that waits at stream i. -/
theorem CombinedKept.setOuts {r : State} {outs : Tab (List (Marked × Nat))} (h : CombinedKept i r s) :
    CombinedKept i r (s.setStream i { s.stream i with outs := outs }) := by
  constructor <;> rw [State.stream_setStream_same]
  · exact h.ins
  · exact h.beat
  · exact h.acc

theorem State.streams_receive {j rq : Nat} {m : Marked} : (s.receive j rq m).net.streams = s.net.streams := by
  unfold State.receive
  dsimp only
  split
  · rfl
  · split
    · rfl
    · split
      · rw [((NetKept.refl s).reportStop).net]
      · rfl

theorem CombinedKept.sendOut {r : State} {m : Marked} (h : CombinedKept i r s) : CombinedKept i r (s.sendOut i m) := by
  unfold State.sendOut
  extract_lets out counted received at_ put sent
  have received_kept : CombinedKept i r received := by
    unfold received
    split
    · exact h.of_streams State.streams_receive
    · exact h.of_streams rfl
  have sent_kept : CombinedKept i r sent := by
    unfold sent
    split
    · exact List.foldlRecOn (motive := CombinedKept i r) _ put received_kept fun t ht l _ => ht.setOuts
    · exact received_kept
  split
  · exact sent_kept.setOuts
  · exact sent_kept

/-- The streams, memory and jobs that a beat leaves, and its bytes under FMT = 0. -/
theorem State.beatOut_leaves {b : Nat} : (s.beatOut i b l).1.net = s.net ∧ (s.beatOut i b l).1.mem = s.mem ∧ (s.beatOut i b l).1.jobs = s.jobs ∧
    (s.beatOut i b l).1.braid = s.braid ∧ (s.planByte i 1 = 0 → (s.beatOut i b l).2 = (l.headD []).at (256 * b) 256) := by
  unfold State.beatOut
  dsimp only
  split
  · exact ⟨rfl, rfl, rfl, rfl, fun _ => rfl⟩
  · next sums => exact ⟨rfl, rfl, rfl, rfl, fun copy => absurd copy sums⟩

theorem State.planByte_of_braid {o : Nat} (braid : t.braid = s.braid) : t.planByte i o = s.planByte i o := by
  unfold State.planByte State.rec1 State.recs
  rw [braid]

theorem State.reStep_unequal (unequal : l.any (fun m => m.length != (l.headD []).length) = true) : s.reStep i l = s.reFault i := if_pos unequal

/-- A beat that is not the last. -/
theorem State.reStep_goes_on (equal : l.any (fun m => m.length != (l.headD []).length) = false)
    (more : 256 * ((s.stream i).beat + 1) < outLen (s.planByte i 1) (l.headD []).length) :
    ((s.reStep i l).stream i).beat = (s.stream i).beat + 1 ∧ ((s.reStep i l).stream i).ins = (s.stream i).ins ∧
      (s.planByte i 1 = 0 → ((s.reStep i l).stream i).acc = (s.stream i).acc ++ (l.headD []).at (256 * (s.stream i).beat) 256) ∧
      (s.reStep i l).mem = s.mem ∧ (s.reStep i l).jobs = s.jobs := by
  obtain ⟨-, mem, jobs, braid, copy⟩ := State.beatOut_leaves (s := s) (i := i) (l := l) (b := (s.stream i).beat)
  have fmt : (s.beatOut i (s.stream i).beat l).1.planByte i 1 = s.planByte i 1 := State.planByte_of_braid braid
  rw [← fmt] at more
  have step : s.reStep i l = (s.beatOut i (s.stream i).beat l).1.setStream i { s.stream i with
      beat := (s.stream i).beat + 1, acc := (s.stream i).acc ++ (s.beatOut i (s.stream i).beat l).2 } :=
    (if_neg (Bool.eq_false_iff.1 equal)).trans (if_pos more)
  have stream : (s.reStep i l).stream i = { s.stream i with
      beat := (s.stream i).beat + 1, acc := (s.stream i).acc ++ (s.beatOut i (s.stream i).beat l).2 } := by
    rw [step]
    exact State.stream_setStream_same
  rw [stream]
  refine ⟨rfl, rfl, fun fmt => congrArg ((s.stream i).acc ++ ·) (copy fmt), ?_, ?_⟩
  · rw [step]
    exact mem
  · rw [step]
    exact jobs

theorem tget_foldl_tput {α : Type} [DecidableEq α] {d f : Nat → α} {x : Tab α} {n j : Nat} :
    tget d ((List.range n).foldl (fun x k => tput d x k (f k)) x) j = if j < n then f j else tget d x j := by
  induction n with
  | zero => rfl
  | succ n ih =>
    rw [List.range_succ, List.foldl_append, List.foldl_cons, List.foldl_nil, tget_tput, ih]
    by_cases last : j = n
    · rw [if_pos last, if_pos (by omega), last]
    · rw [if_neg last]
      exact ite_congr (by simp only [eq_iff_iff]; omega) (fun _ => rfl) (fun _ => rfl)

/-- The entries at the inputs of stream i behind their heads. -/
def State.restIns (s : State) (i : Nat) (x : RStream) : Tab (List Marked) :=
  (List.range (s.planIns i)).foldl (fun t j => tput noIns t j ((tget noIns x.ins j).drop 1)) x.ins

theorem State.restIns_drop {x : RStream} {j : Nat} (hj : j < s.planIns i) : tget noIns (s.restIns i x) j = (tget noIns x.ins j).drop 1 := by
  rw [State.restIns, tget_foldl_tput, if_pos hj]

/-- The last beat gives its entry out, and the next entries of the inputs come to their heads. -/
theorem State.reStep_ends (equal : l.any (fun m => m.length != (l.headD []).length) = false)
    (last : outLen (s.planByte i 1) (l.headD []).length ≤ 256 * ((s.stream i).beat + 1)) :
    ((s.reStep i l).stream i).beat = 0 ∧ ((s.reStep i l).stream i).acc = [] ∧
      ∀ j, j < s.planIns i → tget noIns ((s.reStep i l).stream i).ins j = (tget noIns (s.stream i).ins j).drop 1 := by
  obtain ⟨-, -, -, braid, -⟩ := State.beatOut_leaves (s := s) (i := i) (l := l) (b := (s.stream i).beat)
  have fmt : (s.beatOut i (s.stream i).beat l).1.planByte i 1 = s.planByte i 1 := State.planByte_of_braid braid
  rw [← fmt] at last
  have step : s.reStep i l = ((s.beatOut i (s.stream i).beat l).1.setStream i { s.stream i with
      ins := (s.beatOut i (s.stream i).beat l).1.restIns i (s.stream i), beat := 0, acc := [] }).sendOut i
        ((s.stream i).acc ++ (s.beatOut i (s.stream i).beat l).2) :=
    (if_neg (Bool.eq_false_iff.1 equal)).trans (if_neg (Nat.not_lt.2 last))
  have ins : (s.beatOut i (s.stream i).beat l).1.planIns i = s.planIns i := State.planByte_of_braid braid
  rw [step]
  obtain ⟨kept_ins, kept_beat, kept_acc⟩ := (CombinedKept.refl ((s.beatOut i (s.stream i).beat l).1.setStream i { s.stream i with
    ins := (s.beatOut i (s.stream i).beat l).1.restIns i (s.stream i), beat := 0, acc := [] })).sendOut (i := i)
      (m := (s.stream i).acc ++ (s.beatOut i (s.stream i).beat l).2)
  rw [kept_ins, kept_beat, kept_acc, State.stream_setStream_same]
  exact ⟨rfl, rfl, fun j hj => State.restIns_drop (ins.symm ▸ hj)⟩

/-- The network queues of engine r's streams have handed over. -/
def State.inputsHanded (s : State) (r : Nat) : State :=
  (List.range 64).foldl (fun s q => match s.nqStream q with
    | some i => if i / 8 = r then s.handOver q else s
    | none => s) s

/-- The outputs of engine r's streams for connections stand in the send queues. -/
def State.outputsPacked (s : State) (r : Nat) : State :=
  ((List.range 8).map (8 * r + ·)).foldl (fun s i => s.packetize i (s.waitingPackets i)) s

/-- The lowest stream of engine r that has its next beat, and its inputs' heads. -/
def State.nextBeat (s : State) (r : Nat) : Option (Nat × List Marked) :=
  ((List.range 8).map (8 * r + ·)).findSome? (fun k => (s.heads k).map (fun l => (k, l)))

def State.combines (s : State) : Option (Nat × List Marked) → State
  | some (i, l) => s.reStep i l
  | none => s

theorem exec_reBeat {r : Fin 8} : exec (.reBeat r) s =
    .next (((s.inputsHanded r).outputsPacked r).combines (((s.inputsHanded r).outputsPacked r).nextBeat r)) := by
  change execReBeat r s = _
  unfold execReBeat
  change (match ((s.inputsHanded r).outputsPacked r).nextBeat r with
    | some (i, l) => Host.Outcome.next (((s.inputsHanded r).outputsPacked r).reStep i l)
    | none => .next ((s.inputsHanded r).outputsPacked r)) = _
  cases ((s.inputsHanded r).outputsPacked r).nextBeat r <;> rfl

theorem State.inputsHanded_of_none {r : Nat} (queues : ∀ q, q < 64 → s.nqStream q = none) : s.inputsHanded r = s := by
  refine List.foldlRecOn (motive := fun t : State => t = s) _ _ rfl fun t ht q hq => ?_
  rw [ht, queues q (List.mem_range.1 hq)]

theorem State.outputsPacked_of_nil {r : Nat} (outs : ∀ k, k < 8 → tget noOuts (s.stream (8 * r + k)).outs 64 = []) :
    s.outputsPacked r = s := by
  refine List.foldlRecOn (motive := fun t : State => t = s) _ _ rfl fun t ht i hi => ?_
  obtain ⟨k, hk, rfl⟩ := List.mem_map.1 hi
  rw [ht, State.waitingPackets, outs k (List.mem_range.1 hk)]
  rfl

end

/-- Settles O49: the receiver by what each branch of a reception leaves, the engine by its beats. -/
theorem hawserReceivesInOrderAndEnginesCombine : Obligations.HawserReceivesInOrderAndEnginesCombine := by
  unfold Obligations.HawserReceivesInOrderAndEnginesCombine
  refine ⟨fun s e bytes ce x hx => ?_, fun s r queues outs => ?_⟩
  · simp only [List.mem_cons, List.not_mem_nil, or_false] at hx
    rcases hx with rfl | rfl
    · have rx : ReceivesBy s e 1 bytes ce (.hawserDataRx e ⟨bytes, ce⟩) useData := receivesBy_hawserDataRx
      refine ⟨rx.none, fun k p taken _ => ⟨rx.closed taken, fun opened => ⟨rx.refused taken opened, rx.stale taken opened,
        fun good psn gen fresh room => ⟨fun _ => ?_, fun h => absurd (show (1 : Nat) = 3 from h) (by decide)⟩⟩⟩⟩
      obtain ⟨u, m, used, length, units, expect, part⟩ := rx.accepted taken opened good psn gen fresh room
      obtain ⟨leaves, conn⟩ := useData_leaves (s := u) (k := k) (p := p) (m := m)
      obtain ⟨joined, others⟩ := useData_part (s := u) (k := k) (p := p) (m := m)
      rw [length, part] at joined
      rw [part] at others
      have both : UnitsKept s (useData k p u m) := units.trans leaves
      exact ⟨_, used, by rw [conn]; exact expect, both.jobs, both.cores, joined, others⟩
    · have rx : ReceivesBy s e 3 bytes ce (.hawserCtrlRx e ⟨bytes, ce⟩) useCtrl := receivesBy_hawserCtrlRx
      refine ⟨rx.none, fun k p taken _ => ⟨rx.closed taken, fun opened => ⟨rx.refused taken opened, rx.stale taken opened,
        fun good psn gen fresh room => ⟨fun h => absurd (show (3 : Nat) = 1 from h) (by decide), fun _ empty => ?_⟩⟩⟩⟩
      obtain ⟨u, m, used, length, units, expect, part⟩ := rx.accepted taken opened good psn gen fresh room
      rw [empty] at length
      rw [List.eq_nil_of_length_eq_zero length, useCtrl_nil] at used
      exact ⟨u, used, expect, part, units.jobs, units.cores⟩
  · have beats : exec (.reBeat r) s = .next (s.combines (s.nextBeat r)) := by
      rw [exec_reBeat, State.inputsHanded_of_none queues, State.outputsPacked_of_nil outs]
    intro next
    refine ⟨fun idle => ?_, fun i l found => ?_⟩
    · rw [beats, show s.nextBeat r = none from idle]
      rfl
    · rw [beats, show s.nextBeat r = some (i, l) from found]
      refine ⟨fun equal => ⟨fun more => ⟨_, rfl, State.reStep_goes_on equal more⟩,
        fun last => ⟨_, rfl, State.reStep_ends equal last⟩⟩, fun unequal => ?_⟩
      exact congrArg _ (State.reStep_unequal unequal)

end Sys2Proof.Machine
end

/-! PROOFS. What a packet's CE mark leaves (R322), and with it the checks and accesses of RDMA (R324, R372, R373, R525). -/
section
namespace Sys2Proof.Machine

variable {r s t : State} {e : Nat}

/-! The CNP that a mark may send. -/

/-- From s to t only frames that wait or have left, the QPs and the counts of frames and CNPs of port e differ; no frame of class TC0 moves. -/
structure MarkOnly (e : Nat) (s t : State) : Prop where
  frame : t = { s with net := { s.net with qps := t.net.qps, txq := t.net.txq, sent := t.net.sent }, csr := t.csr }
  rd : ∀ f o, o % 4096 ≠ 0x048 → o % 4096 ≠ 0x068 → t.rd (rg f o) = s.rd (rg f o)
  waiting : t.waiting e 0 0 = s.waiting e 0 0

theorem MarkOnly.refl (s : State) : MarkOnly e s s := ⟨rfl, fun _ _ _ _ => rfl, rfl⟩

theorem State.txq_putTx_ne {sub k : Nat} {f : TxFrame} (h : k ≠ txKey e sub f.tc) :
    tget noTx (s.putTx e sub f).net.txq k = tget noTx s.net.txq k := by
  unfold State.putTx State.flushTx
  extract_lets u q go old net
  exact (tget_tput_ne h).trans (tget_tput_ne h)

/-- A packet of class TC3 leaves the frames of class TC0 where they are. -/
theorem State.waiting_sendIp {a : BitVec 128} {ecn : Bool} {after : Nat} {body : TxBody} :
    (s.sendIp e 0 3 a ecn after body).waiting e 0 0 = s.waiting e 0 0 := by
  have other : txKey e 0 0 ≠ txKey e 0 3 := by
    unfold txKey
    omega
  unfold State.sendIp
  dsimp only
  split
  · exact State.txq_putTx_ne other
  · exact (State.txq_putTx_ne other).trans (State.txq_putTx_ne other)

theorem State.onMark_only {q : Nat} {ce : Bool} : MarkOnly e s (s.onMark e q ce) := by
  cases ce
  · exact .refl s
  · change MarkOnly e s (s.sendCnp e q)
    unfold State.sendCnp
    extract_lets x now asked
    split
    · exact .refl s
    · have sent : SentOnly e (s.setQp q { x with cnpAt := now + 1 }) asked := (SentOnly.refl _).sendIp
      have waiting : asked.waiting e 0 0 = s.waiting e 0 0 := State.waiting_sendIp
      clear_value asked
      have only : MarkOnly e s asked := by
        refine ⟨?_, fun f o h _ => sent.rd _ ?_, waiting⟩
        · have frame := sent.frame
          rw [frame]
          rfl
        · unfold rg
          omega
      split
      · exact only
      · refine ⟨?_, fun f o h k => (State.rd_setFld_ne ?_).trans (only.rd f o h k), waiting⟩
        · have frame := only.frame
          rw [frame]
          rfl
        · unfold rg
          omega

section
variable (h : MarkOnly e s t)
include h

theorem MarkOnly.netCsr : t = { s with net := t.net, csr := t.csr } := by
  have frame := h.frame
  rw [frame]

theorem MarkOnly.flag {f o i : Nat} (h1 : o % 4096 ≠ 0x048) (h2 : o % 4096 ≠ 0x068) : t.flag (rg f o) i = s.flag (rg f o) i := by
  rw [State.flag, h.rd f o h1 h2, State.flag]

theorem MarkOnly.mem : t.mem = s.mem := by rw [h.frame]
theorem MarkOnly.units : UnitsKept s t := by
  rw [h.frame]
  exact ⟨rfl, rfl⟩

theorem MarkOnly.pwrState : t.pwrState = s.pwrState := by
  rw [State.pwrState, State.fld, h.rd _ _ (by decide) (by decide)]
  rfl

theorem MarkOnly.fnOn {f : Nat} : t.fnOn f = s.fnOn f := by
  simp only [State.fnOn, State.dieOn, State.hubOn, h.flag (f := fnClk) (o := 0) (by decide) (by decide)]

theorem MarkOnly.region {rkey : Nat} : t.region rkey = s.region rkey := by
  rw [h.frame]
  rfl

/-- The regions let an access through as before. -/
theorem MarkOnly.passes {p rkey a n : Nat} {data : Option (List Byte)} : t.passes p rkey a n data = s.passes p rkey a n data := by
  have loaded : t.braidLoaded = s.braidLoaded := h.flag (by decide) (by decide)
  simp only [State.passes, h.pwrState, loaded, h.region]

/-- A window takes accesses as before. -/
theorem MarkOnly.windowRefuses {write : Bool} {a n : Nat} : t.windowRefuses write a n = s.windowRefuses write a n := by
  have role : t.role (windowCore a) = s.role (windowCore a) := by
    rw [State.role, State.fld, h.rd _ _ (by decide) (by decide)]
    rfl
  have core : t.core (windowCore a) = s.core (windowCore a) := by
    rw [h.frame]
    rfl
  have holder : t.jobOf (clusterOf (windowCore a)) = s.jobOf (clusterOf (windowCore a)) := by
    rw [h.frame]
    rfl
  simp only [State.windowRefuses, core, h.fnOn, h.pwrState, role, holder]

/-- HBM takes accesses as before. -/
theorem MarkOnly.hbmRefuses {job : Nat} {write : Bool} {a n : Nat} : t.hbmRefuses job write a n = none ↔ s.hbmRefuses job write a n = none := by
  have page (p : Nat) : t.pageRefuses job write p = s.pageRefuses job write p := by
    rw [h.frame]
    rfl
  have ready (k : Nat) : t.hbmReady k = s.hbmReady k := h.flag (by decide) (by decide)
  have fixed : t.fixed = s.fixed := congrArg (! ·) (h.flag (by decide) (by decide))
  have slots (st cls use : Nat) (w : Bool) : t.hasSlot st cls w use job = s.hasSlot st cls w use job := by
    rw [h.frame]
    rfl
  unfold State.hbmRefuses State.slotsServe
  simp only [page, ready, fixed, slots]
  split
  · exact ⟨nofun, nofun⟩
  · split
    · exact Iff.rfl
    · exact ⟨nofun, nofun⟩

theorem MarkOnly.readsWaiting {q : Nat} : t.readsWaiting e q = s.readsWaiting e q := by rw [State.readsWaiting, h.waiting, State.readsWaiting]

end

/-! Accesses. -/

section
variable {job a : Nat} {d : List Byte}

theorem State.rdmaPut_refused (h : spaceOf a d.length = none ∨ (spaceOf a d.length = some .window ∧ s.windowRefuses true a d.length = true)) :
    s.rdmaPut job a d = (s, false) := by
  unfold State.rdmaPut
  dsimp only
  rcases h with none | ⟨window, refuses⟩
  · rw [none]
  · rw [window]
    exact if_pos refuses

/-- A write that HBM or a window takes stores its bytes. -/
theorem State.rdmaPut_stores (h : (spaceOf a d.length = some .hbm ∧ s.hbmRefuses job true a d.length = none) ∨
    (spaceOf a d.length = some .window ∧ s.windowRefuses true a d.length = false)) :
    (s.rdmaPut job a d).2 = true ∧ (s.rdmaPut job a d).1.mem = s.mem.store a d ∧ UnitsKept s (s.rdmaPut job a d).1 := by
  have put : s.rdmaPut job a d = (s.writeHbm a d, true) ∨ s.rdmaPut job a d = (s.storeBytes a d, true) := by
    unfold State.rdmaPut
    dsimp only
    rcases h with ⟨hbm, takes⟩ | ⟨window, takes⟩
    · rw [hbm]
      dsimp only
      rw [takes]
      exact .inl rfl
    · rw [window]
      exact .inr (if_neg (by simp [takes]))
  rcases put with put | put <;> rw [put]
  · exact ⟨rfl, State.mem_writeHbm, (HbmOnly.refl s).writeHbm.units⟩
  · exact ⟨rfl, rfl, ⟨rfl, rfl⟩⟩

/-- A read of HBM that meets neither an error nor poison. -/
theorem State.rdmaGet_hbm {n : Nat} (hbm : spaceOf a n = some .hbm) (takes : s.hbmRefuses job false a n = none) (upset : s.upset = [])
    (poison : s.poison = []) : s.rdmaGet job a n = (s, some (s.mem.bytes a n)) := by
  unfold State.rdmaGet
  rw [hbm]
  dsimp only
  rw [takes, State.readHbm_clean upset poison]
  simp

/-- A read of one register. -/
theorem State.rdmaGet_csr (csr : spaceOf a 8 = some .csr) (aligned : a % 8 = 0) :
    s.rdmaGet job a 8 = (s, some (leBytes (s.readReg (csrFn a) (csrOff a)).toNat 8)) := by
  have whole : aligned8 a 8 = true := by simp [aligned8, aligned]
  unfold State.rdmaGet
  rw [csr]
  dsimp only
  rw [if_pos whole]
  rfl

end

/-! Answers. -/

theorem State.answer_leaves {q : Nat} {a : Reply} : (s.answer e q a).net.reply = a ∧ NetCsrOnly s (s.answer e q a) := by
  obtain ⟨u, sent, answer⟩ := State.answer_sent (s := s) (e := e) (q := q) (a := a)
  rw [answer]
  exact ⟨rfl, ((NetCsrOnly.refl s).sent sent).trans ⟨rfl⟩⟩

/-- Data that answers a read. -/
theorem State.answerData_leaves {q : Nat} {bs : List Byte} : (s.answerData e q bs).net.reply = .data bs ∧ NetCsrOnly s (s.answerData e q bs) := by
  refine ⟨rfl, NetCsrOnly.trans (List.foldlRecOn (motive := NetCsrOnly s) _ _ (.refl s) fun t ht x _ => ?_) ⟨rfl⟩⟩
  exact NetCsrOnly.sent (ht.trans ⟨rfl⟩) (SentOnly.refl _).sendIp

theorem NetCsrOnly.mem (h : NetCsrOnly s t) : t.mem = s.mem := by rw [h.frame]

/-! Doorbells (R387, R393). -/

theorem EventsOnly.refl (x : Rings) : EventsOnly x x := ⟨rfl⟩

theorem State.cp_drainEvents {p n : Nat} : (s.drainEvents n).cp p = s.cp p := by
  rw [State.cp, ((EventsOnly.refl s.rings).drainEvents (n := n)).eq]
  rfl

theorem State.cp_event {p type func : Nat} {job : Option Nat} {detail : List Byte} : (s.event type func job detail).cp p = s.cp p := by
  unfold State.event
  split
  · exact State.cp_drainEvents.trans rfl
  · rfl

theorem State.cp_ringFault {p q code : Nat} : (s.ringFault q code).cp p = s.cp p := by
  unfold State.ringFault State.ringEvent
  dsimp only
  split
  · rfl
  · refine State.cp_event.trans ?_
    split <;> rfl

/-- A write of a pair's CMDDB sets its CP. -/
theorem State.writeCp_leaves {p : Nat} {w : W32} : UnitsKept s (s.writeCp p w) ∧ (s.writeCp p w).cp p = w ∧
    ∀ q, q ≠ p → (s.writeCp p w).cp q = s.cp q := by
  have put : (s.writeCp p w).cp = tget z32 (tput z32 s.rings.cp p w) ∧ UnitsKept s (s.writeCp p w) := by
    unfold State.writeCp
    dsimp only
    split
    · exact ⟨funext fun q => State.cp_ringFault, UnitsKept.ringFault ⟨rfl, rfl⟩⟩
    · exact ⟨rfl, ⟨rfl, rfl⟩⟩
  rw [put.1]
  exact ⟨put.2, tget_tput_same, fun q other => tget_tput_ne other⟩

theorem leNat_leBytes {x n : Nat} : leNat (leBytes x n) = x % 256 ^ n := by
  induction n generalizing x with
  | zero => simp [leBytes, leNat, Nat.mod_one]
  | succ n ih =>
    rw [leBytes, leNat, ih, BitVec.toNat_ofNat, Nat.pow_succ' (m := 256)]
    exact (Nat.mod_mul ..).symm

/-- The word that eight bytes of a value give. -/
theorem word64_leBytes {v : W64} : word64 (leBytes v.toNat 8) 0 = v := by
  have fits : v.toNat < 256 ^ 8 := v.isLt
  rw [word64, fieldLE, List.drop_zero, List.take_of_length_le length_leBytes.le, leNat_leBytes, Nat.mod_eq_of_lt fits]
  exact BitVec.eq_of_toNat_eq (by simp)

/-- An aligned offset of the doorbell page. -/
theorem spaceOf_doorbell {o : Nat} (ho : o < 4096) (aligned : o % 8 = 0) : spaceOf (bellBase + o) 8 = some .doorbell := by
  refine (if_neg ?_).trans ((if_neg ?_).trans ((if_neg ?_).trans (if_pos ?_))) <;>
    (rw [decide_eq_true_iff]; simp only [bellBase, hbmEnd, window, csrBase]; omega)

theorem regAddrs_one {a : Nat} : regAddrs a 8 = [a] := rfl

section
variable {job o : Nat} {v : W64} (ho : o < 4096) (aligned : o % 8 = 0)
include ho aligned

theorem State.rdmaPut_doorbell : s.rdmaPut job (bellBase + o) (leBytes v.toNat 8) =
    if s.bellOwned job o then (s.writeBell o v, true) else (s, false) := by
  have whole : aligned8 (bellBase + o) 8 = true := by simp [aligned8, bellBase]; omega
  unfold State.rdmaPut
  dsimp only
  rw [length_leBytes, spaceOf_doorbell ho aligned]
  dsimp only
  rw [whole, regAddrs_one]
  simp only [List.any_cons, List.any_nil, Bool.or_false, Bool.not_true, Bool.false_or, List.foldl_cons, List.foldl_nil,
    Nat.add_sub_cancel_left, Nat.sub_self, word64_leBytes]
  cases s.bellOwned job o <;> rfl

end

end Sys2Proof.Machine
end

/-! PROOFS. O46: RDMA Writes, Reads and doorbells (R323 to R325, R372, R373, R387). -/
section
namespace Sys2Proof.Machine

variable {s t : State}

section
variable {e : PortId} {qp : BitVec 12} {rkey : W32} {addr : W64} {data : List Byte} {ce : Bool} {len : Nat}

/-! Requests that the QP does not take. -/

theorem exec_rdma_unready (down : s.portReady e 0 = false) : exec (.rdmaWrite e qp rkey addr data ce) s = .next s ∧
    exec (.rdmaRead e ⟨qp, ce⟩ rkey addr len) s = .next s := ⟨if_pos (by simp [down]), if_pos (by simp [down])⟩

theorem exec_rdma_discarded (ready : s.portReady e 0 = true) (idle : s.qpTakes e qp.toNat = false) :
    exec (.rdmaWrite e qp rkey addr data ce) s = .next (s.reply .discarded) ∧
      exec (.rdmaRead e ⟨qp, ce⟩ rkey addr len) s = .next (s.reply .discarded) :=
  ⟨(if_neg (by simp [ready])).trans (if_pos (by simp [idle])), (if_neg (by simp [ready])).trans (if_pos (by simp [idle]))⟩

theorem State.portReady_of_qpTakes {q : Nat} (takes : s.qpTakes e q = true) : s.portReady e 0 = true := by
  unfold State.qpTakes at takes
  rw [Bool.and_eq_true, Bool.and_eq_true] at takes
  exact takes.1.1

/-! RDMA_WRITE. -/

section
variable (takes : s.qpTakes e qp.toNat = true)
include takes

theorem exec_rdmaWrite : exec (.rdmaWrite e qp rkey addr data ce) s =
    .next ((s.onMark e qp.toNat ce).rdmaWrite e qp.toNat rkey.toNat addr.toNat data) :=
  (if_neg (by simp [State.portReady_of_qpTakes takes])).trans (if_neg (by simp [takes]))

/-- A write that ends in a remote access error. -/
theorem exec_rdmaWrite_refused (h : s.passes e rkey.toNat addr.toNat data.length (some data) = none ∨
      ∃ job, s.passes e rkey.toNat addr.toNat data.length (some data) = some job ∧
        (spaceOf addr.toNat data.length = none ∨
          (spaceOf addr.toNat data.length = some .window ∧ s.windowRefuses true addr.toNat data.length = true))) :
    ∃ t, exec (.rdmaWrite e qp rkey addr data ce) s = .next t ∧ t.net.reply = .accessError ∧ t = { s with net := t.net, csr := t.csr } := by
  have mark : MarkOnly e s (s.onMark e qp.toNat ce) := State.onMark_only
  have answers : (s.onMark e qp.toNat ce).rdmaWrite e qp.toNat rkey.toNat addr.toNat data =
      (s.onMark e qp.toNat ce).answer e qp.toNat .accessError := by
    unfold State.rdmaWrite
    rw [mark.passes]
    rcases h with none | ⟨job, lets, refuses⟩
    · rw [none]
    · rw [lets]
      dsimp only
      rw [State.rdmaPut_refused (by rwa [mark.windowRefuses])]
      rfl
  obtain ⟨reply, only⟩ := State.answer_leaves (s := s.onMark e qp.toNat ce) (e := e) (q := qp.toNat) (a := .accessError)
  refine ⟨_, exec_rdmaWrite takes, ?_⟩
  rw [answers]
  exact ⟨reply, (NetCsrOnly.trans ⟨mark.netCsr⟩ only).frame⟩

/-- A write that HBM or a window takes stores its bytes and no others. -/
theorem exec_rdmaWrite_stores {job : Nat} (lets : s.passes e rkey.toNat addr.toNat data.length (some data) = some job)
    (h : (spaceOf addr.toNat data.length = some .hbm ∧ s.hbmRefuses job true addr.toNat data.length = none) ∨
      (spaceOf addr.toNat data.length = some .window ∧ s.windowRefuses true addr.toNat data.length = false)) :
    ∃ t, exec (.rdmaWrite e qp rkey addr data ce) s = .next t ∧ t.net.reply = .ok ∧ t.mem = s.mem.store addr.toNat data ∧ UnitsKept s t := by
  have mark : MarkOnly e s (s.onMark e qp.toNat ce) := State.onMark_only
  obtain ⟨done, mem, units⟩ := State.rdmaPut_stores (s := s.onMark e qp.toNat ce) (job := job) (a := addr.toNat) (d := data)
    (by rwa [mark.hbmRefuses, mark.windowRefuses])
  have answers : (s.onMark e qp.toNat ce).rdmaWrite e qp.toNat rkey.toNat addr.toNat data =
      ((s.onMark e qp.toNat ce).rdmaPut job addr.toNat data).1.answer e qp.toNat .ok := by
    unfold State.rdmaWrite
    rw [mark.passes, lets]
    dsimp only
    rw [done]
    rfl
  obtain ⟨reply, only⟩ := State.answer_leaves (s := ((s.onMark e qp.toNat ce).rdmaPut job addr.toNat data).1) (e := e) (q := qp.toNat) (a := .ok)
  refine ⟨_, exec_rdmaWrite takes, ?_⟩
  rw [answers]
  exact ⟨reply, only.mem.trans (mem.trans (by rw [mark.mem])), mark.units.trans (units.trans only.units)⟩

/-! RDMA_READ. -/

/-- The read on the state that the packet's mark leaves. -/
def State.rdmaRead (s : State) (e q rkey a n : Nat) : State :=
  match s.passes e rkey a n none with
  | none => s.answer e q .accessError
  | some job =>
    let (s, r) := s.rdmaGet job a n
    match r with
    | some bs => s.answerData e q bs
    | none => s.answer e q .accessError

theorem exec_rdmaRead_full (full : 64 ≤ s.readsWaiting e qp.toNat) : exec (.rdmaRead e ⟨qp, ce⟩ rkey addr len) s =
    .next ((s.onMark e qp.toNat ce).answer e qp.toNat .invalid) := by
  have mark : MarkOnly e s (s.onMark e qp.toNat ce) := State.onMark_only
  rw [← mark.readsWaiting] at full
  exact (if_neg (by simp [State.portReady_of_qpTakes takes])).trans ((if_neg (by simp [takes])).trans (if_pos full))

theorem exec_rdmaRead_free (free : s.readsWaiting e qp.toNat < 64) : exec (.rdmaRead e ⟨qp, ce⟩ rkey addr len) s =
    .next ((s.onMark e qp.toNat ce).rdmaRead e qp.toNat rkey.toNat addr.toNat len) := by
  have mark : MarkOnly e s (s.onMark e qp.toNat ce) := State.onMark_only
  rw [← mark.readsWaiting] at free
  refine (if_neg (by simp [State.portReady_of_qpTakes takes])).trans ((if_neg (by simp [takes])).trans ((if_neg (Nat.not_le.2 free)).trans ?_))
  unfold State.rdmaRead
  cases (s.onMark e qp.toNat ce).passes e rkey.toNat addr.toNat len none <;> rfl

theorem exec_rdmaRead_refused (h : 64 ≤ s.readsWaiting e qp.toNat) : ∃ t, exec (.rdmaRead e ⟨qp, ce⟩ rkey addr len) s = .next t ∧
    t.net.reply = .invalid ∧ t = { s with net := t.net, csr := t.csr } := by
  have mark : MarkOnly e s (s.onMark e qp.toNat ce) := State.onMark_only
  obtain ⟨reply, only⟩ := State.answer_leaves (s := s.onMark e qp.toNat ce) (e := e) (q := qp.toNat) (a := .invalid)
  exact ⟨_, exec_rdmaRead_full takes h, reply, (NetCsrOnly.trans ⟨mark.netCsr⟩ only).frame⟩

section
variable (free : s.readsWaiting e qp.toNat < 64)
include free

theorem exec_rdmaRead_denied (none : s.passes e rkey.toNat addr.toNat len none = none) :
    ∃ t, exec (.rdmaRead e ⟨qp, ce⟩ rkey addr len) s = .next t ∧ t.net.reply = .accessError ∧ t = { s with net := t.net, csr := t.csr } := by
  have mark : MarkOnly e s (s.onMark e qp.toNat ce) := State.onMark_only
  obtain ⟨reply, only⟩ := State.answer_leaves (s := s.onMark e qp.toNat ce) (e := e) (q := qp.toNat) (a := .accessError)
  refine ⟨_, exec_rdmaRead_free takes free, ?_⟩
  unfold State.rdmaRead
  rw [mark.passes, none]
  exact ⟨reply, (NetCsrOnly.trans ⟨mark.netCsr⟩ only).frame⟩

/-- A read that the accessed part of the address space answers with data. -/
theorem exec_rdmaRead_answers {job : Nat} {bs : List Byte} (lets : s.passes e rkey.toNat addr.toNat len none = some job)
    (data : (s.onMark e qp.toNat ce).rdmaGet job addr.toNat len = (s.onMark e qp.toNat ce, some bs)) :
    ∃ t, exec (.rdmaRead e ⟨qp, ce⟩ rkey addr len) s = .next t ∧ t.net.reply = .data bs ∧ t.mem = s.mem := by
  have mark : MarkOnly e s (s.onMark e qp.toNat ce) := State.onMark_only
  obtain ⟨reply, only⟩ := State.answerData_leaves (s := s.onMark e qp.toNat ce) (e := e) (q := qp.toNat) (bs := bs)
  refine ⟨_, exec_rdmaRead_free takes free, ?_⟩
  unfold State.rdmaRead
  rw [mark.passes, lets]
  dsimp only
  rw [data]
  exact ⟨reply, only.mem.trans mark.mem⟩

theorem exec_rdmaRead_hbm {job : Nat} (lets : s.passes e rkey.toNat addr.toNat len none = some job) (hbm : spaceOf addr.toNat len = some .hbm)
    (accepts : s.hbmRefuses job false addr.toNat len = none) (upset : s.upset = []) (poison : s.poison = []) :
    ∃ t, exec (.rdmaRead e ⟨qp, ce⟩ rkey addr len) s = .next t ∧ t.net.reply = .data (s.mem.bytes addr.toNat len) ∧ t.mem = s.mem := by
  have mark : MarkOnly e s (s.onMark e qp.toNat ce) := State.onMark_only
  have clean : (s.onMark e qp.toNat ce).upset = [] ∧ (s.onMark e qp.toNat ce).poison = [] := by
    rw [mark.frame]
    exact ⟨upset, poison⟩
  have get := State.rdmaGet_hbm (s := s.onMark e qp.toNat ce) (job := job) hbm (by rwa [mark.hbmRefuses]) clean.1 clean.2
  rw [mark.mem] at get
  exact exec_rdmaRead_answers takes free lets get

end

end

end

/-! DOORBELL_WRITE. -/

section
variable {rkey : W32} {o : BitVec 12} {v : W64}

theorem exec_doorbellWrite_unloaded (h : s.braidLoaded = false) : exec (.doorbellWrite rkey o v) s = .next (s.reply .accessError) :=
  if_pos (by simp [h])

variable (loaded : s.braidLoaded = true)
include loaded

theorem exec_doorbellWrite_denied (none : s.passes 0 rkey.toNat (bellBase + o.toNat) 8 (some (leBytes v.toNat 8)) = none) :
    exec (.doorbellWrite rkey o v) s = .next (s.reply .accessError) := by
  refine (if_neg (by simp [loaded])).trans ?_
  rw [none]

theorem exec_doorbellWrite_let {job : Nat} (aligned : o.toNat % 8 = 0)
    (lets : s.passes 0 rkey.toNat (bellBase + o.toNat) 8 (some (leBytes v.toNat 8)) = some job) : exec (.doorbellWrite rkey o v) s =
      .next (if s.bellOwned job o.toNat then (s.writeBell o.toNat v).reply .ok else s.reply .accessError) := by
  refine (if_neg (by simp [loaded])).trans ?_
  rw [lets]
  dsimp only
  rw [State.rdmaPut_doorbell o.isLt aligned]
  cases s.bellOwned job o.toNat <;> rfl

end

/-- Settles O46: each request by its equation on the state that the packet's mark leaves. -/
theorem rdmaStoresReadsAndRingsDoorbells : Obligations.RdmaStoresReadsAndRingsDoorbells := by
  unfold Obligations.RdmaStoresReadsAndRingsDoorbells
  intro s e qp rkey addr data imm ce a n q refused
  refine ⟨rfl, fun down len => exec_rdma_unready down, fun ready idle len => exec_rdma_discarded ready idle,
    fun takes => ⟨fun denied => exec_rdmaWrite_refused takes (.inl denied), fun job lets =>
      ⟨fun h => exec_rdmaWrite_refused takes (.inr ⟨job, lets, h⟩), fun h => ?_⟩, fun len => ⟨exec_rdmaRead_refused takes, fun free => ⟨exec_rdmaRead_denied takes free, fun job lets =>
        ⟨exec_rdmaRead_hbm takes free lets, fun csr eight aligned unmarked => ?_⟩⟩⟩⟩,
    fun o v => ⟨exec_doorbellWrite_unloaded, fun loaded aligned => ⟨exec_doorbellWrite_denied loaded, fun job lets =>
      ⟨fun other => ?_, fun own cmd => ?_⟩⟩⟩⟩
  · obtain ⟨t, write, reply, mem, units⟩ := exec_rdmaWrite_stores takes lets h
    refine ⟨t, write, reply, fun i hi => ?_, fun b outside => ?_, units.cores, units.jobs⟩
    · rw [mem, Mem.byte_store_in hi, List.getD_eq_getElem _ _ hi]
    · rw [mem]
      rcases outside with below | above
      · exact Mem.byte_store_of_lt below
      · exact Mem.byte_store_of_ge above
  · subst eight unmarked
    exact exec_rdmaRead_answers takes free lets (State.rdmaGet_csr csr aligned)
  · rw [exec_doorbellWrite_let loaded aligned lets, other]
    rfl
  · obtain ⟨units, cp, others⟩ := State.writeCp_leaves (s := s) (p := o.toNat / 8) (w := BitVec.ofNat 32 v.toNat)
    have bell : s.writeBell o.toNat v = s.writeCp (o.toNat / 8) (BitVec.ofNat 32 v.toNat) := if_pos cmd
    refine ⟨_, exec_doorbellWrite_let loaded aligned lets, ?_⟩
    rw [own, bell]
    exact ⟨rfl, cp, others, units.cores, units.jobs⟩

end Sys2Proof.Machine
end

/-! PROOFS. Services that are told, fail, end or send off what they give (R366 to R369). -/
section
namespace Sys2Proof.Machine

variable {r s t : State} {i : Nat} {x : Svc}

/-! Ends. -/

theorem ToldOnly.bumpSch {o hi lo n : Nat} (h : ToldOnly r s) : ToldOnly r (s.bump (rg fnSch o) hi lo n) :=
  h.trans ((HbmOnly.refl s).bump (by unfold rg fnChip fnSch; omega)).told

theorem ToldOnly.tellSvc {status : Nat} {result : List Byte} (h : ToldOnly r s) : ToldOnly r (s.tellSvc x status result) := by
  unfold State.tellSvc State.svcEvent
  split
  · exact h.event
  · exact h.finish

theorem ToldOnly.svc (h : ToldOnly s t) : t.svc = s.svc := by rw [h.frame]

/-- A service that fails is told of, on the state in which it stays listed or not. -/
theorem State.failSvc_told {keep : Bool} :
    ToldOnly (s.setSvc i (if keep then some { x with phase := 4 } else none)) (s.failSvc i x keep) := by
  unfold State.failSvc
  generalize s.setSvc i (if keep then some { x with phase := 4 } else none) = u
  dsimp only
  generalize x.orphan = orphan
  cases orphan
  · exact (ToldOnly.refl u).bumpSch.tellSvc.event
  · exact (ToldOnly.refl u).bumpSch.tellSvc

theorem State.endSvc_told : ToldOnly (s.setSvc i none) (s.endSvc i x) := (ToldOnly.refl _).bumpSch.tellSvc

/-- A service that has ended is listed no longer. -/
theorem State.svcAt_endSvc : (s.endSvc i x).svcAt i = none := by
  rw [State.svcAt, State.endSvc_told.svc]
  exact tget_tput_same

theorem UnitsKept.setSvc {y : Option Svc} (h : UnitsKept r s) : UnitsKept r (s.setSvc i y) := ⟨h.cores, h.jobs⟩

theorem State.endSvc_units : UnitsKept s (s.endSvc i x) := (UnitsKept.refl s).setSvc.trans State.endSvc_told.units

theorem State.failSvc_kept {keep : Bool} : UnitsKept s (s.failSvc i x keep) ∧ NetKept s (s.failSvc i x keep) :=
  ⟨(UnitsKept.refl s).setSvc.trans State.failSvc_told.units, ((NetKept.refl s).of_same (t := s.setSvc i _) rfl rfl).trans State.failSvc_told.netKept⟩

/-! Checks and requests. -/

/-- A service whose pages and QP stand goes on. -/
theorem State.svcGuard_goes {rs : List (Nat × Nat × Nat)} {go : State → State} (pages : ∀ y ∈ rs, s.svcRangeBad x.job y.1 y.2.1 = none)
    (qp : (s.qp x.qp).state ≠ 3) : s.svcGuard i x rs go = go s := by
  have whole : rs.findSome? (fun (a, n, _) => s.svcRangeBad x.job a n) = none := List.findSome?_eq_none_iff.2 pages
  unfold State.svcGuard
  rw [whole]
  exact if_neg qp

theorem State.mem_askQp {n : Nat} : (s.askQp n).mem = s.mem := by
  unfold State.askQp
  split <;> rfl

theorem State.mem_sendRegion {a n : Nat} : (s.sendRegion a n).1.mem = s.mem := by
  unfold State.sendRegion
  refine List.foldlRecOn (motive := fun y : State × List Byte × Nat => y.1.mem = s.mem) _ _ rfl fun y hy i _ => ?_
  exact State.mem_readGranule.trans hy

theorem fieldLE_leBytes_append {n k : Nat} {l : List Byte} : fieldLE (leBytes n k ++ l) 0 k = n % 256 ^ k := by
  rw [fieldLE, List.drop_zero, List.take_left' length_leBytes, leNat_leBytes]

/-- The manifest begins with its magic number. -/
theorem fieldLE_manifest {attempt beat poison : Nat} {entries : List (Nat × Nat × Digest)} :
    fieldLE (manifest x attempt beat poison entries) 0 4 = 0x4D465A56 := by
  unfold manifest
  simp only [List.append_assoc]
  exact fieldLE_leBytes_append

/-- What a region gives of what is sent off: the state, entries of the manifest, writes and poisoned granules. -/
abbrev SentOff : Type := State × List (Nat × Nat × Digest) × List RdmaOut × Nat

def Svc.sendNext (x : Svc) (y : SentOff) (region : Nat × Nat × Nat) : SentOff :=
  let z := y.1.sendRegion region.1 region.2.1
  (z.1, y.2.1 ++ [(region.2.2, region.2.1, sha384 z.2.1)], y.2.2.1 ++ [RdmaOut.write (x.raddr + BitVec.ofNat 64 region.2.2) z.2.1], y.2.2.2 + z.2.2)

theorem Svc.sendNext_foldl {rs : List (Nat × Nat × Nat)} {y : SentOff} :
    (rs.foldl x.sendNext y).1.mem = y.1.mem ∧ (rs.foldl x.sendNext y).2.2.1.length = y.2.2.1.length + rs.length := by
  induction rs generalizing y with
  | nil => exact ⟨rfl, rfl⟩
  | cons region rs ih =>
    obtain ⟨mem, length⟩ := ih (y := x.sendNext y region)
    refine ⟨mem.trans State.mem_sendRegion, length.trans ?_⟩
    rw [Svc.sendNext, List.length_append, List.length_cons, List.length_cons, List.length_nil]
    omega

/-- The service once its regions are sent off. -/
def sentOff (x : Svc) (y : SentOff) : Svc :=
  let x := { x with phase := 3, moved := x.total, zeros := y.2.2.2, began := y.1.beat.toNat }
  let m := manifest x ((y.1.sealedAs x.job x.step).getD 0) y.1.beat.toNat y.2.2.2 y.2.1
  { x with manifest := m, out := y.2.2.1 ++ [.writeImm (x.raddr + x.moff) m x.imm] }

theorem State.sendOff_eq {rs : List (Nat × Nat × Nat)} : s.sendOff i x rs =
    ((rs.foldl x.sendNext (s, [], [], 0)).1.askQp x.qp).moveSvc i (sentOff x (rs.foldl x.sendNext (s, [], [], 0))) := rfl

theorem State.svcAt_moveSvc : (s.moveSvc i x).svcAt i = some x := tget_tput_same

/-- Regions sent off, and the manifest behind them. -/
theorem State.sendOff_leaves {rs : List (Nat × Nat × Nat)} : ∃ y, (s.sendOff i x rs).svcAt i = some y ∧ y.phase = 3 ∧ y.moved = x.total ∧
    fieldLE y.manifest 0 4 = 0x4D465A56 ∧ y.out.length = rs.length + 1 ∧
    y.out.getLast? = some (.writeImm (x.raddr + x.moff) y.manifest x.imm) ∧ (s.sendOff i x rs).mem = s.mem := by
  obtain ⟨mem, length⟩ := Svc.sendNext_foldl (x := x) (rs := rs) (y := (s, [], [], 0))
  rw [State.sendOff_eq]
  generalize rs.foldl x.sendNext (s, [], [], 0) = y at mem length
  refine ⟨sentOff x y, State.svcAt_moveSvc, rfl, rfl, fieldLE_manifest, ?_, List.getLast?_concat .., ?_⟩
  · exact (List.length_append ..).trans (congrArg (· + 1) (length.trans (Nat.zero_add _)))
  · exact State.mem_askQp.trans mem

end Sys2Proof.Machine
end

/-! PROOFS. O47: QPs and services (R323, R325, R366 to R369). -/
section
namespace Sys2Proof.Machine

variable {s t : State}

/-! Connection management (R323). -/

theorem State.answerCm_leaves {e q : Nat} {peer : BitVec 128} {a : Reply} : (s.answerCm e q peer a).net.reply = a ∧
    NetCsrOnly s (s.answerCm e q peer a) ∧ ∀ k, (s.answerCm e q peer a).qp k = s.qp k := by
  have sent : SentOnly e s (s.sendIp e 0 0 peer true 0 (.cm q)) := (SentOnly.refl s).sendIp
  refine ⟨rfl, ((NetCsrOnly.refl s).sent sent).trans ⟨rfl⟩, fun k => ?_⟩
  refine Eq.trans (b := (s.sendIp e 0 0 peer true 0 (.cm q)).qp k) rfl ?_
  rw [sent.frame]
  rfl

section
variable {e : PortId} {qp : BitVec 12} {peer : BitVec 128}

theorem exec_cmMessage_unready {m : CmKind} (down : s.portReady e 0 = false) : exec (.cmMessage e qp ⟨m, peer⟩) s = .next s :=
  if_pos (by simp [down])

theorem exec_cmMessage_unserved {m : CmKind} (ready : s.portReady e 0 = true) (unserved : s.qpServed e qp.toNat = false) :
    exec (.cmMessage e qp ⟨m, peer⟩) s = .next (s.answerCm e qp.toNat peer .invalid) :=
  (if_neg (by simp [ready])).trans (if_pos (by simp [unserved]))

section
variable (ready : s.portReady e 0 = true) (served : s.qpServed e qp.toNat = true)
include ready served

theorem exec_cmMessage_req {mtu : Fin 3} : exec (.cmMessage e qp ⟨.req mtu, peer⟩) s =
    .next ((s.setQp qp.toNat { s.qp qp.toNat with state := 1, port := e, peer, mtu }).answerCm e qp.toNat peer .ok) :=
  (if_neg (by simp [ready])).trans (if_neg (by simp [served]))

/-- A REP or an RTU of a QP that has asked connects it. -/
theorem exec_cmMessage_connects {m : CmKind} (hm : m ∈ [CmKind.rep, .rtu]) :
    ((s.qp qp.toNat).state ≠ 1 → exec (.cmMessage e qp ⟨m, peer⟩) s = .next (s.reply .discarded)) ∧
    ((s.qp qp.toNat).state = 1 → ∃ t, exec (.cmMessage e qp ⟨m, peer⟩) s = .next t ∧ (t.qp qp.toNat).state = 2 ∧
      (t.qp qp.toNat).pace = openPace (s.lineRate e) s.linkTime) := by
  have passes : ¬ (!s.portReady e 0) = true ∧ ¬ (!s.qpServed e qp.toNat) = true := by simp [ready, served]
  have connected : (s.connectQp e qp.toNat).qp qp.toNat = { s.qp qp.toNat with
      state := 2, pace := openPace (s.lineRate e) s.linkTime, paceAt := 0 } := State.qp_setQp_same
  simp only [List.mem_cons, List.not_mem_nil, or_false] at hm
  rcases hm with rfl | rfl
  · refine ⟨fun other => (if_neg passes.1).trans ((if_neg passes.2).trans (if_neg other)),
      fun asked => ⟨_, (if_neg passes.1).trans ((if_neg passes.2).trans (if_pos asked)), ?_⟩⟩
    rw [State.answerCm_leaves.2.2, connected]
    exact ⟨rfl, rfl⟩
  · refine ⟨fun other => (if_neg passes.1).trans ((if_neg passes.2).trans (if_neg other)),
      fun asked => ⟨_, (if_neg passes.1).trans ((if_neg passes.2).trans (if_pos asked)), ?_⟩⟩
    rw [show ((s.connectQp e qp.toNat).reply .none).qp qp.toNat = _ from connected]
    exact ⟨rfl, rfl⟩

/-- A REJ, a DREQ or a DREP disconnects its QP. -/
theorem exec_cmMessage_disconnects {m : CmKind} (hm : m ∈ [CmKind.rej, .dreq, .drep]) :
    ∃ t, exec (.cmMessage e qp ⟨m, peer⟩) s = .next t ∧ t.qp qp.toNat = qp0 qp.toNat := by
  have passes : ¬ (!s.portReady e 0) = true ∧ ¬ (!s.qpServed e qp.toNat) = true := by simp [ready, served]
  have closed : (s.setQp qp.toNat (qp0 qp.toNat)).qp qp.toNat = qp0 qp.toNat := State.qp_setQp_same
  simp only [List.mem_cons, List.not_mem_nil, or_false] at hm
  rcases hm with rfl | rfl | rfl
  · exact ⟨_, (if_neg passes.1).trans (if_neg passes.2), closed⟩
  · exact ⟨_, (if_neg passes.1).trans (if_neg passes.2), (State.answerCm_leaves.2.2 _).trans closed⟩
  · exact ⟨_, (if_neg passes.1).trans (if_neg passes.2), closed⟩

end

/-! SEND. -/

section
variable {data : List Byte} {inv ce : Bool}

theorem exec_send_unready (down : s.portReady e 0 = false) : exec (.send e ⟨qp, ce⟩ ⟨data, inv⟩) s = .next s := if_pos (by simp [down])

theorem exec_send_unconnected (ready : s.portReady e 0 = true) (other : (s.qp qp.toNat).state ≠ 2) :
    exec (.send e ⟨qp, ce⟩ ⟨data, inv⟩) s = .next (s.reply .discarded) := (if_neg (by simp [ready])).trans (if_neg other)

theorem exec_send_connected (ready : s.portReady e 0 = true) (connected : (s.qp qp.toNat).state = 2) :
    ∃ t, exec (.send e ⟨qp, ce⟩ ⟨data, inv⟩) s = .next t ∧ t.net.reply = (if inv then .invalid else .ok) ∧
      t = { s with net := t.net, csr := t.csr } := by
  have mark : MarkOnly e s (s.onMark e qp.toNat ce) := State.onMark_only
  obtain ⟨reply, only⟩ := State.answer_leaves (s := s.onMark e qp.toNat ce) (e := e) (q := qp.toNat) (a := if inv then .invalid else .ok)
  exact ⟨_, (if_neg (by simp [ready])).trans (if_pos connected), reply, (NetCsrOnly.trans ⟨mark.netCsr⟩ only).frame⟩

end

end

/-! QP_ERROR_STATE. -/

/-- The services that use QP n fail. -/
def State.failUsers (s : State) (n : Nat) : State :=
  s.svc.foldl (fun s e => match e.2 with
    | some x => if x.qp = n ∧ x.phase ≠ 4 then s.failSvc e.1 x (x.type == 1) else s
    | none => s) s

theorem exec_qpErrorState {qp : BitVec 12} : exec (.qpErrorState qp) s =
    let t := s.setQp qp.toNat { s.qp qp.toNat with state := 3 }
    .next (if t.schReady then t.failUsers qp.toNat else t) := by
  change execQpErrorState qp s = _
  unfold execQpErrorState
  dsimp only
  cases (s.setQp qp.toNat { s.qp qp.toNat with state := 3 }).schReady <;> rfl

theorem State.failUsers_kept {n : Nat} : UnitsKept s (s.failUsers n) ∧ NetKept s (s.failUsers n) := by
  refine List.foldlRecOn (motive := fun t : State => UnitsKept s t ∧ NetKept s t) _ _ ⟨.refl s, .refl s⟩ fun t ht e _ => ?_
  split
  · split
    · exact ⟨ht.1.trans State.failSvc_kept.1, ht.2.trans State.failSvc_kept.2⟩
    · exact ht
  · exact ht

theorem State.failUsers_of_none {n : Nat} (unused : ∀ y ∈ s.svc, ∀ x, y.2 = some x → x.qp ≠ n) : s.failUsers n = s := by
  refine List.foldlRecOn (motive := fun t : State => t = s) _ _ rfl fun t ht e he => ?_
  split
  · next x h => rw [if_neg (fun use => unused e he x h use.1), ht]
  · exact ht

theorem exec_qpErrorState_fails {qp : BitVec 12} : ∃ t, exec (.qpErrorState qp) s = .next t ∧ (t.qp qp.toNat).state = 3 ∧ t.jobs = s.jobs ∧
    ((∀ y ∈ s.svc, ∀ x, y.2 = some x → x.qp ≠ qp.toNat) → t = { s with net := t.net }) := by
  refine ⟨_, exec_qpErrorState, ?_⟩
  have failed : ((s.setQp qp.toNat { s.qp qp.toNat with state := 3 }).qp qp.toNat).state = 3 := congrArg Qp.state State.qp_setQp_same
  split
  · obtain ⟨units, net⟩ := State.failUsers_kept (s := s.setQp qp.toNat { s.qp qp.toNat with state := 3 }) (n := qp.toNat)
    refine ⟨?_, units.jobs, fun unused => ?_⟩
    · rw [State.qp, net.net]
      exact failed
    · have same := State.failUsers_of_none (s := s.setQp qp.toNat { s.qp qp.toNat with state := 3 }) unused
      rw [same]
      rfl
  · exact ⟨failed, rfl, fun _ => rfl⟩

/-! Services (R366 to R369). -/

section
variable {i : Nat}

/-- Without its service, or while SCH is not READY, nothing begins or ends. -/
theorem exec_services_idle (h : s.svcAt i = none ∨ s.schReady = false) : exec (.fetchStart i) s = .next s ∧
    exec (.checkpointStart i) s = .next s ∧ exec (.haloStream i) s = .next s ∧ exec (.serviceComplete i) s = .next s := by
  change execFetchStart i s = _ ∧ execCheckpointStart i s = _ ∧ execHaloStream i s = _ ∧ execServiceComplete i s = _
  unfold execFetchStart execCheckpointStart execHaloStream execServiceComplete
  cases found : s.svcAt i with
  | none => exact ⟨rfl, rfl, rfl, rfl⟩
  | some x =>
    have down : (!s.schReady) = true := by simpa [found] using h
    exact ⟨if_pos (.inl down), if_pos (.inl down), if_pos (.inl down), if_pos (.inl down)⟩

variable {x : Svc} (found : s.svcAt i = some x) (ready : s.schReady = true)
include found ready

section
variable (qp : (s.qp x.qp).state ≠ 3)
include qp

theorem exec_fetchStart_starts (pages : ∀ r ∈ x.regions, s.svcRangeBad x.job r.1 r.2.1 = none) (fetch : x.type = 1) (waits : x.phase = 1)
    (free : x.step < 2 ∨ (s.sealedAs x.job (x.step - 2)).isSome) : exec (.fetchStart i) s =
      .next ((s.askQp x.qp).setSvc i (some { x with phase := 3, out := x.reads })) := by
  change execFetchStart i s = _
  unfold execFetchStart
  rw [found]
  have begun : (decide (x.step < 2) || (s.sealedAs x.job (x.step - 2)).isSome) = true := by simpa using free
  refine (if_neg (by rw [ready, fetch, waits, begun]; decide)).trans ?_
  rw [State.svcGuard_goes pages qp]

theorem exec_checkpointStart_starts (pages : ∀ r ∈ x.regions, s.svcRangeBad x.job r.1 r.2.1 = none) (checkpoint : x.type = 2)
    (waits : x.phase = 1) (sealed : (s.sealedAs x.job x.step).isSome) : exec (.checkpointStart i) s = .next (s.sendOff i x x.regions) := by
  change execCheckpointStart i s = _
  unfold execCheckpointStart
  rw [found]
  refine (if_neg (by simp [ready, checkpoint, waits, sealed])).trans ?_
  rw [State.svcGuard_goes pages qp]

theorem exec_haloStream_starts (pages : s.svcRangeBad x.job x.snap x.total = none) (halo : x.type = 3) (copies : x.phase = 3)
    (copied : x.total ≤ x.copied) (first : x.manifest = []) : exec (.haloStream i) s = .next (s.sendOff i x [(x.snap, x.total, 0)]) := by
  change execHaloStream i s = _
  unfold execHaloStream
  rw [found]
  refine (if_neg (by simp [ready, halo, copies, copied, first])).trans ?_
  dsimp only
  rw [State.svcGuard_goes (by simpa using pages) qp]

end

/-! SERVICE_COMPLETE. -/

omit found ready in
theorem UnitsKept.fetchWord {r : State} {a : Nat} (h : UnitsKept r s) : UnitsKept r (s.fetchWord a) := by
  unfold State.fetchWord
  exact UnitsKept.writeGranule ⟨h.cores, h.jobs⟩

section
variable (running : x.phase = 3)
include running

theorem exec_serviceComplete_fails (qp : (s.qp x.qp).state = 3) : exec (.serviceComplete i) s = .next (s.failSvc i x (x.type == 1)) := by
  change execServiceComplete i s = _
  unfold execServiceComplete
  rw [found]
  exact (if_neg (by simp [ready, running])).trans (if_pos qp)

variable (qp : (s.qp x.qp).state = 2)
include qp

/-- A fetch ends with its data in HBM. -/
theorem exec_serviceComplete_fetch (pages : ∀ r ∈ x.regions, s.svcRangeBad x.job r.1 r.2.1 = none) (fetch : x.type = 1) :
    ∃ u, UnitsKept s u ∧ exec (.serviceComplete i) s = .next (u.endSvc i x) := by
  have filled : UnitsKept s (x.regions.foldl (fun s (a, n, _) => (List.range (n / 64)).foldl (fun s i => s.fetchWord (a + 64 * i)) s) s) :=
    UnitsKept.foldl (fun t y h => UnitsKept.foldl (fun u k g => g.fetchWord) h) (.refl s)
  refine ⟨_, filled.bump (k := rg fnSch 0x050) (hi := 63) (lo := 0) (n := x.total), ?_⟩
  change execServiceComplete i s = _
  unfold execServiceComplete
  rw [found]
  refine (if_neg (by simp [ready, running])).trans ((if_neg (by simp [qp])).trans ((if_neg (not_not.2 qp)).trans ((if_pos fetch).trans ?_)))
  rw [State.svcGuard_goes pages (by simp [qp])]

/-- A checkpoint or a Halo stream ends once its manifest is across. -/
theorem exec_serviceComplete_sent (sends : x.type ≠ 1) (sent : x.manifest ≠ [])
    (late : x.type = 3 → x.began + cdiv (8 * x.total) s.haloRate ≤ s.beat.toNat) : exec (.serviceComplete i) s = .next (s.endSvc i x) := by
  change execServiceComplete i s = _
  unfold execServiceComplete
  rw [found]
  refine (if_neg (by simp [ready, running])).trans ((if_neg (by simp [qp])).trans ((if_neg (not_not.2 qp)).trans ((if_neg sends).trans
    (if_neg ?_))))
  rintro (none | ⟨halo, early⟩)
  · exact sent none
  · exact Nat.not_le.2 early (late halo)

end

end

/-- Settles O47: each message and each service's start and end by its equation. -/
theorem connectionsAndServices : Obligations.ConnectionsAndServices := by
  unfold Obligations.ConnectionsAndServices
  refine ⟨fun s e qp data peer => ⟨fun down => ⟨fun m => exec_cmMessage_unready down, fun inv ce => exec_send_unready down⟩,
    fun ready => ⟨fun unserved m => ?_, fun served => ⟨fun mtu => ?_, fun m => exec_cmMessage_connects ready served,
      fun m => exec_cmMessage_disconnects ready served⟩, fun inv ce => ⟨exec_send_unconnected ready, exec_send_connected ready⟩⟩,
    exec_qpErrorState_fails⟩, fun s i => exec_services_idle, fun s i x found ready => ?_⟩
  · obtain ⟨reply, only, -⟩ := State.answerCm_leaves (s := s) (e := e) (q := qp.toNat) (peer := peer) (a := .invalid)
    exact ⟨_, exec_cmMessage_unserved ready unserved, reply, only.frame⟩
  · exact ⟨_, exec_cmMessage_req ready served, (State.answerCm_leaves.2.2 _).trans State.qp_setQp_same, rfl⟩
  · refine ⟨fun qp pages => ⟨fun fetch waits free => ?_, fun checkpoint waits sealed => ?_, fun fetch running connected => ?_⟩,
      fun halo copies copied first qp pages => ?_, exec_serviceComplete_fails found ready, fun two four running connected sent late => ?_⟩
    · exact ⟨_, exec_fetchStart_starts found ready qp pages fetch waits free, tget_tput_same, State.mem_askQp⟩
    · obtain ⟨y, leaves⟩ := State.sendOff_leaves (s := s) (i := i) (x := x) (rs := x.regions)
      exact ⟨_, y, exec_checkpointStart_starts found ready qp pages checkpoint waits sealed, leaves⟩
    · obtain ⟨u, units, ends⟩ := exec_serviceComplete_fetch found ready running connected pages fetch
      exact ⟨_, ends, State.svcAt_endSvc, (units.trans State.endSvc_units).cores⟩
    · obtain ⟨y, at_, -, moved, manifest, -, last, mem⟩ := State.sendOff_leaves (s := s) (i := i) (x := x) (rs := [(x.snap, x.total, 0)])
      exact ⟨_, y, exec_haloStream_starts found ready qp pages halo copies copied first, at_, moved, manifest, last, mem⟩
    · exact ⟨_, exec_serviceComplete_sent found ready running connected (by omega) sent late, State.svcAt_endSvc, State.endSvc_units.jobs,
        State.endSvc_units.cores⟩

end Sys2Proof.Machine
end

/-! PROOFS. O52: network boot, the bundle, images that are checked and the load of a braid (R342, R381, R382, R398, R399, R403, R404). -/
section
namespace Sys2Proof.Machine

variable {s t : State}

/-! NETBOOT_ATTEMPT and NETBOOT_TIMEOUT (R342). -/

/-- The file that an attempt of protocol k asks for. -/
def State.bootFile (s : State) (k : Nat) : List Byte := if k = 2 then (s.boot.lease.map (·.file)).getD [] else []

theorem exec_netbootAttempt_idle {proto : BootProto} {answer : Option BootAnswer} (h : s.bootWants (protoNum proto) = false) :
    exec (.netbootAttempt proto answer) s = .next s := if_pos (by simp [h])

section
variable {proto : BootProto} (wants : s.bootWants (protoNum proto) = true)
include wants

theorem exec_netbootAttempt_none : exec (.netbootAttempt proto none) s = .next (s.bootAsk (protoNum proto) (s.bootFile (protoNum proto))) := by
  refine (if_neg (by simp [wants])).trans ?_
  cases proto <;> rfl

theorem exec_netbootAttempt_lease4 {a : W32} {server file : List Byte} {name : Option (List Byte)} (four : proto = .dhcp4) :
    exec (.netbootAttempt proto (some (.lease4 a server file name))) s =
      .next ((s.bootAsk 0 (s.bootFile 0)).takeLease 0 ⟨BitVec.ofNat 128 (0xFFFF00000000 + a.toNat), server, file, name⟩) := by
  subst four
  exact if_neg (by simp [wants])

theorem exec_netbootAttempt_lease6 {a : BitVec 128} {url : List Byte} {name : Option (List Byte)} (six : proto = .dhcp6) :
    exec (.netbootAttempt proto (some (.lease6 a url name))) s = .next (if tftpScheme.isPrefixOf url
      then (s.bootAsk 1 (s.bootFile 1)).takeLease 1 ⟨a, [], url, name⟩ else (s.bootAsk 1 (s.bootFile 1)).bootFailed 1) := by
  subst six
  exact if_neg (by simp [wants])

theorem exec_netbootAttempt_file {blk size : Option Nat} (tftp : proto = .tftp) : exec (.netbootAttempt proto (some (.file blk size))) s =
    .next ((s.bootAsk 2 (s.bootFile 2)).takeFile blk size) := by
  subst tftp
  exact if_neg (by simp [wants])

end

theorem State.stage_setStage {n : Nat} (hn : n < 16) : (s.setStage n).stage = n :=
  (State.fld_setFld_same (by decide)).trans (Nat.mod_eq_of_lt hn)

theorem State.tries_bootDone {k : Nat} : tget z0 (s.bootDone k).boot.tries k = 0 := tget_tput_same

theorem State.tries_takeLease {k : Nat} {l : Lease} : tget z0 (s.takeLease k l).boot.tries k = 0 := by
  have done : (s.takeLease k l).boot.tries = (s.bootDone k).boot.tries := by
    unfold State.takeLease
    generalize s.bootDone k = u
    dsimp only
    split <;> rfl
  rw [done, State.tries_bootDone]

/-- What an attempt leaves: its request. -/
theorem State.bootAsk_leaves {k : Nat} {file : List Byte} : ∃ a, tget z0 (s.bootAsk k file).boot.tries k = s.clk + 1 ∧
    (s.bootAsk k file).boot.ask = some a ∧ a.vendor = (if k = 2 then [] else vendorClass) ∧ a.blksize = (if k = 2 then 8192 else 0) ∧
    a.file = file ∧ s.bootAsk k file = { s with boot := (s.bootAsk k file).boot } := ⟨_, tget_tput_same, rfl, rfl, rfl, rfl, rfl⟩

/-- MGMT's address is set with a lease. -/
theorem State.flag_takeLease {k : Nat} {l : Lease} : (s.takeLease k l).flag (rg fnMgmt 0) 2 = true := by
  have set : ((s.bootDone k).setFlag (rg fnMgmt 0) 2 true).flag (rg fnMgmt 0) 2 = true := State.flag_setFlag_same (by decide)
  exact set

theorem State.takeLease_frame {k : Nat} {l : Lease} :
    s.takeLease k l = { s with boot := (s.takeLease k l).boot, csr := (s.takeLease k l).csr } := rfl

theorem State.takeLease4_leaves {file : List Byte} {l : Lease} : ((s.bootAsk 0 file).takeLease 0 l).boot.lease4 = some l ∧
    ((s.bootAsk 0 file).takeLease 0 l).flag (rg fnMgmt 0) 2 = true ∧ tget z0 ((s.bootAsk 0 file).takeLease 0 l).boot.tries 0 = 0 ∧
    (s.bootAsk 0 file).takeLease 0 l =
      { s with boot := ((s.bootAsk 0 file).takeLease 0 l).boot, csr := ((s.bootAsk 0 file).takeLease 0 l).csr } := by
  refine ⟨rfl, State.flag_takeLease, State.tries_takeLease, ?_⟩
  have frame := State.takeLease_frame (s := s.bootAsk 0 file) (k := 0) (l := l)
  generalize (s.bootAsk 0 file).takeLease 0 l = t at *
  rw [frame]
  rfl

theorem State.takeFile_leaves {blk size : Option Nat} : (s.takeFile blk size).boot.fetched = true ∧
    (s.takeFile blk size).boot.blksize = min 8192 (blk.getD 512) ∧ (s.stage = 1 → (s.takeFile blk size).stage = 2) := by
  unfold State.takeFile
  dsimp only
  split
  · exact ⟨rfl, rfl, fun _ => State.stage_setStage (by decide)⟩
  · next other => exact ⟨rfl, rfl, fun one => absurd one other⟩

theorem HbmOnly.boot (h : HbmOnly s t) : t.boot = s.boot := by rw [h.frame]
theorem HbmOnly.ledger (h : HbmOnly s t) : t.ledger = s.ledger := by rw [h.frame]
theorem HbmOnly.cmds (h : HbmOnly s t) : t.cmds = s.cmds := by rw [h.frame]

/-- A failed attempt is logged after its pause is set. -/
theorem State.bootFailed_only {k : Nat} : HbmOnly (s.bootBackoff k) (s.bootFailed k) := (HbmOnly.refl _).note

theorem State.bootPause_pos {k : Nat} : 0 < s.bootPause k := Nat.lt_of_lt_of_le Nat.one_pos (Nat.le_max_left ..)

theorem State.bootFailed_leaves {k : Nat} : tget z0 (s.bootFailed k).boot.tries k = 0 ∧
    tget z0 (s.bootFailed k).boot.nextTry k = s.clk + s.bootPause k * 1000000000 ∧
    tget z0 (s.bootFailed k).boot.backoff k = min 64 (2 * s.bootPause k) := by
  rw [State.bootFailed_only.boot]
  exact ⟨tget_tput_same, tget_tput_same, tget_tput_same⟩

section
variable {proto : BootProto}

theorem exec_netbootTimeout_waits (h : tget z0 s.boot.tries (protoNum proto) = 0 ∨
    s.clk < tget z0 s.boot.tries (protoNum proto) - 1 + 4000000000) : exec (.netbootTimeout proto) s = .next s := if_pos h

theorem exec_netbootTimeout_late (tried : tget z0 s.boot.tries (protoNum proto) ≠ 0)
    (late : tget z0 s.boot.tries (protoNum proto) - 1 + 4000000000 ≤ s.clk) : exec (.netbootTimeout proto) s = .next (s.bootFailed (protoNum proto)) :=
  if_neg (not_or.2 ⟨tried, Nat.not_lt.2 late⟩)

end

/-! Refusals of images (R403). -/

theorem HbmOnly.setFld {r : State} {k hi lo v : Nat} (h : HbmOnly r s) (hk : rg fnChip 0x030 ≠ k) : HbmOnly r (s.setFld k hi lo v) :=
  h.trans ⟨rfl, State.rd_setFld_ne hk⟩

section
variable {kind code detail : Nat}

theorem State.refuseImage_only : HbmOnly s (s.refuseImage kind code detail) :=
  (((HbmOnly.refl s).setFld (by decide)).setFld (by decide)).report

/-- SEC.LASTREFUSE after a refusal. -/
theorem State.refuseImage_last : (s.refuseImage kind code detail).fld (rg fnSec 0x038) 15 8 = kind % 256 ∧
    (s.refuseImage kind code detail).fld (rg fnSec 0x038) 7 0 = code % 256 := by
  have logged : RegKept (rg fnSec 0x038) ((s.setFld (rg fnSec 0x038) 15 8 kind).setFld (rg fnSec 0x038) 7 0 code) (s.refuseImage kind code detail) :=
    (RegKept.refl _).report (by decide)
  rw [State.fld, State.fld, logged.rd]
  exact ⟨(State.fld_setFld_disjoint (by decide) (.inl (by decide))).trans (State.fld_setFld_same (by decide)), State.fld_setFld_same (by decide)⟩

theorem State.stage_refuseImage : (s.refuseImage kind code detail).stage = s.stage := by
  have kept : RegKept (rg fnSec 0) s (s.refuseImage kind code detail) :=
    (((RegKept.refl s).setFld (by decide)).setFld (by decide)).report (by decide)
  rw [State.stage, State.fld, kept.rd]
  rfl

end

/-! BUNDLE_ACCEPT (R398, R399). -/

section
variable {file : List Byte} {keys : Option (List Byte)}

theorem exec_bundleAccept_idle (h : s.boot.fetched = false) : exec (.bundleAccept file keys) s = .next s := if_pos (by simp [h])

/-- The fetched file is taken to be judged. -/
def State.judging (s : State) : State := { s with boot := { s.boot with fetched := false } }

theorem State.bundleBad_judging : s.judging.bundleBad file = s.bundleBad file := rfl

/-- A refused bundle is fetched again after its pause. -/
def State.refuseBundle (s : State) (code detail : Nat) : State :=
  let s := (s.refuseImage 1 code detail).bootBackoff 2
  if s.stage = 2 then s.setStage 1 else s

/-- What follows from the judgement of the file. -/
def State.takeBundle (s : State) (file : List Byte) (keys : Option (List Byte)) : Option (Nat × Nat) → Out
  | some (c, o) => .next (s.refuseBundle c o)
  | none =>
    let d := sha384 (file.take (fieldLE file 0x10 8))
    if s.boot.refetch then
      if d ≠ s.boot.mfw then .next ((s.refuseImage 1 0x02 (detailOf 0xFFFFFFFF (fieldLE file 0x10 8 + 0x10))).bootBackoff 2)
      else .next { s with boot := { s.boot with buffer := file, refetch := false } }
    else
      let s := { s with boot := { s.boot with buffer := file, mfw := d } }
      let s := match keys with
        | some b => s.applyKeys (b.length + 1) b
        | none => s
      .next ((s.setStage 3).setFwUp 0 true).startPwr

theorem exec_bundleAccept_judges (fetched : s.boot.fetched = true) :
    exec (.bundleAccept file keys) s = s.judging.takeBundle file keys (s.bundleBad file) := by
  change execBundleAccept file keys s = _
  unfold execBundleAccept
  rw [if_neg (by simp [fetched]), ← State.bundleBad_judging]
  change (match s.judging.bundleBad file with | some (c, o) => _ | none => _) = _
  cases s.judging.bundleBad file <;> rfl

theorem exec_bundleAccept_refused {code detail : Nat} (fetched : s.boot.fetched = true) (bad : s.bundleBad file = some (code, detail)) :
    exec (.bundleAccept file keys) s = .next (s.judging.refuseBundle code detail) := by
  rw [exec_bundleAccept_judges fetched, bad]
  rfl

theorem State.refuseBundle_leaves {code detail : Nat} : (s.refuseBundle code detail).fld (rg fnSec 0x038) 15 8 = 1 ∧
    (s.refuseBundle code detail).fld (rg fnSec 0x038) 7 0 = code % 256 ∧ (s.refuseBundle code detail).boot.buffer = s.boot.buffer ∧
    (s.stage = 2 → (s.refuseBundle code detail).stage = 1) := by
  obtain ⟨kind, last⟩ := State.refuseImage_last (s := s) (kind := 1) (code := code) (detail := detail)
  have stage : (s.refuseImage 1 code detail).stage = s.stage := State.stage_refuseImage
  have buffer : (s.refuseImage 1 code detail).boot.buffer = s.boot.buffer := congrArg Boot.buffer State.refuseImage_only.boot
  unfold State.refuseBundle
  generalize s.refuseImage 1 code detail = u at kind last stage buffer
  dsimp only
  rw [show (u.bootBackoff 2).stage = s.stage from stage]
  split
  · have kept : RegKept (rg fnSec 0x038) (u.bootBackoff 2) ((u.bootBackoff 2).setStage 1) := (RegKept.refl _).setFld (by decide)
    rw [State.fld, State.fld, kept.rd]
    exact ⟨kind, last, buffer, fun _ => State.stage_setStage (by decide)⟩
  · next other => exact ⟨kind, last, buffer, fun two => absurd two other⟩

/-- An accepted bundle is measured and held, and SEC and PWR firmware run. -/
def State.acceptBundle (s : State) (file : List Byte) : State :=
  (({ s.judging with boot := { s.judging.boot with buffer := file, mfw := sha384 (file.take (fieldLE file 0x10 8)) } }.setStage 3).setFwUp
    0 true).startPwr

theorem exec_bundleAccept_accepted (fetched : s.boot.fetched = true) (good : s.bundleBad file = none) (first : s.boot.refetch = false) :
    exec (.bundleAccept file none) s = .next (s.acceptBundle file) := by
  rw [exec_bundleAccept_judges fetched, good]
  exact if_neg (Bool.eq_false_iff.1 first)

end

/-! SEC and PWR run (R399, Table 14.6). -/

theorem State.setFwUp_sec {b : Bool} : s.setFwUp 0 b = (s.setFlag (rg fnSec 0x008) 0 b).setFlag (rg fnSec 0) 0 b := rfl
theorem State.setFwUp_pwr {b : Bool} : s.setFwUp 1 b = (s.setFlag (rg fnSec 0x008) 1 b).setFlag (rg fnPwr 0) 1 b := rfl
theorem State.fwUp_of_lt {n : Nat} (hn : n < 3) : s.fwUp n = s.flag (rg fnSec 0x008) n := if_pos hn

theorem State.stage_startRails : s.startRails.stage = s.stage := rfl
theorem State.fwUp_startRails {n : Nat} : s.startRails.fwUp n = s.fwUp n := rfl

theorem State.stage_startPwr : s.startPwr.stage = 4 := by rw [State.startPwr, State.stage_startRails, State.stage_setStage (by decide)]

/-- PWR's start sets its own UP flag, and no other core's. -/
theorem State.fwUp_startPwr {n : Nat} (hn : n < 3) : s.startPwr.fwUp n = (decide (n = 1) || s.fwUp n) := by
  have other : rg fnSec 0x008 ≠ rg fnPwr 0 := by decide
  have corestat (t : State) (v : Nat) : (t.setStage v).flag (rg fnSec 0x008) n = t.flag (rg fnSec 0x008) n := by
    rw [State.flag, State.setStage, State.rd_setFld_ne (by decide), State.flag]
  rw [State.startPwr, State.fwUp_startRails, State.fwUp_of_lt hn, State.fwUp_of_lt hn, corestat, State.setFwUp_pwr,
    State.flag_setFlag (by decide) (by omega), if_neg (fun h => other h.1), State.flag_setFlag (by decide) (by omega)]
  by_cases one : n = 1 <;> simp [one]

theorem State.fwUp_setFwUp_sec : (s.setFwUp 0 true).fwUp 0 = true := by
  rw [State.setFwUp_sec, State.fwUp_of_lt (by decide), State.flag_setFlag (by decide) (by decide), if_neg (by decide),
    State.flag_setFlag_same (by decide)]

theorem State.ons_startPwr : s.startPwr.power.ons = railOrder := rfl

/-- What an accepted bundle leaves. -/
theorem State.acceptBundle_leaves {file : List Byte} : (s.acceptBundle file).boot.buffer = file ∧
    (s.acceptBundle file).boot.mfw = sha384 (file.take (fieldLE file 0x10 8)) ∧ (s.acceptBundle file).stage = 4 ∧
    (s.acceptBundle file).fwUp 0 = true ∧ (s.acceptBundle file).fwUp 1 = true ∧ (s.acceptBundle file).power.ons = railOrder := by
  unfold State.acceptBundle
  refine ⟨rfl, rfl, State.stage_startPwr, ?_, ?_, State.ons_startPwr⟩
  · rw [State.fwUp_startPwr (by decide), State.fwUp_setFwUp_sec]
    rfl
  · rw [State.fwUp_startPwr (by decide)]
    rfl

/-! Braid images (R381, R382, R404). -/

section
variable {b : List Byte}

/-- The chip may fetch its first braid. -/
structure State.FetchesBraid (s : State) : Prop where
  sch : s.fwUp 2 = true
  bist : s.flag (rg fnBist 0) 2 = false
  unloaded : s.flag (rg fnChip 0x010) 0 = false
  none : s.cmds.braid = none
  retry : s.boot.retryAt ≤ s.clk
  next : tget z0 s.boot.nextTry 2 ≤ s.clk
  address : s.flag (rg fnMgmt 0) 2 = true

variable (h : s.FetchesBraid)
include h

theorem State.FetchesBraid.asks : ¬ ((!s.fwUp 2) = true ∨ s.flag (rg fnBist 0) 2 = true ∨ s.flag (rg fnChip 0x010) 0 = true ∨
    s.cmds.braid.isSome = true ∨ s.clk < s.boot.retryAt ∨ s.clk < tget z0 s.boot.nextTry 2 ∨ (!s.flag (rg fnMgmt 0) 2) = true) := by
  obtain ⟨sch, bist, unloaded, none, retry, next, address⟩ := h
  simp [sch, bist, unloaded, none, retry, next, address]

theorem exec_braidFetch_none : exec (.braidFetch none) s = .next ((s.bootAsk 2 s.boot.braidName).bootFailed 2) := if_neg h.asks

theorem exec_braidFetch_some : exec (.braidFetch (some b)) s =
    .next (((s.bootAsk 2 s.boot.braidName).bootDone 2).takeBraid ⟨0, 0, b, false, false⟩) := if_neg h.asks

end

/-- A failed fetch of the braid named its file. -/
theorem State.braidFetch_failed : s.clk < tget z0 ((s.bootAsk 2 s.boot.braidName).bootFailed 2).boot.nextTry 2 ∧
    ((s.bootAsk 2 s.boot.braidName).bootFailed 2).cmds = s.cmds ∧
    ((s.bootAsk 2 s.boot.braidName).bootFailed 2).boot.ask.map (·.file) = some s.boot.braidName := by
  have only : HbmOnly ((s.bootAsk 2 s.boot.braidName).bootBackoff 2) ((s.bootAsk 2 s.boot.braidName).bootFailed 2) := State.bootFailed_only
  have pause : 0 < (s.bootAsk 2 s.boot.braidName).bootPause 2 := State.bootPause_pos
  rw [State.bootFailed_leaves.2.1, only.cmds, only.boot]
  refine ⟨?_, rfl, rfl⟩
  change s.clk < s.clk + _
  omega

section
variable {p : PendBraid}

/-- While SEC is not READY, a braid image waits for it. -/
theorem State.takeBraid_waits (down : s.secReady = false) (first : s.boot.images = []) : (s.takeBraid p).cmds.braid = some p ∧
    (s.takeBraid p).boot.images = [(.braid, p.image)] := by
  have held : s.takeBraid p = { s with cmds := { s.cmds with braid := some p }, boot := { s.boot with images := s.boot.images ++ [(.braid, p.image)] } } :=
    (if_neg (by rw [show State.secReady { s with cmds := { s.cmds with braid := some p } } = false from down]; simp)).trans
      (if_neg (by simp [first]))
  rw [held]
  exact ⟨rfl, congrArg (· ++ [(ImageKind.braid, p.image)]) first⟩

/-- What a check leaves of the chip's first braid. -/
theorem State.checkBraid_leaves (own : p.cmd = false) : (s.checkBraid p).cmds.braid = match s.braidBad p.image with
      | none => some { p with checked := true }
      | some _ => none := by
  unfold State.checkBraid
  cases s.braidBad p.image with
  | none => rfl
  | some bad =>
    obtain ⟨c, r, o⟩ := bad
    dsimp only
    generalize s.refuseImage 2 c (detailOf r o) = u
    rw [own]
    rfl

/-- The braid is pending, and no image waits for SEC. -/
def State.heldBraid (s : State) (p : PendBraid) : State :=
  { s with cmds := { s.cmds with braid := some p }, boot := { s.boot with images := [] } }

theorem State.braidBad_heldBraid {b : List Byte} : (s.heldBraid p).braidBad b = s.braidBad b := rfl

/-- Once SEC is READY, it is checked, and dropped if it is refused. -/
theorem State.takeBraid_checks (up : s.secReady = true) (first : s.boot.images = []) (own : p.cmd = false) :
    (s.takeBraid p).cmds.braid = match s.braidBad p.image with
      | none => some { p with checked := true }
      | some _ => none := by
  have checks : s.takeBraid p = (s.heldBraid p).checkBraid p :=
    if_pos (by rw [show State.secReady { s with cmds := { s.cmds with braid := some p } } = true from up, first]; rfl)
  rw [checks, State.checkBraid_leaves own, State.braidBad_heldBraid]

end

/-- The first braid has been fetched. -/
def State.fetchedBraid (s : State) : State := (s.bootAsk 2 s.boot.braidName).bootDone 2

theorem State.secReady_fetchedBraid : s.fetchedBraid.secReady = s.secReady := rfl
theorem State.images_fetchedBraid : s.fetchedBraid.boot.images = s.boot.images := rfl
theorem State.braidBad_fetchedBraid {b : List Byte} : s.fetchedBraid.braidBad b = s.braidBad b := rfl

/-- A fetched braid waits for SEC, or is checked. -/
theorem exec_braidFetch_fetched {b : List Byte} (h : s.FetchesBraid) : ∃ u, exec (.braidFetch (some b)) s = .next u ∧
    (s.secReady = false → s.boot.images = [] → u.cmds.braid = some ⟨0, 0, b, false, false⟩ ∧ u.boot.images = [(.braid, b)]) ∧
    (s.secReady = true → s.boot.images = [] → u.cmds.braid = match s.braidBad b with
      | none => some ⟨0, 0, b, true, false⟩
      | some _ => none) := by
  refine ⟨s.fetchedBraid.takeBraid ⟨0, 0, b, false, false⟩, exec_braidFetch_some h, fun down first => ?_, fun up first => ?_⟩
  · exact State.takeBraid_waits (State.secReady_fetchedBraid.trans down) (State.images_fetchedBraid.trans first)
  · rw [State.takeBraid_checks (State.secReady_fetchedBraid.trans up) (State.images_fetchedBraid.trans first) rfl, State.braidBad_fetchedBraid]

/-! IMAGE_CHECK (R403, R404). -/

section
variable {kind : ImageKind} {image : List Byte}

theorem exec_imageCheck_behind {y : ImageKind × List Byte} {l : List (ImageKind × List Byte)} (waiting : s.boot.images = y :: l)
    (other : y ≠ (kind, image)) : exec (.imageCheck kind image) s =
      .next { s with boot := { s.boot with images := s.boot.images ++ [(kind, image)] } } := by
  change execImageCheck kind image s = _
  unfold execImageCheck
  rw [waiting]
  exact if_pos other

theorem exec_imageCheck_first (none : s.boot.images = []) : exec (.imageCheck kind image) s =
    .next (if s.secReady then s.checkImage kind image else { s with boot := { s.boot with images := [(kind, image)] } }) := by
  change execImageCheck kind image s = _
  unfold execImageCheck
  rw [none]
  rfl

theorem State.checkImage_key : s.checkImage .key image = match s.keyBad image with
    | some (c, d) => s.refuseImage 3 c d
    | none => s := by
  unfold State.checkImage
  cases s.keyBad image <;> rfl

theorem State.checkImage_bundle : s.checkImage .bundle image = match s.bundleBad image with
    | some (c, d) => s.refuseImage 1 c d
    | none => s := by
  unfold State.checkImage
  cases s.bundleBad image <;> rfl

/-- While SEC is READY and no image waits, a key image or a bundle is checked on its own. -/
theorem exec_imageCheck_alone (up : s.secReady = true) (none : s.boot.images = []) :
    (s.keyBad image = Option.none → exec (.imageCheck .key image) s = .next s) ∧
    (∀ c d, s.keyBad image = some (c, d) → exec (.imageCheck .key image) s = .next (s.refuseImage 3 c d)) ∧
    (s.bundleBad image = Option.none → exec (.imageCheck .bundle image) s = .next s) ∧
    (∀ c d, s.bundleBad image = some (c, d) → exec (.imageCheck .bundle image) s = .next (s.refuseImage 1 c d)) := by
  rw [exec_imageCheck_first none, exec_imageCheck_first none, if_pos up, if_pos up, State.checkImage_key, State.checkImage_bundle]
  exact ⟨fun good => by rw [good], fun c d bad => by rw [bad], fun good => by rw [good], fun c d bad => by rw [bad]⟩

end

/-! BRAID_LOAD_APPLY (R382). -/

theorem State.ledger_ldPut {b : List Byte} : (s.ldPut b).ledger = s.ledger := by
  unfold State.ldPut
  extract_lets k written
  have kept : written.ledger = s.ledger := (HbmOnly.refl s).writeHbm.ledger
  clear_value written
  exact (HbmOnly.refl _).putIndex.ledger.trans kept

theorem State.ledger_flushRecords : s.flushRecords.ledger = s.ledger := by
  refine List.foldlRecOn (motive := fun t : State => t.ledger = s.ledger) _ _ rfl fun t ht b _ => ?_
  dsimp only
  split
  · exact ht
  · exact State.ledger_ldPut.trans ht

theorem State.drainShadows_nil {p : Shadow → Bool} {n : Nat} (none : s.ledger.shadow = []) : s.drainShadows p n = s := by
  unfold State.drainShadows
  rw [none, List.filter_nil, List.take_nil]
  rfl

section
variable {p : PendBraid}

theorem exec_braidLoadApply_none (h : s.cmds.braid = none) : exec .braidLoadApply s = .next s := by
  change execBraidLoadApply s = _
  unfold execBraidLoadApply
  rw [h]

variable (pending : s.cmds.braid = some p)
include pending

theorem exec_braidLoadApply_waits (h : p.checked = false ∨ s.loadReady = false) : exec .braidLoadApply s = .next s := by
  change execBraidLoadApply s = _
  unfold execBraidLoadApply
  rw [pending]
  exact if_pos (by simpa using h)

theorem exec_braidLoadApply_loads (checked : p.checked = true) (ready : s.loadReady = true) (drained : s.ledger.shadow = []) :
    exec .braidLoadApply s = .next (s.flushRecords.loadBraid p) := by
  have empty : s.flushRecords.ledger.shadow = [] := (congrArg Ledger.shadow State.ledger_flushRecords).trans drained
  change execBraidLoadApply s = _
  unfold execBraidLoadApply
  rw [pending]
  refine (if_neg (by simp [checked, ready])).trans ?_
  rw [State.drainShadows_nil empty]
  exact if_pos empty

end

/-- Settles O52: each command of the boot by its equations. -/
theorem bootFetchesChecksAndLoads : Obligations.BootFetchesChecksAndLoads := by
  unfold Obligations.BootFetchesChecksAndLoads
  intro s
  refine ⟨fun proto answer => exec_netbootAttempt_idle, fun proto wants => ⟨?_,
    fun a server file name four => ?_, fun a url name six => ?_, fun blk size tftp => ⟨_, exec_netbootAttempt_file wants tftp, State.takeFile_leaves⟩⟩,
    fun proto => exec_netbootTimeout_waits, fun proto tried late => ⟨_, exec_netbootTimeout_late tried late, State.bootFailed_leaves⟩,
    fun file keys => exec_bundleAccept_idle, fun file keys fetched => ⟨fun c o bad => ?_, fun good first => ?_⟩, ?_, ?_, fun image up none =>
      exec_imageCheck_alone up none, exec_braidLoadApply_none, fun p => exec_braidLoadApply_waits, fun p => exec_braidLoadApply_loads,
    fun b => ⟨rfl, rfl, rfl⟩⟩
  · obtain ⟨a, leaves⟩ := State.bootAsk_leaves (s := s) (k := protoNum proto) (file := s.bootFile (protoNum proto))
    exact ⟨_, a, exec_netbootAttempt_none wants, leaves⟩
  · have asks := exec_netbootAttempt_lease4 (a := a) (server := server) (file := file) (name := name) wants four
    subst four
    exact ⟨_, asks, State.takeLease4_leaves⟩
  · refine ⟨_, exec_netbootAttempt_lease6 wants six, fun url => ?_, fun url => ?_⟩
    · rw [if_pos url]
      exact ⟨rfl, State.flag_takeLease⟩
    · rw [if_neg (Bool.eq_false_iff.1 url), State.bootFailed_only.boot]
      rfl
  · obtain ⟨kind, code, buffer, stage⟩ := State.refuseBundle_leaves (s := s.judging) (code := c) (detail := o)
    exact ⟨_, exec_bundleAccept_refused fetched bad, kind, code, buffer, stage⟩
  · exact ⟨_, exec_bundleAccept_accepted fetched good first, State.acceptBundle_leaves⟩
  · intro b sch bist unloaded none retry next address
    have fetches : s.FetchesBraid := ⟨sch, bist, unloaded, none, retry, next, address⟩
    obtain ⟨later, cmds, ask⟩ := State.braidFetch_failed (s := s)
    obtain ⟨u, fetched⟩ := exec_braidFetch_fetched (b := b) fetches
    exact ⟨_, u, exec_braidFetch_none fetches, later, cmds, ask, fetched⟩
  · refine fun kind image => ⟨fun y l => exec_imageCheck_behind, fun none down => ?_⟩
    rw [exec_imageCheck_first none, if_neg (Bool.eq_false_iff.1 down)]

end Sys2Proof.Machine
end
